-- ==== Sys2Proof/Word.lean ====
section
/-! DEFINITION. The words of the machine: a byte, a 32-bit register word, a 64-bit word, and the
plainest arithmetic on them (00 R3, R7). -/

namespace Sys2Proof

/-- One byte of memory. -/
abbrev Byte := BitVec 8

/-- One 32-bit register word (03 R52). -/
abbrev Word := BitVec 32

/-- A 64-bit value: an address, a register pair, a block register, a lane mask. -/
abbrev Dword := BitVec 64

/-- The word of two halves, low half first (03 R59). -/
def dword (lo hi : Word) : Dword := hi ++ lo

/-- Bits [31:0] of a 64-bit value. -/
def lo32 (x : Dword) : Word := x.extractLsb' 0 32

/-- Bits [63:32] of a 64-bit value. -/
def hi32 (x : Dword) : Word := x.extractLsb' 32 32

/-- The field x[lo + len - 1 : lo] of a natural number (00 R3). -/
def bits (x lo len : Nat) : Nat := x / 2 ^ lo % 2 ^ len

/-- The single bit x[n] (00 R3). -/
def bitOf (x n : Nat) : Bool := x.testBit n

/-- A word that is 1 when the condition holds and 0 otherwise. -/
def wordOfBool (c : Bool) : Word := if c then 1 else 0

end Sys2Proof
end

