-- ==== Sys2Proof/Config.lean ====
section
/-! DEFINITION. What the machine is fixed to: the constants of the part, and the free values that
stand where the spec leaves a value open (00 R8). A free value has no body. -/

namespace Sys2Proof.Config

/-- The free values: applied to the state's counter `fresh` and to an index (00 R8; log entry 3). -/
opaque freeWord : Nat → Nat → Word

/-- A byte of scratchpad that nothing has written, by core, byte offset in the core's scratchpad and
the count of placements there (09 R249; log entry 3). -/
opaque freeScratch : Nat → Nat → Nat → Byte

/-- The 32-bit result of an approximate function for an operand, a number the spec leaves open
inside the function's bound (08 R213; log entry 3). The first argument numbers the function. -/
opaque approx : Nat → Word → Word

/-- A single-argument choice of the part, by a number naming the choice (log entry 3). -/
opaque choice : Nat → Nat → Nat

/-- The cores of a complete part (01 R11). -/
def cores : Nat := 1152

/-- The group contexts of a core (06 R140). -/
def contexts : Nat := 64

/-- The slots of a core and the contexts of each (06 R140). -/
def slots : Nat := 4

/-- The groups a core holds at once (06 R148). -/
def groupsPerCore : Nat := 4096

/-- The register file of a core in bytes (03 R57). -/
def regFile : Nat := 524288

/-- The scratchpad of a core in bytes (01 R12, 09 R248). -/
def scratchBytes : Nat := 1048576

/-- The stacks of a complete part (01 R10). -/
def hbmStacks : Nat := 16

/-- The lines of 128 bytes of an L1 of 128 KiB, of a home slice of 2 MiB and of a memory-side cache of
32 MiB (01 R12, R18). -/
def l1Lines : Nat := 1024
def l2Lines : Nat := 16384
def l3Lines : Nat := 262144

/-- The blocks of 32 bytes of an instruction cache of 64 KiB (01 R12, 06 R138). -/
def icacheBlocks : Nat := 2048

/-- The bytes of records that a Leat holds on chip (01 R12, 06 R159). -/
def leatBytes : Nat := 262144

/-- The UALink ports of a package (01 R19). -/
def ualinks : Nat := 18

/-- The windows of a core (09 R253). -/
def windows : Nat := 128

end Sys2Proof.Config
end

