-- ==== Sys2Proof/Syntax.lean ====
section
/-! DEFINITION. The instruction set as data: operands, guards, the four instruction formats
(03 R58, R64, R65, R68, R69, R72, R73), the modifiers of each entry, the payloads of the package's
events, and `Instr`, one constructor for each row of the opcode table. -/

namespace Sys2Proof

/-- The special sources of 03 R55. -/
inductive Special where
  | zero | laneid | gwidth | gindex | tindex | amasklo | amaskhi | idlemask
  deriving DecidableEq, Repr

/-- A register operand, one constructor for each class of 03 R58. -/
inductive Opnd where
  /-- a vector register v0–v255 -/
  | v (r : Fin 256)
  /-- a uniform register s0–s191 -/
  | s (r : Fin 192)
  /-- a spectral register w0–w15 -/
  | w (r : Fin 16)
  /-- a queue register q0–q15 -/
  | q (r : Fin 16)
  /-- a predicate p0–p7 -/
  | p (r : Fin 8)
  /-- a special source -/
  | sp (x : Special)
  deriving DecidableEq, Repr

/-- The guard of 03 R65: a predicate, inverted when `neg` is set. -/
structure Guard where
  neg : Bool
  p : Fin 8
  deriving DecidableEq, Repr

/-- The unconditional guard, encoding 0b0111. -/
def Guard.always : Guard := { neg := false, p := 7 }

/-- The scopes of 03 R69. -/
inductive Scope where
  | th | gp | tm | cl | die | pkg | pod | sys
  deriving DecidableEq, Repr

/-- The orders of 03 R69: relaxed, acquire, release, strong. -/
inductive Order where
  | rlx | acq | rel | str
  deriving DecidableEq, Repr

/-- The space codes of 03 R69. -/
inductive Space where
  | glob | scratch | mailbox | remote | apert | tdrel | uconst
  deriving DecidableEq, Repr

/-- The single-copy atomicity of 03 R69. -/
inductive Atw where
  | a4 | a8 | a16
  deriving DecidableEq, Repr

/-- How many dependency tokens a store carries (03 R69). -/
inductive Dep where
  | none | one | two
  deriving DecidableEq, Repr

/-- The rounding modes of 02 R34. -/
inductive Rnd where
  | rne | rz | ru | rd | sr
  deriving DecidableEq, Repr

/-- The arrays of 03 R73. -/
inductive Arr where
  | arr0 | arr1 | both
  deriving DecidableEq, Repr

/-- The 64-bit and the 96-bit form (03 R64, R68). `x` is bits [17:14], LAH or MOD (R66). -/
structure Alu where
  g : Guard
  x : BitVec 4
  d : Opnd
  a : Opnd
  b : Opnd
  c : Opnd
  imm : Option Word
  deriving DecidableEq, Repr

/-- The 128-bit memory form (03 R69). -/
structure MemF where
  g : Guard
  x : BitVec 4
  d : Opnd
  a : Opnd
  b : Opnd
  c : Opnd
  ofs : BitVec 38
  dep : Dep
  tok : Bool
  tdi : BitVec 10
  space : Space
  atw : Atw
  evict : BitVec 3
  scope : Scope
  ord : Order
  deriving DecidableEq, Repr

/-- The 128-bit engine form (03 R72). -/
structure EngF where
  g : Guard
  x : BitVec 4
  d : Opnd
  a : Opnd
  b : Opnd
  c : Opnd
  eimm : Word
  fmto : BitVec 8
  tdi : BitVec 10
  space : Space
  win : BitVec 5
  scope : Scope
  ord : Order
  deriving DecidableEq, Repr

/-- The 128-bit matrix form (03 R73). -/
structure MatF where
  g : Guard
  x : BitVec 4
  d : Opnd
  a : Opnd
  b : Opnd
  c : Opnd
  kb : BitVec 12
  fmta : BitVec 8
  fmtb : BitVec 8
  tda : BitVec 10
  tdb : BitVec 10
  acc : BitVec 3
  spa : Space
  rnd : Rnd
  arr : Arr
  scope : Scope
  ord : Order
  deriving DecidableEq, Repr

/-- The integer compares of 06 R171. -/
inductive Cc where
  | eq | ne | lt | le | gt | ge | ltu | leu | gtu | geu
  deriving DecidableEq, Repr

/-- .s32 or .u32. -/
inductive Sgn where
  | s32 | u32
  deriving DecidableEq, Repr

/-- The products of MULH (07 R184). -/
inductive MulhM where
  | s32 | u32 | su
  deriving DecidableEq, Repr

/-- The modifiers of LEA and ULEA: the extension and the shift N (07 R184). -/
structure LeaM where
  ext : Sgn
  sh : BitVec 4
  deriving DecidableEq, Repr

/-- The modifiers of ADDS (07 R184). -/
structure AddsM where
  ty : Sgn
  sub : Bool
  deriving DecidableEq, Repr

/-- Left or right (07 R185). -/
inductive Dir where
  | l | r
  deriving DecidableEq, Repr

/-- The modifiers of FNL (07 R185). -/
structure FnlM where
  dir : Dir
  clamp : Bool
  deriving DecidableEq, Repr

/-- .b32 or .b64 (07 R187, R193). -/
inductive Wid where
  | b32 | b64
  deriving DecidableEq, Repr

/-- The modifiers of ICMP and UCMP (07 R188). -/
structure CmpM where
  cc : Cc
  m : Bool
  deriving DecidableEq, Repr

/-- The integer types of ICVT (07 R189). -/
inductive IType where
  | u8 | s8 | u16 | s16 | u32 | s32
  deriving DecidableEq, Repr

/-- The modifiers of ICVT (07 R189). -/
structure IcvtM where
  dt : IType
  st : IType
  sat : Bool
  deriving DecidableEq, Repr

/-- PMOV.pack or PMOV.unpack (07 R191). -/
inductive PmovM where
  | pack | unpack
  deriving DecidableEq, Repr

/-- The forms of UMUL (07 R193). -/
inductive UmulM where
  | lo | hiS | hiU
  deriving DecidableEq, Repr

/-- The forms of UMAD (07 R193). -/
inductive UmadM where
  | lo | wideS | wideU
  deriving DecidableEq, Repr

/-- The shifts of USHF (07 R193). -/
inductive UshfM where
  | shl | shr | sar | rotl | rotr
  deriving DecidableEq, Repr

/-- The modes of SHFL (07 R197). -/
inductive ShflMode where
  | idx | up | down | xor
  deriving DecidableEq, Repr

/-- The segments of SHFL: the group width, or a power of two (07 R197). -/
inductive Seg where
  | width | s2 | s4 | s8 | s16 | s32 | s64
  deriving DecidableEq, Repr

/-- The modifiers of SHFL (07 R197). -/
structure ShflM where
  mode : ShflMode
  seg : Seg
  deriving DecidableEq, Repr

/-- The sign flips of SWAPP (07 R198). -/
inductive Flip where
  | none | ng | ng2
  deriving DecidableEq, Repr

/-- The modifiers of SWAPP: the distance K, 0 to 5, and the flip (07 R198). -/
structure SwapM where
  k : Fin 6
  flip : Flip
  deriving DecidableEq, Repr

/-- The votes (07 R199). -/
inductive VoteM where
  | all | any | uni
  deriving DecidableEq, Repr

/-- The combining operations of GRED and GSCAN (07 R200). -/
inductive RedOp where
  | addU | minS | maxS | minU | maxU | and | or | xor | addF | minF | maxF
  deriving DecidableEq, Repr

/-- The modifiers of GSCAN (07 R200). -/
structure ScanM where
  op : RedOp
  excl : Bool
  deriving DecidableEq, Repr

/-- The floating-point compares (08 R211). -/
inductive Fcc where
  | eq | ne | lt | le | gt | ge | ord | uno
  deriving DecidableEq, Repr

/-- The modifiers of FCMP (08 R211). -/
structure FcmpM where
  cc : Fcc
  m : Bool
  deriving DecidableEq, Repr

/-- The types of FCVT (08 R216). -/
inductive CvtT where
  | f32 | f16 | bf16 | s32 | u32
  deriving DecidableEq, Repr

/-- The modifiers of FCVT (08 R216). -/
structure FcvtM where
  dt : CvtT
  st : CvtT
  sat : Bool
  rm : Rnd
  deriving DecidableEq, Repr

/-- The modifiers of FDOT2 (08 R221). -/
structure Fdot2M where
  bf : Bool
  rm : Rnd
  deriving DecidableEq, Repr

/-- The modifiers of FDOT4: .e5m2 on a and on b (08 R221). -/
structure Fdot4M where
  a5 : Bool
  b5 : Bool
  rm : Rnd
  deriving DecidableEq, Repr

/-- Access sizes of loads (10 R262). -/
inductive LdSz where
  | u8 | s8 | u16 | s16 | b32 | b64 | b128
  deriving DecidableEq, Repr

/-- Access sizes of stores (10 R262). -/
inductive StSz where
  | b8 | b16 | b32 | b64 | b128
  deriving DecidableEq, Repr

/-- A residency predicate code (10 R260): 0 to 6, or 7 for none. -/
abbrev Rp := BitVec 3

/-- The modifiers of LD and LDU. -/
structure LdM where
  rp : Rp
  sz : LdSz
  deriving DecidableEq, Repr

/-- The modifiers of ST and USTO. -/
structure StM where
  rp : Rp
  sz : StSz
  deriving DecidableEq, Repr

/-- The modifiers of GATH and SCAT: N - 1 (10 R267). -/
structure GathM where
  rp : Rp
  n1 : BitVec 4
  deriving DecidableEq, Repr

/-- The modifiers of CSTORE (10 R269). -/
structure CstM where
  rp : Rp
  wid : Wid
  deriving DecidableEq, Repr

/-- The target level of PREF (10 R270). -/
inductive PrefL where
  | l1 | l2 | l3
  deriving DecidableEq, Repr

/-- The modifiers of PREF (10 R270). -/
structure PrefM where
  lvl : PrefL
  wr : Bool
  deriving DecidableEq, Repr

/-- The operations of ATOM (10 R276). -/
inductive AtomOp where
  | add | min | max | and | or | xor | exch | inc | dec
  deriving DecidableEq, Repr

/-- The types of ATOM and ARED (10 R276). -/
inductive AtomT where
  | u32 | s32 | u64 | s64 | b128 | f32
  deriving DecidableEq, Repr

/-- The modifiers of ATOM and ARED; `atomOk` and `aredOk` say which pairs exist. -/
structure AtomM where
  rp : Rp
  op : AtomOp
  ty : AtomT
  deriving DecidableEq, Repr

/-- The types of ACAS (10 R276). -/
inductive CasT where
  | b32 | b64 | b128
  deriving DecidableEq, Repr

/-- The modifiers of ACAS. -/
structure CasM where
  rp : Rp
  ty : CasT
  deriving DecidableEq, Repr

/-- The types of AFADD (10 R276). -/
inductive FaddT where
  | f32 | f16x2 | bf16x2
  deriving DecidableEq, Repr

/-- The modifiers of AFADD. -/
structure AfaddM where
  rp : Rp
  ty : FaddT
  deriving DecidableEq, Repr

/-- The classes of outstanding operations (09 R255). -/
inductive OpClass where
  | ld | st | tc | mx | ga | co | tx
  deriving DecidableEq, Repr

/-- The direction of TCOPY: into the scratchpad or out of it (12 R310). -/
inductive CopyDir where
  | g2s | s2g
  deriving DecidableEq, Repr

/-- The kinds of WINDEF (12 R313). -/
inductive WinKind where
  | touch | recv
  deriving DecidableEq, Repr

/-- The modifiers of STREAM (12 R310). -/
structure StreamM where
  q : Fin 16
  st : Bool
  close : Bool
  deriving DecidableEq, Repr

/-- The kinds of QBIND (12 R318). -/
inductive BindKind where
  | none | pop | push | task | pxpush | pxpop
  deriving DecidableEq, Repr

/-- The modifiers of QBIND (12 R318). -/
structure QbindM where
  q : Fin 16
  kind : BindKind
  u : Bool
  deriving DecidableEq, Repr

/-- The modifiers of CBTEST and CBWAIT (12 R316). -/
structure CbM where
  win : BitVec 5
  quad : Bool
  k : BitVec 2
  deriving DecidableEq, Repr

/-- The modifiers of TRACE (14 R354). -/
structure TraceM where
  task : Bool
  any : Bool
  cullb : Bool
  deriving DecidableEq, Repr

/-- The modifiers of HITGET (14 R354). -/
structure HitM where
  nrm : Bool
  rp : Rp
  deriving DecidableEq, Repr

/-- The filters of the samplers (14 R354). -/
inductive Filt where
  | near | lin | tri
  deriving DecidableEq, Repr

/-- The address modes of the samplers (14 R354). -/
inductive AddrM where
  | wrap | clamp | mirror
  deriving DecidableEq, Repr

/-- The modifiers of SSAMP and SAMP. -/
structure SampM where
  filt : Filt
  addr : AddrM
  rp : Rp
  deriving DecidableEq, Repr

/-- The modifiers of FILMACC (14 R354). -/
inductive FilmM where
  | resp | raw
  deriving DecidableEq, Repr

/-- The kinds of RESFB (14 R354). -/
inductive FbKind where
  | tex | spec | tri | node
  deriving DecidableEq, Repr

/-- The modifiers of RESFB. -/
structure FbM where
  kind : FbKind
  addr : AddrM
  req : Bool
  deriving DecidableEq, Repr

/-- The modifiers of MXMMA (13 R334). -/
structure MmaM where
  ws : Bool
  slot : BitVec 3
  t : Bool
  deriving DecidableEq, Repr

/-- The widths N of MXVEC (13 R334). -/
inductive VecN where
  | n16 | n32 | n64 | n128
  deriving DecidableEq, Repr

/-- The modifiers of MXVEC. -/
structure VecM where
  slot : BitVec 3
  n : VecN
  acc : Bool
  deriving DecidableEq, Repr

/-- The modifiers of MXLDW. -/
structure LdwM where
  slot : BitVec 3
  t : Bool
  deriving DecidableEq, Repr

/-- The sizes of the Hadamard transform (02 R41). -/
inductive HadB where
  | b16 | b32 | b64
  deriving DecidableEq, Repr

/-- The modifiers of MXHAD: the size, and .m instead of .n. -/
structure HadM where
  b : HadB
  m : Bool
  deriving DecidableEq, Repr

/-- The forms of MXPROG (13 R332). -/
inductive ProgM where
  | held | susp
  deriving DecidableEq, Repr

/-- The collectives (17 R419). -/
inductive CollOp where
  | allred | redsc | allgat | bcast | red
  deriving DecidableEq, Repr

/-- The combines of a collective (17 R419). -/
inductive CollComb where
  | add | min | max
  deriving DecidableEq, Repr

/-- The modifiers of COLL. -/
structure CollM where
  op : CollOp
  comb : CollComb
  deriving DecidableEq, Repr

/-- TIME.ptp or TIME.ac (18 R437). -/
inductive TimeM where
  | ptp | ac
  deriving DecidableEq, Repr

/-- ENERGY.ctx or ENERGY.grid (18 R437). -/
inductive EnergyM where
  | ctx | grid
  deriving DecidableEq, Repr

/-- What a request of the fabric asks of a memory location (17 R404). -/
inductive RemOp where
  | load
  | store
  /-- an atomic, with its operation, type and operand -/
  | atom (op : AtomOp) (ty : AtomT)
  | cas
  | fadd (ty : FaddT)
  deriving DecidableEq, Repr

/-- One Atzil request for one lane (17 R403, R404): source package, job, request number at the
source, VA in the destination, bytes, operands and the tokens it still carries. -/
structure RemReq where
  src : Nat
  dst : Nat
  job : Nat
  id : Nat
  op : RemOp
  va : Nat
  len : Nat
  data : List Byte
  swp : List Byte
  toks : List Nat
  port : Nat
  deriving DecidableEq, Repr

/-- How a remote request ended (17 R405): the cause, 0x7F for non-residency and 0x7E for success,
and the bytes returned. -/
structure RemRep where
  id : Nat
  ok : Bool
  nonres : Bool
  cause : Nat
  data : List Byte
  deriving DecidableEq, Repr

/-- One rank's part of a collective as a peer reports it (17 R420): the agreement words of R422 and
the element bits. -/
structure CollPart where
  rank : Nat
  op : CollOp
  comb : CollComb
  fmt : BitVec 8
  n : Nat
  root : Nat
  failed : Bool
  elems : List Nat
  deriving DecidableEq, Repr

/-- What a PTP Announce says of its sender (17 R425): the fields the best master clock algorithm
compares, and where and how it came. -/
structure PtpAnn where
  port : Nat
  domain : Nat
  udp : Bool
  prio1 : Nat
  clockClass : Nat
  accuracy : Nat
  variance : Nat
  prio2 : Nat
  identity : Nat
  steps : Nat
  sender : Nat
  receiver : Nat
  logInterval : Int
  deriving DecidableEq, Repr

/-- The two kinds of report ring (18 R431). -/
inductive Ring where
  | ctx (asid : Nat)
  | sys
  deriving DecidableEq, Repr

/-- The instructions and the events of the package, one constructor for each row of the opcode table
(03 R74, R75 for the instructions). -/
inductive Instr where
  | nop (f : Alu)
  | nopEntry (f : Alu)
  | bra (f : Alu)
  | brc (m : Cc) (f : Alu)
  | brx (f : Alu)
  | call (f : Alu)
  | callx (f : Alu)
  | ret (f : Alu)
  | meet (f : Alu)
  | join (f : Alu)
  | joinf (f : Alu)
  | exit (f : Alu)
  | yield (f : Alu)
  | setlive (f : Alu)
  | launch (f : Alu)
  | chwait (f : Alu)
  | evsig (f : MemF)
  | evwait (f : MemF)
  | spawn (f : Alu)
  | fetchw (f : Alu)
  | taskadd (f : Alu)
  | taskdone (f : Alu)
  | bar (m : Fin 16) (f : Alu)
  | bara (m : Fin 16) (f : Alu)
  | barw (m : Fin 16) (f : Alu)
  | cbar (m : Fin 8) (f : Alu)
  | cbarArr (m : Fin 8) (f : Alu)
  | cbarWt (m : Fin 8) (f : Alu)
  | ticketTake (m : Fin 16) (f : Alu)
  | ticketGive (m : Fin 16) (f : Alu)
  | handoff (m : Fin 16) (f : Alu)
  | handwait (m : Fin 16) (f : Alu)
  | add (f : Alu)
  | sub (f : Alu)
  | mul (f : Alu)
  | mulh (m : MulhM) (f : Alu)
  | mad (f : Alu)
  | madw (m : Sgn) (f : Alu)
  | add64 (f : Alu)
  | sub64 (f : Alu)
  | mad64 (f : Alu)
  | lea (m : LeaM) (f : Alu)
  | imin (m : Sgn) (f : Alu)
  | imax (m : Sgn) (f : Alu)
  | iabs (m : Bool) (f : Alu)
  | adds (m : AddsM) (f : Alu)
  | and (f : Alu)
  | or (f : Alu)
  | xor (f : Alu)
  | andn (f : Alu)
  | shl (f : Alu)
  | shr (f : Alu)
  | sar (f : Alu)
  | rot (m : Dir) (f : Alu)
  | fnl (m : FnlM) (f : Alu)
  | bfe (m : Sgn) (f : Alu)
  | bfi (f : Alu)
  | popc (m : Wid) (f : Alu)
  | clz (m : Wid) (f : Alu)
  | ctz (m : Wid) (f : Alu)
  | brev (m : Wid) (f : Alu)
  | perm (f : Alu)
  | sel (f : Alu)
  | icmp (m : CmpM) (f : Alu)
  | icvt (m : IcvtM) (f : Alu)
  | mov (f : Alu)
  | movi (f : Alu)
  | plop (m : BitVec 8) (f : Alu)
  | pmov (m : PmovM) (f : Alu)
  | uadd (m : Wid) (f : Alu)
  | usub (m : Wid) (f : Alu)
  | umul (m : UmulM) (f : Alu)
  | umad (m : UmadM) (f : Alu)
  | ulop (m : BitVec 8) (f : Alu)
  | ushf (m : UshfM) (f : Alu)
  | ucmp (m : CmpM) (f : Alu)
  | umov (m : Wid) (f : Alu)
  | usel (f : Alu)
  | ulea (m : LeaM) (f : Alu)
  | rdfl (m : Wid) (f : Alu)
  | rdln (m : Wid) (f : Alu)
  | wrln (m : Wid) (f : Alu)
  | shfl (m : ShflM) (f : Alu)
  | swapp (m : SwapM) (f : Alu)
  | ballot (f : Alu)
  | vote (m : VoteM) (f : Alu)
  | gred (m : RedOp) (f : Alu)
  | gscan (m : ScanM) (f : Alu)
  | match (m : Wid) (f : Alu)
  | cmprs (f : Alu)
  | expnd (f : Alu)
  | fadd (m : Rnd) (f : Alu)
  | fsub (m : Rnd) (f : Alu)
  | fmul (m : Rnd) (f : Alu)
  | ffma (m : Rnd) (f : Alu)
  | fmin (m : Bool) (f : Alu)
  | fmax (m : Bool) (f : Alu)
  | fcmp (m : FcmpM) (f : Alu)
  | fclass (f : Alu)
  | frcp (f : Alu)
  | frsq (f : Alu)
  | fsqrt (m : Rnd) (f : Alu)
  | fdiv (m : Rnd) (f : Alu)
  | fexp2 (f : Alu)
  | flog2 (f : Alu)
  | fsin (f : Alu)
  | fcos (f : Alu)
  | fsinpi (f : Alu)
  | fcospi (f : Alu)
  | fsincos (f : Alu)
  | ftanh (f : Alu)
  | frint (m : Rnd) (f : Alu)
  | ffrac (f : Alu)
  | fldexp (m : Rnd) (f : Alu)
  | fcvt (m : FcvtM) (f : Alu)
  | fpack (m : BitVec 8) (f : Alu)
  | funpk (m : BitVec 8) (f : Alu)
  | hfma2 (m : Rnd) (f : Alu)
  | hadd2 (m : Rnd) (f : Alu)
  | hmul2 (m : Rnd) (f : Alu)
  | bfma2 (m : Rnd) (f : Alu)
  | fdot2 (m : Fdot2M) (f : Alu)
  | fdot4 (m : Fdot4M) (f : Alu)
  | fsrnd (m : BitVec 8) (f : Alu)
  | wmov (m : Bool) (f : Alu)
  | wadd (f : Alu)
  | wmul (f : Alu)
  | wfma (f : Alu)
  | wmin (m : Bool) (f : Alu)
  | wmax (m : Bool) (f : Alu)
  | wrcp (f : Alu)
  | wexpn (f : Alu)
  | wsum (f : Alu)
  | wdot (f : Alu)
  | wlam (f : Alu)
  | wlerp (f : Alu)
  | wcvt (m : Bool) (f : Alu)
  | wfres (m : Bool) (f : Alu)
  | smuel (m : Bool) (f : Alu)
  | ld (m : LdM) (f : MemF)
  | st (m : StM) (f : MemF)
  | ldu (m : LdM) (f : MemF)
  | usto (m : StM) (f : MemF)
  | ldt (m : Rp) (f : MemF)
  | stt (m : Rp) (f : MemF)
  | gath (m : GathM) (f : MemF)
  | scat (m : GathM) (f : MemF)
  | cstore (m : CstM) (f : MemF)
  | pref (m : PrefM) (f : MemF)
  | resreq (f : MemF)
  | resq (f : Alu)
  | splook (f : Alu)
  | sptag (f : Alu)
  | spfill (f : Alu)
  | spevict (f : Alu)
  | fence (f : MemF)
  | cflush (m : Bool) (f : MemF)
  | cinv (f : MemF)
  | atom (m : AtomM) (f : MemF)
  | acas (m : CasM) (f : MemF)
  | afadd (m : AfaddM) (f : MemF)
  | afaddc (m : Rp) (f : MemF)
  | ared (m : AtomM) (f : MemF)
  | waitc (m : OpClass) (f : Alu)
  | tdset (f : MemF)
  | tdget (f : MemF)
  | tcopy (m : CopyDir) (f : EngF)
  | tcopym (f : EngF)
  | windef (m : WinKind) (f : EngF)
  | wincLr (m : BitVec 5) (f : Alu)
  | cbtest (m : CbM) (f : Alu)
  | cbwait (m : CbM) (f : Alu)
  | stream (m : StreamM) (f : EngF)
  | sclose (m : Fin 16) (f : Alu)
  | qstat (m : Fin 16) (f : Alu)
  | qbind (m : QbindM) (f : EngF)
  | trace (m : TraceM) (f : EngF)
  | hitget (m : HitM) (f : Alu)
  | ssamp (m : SampM) (f : EngF)
  | samp (m : SampM) (f : EngF)
  | filmacc (m : FilmM) (f : EngF)
  | resfb (m : FbM) (f : EngF)
  | mxalloc (f : Alu)
  | mxfree (f : Alu)
  | mxzero (f : Alu)
  | mxmma (m : MmaM) (f : MatF)
  | mxvec (m : VecM) (f : MatF)
  | mxldw (m : LdwM) (f : MatF)
  | mxlda (f : MatF)
  | mxst (f : MatF)
  | mxhad (m : HadM) (f : MatF)
  | mxqnt (f : MatF)
  | mxprog (m : ProgM) (f : Alu)
  | pxpush (m : Fin 16) (f : EngF)
  | tkmrg (f : Alu)
  | tkwait (f : Alu)
  | coll (m : CollM) (f : EngF)
  | trap (f : Alu)
  | svc (f : Alu)
  | brk (f : Alu)
  | eretRes (f : Alu)
  | eretSkip (f : Alu)
  | eretStep (f : Alu)
  | rdsr (f : Alu)
  | wrsr (f : Alu)
  | tlbinvVa (f : MemF)
  | tlbinvAsid (f : MemF)
  | tlbinvAll (f : MemF)
  | time (m : TimeM) (f : Alu)
  | energy (m : EnergyM) (f : Alu)
  | perfrd (f : Alu)
  | slotIssue (core slot : Nat)
  | fragmentBoost (core ctx : Nat)
  | issueCountSwitch (core ctx : Nat)
  | fetchBlockArrival (core asid block : Nat)
  | resultLanding (id : Nat)
  | lookaheadHoldExpiry (core ctx : Nat)
  | faultReport (ring : Ring)
  | contextFill (core : Nat)
  | displacement (core : Nat)
  | overflowLatchDrain (core : Nat)
  | taskRipening (core : Nat)
  | rdmaWrite (port qp rkey addr : Nat) (data : List Byte)
  | rdmaRead (port qp rkey addr len : Nat)
  | rdmaCas (port qp rkey addr : Nat) (cmp swp : Dword)
  | rdmaFaa (port qp rkey addr : Nat) (addend : Dword)
  | rdmaInvalid (port qp : Nat)
  | queuePairCreate (port qp : Nat)
  | queuePairDestroy (port qp : Nat)
  | hostWindowWrite (n reg : Nat) (value : Dword)
  | tailNotice (queue : Nat)
  | launchRecordCopy (queue : Nat)
  | launchRecordCheck (queue : Nat)
  | waitTest (queue : Nat)
  | gridStart (queue : Nat)
  | teamPlacement (grid : Nat) (cores : List Nat)
  | coResidentPlacement (grid : Nat)
  | teamExit (team : Nat)
  | gridRetirement (grid : Nat)
  | mailboxWrite (team : Nat)
  | triggerRecordCopy (n : Nat)
  | triggerFire (n : Nat)
  | triggerMissed (n : Nat)
  | preemptionStart (grid : Nat)
  | teamSave (team : Nat)
  | teamRestore (team core : Nat)
  | killTeam (asid grid team : Nat)
  | killGrid (asid grid : Nat)
  | killContext (asid : Nat)
  | preemptTeam (asid grid team : Nat)
  | killComplete (asid : Nat)
  | watchdog (record : Nat)
  | machineCheck (core : Nat)
  | storeQueueDrain (group : Nat)
  | lineEviction (l2 : Bool) (core asid line : Nat)
  | upgradeAnswer (core asid line : Nat)
  | slotFillComplete (op : Nat)
  | slotWritebackComplete (op : Nat)
  | readCountExhausted (core slot : Nat)
  | hoistSegmentComplete (op seg : Nat)
  | fixupReplay (core : Nat)
  | fixupUnresolved (op seg : Nat)
  | engineOperationRetire (op : Nat)
  | streamElement (core hq : Nat)
  | matrixKStep (op : Nat)
  | rayResult (op lane : Nat)
  | bedstoneContribution (asid va : Nat) (x : Word)
  | stagedContributionApply (grid : Nat)
  | bolterPairVisit (stack : Nat)
  | bolterReclaim (stack : Nat)
  | remoteRequestArrival (req : RemReq)
  | remoteReply (rep : RemRep)
  | replyTimeout (id : Nat)
  | tokenExpiry (dest seq : Nat)
  | landingNotice (src token : Nat)
  | failureNotice (src token : Nat)
  | holdExpiry (port index : Nat)
  | flitResend (port : Nat)
  | forwardingBufferSend (buf : Nat)
  | proxyElementArrival (n src job : Nat) (x : Word)
  | proxyRefuseExpiry (buf : Nat)
  | closeMarkArrival (n : Nat)
  | collComplete (comm : Nat) (parts : List CollPart)
  | collJoinTimeout (comm : Nat)
  | ratioChange (stack : Nat) (ratio : BitVec 2)
  | ratioChangeComplete (stack : Nat)
  | spareBank (stack pch bank : Nat)
  | bankCopyComplete (stack : Nat)
  | retireChannel (stack pch : Nat)
  | channelSwap (stack : Nat)
  | channelRetired (stack : Nat)
  | autoSparing (stack pch bank : Nat)
  | keyLoad (kid : Nat)
  | keyDestroy (kid : Nat)
  | keyPurgeComplete
  | apertureCtlWrite (reg n : Nat) (value : Dword)
  | srLeatsizeWrite (asid : Nat) (value : Dword)
  | srWlrangeWrite (asid : Nat) (value : Dword)
  | srFpflagsWrite (group : Nat) (value : Dword)
  | srHintdropClear (asid : Nat)
  | faultRingLostClear (ring : Ring)
  | tenterDropClear
  | fabricTkclr (asid : Nat)
  | fantailCredit (value : Dword)
  | fantailMetering (dies : List Nat)
  | monitorSample (n : Nat) (v : Int)
  | monitorCapture (n : Nat)
  | monitorClear (n : Nat)
  | thermalLimit (die : Nat)
  | thermalRecovery (die : Nat)
  | thermalTrip
  | lifetimeRecordWrite (hours kwh : Nat)
  | powerOn (port : Nat)
  | powerLoss
  | imagePush (failedUnits : List (Nat × Nat))
  | measurementExtend (n : Nat) (data : List Byte)
  | attestationRequest (nonce : List Byte)
  | firmwareError (info : Dword)
  | hostLinkDown (port : Nat)
  | hostLinkRetrained (port : Nat)
  | ptpCfgWrite (value : Dword)
  | ptpAnnounce (m : PtpAnn)
  | ptpSync (port domain sender : Nat) (twoStep : Bool) (seq : Nat) (origin : Nat) (logInterval : Int)
  | ptpFollowUp (port domain sender seq origin : Nat)
  | ptpDelayReq
  | ptpDelayResp (port domain sender seq received : Nat) (logInterval : Int)
  | ptpSyncTimeout
  | ptpAnnounceTimeout
  | eventWaitRetest (record : Nat)
  | contextCreation (asid gen : Nat) (priv : Bool)
  deriving DecidableEq, Repr

end Sys2Proof
end

