-- ==== Sys2Proof/Machine/State.lean ====
section
/-! DEFINITION. The state of the package: every register, queue, table and counter the spec gives it,
as plain data; the memory; the faults and refusals; and the state after reset. A map is a list of
key and value pairs; an absent key reads the map's default, which the reader of the map names. -/

namespace Sys2Proof.Machine

/-- No step of this model stops the machine; every exception of the spec is taken (18 R427). -/
inductive Fault where
  /-- The package has no supply, or its interposer is over temperature (19 R457, R460): nothing runs
  until POWER_ON. Raised by `step` alone; safe. -/
  | poweredOff
  deriving DecidableEq, Repr

/-- What the model refuses. -/
inductive Refusal where
  /-- An instruction that has no meaning in the model yet; raised by `exec`; safe. -/
  | notModelled (mnemonic : String)
  deriving DecidableEq, Repr

/-- The memory: physical byte addresses with the bytes that are not 0x00, addresses rising. -/
abbrev Memory := List Host.Cell

/-- A map as a list of pairs. -/
abbrev AMap (K V : Type) := List (K × V)

/-! ## Threads, fragments, groups (06 R148–R158) -/

/-- What a lane of a group is (06 R149, R166, R167). -/
inductive LaneSt where
  | live
  /-- held at the JOIN at its PC -/
  | held
  | exited
  | idle
  deriving DecidableEq, Repr

/-- The state of one thread besides its registers (06 R148). -/
structure Lane where
  st : LaneSt := .exited
  pc : Nat := 0
  /-- the meeting register, 0 when unset -/
  meet : Nat := 0
  depth : Nat := 0
  /-- the sr counter, the seq of 02 R36 -/
  seq : Word := 0
  /-- issues of the fragment since the lane last executed (06 R149) -/
  count : Nat := 0
  /-- the fragment that holds the lane -/
  frag : Nat := 0
  /-- the task the lane carries (05 R136), and the one it was given, whose id it draws with (02 R36) -/
  task : Option Nat := none
  tid : Option Nat := none
  /-- the waiting instruction that the lane has begun: its address, and the phase it waits for
  (16 R390, R395) -/
  begun : Option (Nat × Nat) := none
  deriving DecidableEq, Repr

/-- The wake classes of continuation records (06 R155). -/
inductive Wake where
  | ready
  | result
  | counter (n : Nat) (cls : OpClass)
  | chunk (win : Nat) (mask : Nat)
  | queue (push : Bool) (q : Nat)
  | range (s e : Nat)
  | barrier (id : Nat)
  | ticket (payload : Nat)
  | token (t : Nat)
  | event (thresh addr : Nat)
  | child (all : Bool) (handle : Nat)
  | slot (k : Nat)
  | join (addr : Nat)
  | fault (iaddr : Nat) (replay : Bool) (cause : Nat)
  deriving DecidableEq, Repr

/-- How far a FAULT record's report has come (18 R427–R434). -/
inductive RepSt where
  | none
  | waiting
  | awaiting
  deriving DecidableEq, Repr

/-- What a FAULT record holds beside its wake word (18 R427, R428). -/
structure FaultRec where
  addr : Nat := 0
  kind : Nat := 0
  rep : RepSt := .none
  /-- the record's bytes as they were written, to which ERET compares (18 R434) -/
  bytes : List Byte := []
  deriving DecidableEq, Repr

/-- A departure that a full overflow latch holds up: the lanes, and what their record will say
(06 R161). -/
structure Depart where
  lanes : List Nat
  wake : Wake
  fr : FaultRec := {}
  /-- the instruction to perform again first -/
  replay : Option (Nat × Nat) := none
  deriving DecidableEq, Repr

/-- Where a fragment stands (06 R152, R162, R163). -/
inductive Place where
  /-- in a context of its core -/
  | ctx (c : Nat)
  /-- a continuation record, waiting -/
  | parked
  /-- a woken record in the resume FIFO, with the order of its wake -/
  | fifo (n : Nat)
  /-- a record of a team that is pre-empted: `some n` when its condition came true as the n-th -/
  | saved (woken : Option Nat)
  deriving DecidableEq, Repr

/-- A fragment: a set of lanes in one context or in one record (06 R148). -/
structure Frag where
  gid : Nat := 0
  place : Place := .parked
  wake : Wake := .ready
  lv : Nat := 0
  ls : Nat := 0
  /-- the yield meter (03 R93) -/
  meter : Nat := 0
  /-- the ac at which the residency began (06 R162) -/
  since : Nat := 0
  /-- the ac of the last issue (06 R142) -/
  issued : Nat := 0
  /-- the ac before which it does not issue again (06 R138) -/
  notBefore : Nat := 0
  boost : Bool := false
  disp : Bool := false
  pre : Bool := false
  /-- resumed by ERET.step: faults SINGLE_STEP after its next issue (18 R434) -/
  step : Bool := false
  /-- held in its context until the overflow latch has room for these records (06 R161) -/
  hold : List Depart := []
  /-- it is held at the check point after which its team's pre-emption writes it (06 R163) -/
  atCheck : Bool := false
  /-- the instruction to perform again first, and the cause it raised (06 R164) -/
  replay : Option (Nat × Nat) := none
  /-- the instruction at this address is next performed without the Tenter's check (16 R401) -/
  skip : Option Nat := none
  /-- pool offset and bytes of the record (06 R160); none in the overflow latch -/
  pool : Option (Nat × Nat) := none
  latch : Option Nat := none
  /-- the record stands in the backing area (06 R159) -/
  mem : Bool := false
  /-- the context whose reserved slot holds the record until it has moved to the pool (06 R160,
  18 R443) -/
  slot : Option Nat := none
  fr : FaultRec := {}
  /-- the ac at which the record was written, and whether its watchdog report was made (18 R439) -/
  wrote : Nat := 0
  dog : Bool := false
  deriving DecidableEq, Repr

/-- A fault that reached lanes already in a FAULT record (06 R164), or one recorded with an engine
operation (10 R281, 13 R346). -/
structure Late where
  lanes : List Nat := []
  cause : Nat := 0
  addr : Nat := 0
  iaddr : Nat := 0
  cls : Option OpClass := none
  /-- the operation's number within its group and class -/
  no : Nat := 0
  deriving DecidableEq, Repr

/-- What a queue register is bound to (12 R318). -/
structure Bind where
  kind : BindKind := .none
  /-- the team's queue, or the proxy queue's number -/
  n : Nat := 0
  u : Bool := false
  endp : Option Nat := none
  /-- ENTRY and TFLAGS of a .task binding -/
  entry : Nat := 0
  tflags : Nat := 0
  /-- the forwarding buffer of a .pxpush binding (17 R415) -/
  buf : Nat := 0
  err : Nat := 0
  deriving DecidableEq, Repr

/-- The group counters of 18 R437. -/
structure Perf where
  issues : Nat := 0
  records : Nat := 0
  disps : Nat := 0
  faults : Nat := 0
  passed : Nat := 0
  deriving DecidableEq, Repr

/-- How a group came to be (04 R103, 05 R128, R135). -/
inductive GroupKind where
  | launch
  | spawn
  /-- a task group; a UNIF group's one task -/
  | task (unif : Option Nat)
  deriving DecidableEq, Repr

/-- A group. -/
structure Group where
  asid : Nat := 0
  core : Nat := 0
  grid : Nat := 0
  team : Nat := 0
  /-- the index within the team; 0xFFFF_FFFF reads for a task group (05 R135) -/
  gindex : Nat := 0
  /-- the core-local identity (06 R154) -/
  lid : Nat := 0
  kind : GroupKind := .launch
  width : Nat := 8
  vb : Nat := 1
  ub : Nat := 0
  /-- NV DZ OF UF NX in bits 4 to 0 (02 R38) -/
  flags : BitVec 5 := 0
  perf : Perf := {}
  /-- its first instruction has not issued, and is checked against the budgets (05 R128, R135) -/
  entry : Bool := false
  /-- the ac at which the group first took a context, its age (06 R142) -/
  born : Option Nat := none
  /-- faults kept for lanes of FAULT records (06 R164) -/
  kept : List Late := []
  /-- faults recorded with engine operations and not yet raised (10 R281) -/
  deferred : List Late := []
  /-- the operations issued so far, by class -/
  issued : AMap OpClass Nat := []
  /-- the lanes of the group's final EXIT and its address: a fault recorded before the last operation
  retires is raised there (10 R281) -/
  fin : List Nat := []
  finPc : Nat := 0
  /-- the fragment that held those lanes, whose uniform registers are kept for that -/
  finFrag : Nat := 0
  deriving DecidableEq, Repr

/-- An open lookahead window and its pending result (06 R145–R147, R153). -/
structure Pend where
  gid : Nat := 0
  frag : Nat := 0
  lanes : List Nat := []
  /-- the address of the instruction, and the operation that gives the result -/
  iaddr : Nat := 0
  op : Nat := 0
  /-- the instructions that may still issue before the window ends; none when it has ended -/
  left : Option Nat := none
  /-- a later instruction of the lanes has issued (06 R164) -/
  later : Bool := false
  /-- the ac of issue -/
  at_ : Nat := 0
  /-- the v and s registers the result goes to -/
  vdst : List Nat := []
  sdst : List Nat := []
  pdst : Option Nat := none
  /-- the values are there and wait to land -/
  ready : Bool := false
  vval : List ((Nat × Nat) × Word) := []
  sval : List (Nat × Word) := []
  pval : List ((Nat × Nat) × Bool) := []
  /-- the registers that an instruction of the window wrote (06 R146): lane and register -/
  clob : List (Nat × Nat) := []
  sclob : List Nat := []
  pclob : List (Nat × Nat) := []
  /-- faults of the late result: lane, cause and address -/
  faults : List (Nat × Nat × Nat) := []
  /-- the result has landed; the window is still open -/
  landed : Bool := false
  /-- the completion of a FENCE, which writes no register (10 R274) -/
  fence : Bool := false
  deriving DecidableEq, Repr

/-- Threads, fragments and groups. -/
structure Threads where
  /-- v registers: group, lane and register; absent reads 0 -/
  vr : AMap (Nat × Nat × Nat) Word := []
  /-- s registers: fragment and register; absent reads 0 -/
  sr : AMap (Nat × Nat) Word := []
  /-- p0 to p6: group, lane and register; absent reads 0 -/
  pr : AMap (Nat × Nat × Nat) Bool := []
  /-- group and lane -/
  lanes : AMap (Nat × Nat) Lane := []
  frags : AMap Nat Frag := []
  groups : AMap Nat Group := []
  /-- pending results by number -/
  pends : AMap Nat Pend := []
  /-- queue bindings: group and register; absent is unbound (12 R318) -/
  binds : AMap (Nat × Nat) Bind := []
  deriving DecidableEq, Repr

/-! ## The issue side of a core (06 R138–R162) -/

/-- The issue being performed. -/
structure Issue where
  core : Nat := 0
  gid : Nat := 0
  frag : Nat := 0
  /-- the active set without the idle lanes, ascending (06 R149) -/
  lanes : List Nat := []
  /-- the idle lanes that are active with it (06 R150) -/
  idle : List Nat := []
  conv : Bool := false
  pc : Nat := 0
  len : Nat := 8
  /-- the instruction is performed again for lanes that go on at their own PCs (06 R164) -/
  replay : Bool := false
  /-- performed again after RACE_REPORT, without the Tenter's check (16 R401) -/
  again : Bool := false
  deriving DecidableEq, Repr

/-- A spawn record (05 R127). -/
structure SpawnRec where
  team : Nat
  entry : Nat
  gindex : Nat
  args : List Word
  deriving DecidableEq, Repr

/-- A task record (05 R132), with its number, its team, and the ac at which it became ready. -/
structure Task where
  id : Nat
  team : Nat
  entry : Nat
  flags : Nat
  waits : Nat
  succ : Nat
  args : List Word
  readyAt : Option Nat
  /-- started: held by a lane until it completes -/
  started : Bool := false
  deriving DecidableEq, Repr

/-- A core. Its contexts hold fragments; its resume FIFO is the fragments placed there. -/
structure Core where
  /-- the blocks of the instruction cache: ASID and block address, with the bytes (06 R138) -/
  icache : AMap (Nat × Nat) (List Byte) := []
  /-- unstarted groups in starting order (05 R116): team, group index -/
  unstarted : List (Nat × Nat) := []
  spawns : List SpawnRec := []
  tasks : List Task := []
  /-- the number of the next task -/
  nextTask : Nat := 0
  /-- the ac at which the head of the resume FIFO began to wait (06 R162) -/
  fifoSince : Option Nat := none
  /-- CONT_OVERFLOW was raised for the episode (06 R161) -/
  overflow : Bool := false
  /-- no further placements until the next boot (18 R450) -/
  closed : Bool := false
  /-- slots that a wide 32-bit floating-point issue keeps busy, with the ac that ends it (06 R144) -/
  busy : AMap Nat Nat := []
  /-- L1 misses of each context on this core (18 R437) -/
  l1miss : AMap Nat Nat := []
  deriving DecidableEq, Repr

/-- A stream of a hardware queue's list (12 R322, R323). -/
structure Stream where
  store : Bool
  desc : BitVec 512
  sp : Bool
  fmto : Nat
  start : Nat
  count : Nat
  done : Nat
  close : Bool
  gid : Nat
  scope : Scope
  ord : Order
  /-- the ac at which it first met a page that is not resident -/
  since : Option Nat
  seed : Dword
  seq : Word
  /-- the entry of the range scoreboard that it holds (12 R323) -/
  rng : Option Nat := none
  /-- the flags of its conversions, set when it ends (02 R40) -/
  flags : BitVec 5 := 0
  deriving DecidableEq, Repr

/-- A hardware queue of a team (12 R317): keyed by team and hq name. -/
structure HwQueue where
  elems : List Word := []
  closed : Bool := false
  closepend : Bool := false
  err : Nat := 0
  streams : List Stream := []
  deriving DecidableEq, Repr

/-! ## Outstanding operations (09 R255, 10 R268, 12 R305, 13 R338, 14 R355) -/

/-- A window of a team (09 R253, 12 R313): keyed by team and number. -/
structure Window where
  slot0 : Nat
  slots : Nat
  touch : Bool
  /-- 0 ABSENT, 1 FILLING, 2 PRESENT -/
  state : Nat := 0
  /-- the completion bitmap -/
  bits : Nat := 0
  desc : BitVec 512 := 0
  tdi : Nat := 0
  fmto : Nat := 0
  origin : List Word := []
  extents : List Word := []
  pitch : Nat := 0
  scope : Scope := .th
  ord : Order := .rlx
  /-- the operation that fills it -/
  op : Option Nat := none
  /-- failed chunks: chunk, cause and address -/
  failed : List (Nat × Nat × Nat) := []
  deriving DecidableEq, Repr

/-- A tag-table entry of a slot (09 R249); absent is INVALID with the rest 0. -/
structure Tag where
  rcnt : Nat := 0
  tag : Nat := 0
  dirty : Bool := false
  win : Bool := false
  /-- 0 INVALID, 1 FILLING, 2 VALID, 3 EVICTING -/
  state : Nat := 0
  deriving DecidableEq, Repr

/-- An entry of a core's range scoreboard (09 R254): byte offsets of a team's allocation, and the
operation. -/
structure RangeE where
  team : Nat
  start : Nat
  stop : Nat
  op : Nat
  deriving DecidableEq, Repr

/-- An entry of a core's fix-up list (12 R308). -/
structure Fixup where
  op : Nat
  seg : Nat
  /-- the element of the segment that met the page -/
  va : Nat
  asid : Nat
  since : Nat
  deriving DecidableEq, Repr

/-- A store of a group's store queue (11 R286): the bytes of one lane's access, accepted. -/
structure QStore where
  op : Nat
  space : Space
  lane : Nat
  /-- a VA, a byte offset of the team's scratchpad, or a PA of the mailbox page or an aperture -/
  addr : Nat
  data : List Byte
  scope : Scope
  ord : Order
  key : Nat := 0
  deriving DecidableEq, Repr

/-- What a key-value page's header says (15 R374). -/
structure KvHdr where
  fmt : Nat
  sealed_ : Bool
  gen : Nat
  scale0 : Nat
  scale1 : Nat
  sealt : Nat
  deriving DecidableEq, Repr

/-- A logical page as an operation resolved it: its block-table entry, and its header unless the entry
is not valid (15 R376). -/
structure KvRes where
  entry : Nat
  hdr : Option KvHdr
  deriving DecidableEq, Repr

/-- A segment that met a page that is not resident (12 R308): the address of the element that did, and
since when. -/
structure Stuck where
  seg : Nat
  va : Nat
  since : Nat
  deriving DecidableEq, Repr

/-- A tile copy of the Hoist (12 R311–R314). -/
structure Hoist where
  g2s : Bool
  core : Nat
  asid : Nat
  team : Nat
  desc : BitVec 512
  fmto : Nat
  origin : List Nat
  extents : List Nat
  /-- the byte offset of the tile in the team's allocation, and the pitch -/
  off : Nat
  pitch : Nat
  scope : Scope
  ord : Order
  seed : Dword
  seq : Word
  /-- the window it fills, by number, and the receivers' teams of a multicast -/
  win : Option Nat
  teams : List Nat
  /-- segments complete, and failed with cause and address -/
  done : List Nat
  failed : List (Nat × Nat × Nat)
  /-- the logical pages resolved (15 R376) -/
  resolved : List (Nat × KvRes)
  /-- the segment that is retried in place, because the fix-up list is full (12 R308) -/
  inPlace : Option Stuck := none
  deriving DecidableEq, Repr

/-- A line of L1 or L2 (09 R236), with the bytes written since the fill (11 R288). -/
structure Line where
  sv : Nat := 0
  wr : Nat := 0
  pr : Bool := false
  pw : Bool := false
  wsc : Nat := 0
  key : Nat := 0
  pa : Nat := 0
  /-- the page lies in the second tier (09 R256) -/
  tier : Bool := false
  data : List Byte := []
  deriving DecidableEq, Repr

/-- A translation held by the TLBs (09 R244). -/
structure Tlb where
  /-- log2 of the page's bytes -/
  size : Nat
  /-- the entry's physical address and value -/
  epa : Nat
  entry : Nat
  deriving DecidableEq, Repr

/-- A strong access to a line (11 R295): its address, width and group, and whether it wrote. -/
structure Strong where
  va : Nat
  n : Nat
  gid : Nat
  wr : Bool
  deriving DecidableEq, Repr

/-- Caches, translations, residency (09). -/
structure Caches where
  /-- core, ASID and VA[55:7] -/
  l1 : AMap (Nat × Nat × Nat) Line := []
  /-- ASID and VA[55:7] -/
  l2 : AMap (Nat × Nat) Line := []
  /-- the lines PA[51:7] that the memory-side caches hold (09 R235); their bytes are the memory's -/
  l3 : List Nat := []
  /-- the writable holder of a physical line PA[51:7]: ASID and VA[55:7] (09 R238) -/
  dir : AMap Nat (Nat × Nat) := []
  /-- ASID, generation and VA shifted by the page size, with the size (09 R244) -/
  tlb : AMap (Nat × Nat × Nat × Nat) Tlb := []
  /-- constant cache: core, grid and VA[55:7] (09 R232) -/
  konst : AMap (Nat × Nat × Nat) (List Byte) := []
  /-- the residency filter of each core: ASID and VA[55:16], oldest first (09 R246) -/
  filter : AMap Nat (List (Nat × Nat)) := []
  /-- poisoned and uncorrectable sectors, by PA / 32 (15 R373) -/
  poison : List Nat := []
  badEcc : List Nat := []
  /-- the strong accesses to a line, the last one first, one of each group, width and kind (11 R295); by
  0 and a context or 1 and an aperture, and the line -/
  strong : AMap (Nat × Nat × Nat) (List Strong) := []
  /-- misses of each tier log, by I/O die; pages logged: die, page and the ring index (09 R257) -/
  tierMiss : AMap Nat Nat := []
  tierLog : AMap (Nat × Nat) Nat := []
  /-- L2 misses and walks of each context (18 R437) -/
  l2miss : AMap Nat Nat := []
  walks : AMap Nat Nat := []
  deriving DecidableEq, Repr

/-- The scratchpads (09 R248–R254). -/
structure Scratch where
  /-- team and byte offset in its allocation; absent is a byte never written (R249) -/
  bytes : AMap (Nat × Nat) Byte := []
  /-- since when the bytes of a slot that nothing wrote are undefined, where that is later than the
  placement (12 R314): team and slot -/
  stamps : AMap (Nat × Nat) Nat := []
  /-- team and slot -/
  tags : AMap (Nat × Nat) Tag := []
  /-- team and window -/
  wins : AMap (Nat × Nat) Window := []
  /-- the range scoreboards, oldest first; a core's are those of its teams -/
  ranges : List RangeE := []
  fixups : AMap Nat (List Fixup) := []
  deriving DecidableEq, Repr

/-! ## The matrix engine (13) -/

/-- The operations of class MX (13 R338). -/
inductive MxKind where
  | mma (m : MmaM)
  | vec (m : VecM)
  | ldw (m : LdwM)
  | lda
  | st
  | had (m : HadM)
  | qnt
  | zero (tiles : List Nat)
  deriving DecidableEq, Repr

/-- A matrix operation in progress (13 R338, R346). -/
structure Mx where
  kind : MxKind
  team : Nat
  core : Nat
  asid : Nat
  f : MatF
  /-- the descriptors' copies, and the origins -/
  da : BitVec 512 := 0
  db : BitVec 512 := 0
  oa : List Nat := []
  ob : List Nat := []
  /-- the allocations of the tile and the slot it names -/
  tile : Option Nat := none
  slot : Option Nat := none
  /-- the progress index -/
  prog : Nat := 0
  /-- the draw's seed and counter (02 R36) -/
  seed : Dword := 0
  seq : Word := 0
  /-- the logical pages resolved (13 R336): those of B apart -/
  resolved : List (Nat × KvRes) := []
  resolvedB : List (Nat × KvRes) := []
  /-- suspended, with cause and address (13 R346), and raised at its lanes already -/
  susp : Option (Nat × Nat) := none
  raised : Bool := false
  /-- the ac at which a read first met a page that is not resident (13 R345) -/
  since : Option Nat := none
  /-- MXVEC: its lanes, their converted rows (code and block scale), and accumulators -/
  lanes : List Nat := []
  rows : List (Nat × List (Nat × Nat)) := []
  accs : List (Nat × List Word) := []
  deriving DecidableEq, Repr

/-- A weight slot (13 R341). -/
structure WSlot where
  /-- 0 INVALID, 1 LOADING, 2 VALID -/
  state : Nat := 0
  fmt : Nat := 0
  bias : Nat := 0
  nan : Bool := false
  /-- the FP32 scale of a tensor read raw -/
  tscale : Nat := 0x3F800000
  kb : Nat := 0
  /-- element codes by panel, row and column; absent is +0 (the elided blocks read so) -/
  elems : AMap (Nat × Nat × Nat) Nat := []
  /-- E8M0 scales by row of the whole slot and column -/
  scales : AMap (Nat × Nat) Nat := []
  /-- the slot's storage holds an uncorrectable error: no step of the machine makes one -/
  bad : Bool := false
  deriving DecidableEq, Repr

/-- The matrix engines. -/
structure Matrix where
  /-- a team's held tiles: team and logical name, with the number of the allocation that stands for
  the physical tile -/
  tiles : AMap (Nat × Nat) Nat := []
  /-- a team's held slots, likewise -/
  slots : AMap (Nat × Nat) Nat := []
  /-- elements: allocation, row and column; absent is +0 -/
  acc : AMap (Nat × Nat × Nat) Word := []
  /-- slot contents, by allocation -/
  ws : AMap Nat WSlot := []
  /-- freed tiles and slots that earlier operations still hold (13 R331): core, slot or tile,
  allocation -/
  freeing : List (Nat × Bool × Nat) := []
  deriving DecidableEq, Repr

/-! ## Light (14) -/

/-- The operations of class TX. -/
inductive TxKind where
  | trace (m : TraceM) (mask : Nat)
  | samp
  | film
  | fb
  deriving DecidableEq, Repr

/-- A light operation in progress (14 R355, R358, R367). -/
structure Tx where
  kind : TxKind
  team : Nat
  core : Nat
  asid : Nat
  desc : BitVec 512 := 0
  f : EngF
  /-- lanes still to be traced, with ray and payload -/
  rays : List (Nat × List Word × Word) := []
  /-- tasks waiting for room in the pool: entry and argument words -/
  tasks : List (Nat × List Word) := []
  deriving DecidableEq, Repr

/-! ## Operations of every class -/

/-- What an outstanding operation is. -/
inductive OpKind where
  /-- a load or an atomic that returns a value -/
  | load
  | store
  | hoist (h : Hoist)
  | fill (team slot rcnt tag : Nat) (data : List Byte)
  | evict (team slot tag : Nat)
  | mx (m : Mx)
  /-- gather and scatter, with the progress index: the executing lanes finished (10 R268) -/
  | gath (prog : Nat)
  | scat (prog : Nat)
  | tx (t : Tx)
  | remote
  | pxpush (n pkg : Nat) (elems : List Word)
  | coll
  deriving DecidableEq, Repr

/-- An outstanding operation of a group, counted in its class until it retires (09 R255). -/
structure Op where
  gid : Nat
  cls : OpClass
  iaddr : Nat
  kind : OpKind
  done : Bool := false
  fault : Option (Nat × Nat) := none
  scope : Scope := .th
  /-- its number within its group and class (10 R280), and the flags it sets at retirement (02 R40) -/
  no : Nat := 0
  flags : BitVec 5 := 0
  deriving DecidableEq, Repr

/-- Engines and their operations. -/
structure Engines where
  /-- in order of issue -/
  ops : AMap Nat Op := []
  /-- the store queues: the group's stores in order (11 R286) -/
  sq : AMap Nat (List QStore) := []
  /-- hardware queues: team and hq name (12 R317) -/
  hq : AMap (Nat × Nat) HwQueue := []
  mx : Matrix := {}
  deriving DecidableEq, Repr

/-! ## The Sluice: queues, grids, teams (04, 05) -/

/-- A grid in the Sluice's hands, from its record's start to its retirement (04 R101–R112). -/
structure Grid where
  asid : Nat := 0
  /-- the launch record's 256 bytes and the kernel handle's 64 -/
  lrec : List Byte := []
  hnd : List Byte := []
  prio : Nat := 0
  depth : Nat := 0
  /-- the launching grid and team (04 R109) -/
  parent : Option (Nat × Nat) := none
  queue : Option Nat := none
  trig : Option Nat := none
  /-- placed by the round robin last at this count (05 R119) -/
  turn : Nat := 0
  /-- the start's order, and the time of the start -/
  startAt : Nat := 0
  started : Bool := true
  /-- team linear indices placed, withdrawn by FETCHW, or discarded -/
  placed : List Nat := []
  withdrawn : List Nat := []
  discarded : List Nat := []
  /-- the teams not placed are discarded (18 R448); no further team is placed -/
  shut : Bool := false
  /-- teams saved and not restored, in order (05 R125) -/
  restorable : List Nat := []
  /-- teams that exited normally -/
  ok : Nat := 0
  /-- the cause of the first failure -/
  fail : Option Nat := none
  nondet : Bool := false
  chfault : Bool := false
  /-- a child that waits to start: the waits found met, and whether all are; ENERGY_EXHAUSTED was
  reported for it -/
  seen : List Nat := []
  met : Bool := false
  starved : Bool := false
  /-- the energy reserved and used, in mJ (05 R122) -/
  resv : Nat := 0
  used : Nat := 0
  /-- since when it has had a team to place that fits on no core (05 R124) -/
  waitSince : Option Nat := none
  /-- the writes of its retirement that have been performed (04 R106, R486) -/
  wrote : Nat := 0
  retired : Bool := false
  deriving DecidableEq, Repr

/-- A child grid, by its handle (04 R110–R112). -/
structure Child where
  asid : Nat
  team : Nat
  /-- the launching team's linear index -/
  tlin : Nat := 0
  handle : Nat
  grid : Nat
  pgrid : Nat
  /-- STATUS once it has retired -/
  status : Option Nat := none
  observed : Bool := false
  /-- the launching team has retired -/
  orphan : Bool := false
  /-- the C record of 18 R440 was written -/
  told : Bool := false
  /-- the child's DONE address -/
  done : Nat := 0
  deriving DecidableEq, Repr

/-- What a placed team is doing (05 R115, 18 R441–R448). -/
inductive TeamSt where
  | resident
  /-- its fragments run to their check points (06 R163) -/
  | stopping
  | saved
  /-- stopped after CONT_CORRUPT (18 R441) -/
  | stopped
  /-- killed with a cause; its requests drain -/
  | killed (cause : Nat)
  deriving DecidableEq, Repr

/-- A team from its placement to its exit. -/
structure Team where
  grid : Nat := 0
  asid : Nat := 0
  tlin : Nat := 0
  core : Nat := 0
  /-- the first slot of the core's scratchpad, and the slots -/
  slot0 : Nat := 0
  slots : Nat := 0
  nwin : Nat := 0
  st : TeamSt := .resident
  /-- the order of the placement (05 R116, R124) -/
  at_ : Nat := 0
  /-- the group indices that started or wait to start -/
  gidx : List Nat := []
  /-- a FETCHW waiting for its mailbox: the byte offset (05 R129) -/
  fetchw : Option Nat := none
  /-- the team linear indices it withdrew (05 R131) -/
  took : List Nat := []
  /-- the save block it holds (18 R443) -/
  block : Option Nat := none
  /-- unstarted groups, spawn records and tasks of a saved team -/
  sUnst : List Nat := []
  sSpawn : List SpawnRec := []
  sTasks : List Task := []
  /-- the ac at which a command asked for its save or kill, and the command -/
  byCmd : Bool := false
  deriving DecidableEq, Repr

/-- The Sluice's own state of a command queue (04 R95–R100). -/
structure CmdQueue where
  /-- the TAIL last seen -/
  tail : Nat := 0
  /-- records copied and not started, oldest first -/
  recs : List (List Byte) := []
  /-- the head record has passed R102; its handle -/
  checked : Option (List Byte) := none
  /-- the waits found met, and whether all are (04 R105) -/
  seen : List Nat := []
  met : Bool := false
  /-- the last grid of the queue (for SER) -/
  last : Option Nat := none
  /-- ENERGY_EXHAUSTED was reported for the head (05 R122) -/
  starved : Bool := false
  deriving DecidableEq, Repr

/-- A copied trigger record (04 R108). -/
structure Trigger where
  lrec : List Byte := []
  hnd : List Byte := []
  /-- the waits found met, and whether all are -/
  seen : List Nat := []
  met : Bool := false
  /-- its time has passed and it has not started (04 R108); ENERGY_EXHAUSTED was reported for it -/
  late : Bool := false
  starved : Bool := false
  deriving DecidableEq, Repr

/-- A queue pair of a port (04 R98): in service, or in the error state. -/
inductive QpSt where
  | ready
  | error
  deriving DecidableEq, Repr

/-- A command of SLUICE.CMD that waits to complete (18 R442). -/
structure Cmd where
  op : Nat
  asid : Nat
  grid : Nat
  team : Nat
  deriving DecidableEq, Repr

structure Sluice where
  queues : AMap Nat CmdQueue := []
  trigs : AMap Nat Trigger := []
  /-- PTP_LOSS was reported for this loss (04 R108) -/
  lossTold : Bool := false
  qps : AMap (Nat × Nat) QpSt := []
  /-- by grid number -/
  grids : AMap Nat Grid := []
  teams : AMap Nat Team := []
  children : List Child := []
  /-- the queue last started, for the round robin (04 R100) -/
  lastQueue : AMap Nat Nat := []
  /-- the placements so far -/
  turn : Nat := 0
  cmd : Option Cmd := none
  /-- contexts being killed (18 R449) -/
  killing : List Nat := []
  /-- launch records that a parked LAUNCH has read, by group and lane (04 R111) -/
  copies : AMap (Nat × Nat) (List Byte × List Byte) := []
  /-- queues, triggers and children whose waits are to be tested at once (04 R105) -/
  retest : List Nat := []
  deriving DecidableEq, Repr

/-! ## Barriers, the Governor, staged contributions, the Tenter (16) -/

/-- A barrier (16 R386). -/
structure Barrier where
  phase : Nat := 0
  arr : Nat := 0
  cnt : Option Nat := none
  /-- the threads that arrived in a default-count phase: group and lane -/
  who : List (Nat × Nat) := []
  deriving DecidableEq, Repr

/-- A ticket sequence of a grid (16 R392). -/
structure Seq where
  released : List Nat := []
  holders : List Nat := []
  void : Bool := false
  /-- the teams at which TICKET_VOID was raised -/
  raised : List Nat := []
  deriving DecidableEq, Repr

/-- A pending hand-off of a grid (16 R395). -/
structure HandRec where
  chain : Nat
  src : Nat
  dst : Nat
  void : Bool
  deriving DecidableEq, Repr

/-- A staged contribution (16 R398): the pair's VA and the FP32 value, or a film channel's. -/
structure Staged where
  asid : Nat
  tlin : Nat
  va : Nat
  x : Word
  scope : Scope
  /-- the Leat pool's space: 64-byte units are shared by four (16 R399) -/
  op : Option Nat := none
  deriving DecidableEq, Repr

/-- What the Tenter recorded of a 32-byte sector (16 R401): the mask, team and clock of an access. -/
structure Tent where
  mask : Nat
  grid : Nat
  tlin : Nat
  clock : Nat
  atomic : Bool
  strong : Option Scope
  write : Bool
  deriving DecidableEq, Repr

structure Sync where
  /-- team barriers: team and number -/
  bars : AMap (Nat × Nat) Barrier := []
  /-- cluster barriers: grid, cluster and number -/
  cbars : AMap (Nat × Nat × Nat) Barrier := []
  /-- ticket sequences: grid and number -/
  seqs : AMap (Nat × Nat) Seq := []
  /-- hand-offs pending, by grid -/
  hands : AMap Nat (List HandRec) := []
  /-- hand-offs made (grid, chain, team) and waits made (grid, chain, team, predecessor) -/
  handed : List (Nat × Nat × Nat) := []
  handW : List (Nat × Nat × Nat × Nat) := []
  /-- TICKET_VOID raised for a hand-off wait -/
  handV : List (Nat × Nat × Nat × Nat) := []
  /-- teams that were killed or discarded: grid and index -/
  killed : List (Nat × Nat) := []
  /-- staged contributions by grid, in order of staging -/
  staged : AMap Nat (List Staged) := []
  /-- teams of the grid whose turn of application has passed -/
  applied : AMap Nat Nat := []
  /-- the vector clocks of teams: grid, team, and the component of another team -/
  clocks : AMap (Nat × Nat × Nat) Nat := []
  /-- clocks carried by releases, by the released address's sector: ASID, VA / 32, team -/
  relClk : AMap (Nat × Nat × Nat) Nat := []
  /-- accesses recorded: ASID and VA / 32 -/
  tent : AMap (Nat × Nat) (List Tent) := []
  deriving DecidableEq, Repr

/-! ## The fabric (17) -/

/-- The state of a token entry (17 R408). -/
inductive TokSt where
  | outstanding
  | landed
  | failed
  deriving DecidableEq, Repr

/-- An entry of the token table (17 R408), with the components of a merge token. -/
structure Token where
  asid : Nat
  st : TokSt
  at_ : Nat
  watch : List Nat := []
  parts : List (Nat × Nat) := []
  deriving DecidableEq, Repr

/-- A remote request of this package that waits for its reply (17 R403–R405). -/
structure RemOut where
  req : RemReq
  gid : Nat
  asid : Nat
  lane : Nat
  op : Nat
  pend : Option Nat
  /-- the residency predicate, the destination registers, and how a load's bytes extend -/
  rp : Option Nat
  dst : Nat
  ext : LdSz
  scope : Scope
  /-- a load or atomic that acquires at its scope when its reply returns (11 R289) -/
  acq : Bool := false
  /-- the token it returns: destination and sequence -/
  tok : Option (Nat × Nat)
  /-- sent, and the ac of the first sending -/
  sent : Option Nat
  iaddr : Nat
  deriving DecidableEq, Repr

/-- A store held in the Weir of a port (17 R410), with the tokens it still carries: source, token. -/
structure Held where
  req : RemReq
  toks : List Nat
  at_ : Nat
  deriving DecidableEq, Repr

/-- What a forwarding buffer holds: an element, the close mark, or the run of a PXPUSH by its operation
(17 R415–R417). -/
inductive FwdItem where
  | elem (x : Word)
  | close
  | run (op : Nat)
  deriving DecidableEq, Repr

/-- A forwarding buffer of a push end (17 R415, R416). -/
structure FwdBuf where
  gid : Nat
  q : Nat
  asid : Nat
  job : Nat
  pkg : Nat
  n : Nat
  items : List FwdItem := []
  /-- the ac from which its head is refused -/
  refusedAt : Option Nat := none
  deriving DecidableEq, Repr

/-- A collective that this package's rank has joined (17 R420). -/
structure Coll where
  op : Nat
  gid : Nat
  asid : Nat
  m : CollM
  f : EngF
  desc : BitVec 512
  fmt : Nat
  p : Nat
  rank : Nat
  root : Nat
  at_ : Nat
  /-- the packages of the members, in rank order -/
  members : List Nat
  /-- the codes of the own buffer once read, and the ac at which a page was first not resident -/
  elems : Option (List Nat) := none
  since : Option Nat := none
  deriving DecidableEq, Repr

/-- What the PTP clock holds of its master (17 R424, R425). -/
structure Ptp where
  /-- the count of ns -/
  count : Nat := 0
  ofs : Int := 0
  lock : Bool := false
  good : Nat := 0
  master : Option PtpAnn := none
  /-- two-step Sync waiting for its Follow_Up: sequence and receipt time -/
  sync : Option (Nat × Nat) := none
  /-- the last Sync's origin and receipt; the Delay_Req outstanding: sequence and sending time -/
  t12 : Option (Nat × Nat) := none
  delayReq : Option (Nat × Nat) := none
  delaySeq : Nat := 0
  delayIv : Int := 0
  pathDelay : Int := 0
  lastSync : Nat := 0
  lastAnn : Nat := 0
  deriving DecidableEq, Repr

/-- A message that leaves the package for another party (04 R98, 17 R403–R416, 19 R462). -/
inductive Out where
  | req (r : RemReq)
  | reply (dst : Nat) (r : RemRep)
  | landing (dst token : Nat)
  | failure (dst token : Nat)
  | retry (port id : Nat)
  | elem (dst n job : Nat) (x : Word)
  | run (dst n job op : Nat) (xs : List Word)
  | closeMark (dst n job : Nat)
  | refused (src n : Nat)
  | part (comm : Nat) (p : CollPart)
  | rdmaAck (port qp : Nat) (data : List Byte)
  | rdmaNak (port qp : Nat) (operational : Bool)
  | rdmaNakInv (port qp : Nat)
  | delayReq (seq : Nat)
  | attest (nonce : List Byte) (meas : List (BitVec 512)) (svn : Nat) (config : Dword) (serial : Nat)
      (r s : Nat)
  deriving DecidableEq, Repr

structure Fabric where
  /-- token entries: destination and sequence -/
  toks : AMap (Nat × Nat) Token := []
  /-- the next sequence to each destination (17 R407) -/
  next : AMap Nat Nat := []
  /-- requests sent or waiting, by number -/
  outs : AMap Nat RemOut := []
  nextReq : Nat := 0
  /-- the Weirs, by port, in order of arrival -/
  weir : AMap Nat (List Held) := []
  /-- early notices: port, source, token, failed, arrival -/
  early : List (Nat × Nat × Nat × Bool × Nat) := []
  /-- ports whose HOLD_QUEUE_FULL episode was reported -/
  fullTold : List Nat := []
  bufs : AMap Nat FwdBuf := []
  nextBuf : Nat := 0
  colls : AMap Nat (List Coll) := []
  /-- requests of the own package that a port refused and that are sent again (17 R406) -/
  resend : AMap Nat (List Out) := []
  ptp : Ptp := {}
  /-- messages sent, newest last; and those of the own package to itself, not yet delivered -/
  outbox : List Out := []
  inbox : List Out := []
  deriving DecidableEq, Repr

/-! ## Main memory's machinery, health (15, 19) -/

/-- The sparing of a stack (15 R368–R370). -/
structure Stack where
  busy : Bool := false
  ratio : Nat := 2
  bound : Nat := 0
  spc : Nat := 2
  /-- 0 idle, 1 bank copy, 2 channel copy, 3 channel swap -/
  state : Nat := 0
  pch : Nat := 0
  bank : Nat := 0
  /-- banks replaced by spares; pseudo-channels retired -/
  spared : List (Nat × Nat) := []
  retired : List Nat := []
  /-- ingress is closed (15 R370) -/
  closed : Bool := false
  /-- the Bolter's place in its scan: entry and pair -/
  scan : Nat := 0
  pair : Nat := 0
  deriving DecidableEq, Repr

/-- An old page waiting for its reclaim (15 R378): the stack, the ASID, the RECL ring, the page's VA. -/
structure Recl where
  stack : Nat
  asid : Nat
  ring : Nat
  page : Nat
  /-- the other page of the pair, which must be free of resolutions too -/
  other : Nat
  deriving DecidableEq, Repr

/-- A monitor's capture (19 R455, R456). -/
structure Monitor where
  bins : List Nat := []
  mn : Int := 0
  mx : Int := 0
  count : Nat := 0
  deriving DecidableEq, Repr

structure MemCtl where
  stks : AMap Nat Stack := []
  /-- keys of 512 bits (15 R371), and those being purged -/
  keys : AMap Nat (BitVec 512) := []
  purging : List Nat := []
  recl : List Recl := []
  mons : AMap Nat Monitor := []
  /-- energy metered and not yet divided, by compute die; issued work, by grid and die (19 R453) -/
  metered : AMap Nat Nat := []
  work : AMap (Nat × Nat) Nat := []
  /-- the energy of the package metered of late: the ac, and mJ (19 R454) -/
  recent : List (Nat × Nat) := []
  /-- dies closed by THERMAL_LIMIT (19 R457) -/
  hot : List Nat := []
  /-- Ethernet ports that train, and those down after training (18 R440) -/
  up : List Nat := []
  down : List Nat := []
  deriving DecidableEq, Repr

/-! ## Registers (18 R436 and the rules it lists) -/

/-- The registers that a selector names (18 R436), besides those another field holds. -/
inductive Reg where
  | config | ctx | core | fpflags | fpctl | srseed | wlrange
  | ttbase | mbbase | resqbase | resqptr | hintdrop
  | leatbase | leatsize | leatuse | fixlim | podjob
  | wdog | fltring | fltptr | fltev | savebase | savesize
  | qtbase | ylimit | preempt | tgather | edefault
  | trgtime | trgper | trgrec | trgctl | cmd | cmdarg
  | tierLogbase | tierLogctl
  | memcCfg | memcSpare | boltCtl | boltScan
  | keycmd | keydata
  | aprPa | aprSize | aprSide | aprCtl
  | tenterCtl | tenterLog | tenterPtr
  | fabricId | fabricReach | fabricTkexp | fabricTimeout | fabricTkclr
  | pxqRing | pxqCtl | pxqPtr
  | commBase | ptpStatus | ptpCfg
  | errring | errptr
  | fantailCredit | fantailPlan | monCtl | monBase | lifepa
  | hwinBase | hwinLen | hwinCtl
  deriving DecidableEq, Repr

/-- A report on its way to a ring (18 R428, R429): the 64 bytes, the frag it belongs to. -/
structure Report where
  cause : Nat := 0
  kind : Nat := 0
  asid : Nat := 0
  core : Nat := 0xFFFF
  detail : Nat := 0
  recva : Nat := 0
  addr : Nat := 0
  pc : Nat := 0
  lanes : Nat := 0
  gindex : Nat := 0
  tlin : Nat := 0
  grid : Nat := 0
  /-- the FAULT record's fragment -/
  frag : Option Nat := none
  deriving DecidableEq, Repr

/-- A context (18 R431). -/
structure Ctx where
  gen : Nat := 0
  priv : Bool := false
  dbg : Bool := false
  /-- the energy account in mJ (19 R453), and whether charges have brought it to 0 since the last
  credit (05 R122) -/
  account : Nat := 0
  dry : Bool := false
  /-- save blocks in use (18 R443) -/
  blocks : List Nat := []
  /-- killed, and not created anew since: the Bolter leaves its scan entries (18 R449) -/
  dead : Bool := false
  deriving DecidableEq, Repr

structure SysRegs where
  ctxs : AMap Nat Ctx := []
  /-- SR registers of a context: ASID and register -/
  sr : AMap (Nat × Reg) Dword := []
  /-- block registers: register and instance -/
  blk : AMap (Reg × Nat) Dword := []
  /-- descriptors: ASID and index (02 R45) -/
  td : AMap (Nat × Nat) (BitVec 512) := []
  /-- reports waiting for their ring: of a context, and of the system (18 R429) -/
  reps : List (Ring × Report) := []
  deriving DecidableEq, Repr

/-! ## The whole -/

/-- What the model itself needs (not the spec's). -/
structure Model where
  /-- ac since package reset (18 R437) -/
  ac : Nat := 0
  /-- the issue being performed, and its instruction once decoded -/
  cur : Issue := {}
  dec : Option Instr := none
  /-- the slots of this ac that have had their turn: those below this number, counted four to a
  core; and the fragments packed into the last issue that still issue with it (06 R143) -/
  turn : Nat := 0
  pack : List Nat := []
  /-- the counter the free values are applied to (log entry 3) -/
  fresh : Nat := 0
  /-- the next number for a group, fragment, team, operation, pending result, allocation, wake -/
  next : Nat := 1
  /-- inputs and events that wait to happen, oldest first -/
  agenda : List Instr := []
  deriving DecidableEq, Repr

/-- The package without its memory and its boot state. -/
structure Chip where
  thr : Threads := {}
  cores : AMap Nat Core := []
  cch : Caches := {}
  spd : Scratch := {}
  eng : Engines := {}
  slu : Sluice := {}
  syn : Sync := {}
  fab : Fabric := {}
  mc : MemCtl := {}
  sys : SysRegs := {}
  mdl : Model := {}
  deriving DecidableEq, Repr

/-- The Miller: what a boot sets, and what it keeps (19 R458–R462). -/
structure Boot where
  /-- the package has power (19 R457, R460) -/
  power : Bool := true
  /-- the boot status word (19 R461) -/
  status : Nat := 0
  /-- bytes of the staging area that are not 0 -/
  staging : List Host.Cell := []
  minSvn : Nat := 0
  keyHash : BitVec 512 := 0
  svn : Nat := 0
  /-- SR.CONFIG (01 R20) -/
  config : Dword
  /-- measurements (19 R462) -/
  meas : List (BitVec 512) := []
  serial : Nat := 0
  /-- the lifetime record: hours, kWh, boots, trips; units excluded; sequence number -/
  hours : Nat := 0
  kwh : Nat := 0
  boots : Nat := 0
  trips : Nat := 0
  /-- per stack the spared banks and the retired pseudo-channels -/
  stks : AMap Nat (Nat × Nat) := []
  /-- the junction-temperature histograms and the corrected errors, whose form the spec leaves open -/
  hist : List Nat := []
  corr : List Nat := []
  excluded : List (Nat × Nat) := []
  lifeSeq : Nat := 0
  deriving DecidableEq, Repr

/-- The state of the package. -/
structure State where
  chip : Chip
  mem : Memory
  boot : Boot
  deriving DecidableEq, Repr

/-- The package right after reset: every register at the value its rule gives, memory with nothing
listed, no context, no grid, and the Miller waiting for an image (19 R460, R461). The registers with
no stated reset value are 0 (log entry 2); SR.CONFIG reads as on a complete part (01 R20). -/
def State.reset : State :=
  { chip := {}
    mem := []
    boot := { config := 0x0C04848940084480 } }

end Sys2Proof.Machine
end

