-- ==== Sys2Proof/WellFormed.lean ====
section
/-! DEFINITION. What the spec asks of an instruction's fields whatever the machine's state: operand
classes, alignment of runs, budgets (03 R56, R58, R59, R60), reserved fields (R66, R68, R69, R72,
R73 and each entry), and the FN code of each modifier. `WellFormed` is their conjunction. -/

namespace Sys2Proof

/-- The 9-bit code of an operand (03 R58). -/
def Special.code : Special → Nat
  | .zero => 0 | .laneid => 1 | .gwidth => 2 | .gindex => 3
  | .tindex => 4 | .amasklo => 5 | .amaskhi => 6 | .idlemask => 7

/-- The 9-bit code of an operand (03 R58). -/
def Opnd.code : Opnd → Nat
  | .v r => r.val
  | .s r => 0x100 + r.val
  | .w r => 0x1C0 + r.val
  | .q r => 0x1D0 + r.val
  | .p r => 0x1E0 + r.val
  | .sp x => 0x1F0 + x.code

/-- The classes a register field accepts (03 R59): v, s, w, q, p0–p7, p0–p6, every special source,
the zero source, the uniform special sources of 07 R192, and the code 0x000 for "none". -/
structure Cls where
  v : Bool := false
  s : Bool := false
  w : Bool := false
  q : Bool := false
  p : Bool := false
  pd : Bool := false
  sp : Bool := false
  zr : Bool := false
  us : Bool := false
  z0 : Bool := false
  deriving DecidableEq, Repr

def cV : Cls := { v := true }
def cS : Cls := { s := true }
def cW : Cls := { w := true }
def cVS : Cls := { v := true, s := true }
def cSZ : Cls := { s := true, zr := true }
def cVSZ : Cls := { v := true, s := true, zr := true }
def cS0 : Cls := { s := true, z0 := true }
/-- The default sources of 03 R59. -/
def cSrc : Cls := { v := true, s := true, q := true, p := true, sp := true }
/-- The default sources, or a packet (08 R222). -/
def cWSrc : Cls := { v := true, s := true, q := true, p := true, sp := true, w := true }
/-- The default destinations of a 32-bit result (03 R54, R59). -/
def cDst : Cls := { v := true, q := true, pd := true }
/-- The destinations of MOVI (07 R188). -/
def cDstS : Cls := { v := true, q := true, pd := true, s := true }
/-- The sources of the uniform datapath (07 R192). -/
def cUSrc : Cls := { s := true, us := true }
def cVP : Cls := { v := true, pd := true }
def cVPS : Cls := { v := true, pd := true, s := true }
/-- The sources of PLOP (07 R190). -/
def cPl : Cls := { v := true, p := true, sp := true }
/-- The default sources but v: slots and masks (10 R273, 12 R316). -/
def cNoV : Cls := { s := true, q := true, p := true, sp := true }
def cVSsp : Cls := { v := true, s := true, sp := true }

/-- Whether an operand is of an accepted class. -/
def Cls.has (k : Cls) : Opnd → Bool
  | .v r => k.v || (k.z0 && r.val == 0)
  | .s _ => k.s
  | .w _ => k.w
  | .q _ => k.q
  | .p r => k.p || (k.pd && r.val != 7)
  | .sp .zero => k.sp || k.zr || k.us
  | .sp .laneid => k.sp
  | .sp _ => k.sp || k.us

/-- What an entry asks of one register field. -/
inductive FK where
  /-- unused: 0x000, or RESERVED_FIELD (03 R58) -/
  | zero
  /-- 0x1F0, or RESERVED_FIELD -/
  | absent
  /-- a count, checked by the entry (03 R77) -/
  | any
  /-- a run of `n` registers of the class, the first a multiple of `al` -/
  | reg (k : Cls) (n al : Nat)
  deriving DecidableEq, Repr

/-- One register of a class. -/
abbrev FK.r1 (k : Cls) : FK := .reg k 1 1

/-- Whether a field that the entry leaves unused holds what it must (03 R58). -/
def FK.resvOk : FK → Opnd → Bool
  | .zero, o => o == .v 0
  | .absent, o => o == .sp .zero
  | _, _ => true

/-- Whether an operand is accepted, aligned and within the budgets (03 R53, R56, R59). -/
def FK.opndOk (vb ub : Nat) : FK → Opnd → Bool
  | .reg k n al, o =>
    k.has o && match o with
      | .v r => if k.v then r.val % al == 0 && r.val + n ≤ vb else true
      | .s r => r.val % al == 0 && r.val + n ≤ ub
      | .w r => r.val % al == 0 && r.val + n ≤ 16 && 16 * (r.val + n) ≤ vb
      | _ => true
  | _, _ => true

/-- How the 96-bit form reads IMM (03 R68). -/
inductive ImmK where
  /-- IMM stands in for SRCB -/
  | b
  /-- the entry reads no b: SRCB is 0x1F0 and IMM is 0 -/
  | bz
  /-- SRCB must name a packet or a run, so IMM in its place is an illegal operand -/
  | bad
  /-- IMM stands in for SRCC (PERM) -/
  | c
  /-- IMM is a branch offset beside the other fields -/
  | off
  deriving DecidableEq, Repr

/-- What an entry asks of an instruction's fields. -/
structure Desc where
  d : FK := .zero
  a : FK := .zero
  b : FK := .zero
  c : FK := .zero
  /-- the bits [17:14] that may be set: all of them for LAH (03 R66) -/
  xm : BitVec 4 := 0
  immK : ImmK := .b
  /-- the entry's own reserved fields hold what they must -/
  resv : Bool := true
  /-- the entry's own operand rules hold -/
  opx : Bool := true
  deriving DecidableEq, Repr

/-- Whether IMM, read unsigned, is at most `n`. -/
def immLe (f : Alu) (n : Nat) : Bool :=
  match f.imm with
  | some w => w.toNat ≤ n
  | none => true

/-- How many instances a register ID has; none when it names no register (18 R436, 17 R425,
19 R454, R455, R458, 04 R97). -/
def regCount (id : Nat) : Option Nat :=
  if id ≤ 0x016 then some 1
  else if id < 0x100 then none
  else if id ≤ 0x104 then some 1
  else if id ≤ 0x108 then some 64
  else if id ≤ 0x10A then some 1
  else if id = 0x110 || id = 0x111 then some 2
  else if 0x120 ≤ id && id ≤ 0x123 then some 16
  else if id = 0x130 then some 1
  else if id = 0x131 then some 8
  else if 0x140 ≤ id && id ≤ 0x143 then some 64
  else if 0x150 ≤ id && id ≤ 0x152 then some 1
  else if id = 0x161 then some 16
  else if 0x160 ≤ id && id ≤ 0x164 then some 1
  else if 0x170 ≤ id && id ≤ 0x172 then some 256
  else if 0x180 ≤ id && id ≤ 0x182 then some 1
  else if id = 0x190 || id = 0x191 then some 1
  else if id = 0x1A0 || id = 0x1A1 || id = 0x1A4 then some 1
  else if id = 0x1A2 || id = 0x1A3 then some 16
  else if 0x1B0 ≤ id && id ≤ 0x1B2 then some 256
  else none

/-- Check 1 of 18 R435: the selector names a register and one of its instances. -/
def selNames (b : Nat) : Bool :=
  bits b 20 11 == 0 && (match regCount (bits b 8 12) with
    | some n => bits b 0 8 < n
    | none => false)

/-- Whether only a privileged context may read, or write, the register a selector names
(18 R436). -/
def selPriv (write : Bool) (b : Nat) : Bool :=
  let id := bits b 8 12
  if write then !(id == 0x003 || id == 0x00B || id == 0x002)
  else 0x016 < id && !(id == 0x181 || id == 0x182)

/-- What the bits of RDSR and WRSR say of a selector that IMM gives (checks 1 and 3 of 18 R435, by
03 R63). -/
def selOk (f : Alu) : Bool :=
  match f.imm with
  | some w =>
    selNames w.toNat && !(w.getLsbD 31 && (0x016 < bits w.toNat 8 12 || f.c == .v 0))
  | none => true

/-- The counts of NOP.entry (03 R77). -/
def entryOk (f : Alu) : Bool :=
  1 ≤ f.a.code && f.a.code ≤ 256 && f.b.code ≤ 192

/-- The reserved bits of SETLIVE's immediate (06 R180). -/
def liveResv (f : Alu) : Bool :=
  match f.imm with
  | some w => bits w.toNat 9 7 == 0 && bits w.toNat 24 8 == 0
  | none => true

/-- The limits of SETLIVE's immediate (06 R180). -/
def liveOk (vb ub : Nat) (f : Alu) : Bool :=
  match f.imm with
  | some w => bits w.toNat 0 9 ≤ vb && bits w.toNat 16 8 ≤ ub
  | none => true

def sameClass : Opnd → Opnd → Bool
  | .v _, .v _ => true
  | .s _, .s _ => true
  | _, _ => false

/-- With an s destination the source is an s register or zero. -/
def uniIf : Opnd → Opnd → Bool
  | .s _, .s _ => true
  | .s _, .sp .zero => true
  | .s _, _ => false
  | _, _ => true

def Atw.bytes : Atw → Nat
  | .a4 => 4 | .a8 => 8 | .a16 => 16

/-- TDI is 0 outside the descriptor-relative space (10 R261). -/
def memResv (f : MemF) : Bool := f.tdi == 0#10 || f.space == .tdrel

/-- No token is carried or returned (03 R71). -/
def noTok (f : MemF) : Bool := f.dep == .none && !f.tok

/-- Tokens only on a store in the remote space (03 R71). -/
def tokOk (f : MemF) : Bool := f.space == .remote || noTok f

/-- The fields that touch no cache line leave at 0 (10 R261). -/
def noLine (f : MemF) : Bool := noTok f && f.atw == .a4 && f.evict == 0#3

/-- An ATW wider than 4 bytes needs an access that wide (10 R262). -/
def sizeAtw (bytes : Nat) (f : MemF) : Bool := f.atw == .a4 || f.atw.bytes ≤ bytes

/-- The token register of a store (03 R71). -/
def tokKind (f : MemF) : FK :=
  if noTok f then .zero else if f.dep = .two then .reg cVS 2 1 else .r1 cVS

/-- The fixed fields of EVSIG and EVWAIT (04 R113). -/
def evResv (f : MemF) : Bool :=
  noTok f && f.tdi == 0#10 && f.atw == .a8 && f.space == .glob

/-- The upper word and OFS of TLBINV (18 R438). -/
def tlbResv (f : MemF) : Bool :=
  noLine f && f.ofs == 0#38 && f.tdi == 0#10 && f.space == .glob && f.scope == .th && f.ord == .rlx

/-- The fields of the engine form that an entry leaves at 0 (12 R310). -/
def engZ (f : EngF) (win fmto tdi so : Bool) : Bool :=
  (win || f.win == 0#5) && (fmto || f.fmto == 0#8) && (tdi || f.tdi == 0#10)
    && (so || (f.scope == .th && f.ord == .rlx)) && f.space == .glob

/-- The fields the light instructions leave at 0 (14 R354). -/
def lightZ (f : EngF) : Bool := f.fmto == 0#8 && f.win == 0#5 && f.space == .glob

def spaOk (f : MatF) : Bool := f.spa == .glob || f.spa == .scratch

/-- The fields of MXLDA, MXST and MXQNT (13 R334). -/
def tileResv (f : MatF) : Bool :=
  f.g == .always && f.kb == 0#12 && f.fmta == 0#8 && f.fmtb == 0#8 && f.tdb == 0#10
    && spaOk f && f.rnd == .rne && f.arr == .arr0

/-- MOD and EIMM of QBIND by kind (12 R318, 17 R415). -/
def qbindResv (m : QbindM) (f : EngF) : Bool :=
  (match m.kind with
    | .pop | .pxpop => if f.x.getLsbD 3 then f.x != 15#4 else f.x == 0#4
    | _ => f.x == 0#4)
  && (match m.kind with
    | .none => !m.u && f.eimm == 0#32
    | .pop | .push => f.eimm.toNat < 32
    | .task => true
    | .pxpush => bits f.eimm.toNat 8 14 == 0
    | .pxpop => f.eimm.toNat < 256)

/-- The fixed fields of COLL (17 R419). -/
def collResv (m : CollM) (f : EngF) : Bool :=
  f.win == 0#5 && f.space == .glob && (f.scope == .pod || f.scope == .sys)
    && (f.ord == .rlx || f.ord == .rel)
    && bits f.eimm.toNat 8 8 == 0 && bits f.eimm.toNat 26 6 == 0
    && (match m.op with | .bcast | .red => true | _ => bits f.eimm.toNat 16 10 == 0)
    && (match m.op with | .allgat | .bcast => m.comb == .add | _ => true)

def wideSrc : Wid → FK
  | .b32 => .r1 cSrc
  | .b64 => .reg cVS 2 2
def wideDst : Wid → FK
  | .b32 => .r1 cDst
  | .b64 => .reg cV 2 2
def uWide : Wid → FK
  | .b32 => .r1 cUSrc
  | .b64 => .reg cS 2 2
def uWideD : Wid → FK
  | .b32 => .r1 cS
  | .b64 => .reg cS 2 2
def wideV : Wid → FK
  | .b32 => .r1 cV
  | .b64 => .reg cV 2 2

/-- The mask of CBTEST and CBWAIT (12 R316). -/
def maskKind (m : CbM) : FK := bif m.quad then .reg cS 4 1 else .r1 cNoV

def LdSz.bytes : LdSz → Nat
  | .u8 | .s8 => 1 | .u16 | .s16 => 2 | .b32 => 4 | .b64 => 8 | .b128 => 16
def LdSz.regs : LdSz → Nat
  | .b64 => 2 | .b128 => 4 | _ => 1
def StSz.bytes : StSz → Nat
  | .b8 => 1 | .b16 => 2 | .b32 => 4 | .b64 => 8 | .b128 => 16
def StSz.regs : StSz → Nat
  | .b64 => 2 | .b128 => 4 | _ => 1
def AtomT.regs : AtomT → Nat
  | .u32 | .s32 | .f32 => 1 | .u64 | .s64 => 2 | .b128 => 4
def CasT.regs : CasT → Nat
  | .b32 => 1 | .b64 => 2 | .b128 => 4
def atwOf : Nat → Atw
  | 2 => .a8
  | 4 => .a16
  | _ => .a4
def cstBytes (m : CstM) : Nat := match m.wid with | .b32 => 4 | .b64 => 8
def VecN.count : VecN → Nat
  | .n16 => 16 | .n32 => 32 | .n64 => 64 | .n128 => 128

/-- The pairs of operation and type that ATOM has (10 R276). -/
def atomOk : AtomOp → AtomT → Bool
  | _, .f32 => false
  | .exch, .b128 => true
  | _, .b128 => false
  | .add, _ | .min, _ | .max, _ => true
  | .inc, t | .dec, t => t == .u32
  | _, t => t == .u32 || t == .u64

/-- The pairs of operation and type that ARED has (10 R276). -/
def aredOk : AtomOp → AtomT → Bool
  | .add, .f32 => true
  | .exch, _ | .inc, _ | .dec, _ => false
  | o, t => atomOk o t

/-- The element width of a parametric format code (02 R31). -/
def nfWidth (code : Nat) : Nat := bits code 6 1 + bits code 3 3 + bits code 0 3

/-- Whether a code is a parametric code of a width from 1 to 8 (02 R22, R23). -/
def isNf (code : Nat) : Bool := 0x80 ≤ code && code < 0x100 && 1 ≤ nfWidth code && nfWidth code ≤ 8

/-- The element width of a defined format code, 0 for a code that is none (02 R22). -/
def fmtWidth (code : Nat) : Nat :=
  match code with
  | 0x01 => 32
  | 0x02 | 0x03 => 16
  | 0x04 | 0x05 | 0x09 | 0x0B | 0x0C => 8
  | 0x06 | 0x07 => 6
  | 0x08 | 0x0A => 4
  | 0x10 | 0x11 | 0x15 => 8
  | 0x12 | 0x13 => 6
  | 0x14 => 4
  | c => if isNf c then nfWidth c else 0

/-- How many elements FPACK and FUNPK move (08 R217); 1 where the format is not accepted, which is
a fault at execution. -/
def packN (code : BitVec 8) : Nat :=
  let c := code.toNat
  if isNf c || (2 ≤ c && c ≤ 0x0B) then
    (if fmtWidth c = 16 then 2 else if 5 ≤ fmtWidth c then 4 else 8)
  else 1

/-- SRCB of FPACK and FUNPK: a word of bias and flag for a parametric code (08 R217). -/
def packB (code : BitVec 8) : FK := if code.toNat < 0x80 then .absent else .r1 cSrc
def packImm (code : BitVec 8) : ImmK := if code.toNat < 0x80 then .bz else .b

/-- RM of FPACK stands in MOD[2:0]; .sr is refused for widths of 1 to 4 (08 R217). -/
def packResv (code : BitVec 8) (f : Alu) : Bool :=
  f.x.toNat < 5 && !(f.x.toNat == 4 && packN code == 8)

/-- What the entry of each instruction asks of its fields; an event has no fields. IMM of an entry
that reads no b must be 0, as 07 R191 and 12 R310 say; that it must in RDFL too, of which 07 R194 says
nothing, is the model's choice (DESIGN CHOICE, log entry 8). -/
def Instr.desc (vb ub : Nat) : Instr → Desc
  | .nop _ => {}
  | .nopEntry f => { a := .any, b := .any, resv := entryOk f }
  | .bra _ => { immK := .off }
  | .brc _ _ => { a := (.r1 cSrc), b := (.r1 cSrc), immK := .off }
  | .brx _ => { a := (.reg cVS 2 2) }
  | .call _ => { d := (.reg cVS 2 2), immK := .off }
  | .callx _ => { d := (.reg cV 4 2), a := (.reg cVS 2 2) }
  | .ret _ => { a := (.reg cVS 2 2) }
  | .meet _ => { d := (.reg cV 2 2), immK := .off }
  | .join _ => { a := (.reg cV 2 2) }
  | .joinf _ => { a := (.reg cV 2 2) }
  | .exit _ => {}
  | .yield _ => {}
  | .setlive f => { b := (.r1 cS), resv := liveResv f, opx := liveOk vb ub f }
  | .launch _ => { d := (.r1 cS), a := (.reg cS 2 2) }
  | .chwait _ => { d := (.r1 cS0), a := (.r1 cSZ) }
  | .evsig f => { a := (.reg cS 2 2), b := (.r1 cSZ), c := (.reg cS 2 2), xm := 7#4, resv := evResv f && (f.ord == .rel || f.ord == .str) }
  | .evwait f => { d := (.reg cS0 2 2), a := (.reg cS 2 2), b := (.r1 cSZ), c := (.reg cS 2 2), xm := 7#4, resv := evResv f && (f.ord == .acq || f.ord == .str) }
  | .spawn _ => { d := (.r1 cS), a := (.reg cS 8 1), b := (.reg cS 2 2) }
  | .fetchw _ => { a := (.r1 cS) }
  | .taskadd f => { d := (.r1 cVS), a := (.reg cVS 11 2), b := (.r1 cSrc), opx := sameClass f.d f.a }
  | .taskdone _ => {}
  | .bar _ f => { b := (.r1 cSZ), opx := immLe f 1024 }
  | .bara _ f => { d := (.r1 cS0), b := (.r1 cSZ), opx := immLe f 1024 }
  | .barw _ _ => { b := (.r1 cSZ) }
  | .cbar _ _ => { immK := .bz }
  | .cbarArr _ _ => { d := (.r1 cS0), immK := .bz }
  | .cbarWt _ _ => { b := (.r1 cSZ) }
  | .ticketTake _ _ => { xm := 7#4 }
  | .ticketGive _ _ => {}
  | .handoff _ _ => { b := (.r1 cS) }
  | .handwait _ _ => { b := (.r1 cS), xm := 7#4 }
  | .add _ => { d := (.r1 cDst), a := (.r1 cSrc), b := (.r1 cSrc) }
  | .sub _ => { d := (.r1 cDst), a := (.r1 cSrc), b := (.r1 cSrc) }
  | .mul _ => { d := (.r1 cDst), a := (.r1 cSrc), b := (.r1 cSrc) }
  | .mulh _ _ => { d := (.r1 cDst), a := (.r1 cSrc), b := (.r1 cSrc) }
  | .mad _ => { d := (.r1 cDst), a := (.r1 cSrc), b := (.r1 cSrc), c := (.r1 cSrc) }
  | .madw _ _ => { d := (.reg cV 2 2), a := (.r1 cSrc), b := (.r1 cSrc), c := (.reg cVS 2 2) }
  | .add64 _ => { d := (.reg cV 2 2), a := (.reg cVS 2 2), b := (.reg cVS 2 2) }
  | .sub64 _ => { d := (.reg cV 2 2), a := (.reg cVS 2 2), b := (.reg cVS 2 2) }
  | .mad64 _ => { d := (.reg cV 2 2), a := (.reg cVS 2 2), b := (.reg cVS 2 2), c := (.reg cVS 2 2) }
  | .lea _ _ => { d := (.reg cV 2 2), a := (.reg cVS 2 2), b := (.r1 cSrc) }
  | .imin _ _ => { d := (.r1 cDst), a := (.r1 cSrc), b := (.r1 cSrc) }
  | .imax _ _ => { d := (.r1 cDst), a := (.r1 cSrc), b := (.r1 cSrc) }
  | .iabs _ _ => { d := (.r1 cDst), b := (.r1 cSrc) }
  | .adds _ _ => { d := (.r1 cDst), a := (.r1 cSrc), b := (.r1 cSrc) }
  | .and _ => { d := (.r1 cDst), a := (.r1 cSrc), b := (.r1 cSrc) }
  | .or _ => { d := (.r1 cDst), a := (.r1 cSrc), b := (.r1 cSrc) }
  | .xor _ => { d := (.r1 cDst), a := (.r1 cSrc), b := (.r1 cSrc) }
  | .andn _ => { d := (.r1 cDst), a := (.r1 cSrc), b := (.r1 cSrc) }
  | .shl _ => { d := (.r1 cDst), a := (.r1 cSrc), b := (.r1 cSrc) }
  | .shr _ => { d := (.r1 cDst), a := (.r1 cSrc), b := (.r1 cSrc) }
  | .sar _ => { d := (.r1 cDst), a := (.r1 cSrc), b := (.r1 cSrc) }
  | .rot _ _ => { d := (.r1 cDst), a := (.r1 cSrc), b := (.r1 cSrc) }
  | .fnl _ _ => { d := (.r1 cDst), a := (.r1 cSrc), b := (.r1 cSrc), c := (.r1 cSrc) }
  | .bfe _ _ => { d := (.r1 cDst), a := (.r1 cSrc), b := (.r1 cSrc) }
  | .bfi _ => { d := (.r1 cDst), a := (.r1 cSrc), b := (.r1 cSrc), c := (.r1 cSrc) }
  | .popc m _ => { d := (.r1 cDst), b := (wideSrc m) }
  | .clz m _ => { d := (.r1 cDst), b := (wideSrc m) }
  | .ctz m _ => { d := (.r1 cDst), b := (wideSrc m) }
  | .brev m _ => { d := (wideDst m), b := (wideSrc m) }
  | .perm _ => { d := (.r1 cDst), a := (.r1 cSrc), b := (.r1 cSrc), c := (.r1 cSrc), immK := .c }
  | .sel _ => { d := (.r1 cDst), a := (.r1 cSrc), b := (.r1 cSrc), c := (.r1 cSrc) }
  | .icmp _ _ => { d := (.r1 cDst), a := (.r1 cSrc), b := (.r1 cSrc) }
  | .icvt _ _ => { d := (.r1 cDst), b := (.r1 cSrc) }
  | .mov _ => { d := (.r1 cDst), b := (.r1 cSrc) }
  | .movi _ => { d := (.r1 cDstS) }
  | .plop _ _ => { d := (.r1 cVP), a := (.r1 cPl), b := (.r1 cPl), c := (.r1 cPl) }
  | .pmov m _ => { d := (match m with | .pack => .r1 cDst | .unpack => .zero), a := (match m with | .pack => .zero | .unpack => .r1 cSrc), b := (match m with | .pack => .zero | .unpack => .r1 cSrc), immK := (match m with | .pack => .bz | .unpack => .b) }
  | .uadd m _ => { d := (uWideD m), a := (uWide m), b := (uWide m) }
  | .usub m _ => { d := (uWideD m), a := (uWide m), b := (uWide m) }
  | .umul _ _ => { d := (.r1 cS), a := (.r1 cUSrc), b := (.r1 cUSrc) }
  | .umad m _ => { d := (match m with | .lo => .r1 cS | _ => .reg cS 2 2), a := (.r1 cUSrc), b := (.r1 cUSrc), c := (match m with | .lo => .r1 cUSrc | _ => .reg cS 2 2) }
  | .ulop _ _ => { d := (.r1 cS), a := (.r1 cUSrc), b := (.r1 cUSrc), c := (.r1 cUSrc) }
  | .ushf _ _ => { d := (.r1 cS), a := (.r1 cUSrc), b := (.r1 cUSrc) }
  | .ucmp _ _ => { d := (.r1 cS), a := (.r1 cUSrc), b := (.r1 cUSrc) }
  | .umov m _ => { d := (uWideD m), b := (uWide m) }
  | .usel _ => { d := (.r1 cS), a := (.r1 cUSrc), b := (.r1 cUSrc), c := (.r1 cUSrc) }
  | .ulea _ _ => { d := (.reg cS 2 2), a := (.reg cS 2 2), b := (.r1 cUSrc) }
  | .rdfl m _ => { d := (uWideD m), a := (wideV m), immK := .bz }
  | .rdln m _ => { d := (uWideD m), a := (wideV m), b := (.r1 cUSrc) }
  | .wrln m _ => { d := (wideV m), a := (uWide m), b := (.r1 cUSrc) }
  | .shfl _ _ => { d := (.r1 cDst), a := (.r1 cSrc), b := (.r1 cSrc), xm := 7#4 }
  | .swapp _ _ => { d := (.r1 cDst), a := (.r1 cSrc), xm := 7#4 }
  | .ballot _ => { d := (.reg cVS 2 2), a := (.r1 cSrc) }
  | .vote _ _ => { d := (.r1 cVPS), a := (.r1 cSrc) }
  | .gred _ _ => { d := (.r1 cVS), a := (.r1 cSrc) }
  | .gscan _ _ => { d := (.r1 cV), a := (.r1 cSrc) }
  | .match m _ => { d := (.reg cV 2 2), a := (wideSrc m) }
  | .cmprs _ => { d := (.r1 cDst), a := (.r1 cSrc), b := (.r1 cSrc), c := (.r1 cSrc), xm := 7#4 }
  | .expnd _ => { d := (.r1 cDst), a := (.r1 cSrc), b := (.r1 cSrc), c := (.r1 cSrc), xm := 7#4 }
  | .fadd _ _ => { d := (.r1 cDst), a := (.r1 cSrc), b := (.r1 cSrc) }
  | .fsub _ _ => { d := (.r1 cDst), a := (.r1 cSrc), b := (.r1 cSrc) }
  | .fmul _ _ => { d := (.r1 cDst), a := (.r1 cSrc), b := (.r1 cSrc) }
  | .ffma _ _ => { d := (.r1 cDst), a := (.r1 cSrc), b := (.r1 cSrc), c := (.r1 cSrc) }
  | .fmin _ _ => { d := (.r1 cDst), a := (.r1 cSrc), b := (.r1 cSrc) }
  | .fmax _ _ => { d := (.r1 cDst), a := (.r1 cSrc), b := (.r1 cSrc) }
  | .fcmp _ _ => { d := (.r1 cDst), a := (.r1 cSrc), b := (.r1 cSrc) }
  | .fclass _ => { d := (.r1 cDst), b := (.r1 cSrc) }
  | .frcp _ => { d := (.r1 cDst), b := (.r1 cSrc) }
  | .frsq _ => { d := (.r1 cDst), b := (.r1 cSrc) }
  | .fsqrt _ _ => { d := (.r1 cDst), b := (.r1 cSrc) }
  | .fdiv _ _ => { d := (.r1 cDst), a := (.r1 cSrc), b := (.r1 cSrc) }
  | .fexp2 _ => { d := (.r1 cDst), b := (.r1 cSrc) }
  | .flog2 _ => { d := (.r1 cDst), b := (.r1 cSrc) }
  | .fsin _ => { d := (.r1 cDst), b := (.r1 cSrc) }
  | .fcos _ => { d := (.r1 cDst), b := (.r1 cSrc) }
  | .fsinpi _ => { d := (.r1 cDst), b := (.r1 cSrc) }
  | .fcospi _ => { d := (.r1 cDst), b := (.r1 cSrc) }
  | .fsincos _ => { d := (.reg cV 2 2), b := (.r1 cSrc) }
  | .ftanh _ => { d := (.r1 cDst), b := (.r1 cSrc) }
  | .frint _ _ => { d := (.r1 cDst), b := (.r1 cSrc) }
  | .ffrac _ => { d := (.r1 cDst), b := (.r1 cSrc) }
  | .fldexp _ _ => { d := (.r1 cDst), a := (.r1 cSrc), b := (.r1 cSrc) }
  | .fcvt _ _ => { d := (.r1 cDst), b := (.r1 cSrc) }
  | .fpack m f => { d := (.r1 cDst), a := (.reg cV (packN m) 1), b := (packB m), xm := 7#4, immK := (packImm m), resv := packResv m f }
  | .funpk m _ => { d := (.reg cV (packN m) 1), a := (.r1 cSrc), b := (packB m), immK := (packImm m) }
  | .hfma2 _ _ => { d := (.r1 cDst), a := (.r1 cSrc), b := (.r1 cSrc), c := (.r1 cSrc) }
  | .hadd2 _ _ => { d := (.r1 cDst), a := (.r1 cSrc), b := (.r1 cSrc) }
  | .hmul2 _ _ => { d := (.r1 cDst), a := (.r1 cSrc), b := (.r1 cSrc) }
  | .bfma2 _ _ => { d := (.r1 cDst), a := (.r1 cSrc), b := (.r1 cSrc), c := (.r1 cSrc) }
  | .fdot2 _ _ => { d := (.r1 cDst), a := (.r1 cSrc), b := (.r1 cSrc), c := (.r1 cSrc) }
  | .fdot4 _ _ => { d := (.r1 cDst), a := (.r1 cSrc), b := (.r1 cSrc), c := (.r1 cSrc) }
  | .fsrnd _ _ => { d := (.r1 cDst), a := (.r1 cSrc), b := (.r1 cSrc) }
  | .wmov m _ => { d := (.r1 cW), b := (bif m then .r1 cSrc else .r1 cW), immK := (bif m then .b else .bad) }
  | .wadd _ => { d := (.r1 cW), a := (.r1 cW), b := (.r1 cWSrc) }
  | .wmul _ => { d := (.r1 cW), a := (.r1 cW), b := (.r1 cWSrc) }
  | .wfma _ => { d := (.r1 cW), a := (.r1 cW), b := (.r1 cWSrc), c := (.r1 cWSrc) }
  | .wmin _ _ => { d := (.r1 cW), a := (.r1 cW), b := (.r1 cWSrc) }
  | .wmax _ _ => { d := (.r1 cW), a := (.r1 cW), b := (.r1 cWSrc) }
  | .wrcp _ => { d := (.r1 cW), b := (.r1 cW), immK := .bad }
  | .wexpn _ => { d := (.r1 cW), a := (.r1 cW), b := (.r1 cWSrc) }
  | .wsum _ => { d := (.r1 cDst), b := (.r1 cW), immK := .bad }
  | .wdot _ => { d := (.r1 cDst), a := (.r1 cW), b := (.r1 cW), immK := .bad }
  | .wlam _ => { d := (.r1 cW), b := (.r1 cSrc) }
  | .wlerp _ => { d := (.r1 cW), a := (.r1 cW), b := (.r1 cW), c := (.r1 cWSrc), immK := .bad }
  | .wcvt m _ => { d := (bif m then .r1 cW else .reg cV 8 1), b := (bif m then .reg cV 8 1 else .r1 cW), immK := .bad }
  | .wfres m _ => { d := (bif m then .reg cW 2 1 else .r1 cW), a := (.r1 cW), b := (.r1 cW), c := (.r1 cWSrc), immK := .bad }
  | .smuel m _ => { d := (.reg cW 4 4), a := (.reg cW 4 4), b := (bif m then .r1 cWSrc else .reg cW 4 4), c := (bif m then .r1 cWSrc else .zero), immK := (bif m then .b else .bad) }
  | .ld m f => { d := (.reg cV m.sz.regs m.sz.regs), a := (.reg cVSZ 2 2), b := (.r1 cVSZ), xm := 15#4, resv := memResv f && noTok f && sizeAtw m.sz.bytes f }
  | .st m f => { d := (tokKind f), a := (.reg cVSZ 2 2), b := (.r1 cVSZ), c := (.reg cVSZ m.sz.regs m.sz.regs), xm := 15#4, resv := memResv f && tokOk f && sizeAtw m.sz.bytes f && f.space != .uconst }
  | .ldu m f => { d := (.reg cS m.sz.regs m.sz.regs), a := (.reg cSZ 2 2), b := (.r1 cSZ), xm := 15#4, resv := memResv f && noTok f && sizeAtw m.sz.bytes f && f.space != .remote && f.space != .apert }
  | .usto m f => { a := (.reg cSZ 2 2), b := (.r1 cSZ), c := (.reg cSZ m.sz.regs m.sz.regs), resv := memResv f && noTok f && sizeAtw m.sz.bytes f && f.space != .remote && f.space != .apert && f.space != .uconst }
  | .ldt _ f => { d := (.r1 cV), a := (.r1 cVS), b := .absent, xm := 15#4, resv := noTok f && f.space == .tdrel && f.ofs == 0#38 }
  | .stt _ f => { a := (.r1 cVS), b := .absent, c := (.r1 cVS), resv := noTok f && f.space == .tdrel && f.ofs == 0#38 }
  | .gath m f => { d := (.reg cV (m.n1.toNat + 1) 1), a := (.r1 cSrc), b := (.r1 cV), xm := 15#4, resv := noTok f && f.space == .tdrel && f.ofs == 0#38 }
  | .scat m f => { a := (.r1 cSrc), b := (.r1 cV), c := (.reg cV (m.n1.toNat + 1) 1), resv := noTok f && f.space == .tdrel && f.ofs == 0#38 }
  | .cstore m f => { d := (.r1 cS), a := (.reg cSZ 2 2), b := (.r1 cV), c := (wideV m.wid), resv := memResv f && noTok f && sizeAtw (cstBytes m) f && (f.space == .glob || f.space == .scratch || f.space == .tdrel) }
  | .pref _ f => { a := (.reg cVSZ 2 2), b := (.r1 cVSZ), resv := memResv f && noTok f && (f.space == .glob || f.space == .uconst) && f.ord == .rlx }
  | .resreq f => { d := (.r1 cVS), a := (.reg cVSZ 2 2), b := (.r1 cVSZ), xm := 15#4, resv := memResv f && noLine f && f.space == .glob, opx := uniIf f.d f.a && uniIf f.d f.b }
  | .resq f => { d := (.r1 cDstS), a := (.reg cVS 2 2), opx := uniIf f.d f.a }
  | .splook f => { d := (.r1 cVS), a := (.reg cVS 2 2), b := (.r1 cSrc), opx := uniIf f.d f.a && (f.imm.isSome || uniIf f.d f.b) }
  | .sptag _ => { a := (.reg cS 2 2), b := (.r1 cNoV) }
  | .spfill _ => { a := (.reg cS 2 2), b := (.r1 cNoV), c := (.r1 cSZ) }
  | .spevict _ => { b := (.r1 cNoV) }
  | .fence f => { resv := memResv f && noLine f && f.ofs == 0#38 && f.space == .glob && f.ord != .rlx }
  | .cflush _ f => { a := (.reg cVSZ 2 2), b := (.r1 cVSZ), resv := memResv f && noTok f && f.space == .glob && f.ord == .rlx }
  | .cinv f => { a := (.reg cVSZ 2 2), b := (.r1 cVSZ), resv := memResv f && noTok f && f.space == .glob && f.ord == .rlx }
  | .atom m f => { d := (.reg cV m.ty.regs m.ty.regs), a := (.reg cVSZ 2 2), b := (.r1 cVSZ), c := (.reg cVSZ m.ty.regs m.ty.regs), xm := 15#4, resv := memResv f && noTok f && f.atw == atwOf m.ty.regs }
  | .acas m f => { d := (.reg cV m.ty.regs m.ty.regs), a := (.reg cVSZ 2 2), b := (.r1 cVSZ), c := (.reg cVSZ (2 * m.ty.regs) m.ty.regs), xm := 15#4, resv := memResv f && noTok f && f.atw == atwOf m.ty.regs }
  | .afadd _ f => { d := (.r1 cV), a := (.reg cVSZ 2 2), b := (.r1 cVSZ), c := (.r1 cVSZ), xm := 15#4, resv := memResv f && noTok f && f.atw == .a4 }
  | .afaddc _ f => { a := (.reg cVSZ 2 2), b := (.r1 cVSZ), c := (.r1 cVS), xm := 15#4, resv := memResv f && noTok f && f.atw == .a8 && (f.space == .glob || f.space == .scratch || f.space == .tdrel) }
  | .ared m f => { a := (.reg cVSZ 2 2), b := (.r1 cVSZ), c := (.reg cVSZ m.ty.regs m.ty.regs), resv := memResv f && noTok f && f.atw == atwOf m.ty.regs }
  | .waitc _ f => { b := (.r1 cSZ), opx := immLe f 63 }
  | .tdset f => { c := (.reg cS 16 1), resv := noLine f && f.ofs == 0#38 && f.space == .glob && (f.ord == .rlx || f.ord == .rel) }
  | .tdget f => { d := (.reg cS 16 1), xm := 15#4, resv := noLine f && f.ofs == 0#38 && f.space == .glob && (f.ord == .rlx || f.ord == .acq) }
  | .tcopy _ f => { a := (.r1 cS), b := (.r1 cS), c := (.reg cS 2 1), resv := engZ f false true true true && f.eimm == 0#32 }
  | .tcopym f => { a := (.r1 cS), b := (.r1 cS), c := (.r1 cS), resv := engZ f true true true true && f.eimm.toNat < 65536 }
  | .windef m f => { a := (match m with | .touch => .r1 cS | .recv => .zero), b := (match m with | .touch => .r1 cS | .recv => .zero), c := (.reg cS 3 1), resv := f.eimm == 0#32 && f.space == .glob && (m == .touch || engZ f true false false false) }
  | .wincLr _ _ => { immK := .bz }
  | .cbtest m f => { d := (.r1 cVPS), b := (maskKind m), opx := !(m.quad && f.imm.isSome) }
  | .cbwait m f => { b := (maskKind m), opx := !(m.quad && f.imm.isSome) }
  | .stream m f => { a := (.r1 cS), b := (.r1 cSZ), resv := f.eimm == 0#32 && f.win == 0#5 && (f.space == .glob || f.space == .scratch) && !(m.st && m.close) }
  | .sclose _ _ => { immK := .bz }
  | .qstat _ _ => { d := (.r1 cVS), immK := .bz }
  | .qbind m f => { a := (match m.kind with | .task => .reg cS 2 2 | _ => .zero), xm := 15#4, resv := engZ f false false false false && qbindResv m f }
  | .trace m f => { d := (bif m.task then .zero else .reg cV 8 1), a := (.reg cV 8 1), b := (.r1 cVSsp), xm := 15#4, resv := lightZ f && f.eimm.toNat < 256 && f.ord == .rlx }
  | .hitget m _ => { d := (.reg cV (bif m.nrm then 3 else 9) 1), a := (.r1 cVS), b := (.r1 cS), xm := 15#4 }
  | .ssamp _ f => { d := (.r1 cW), a := (.reg cV 3 1), b := (.r1 cVS), xm := 15#4, resv := lightZ f && f.eimm == 0#32 && f.ord == .rlx }
  | .samp _ f => { d := (.r1 cV), a := (.reg cV 2 1), b := (.r1 cVSZ), xm := 15#4, resv := lightZ f && f.eimm == 0#32 && f.ord == .rlx }
  | .filmacc m f => { a := (match m with | .resp => .r1 cW | .raw => .r1 cV), b := (match m with | .resp => .r1 cVS | .raw => .zero), c := (.r1 cVS), resv := lightZ f && f.eimm == 0#32 && (f.ord == .rlx || f.ord == .rel) && (f.scope == .pkg || f.scope == .pod || f.scope == .sys) }
  | .resfb m f => { a := (match m.kind with | .tex => .reg cV 2 1 | .spec => .reg cV 3 1 | _ => .r1 cV), b := (match m.kind with | .tex => .r1 cVS | _ => .zero), resv := lightZ f && f.eimm == 0#32 && f.ord == .rlx }
  | .mxalloc f => { d := (.r1 cS), b := (.r1 cSZ), resv := f.g == .always }
  | .mxfree f => { b := (.r1 cSZ), resv := f.g == .always }
  | .mxzero f => { b := (.r1 cSZ), resv := f.g == .always }
  | .mxmma m f => { a := (.r1 cS), b := (bif m.ws then .zero else .r1 cS), resv := f.g == .always && f.kb != 0#12 && spaOk f && f.rnd == .rne && (!m.ws || (f.fmtb == 0#8 && f.tdb == 0#10)) }
  | .mxvec m f => { d := (.reg cV m.n.count 1), a := (.reg cV (32 * f.kb.toNat) 1), xm := 15#4, resv := f.g == .always && f.kb != 0#12 && f.fmta != 0#8 && f.fmtb == 0#8 && f.tda == 0#10 && f.tdb == 0#10 && f.acc == 0#3 && f.spa == .glob && f.scope == .th && f.ord == .rlx }
  | .mxldw _ f => { a := (.r1 cS), resv := f.g == .always && f.kb != 0#12 && f.fmta == 0#8 && f.tda == 0#10 && f.acc == 0#3 && spaOk f && f.rnd == .rne && f.arr == .arr0 }
  | .mxlda f => { a := (.r1 cS), resv := tileResv f }
  | .mxst f => { a := (.r1 cS), resv := tileResv f }
  | .mxhad _ f => { resv := f.g == .always && f.kb == 0#12 && f.fmta == 0#8 && f.fmtb == 0#8 && f.tda == 0#10 && f.tdb == 0#10 && f.spa == .glob && f.rnd == .rne && f.scope == .th && f.ord == .rlx }
  | .mxqnt f => { a := (.r1 cS), resv := tileResv f }
  | .mxprog m f => { d := (match m with | .held => .r1 cS | .susp => .reg cS 3 1), resv := f.g == .always }
  | .pxpush _ f => { a := (.reg cS 2 2), b := (.r1 cS), resv := f.eimm == 0#32 && f.fmto == 0#8 && f.tdi == 0#10 && f.win == 0#5 && (f.space == .glob || f.space == .scratch) && (f.ord == .rlx || f.ord == .rel) }
  | .tkmrg f => { d := (.r1 cVS), a := (.r1 cVSZ), b := (.r1 cVSZ), opx := uniIf f.d f.a && uniIf f.d f.b }
  | .tkwait _ => { d := (.r1 cVP), a := (.r1 cVS) }
  | .coll m f => { xm := 15#4, resv := collResv m f }
  | .trap _ => { b := (.r1 cSZ) }
  | .svc _ => { b := (.r1 cSZ) }
  | .brk _ => {}
  | .eretRes _ => { d := (.r1 cS0), a := (.reg cS 2 2) }
  | .eretSkip _ => { d := (.r1 cS0), a := (.reg cS 2 2) }
  | .eretStep _ => { d := (.r1 cS0), a := (.reg cS 2 2) }
  | .rdsr f => { d := (.reg cS 2 2), b := (.r1 cSZ), c := (.r1 cS0), opx := selOk f }
  | .wrsr f => { a := (.reg cS 2 2), b := (.r1 cSZ), c := (.r1 cS0), opx := selOk f }
  | .tlbinvVa f => { a := (.reg cS 2 2), b := (.r1 cS), c := (.r1 cS), resv := tlbResv f }
  | .tlbinvAsid f => { a := .absent, b := (.r1 cS), c := .absent, resv := tlbResv f }
  | .tlbinvAll f => { a := .absent, b := .absent, c := .absent, resv := tlbResv f }
  | .time _ _ => { d := (.reg cVS 2 2) }
  | .energy _ _ => { d := (.reg cS 2 2) }
  | .perfrd f => { d := (.reg cS 2 2), b := (.r1 cSZ), opx := immLe f 7 }
  | .slotIssue _ _ => {}
  | .fragmentBoost _ _ => {}
  | .issueCountSwitch _ _ => {}
  | .fetchBlockArrival _ _ _ => {}
  | .resultLanding _ => {}
  | .lookaheadHoldExpiry _ _ => {}
  | .faultReport _ => {}
  | .contextFill _ => {}
  | .displacement _ => {}
  | .overflowLatchDrain _ => {}
  | .taskRipening _ => {}
  | .rdmaWrite _ _ _ _ _ => {}
  | .rdmaRead _ _ _ _ _ => {}
  | .rdmaCas _ _ _ _ _ _ => {}
  | .rdmaFaa _ _ _ _ _ => {}
  | .rdmaInvalid _ _ => {}
  | .queuePairCreate _ _ => {}
  | .queuePairDestroy _ _ => {}
  | .hostWindowWrite _ _ _ => {}
  | .tailNotice _ => {}
  | .launchRecordCopy _ => {}
  | .launchRecordCheck _ => {}
  | .waitTest _ => {}
  | .gridStart _ => {}
  | .teamPlacement _ _ => {}
  | .coResidentPlacement _ => {}
  | .teamExit _ => {}
  | .gridRetirement _ => {}
  | .mailboxWrite _ => {}
  | .triggerRecordCopy _ => {}
  | .triggerFire _ => {}
  | .triggerMissed _ => {}
  | .preemptionStart _ => {}
  | .teamSave _ => {}
  | .teamRestore _ _ => {}
  | .killTeam _ _ _ => {}
  | .killGrid _ _ => {}
  | .killContext _ => {}
  | .preemptTeam _ _ _ => {}
  | .killComplete _ => {}
  | .watchdog _ => {}
  | .machineCheck _ => {}
  | .storeQueueDrain _ => {}
  | .lineEviction _ _ _ _ => {}
  | .upgradeAnswer _ _ _ => {}
  | .slotFillComplete _ => {}
  | .slotWritebackComplete _ => {}
  | .readCountExhausted _ _ => {}
  | .hoistSegmentComplete _ _ => {}
  | .fixupReplay _ => {}
  | .fixupUnresolved _ _ => {}
  | .engineOperationRetire _ => {}
  | .streamElement _ _ => {}
  | .matrixKStep _ => {}
  | .rayResult _ _ => {}
  | .bedstoneContribution _ _ _ => {}
  | .stagedContributionApply _ => {}
  | .bolterPairVisit _ => {}
  | .bolterReclaim _ => {}
  | .remoteRequestArrival _ => {}
  | .remoteReply _ => {}
  | .replyTimeout _ => {}
  | .tokenExpiry _ _ => {}
  | .landingNotice _ _ => {}
  | .failureNotice _ _ => {}
  | .holdExpiry _ _ => {}
  | .flitResend _ => {}
  | .forwardingBufferSend _ => {}
  | .proxyElementArrival _ _ _ _ => {}
  | .proxyRefuseExpiry _ => {}
  | .closeMarkArrival _ => {}
  | .collComplete _ _ => {}
  | .collJoinTimeout _ => {}
  | .ratioChange _ _ => {}
  | .ratioChangeComplete _ => {}
  | .spareBank _ _ _ => {}
  | .bankCopyComplete _ => {}
  | .retireChannel _ _ => {}
  | .channelSwap _ => {}
  | .channelRetired _ => {}
  | .autoSparing _ _ _ => {}
  | .keyLoad _ => {}
  | .keyDestroy _ => {}
  | .keyPurgeComplete => {}
  | .apertureCtlWrite _ _ _ => {}
  | .srLeatsizeWrite _ _ => {}
  | .srWlrangeWrite _ _ => {}
  | .srFpflagsWrite _ _ => {}
  | .srHintdropClear _ => {}
  | .faultRingLostClear _ => {}
  | .tenterDropClear => {}
  | .fabricTkclr _ => {}
  | .fantailCredit _ => {}
  | .fantailMetering _ => {}
  | .monitorSample _ _ => {}
  | .monitorCapture _ => {}
  | .monitorClear _ => {}
  | .thermalLimit _ => {}
  | .thermalRecovery _ => {}
  | .thermalTrip => {}
  | .lifetimeRecordWrite _ _ => {}
  | .powerOn _ => {}
  | .powerLoss => {}
  | .imagePush _ => {}
  | .measurementExtend _ _ => {}
  | .attestationRequest _ => {}
  | .firmwareError _ => {}
  | .hostLinkDown _ => {}
  | .hostLinkRetrained _ => {}
  | .ptpCfgWrite _ => {}
  | .ptpAnnounce _ => {}
  | .ptpSync _ _ _ _ _ _ _ => {}
  | .ptpFollowUp _ _ _ _ _ => {}
  | .ptpDelayReq => {}
  | .ptpDelayResp _ _ _ _ _ _ => {}
  | .ptpSyncTimeout => {}
  | .ptpAnnounceTimeout => {}
  | .eventWaitRetest _ => {}
  | .contextCreation _ _ _ => {}

/-- The fields of an instruction in its form. -/
inductive FmtV where
  | alu (f : Alu)
  | mem (f : MemF)
  | eng (f : EngF)
  | mat (f : MatF)
  deriving DecidableEq, Repr

/-- What an instruction's words hold besides its length: opcode, FN, and the form's fields. -/
structure Parts where
  op : Nat
  fn : BitVec 10
  fmt : FmtV
  deriving DecidableEq, Repr

def FmtV.x : FmtV → BitVec 4
  | .alu f => f.x | .mem f => f.x | .eng f => f.x | .mat f => f.x
def FmtV.d : FmtV → Opnd
  | .alu f => f.d | .mem f => f.d | .eng f => f.d | .mat f => f.d
def FmtV.a : FmtV → Opnd
  | .alu f => f.a | .mem f => f.a | .eng f => f.a | .mat f => f.a
def FmtV.b : FmtV → Opnd
  | .alu f => f.b | .mem f => f.b | .eng f => f.b | .mat f => f.b
def FmtV.c : FmtV → Opnd
  | .alu f => f.c | .mem f => f.c | .eng f => f.c | .mat f => f.c
def FmtV.g : FmtV → Guard
  | .alu f => f.g | .mem f => f.g | .eng f => f.g | .mat f => f.g
def FmtV.imm : FmtV → Option Word
  | .alu f => f.imm
  | _ => none

/-- FN of an enumeration: its code. -/
def fnOf (n : Nat) : BitVec 10 := BitVec.ofNat 10 n

def Cc.code : Cc → Nat
  | .eq => 0 | .ne => 1 | .lt => 2 | .le => 3 | .gt => 4 | .ge => 5
  | .ltu => 10 | .leu => 11 | .gtu => 12 | .geu => 13
def Sgn.code : Sgn → Nat
  | .s32 => 0 | .u32 => 1
def Rnd.code : Rnd → Nat
  | .rne => 0 | .rz => 1 | .ru => 2 | .rd => 3 | .sr => 4
def Wid.code : Wid → Nat
  | .b32 => 0 | .b64 => 1
def IType.code : IType → Nat
  | .u8 => 0 | .s8 => 1 | .u16 => 2 | .s16 => 3 | .u32 => 4 | .s32 => 5
def RedOp.code : RedOp → Nat
  | .addU => 0 | .minS => 1 | .maxS => 2 | .minU => 3 | .maxU => 4 | .and => 5 | .or => 6
  | .xor => 7 | .addF => 8 | .minF => 9 | .maxF => 10
def Fcc.code : Fcc → Nat
  | .eq => 0 | .ne => 1 | .lt => 2 | .le => 3 | .gt => 4 | .ge => 5 | .ord => 6 | .uno => 7
def CvtT.code : CvtT → Nat
  | .f32 => 0 | .f16 => 1 | .bf16 => 2 | .s32 => 3 | .u32 => 4
def LdSz.code : LdSz → Nat
  | .u8 => 0 | .s8 => 1 | .u16 => 2 | .s16 => 3 | .b32 => 4 | .b64 => 5 | .b128 => 6
def StSz.code : StSz → Nat
  | .b8 => 0 | .b16 => 2 | .b32 => 4 | .b64 => 5 | .b128 => 6
def AtomOp.code : AtomOp → Nat
  | .add => 0 | .min => 1 | .max => 2 | .and => 3 | .or => 4 | .xor => 5 | .exch => 6 | .inc => 7
  | .dec => 8
def AtomT.code : AtomT → Nat
  | .u32 => 0 | .s32 => 1 | .u64 => 2 | .s64 => 3 | .b128 => 4 | .f32 => 5
def CasT.code : CasT → Nat
  | .b32 => 0 | .b64 => 2 | .b128 => 4
def FaddT.code : FaddT → Nat
  | .f32 => 0 | .f16x2 => 1 | .bf16x2 => 2
def OpClass.code : OpClass → Nat
  | .ld => 0 | .st => 1 | .tc => 2 | .mx => 3 | .ga => 4 | .co => 5 | .tx => 6
def BindKind.code : BindKind → Nat
  | .none => 0 | .pop => 1 | .push => 2 | .task => 3 | .pxpush => 4 | .pxpop => 5
def Filt.code : Filt → Nat
  | .near => 0 | .lin => 1 | .tri => 2
def AddrM.code : AddrM → Nat
  | .wrap => 0 | .clamp => 1 | .mirror => 2
def FbKind.code : FbKind → Nat
  | .tex => 0 | .spec => 1 | .tri => 2 | .node => 3
def VecN.code : VecN → Nat
  | .n16 => 0 | .n32 => 1 | .n64 => 2 | .n128 => 3
def CollOp.code : CollOp → Nat
  | .allred => 0 | .redsc => 1 | .allgat => 2 | .bcast => 3 | .red => 4
def CollComb.code : CollComb → Nat
  | .add => 0 | .min => 1 | .max => 2
def Seg.code : Seg → Nat
  | .width => 0 | .s2 => 1 | .s4 => 2 | .s8 => 3 | .s16 => 4 | .s32 => 5 | .s64 => 6
def ShflMode.code : ShflMode → Nat
  | .idx => 0 | .up => 1 | .down => 2 | .xor => 3

/-- A bit of FN. -/
def bit1 (c : Bool) (at_ : Nat) : Nat := if c then 2 ^ at_ else 0

def encCc (m : Cc) : BitVec 10 := fnOf m.code
def encBar4 (k : Nat) (m : Fin 16) : BitVec 10 := fnOf (m.val + k)
def encBar3 (k : Nat) (m : Fin 8) : BitVec 10 := fnOf (m.val + k)
def encMulhM (m : MulhM) : BitVec 10 := fnOf (match m with | .s32 => 0 | .u32 => 1 | .su => 2)
def encSgn (m : Sgn) : BitVec 10 := fnOf m.code
/-- BFE alone numbers .u32 first (07 R186). -/
def encBfe (m : Sgn) : BitVec 10 := fnOf (match m with | .u32 => 0 | .s32 => 1)
def encLeaM (m : LeaM) : BitVec 10 := fnOf (m.ext.code + 16 * m.sh.toNat)
def encFlag4 (m : Bool) : BitVec 10 := fnOf (bit1 m 4)
def encFlagFn0 (m : Bool) : BitVec 10 := fnOf (bit1 m 0)
def encAddsM (m : AddsM) : BitVec 10 := fnOf (m.ty.code + bit1 m.sub 4)
def encDir (m : Dir) : BitVec 10 := fnOf (match m with | .l => 0 | .r => 1)
def encFnlM (m : FnlM) : BitVec 10 :=
  fnOf ((match m.dir with | .l => 0 | .r => 1) + bit1 m.clamp 4)
def encWid (m : Wid) : BitVec 10 := fnOf m.code
def encCmpM (m : CmpM) : BitVec 10 := fnOf (m.cc.code + bit1 m.m 4)
def encIcvtM (m : IcvtM) : BitVec 10 := fnOf (m.dt.code + 16 * m.st.code + bit1 m.sat 7)
def encB8 (m : BitVec 8) : BitVec 10 := fnOf m.toNat
def encPmovM (m : PmovM) : BitVec 10 := fnOf (match m with | .pack => 0 | .unpack => 1)
def encUmulM (m : UmulM) : BitVec 10 := fnOf (match m with | .lo => 0 | .hiS => 1 | .hiU => 2)
def encUmadM (m : UmadM) : BitVec 10 :=
  fnOf (match m with | .lo => 0 | .wideS => 1 | .wideU => 2)
def encUshfM (m : UshfM) : BitVec 10 :=
  fnOf (match m with | .shl => 0 | .shr => 1 | .sar => 2 | .rotl => 3 | .rotr => 4)
def encShflM (m : ShflM) : BitVec 10 := fnOf (m.mode.code + 16 * m.seg.code)
def encSwapM (m : SwapM) : BitVec 10 :=
  fnOf (m.k.val + 16 * (match m.flip with | .none => 0 | .ng => 1 | .ng2 => 2))
def encVoteM (m : VoteM) : BitVec 10 := fnOf (match m with | .all => 0 | .any => 1 | .uni => 2)
def encRedOp (m : RedOp) : BitVec 10 := fnOf m.code
def encScanM (m : ScanM) : BitVec 10 := fnOf (m.op.code + bit1 m.excl 4)
def encRm (m : Rnd) : BitVec 10 := fnOf (128 * m.code)
def encFcmpM (m : FcmpM) : BitVec 10 := fnOf (m.cc.code + bit1 m.m 4)
def encFcvtM (m : FcvtM) : BitVec 10 :=
  fnOf (m.dt.code + 8 * m.st.code + bit1 m.sat 6 + 128 * m.rm.code)
def encFdot2M (m : Fdot2M) : BitVec 10 := fnOf (bit1 m.bf 0 + 128 * m.rm.code)
def encFdot4M (m : Fdot4M) : BitVec 10 := fnOf (bit1 m.a5 0 + bit1 m.b5 1 + 128 * m.rm.code)
def encLdM (m : LdM) : BitVec 10 := fnOf (m.sz.code + 128 * m.rp.toNat)
def encStM (m : StM) : BitVec 10 := fnOf (m.sz.code + 128 * m.rp.toNat)
def encRp (m : Rp) : BitVec 10 := fnOf (128 * m.toNat)
def encGathM (m : GathM) : BitVec 10 := fnOf (m.n1.toNat + 128 * m.rp.toNat)
def encCstM (m : CstM) : BitVec 10 := fnOf (4 + m.wid.code + 128 * m.rp.toNat)
def encPrefM (m : PrefM) : BitVec 10 :=
  fnOf ((match m.lvl with | .l1 => 0 | .l2 => 1 | .l3 => 2) + bit1 m.wr 2)
def encAtomM (m : AtomM) : BitVec 10 := fnOf (m.op.code + 16 * m.ty.code + 128 * m.rp.toNat)
def encCasM (m : CasM) : BitVec 10 := fnOf (16 * m.ty.code + 128 * m.rp.toNat)
def encAfaddM (m : AfaddM) : BitVec 10 := fnOf (16 * m.ty.code + 128 * m.rp.toNat)
def encCls (m : OpClass) : BitVec 10 := fnOf m.code
def encCopyDir (m : CopyDir) : BitVec 10 := fnOf (match m with | .g2s => 0 | .s2g => 1)
def encWinKind (m : WinKind) : BitVec 10 := fnOf (match m with | .touch => 0 | .recv => 1)
def encWin5 (m : BitVec 5) : BitVec 10 := fnOf (32 * m.toNat)
def encCbM (m : CbM) : BitVec 10 := fnOf (m.k.toNat + bit1 m.quad 2 + 32 * m.win.toNat)
def encStreamM (m : StreamM) : BitVec 10 := fnOf (m.q.val + bit1 m.st 4 + bit1 m.close 5)
def encFin16 (m : Fin 16) : BitVec 10 := fnOf m.val
def encQbindM (m : QbindM) : BitVec 10 := fnOf (m.q.val + 16 * m.kind.code + bit1 m.u 7)
def encTraceM (m : TraceM) : BitVec 10 := fnOf (bit1 m.task 0 + bit1 m.any 1 + bit1 m.cullb 2)
def encHitM (m : HitM) : BitVec 10 := fnOf (bit1 m.nrm 0 + 128 * m.rp.toNat)
def encSampM (m : SampM) : BitVec 10 := fnOf (m.filt.code + 4 * m.addr.code + 128 * m.rp.toNat)
def encFilmM (m : FilmM) : BitVec 10 := fnOf (match m with | .resp => 0 | .raw => 1)
def encFbM (m : FbM) : BitVec 10 := fnOf (m.kind.code + 4 * m.addr.code + bit1 m.req 4)
def encMmaM (m : MmaM) : BitVec 10 := fnOf (bit1 m.ws 0 + 2 * m.slot.toNat + bit1 m.t 4)
def encVecM (m : VecM) : BitVec 10 := fnOf (m.slot.toNat + 8 * m.n.code + bit1 m.acc 5)
def encLdwM (m : LdwM) : BitVec 10 := fnOf (m.slot.toNat + bit1 m.t 3)
def encHadM (m : HadM) : BitVec 10 :=
  fnOf ((match m.b with | .b16 => 1 | .b32 => 2 | .b64 => 3) + bit1 m.m 2)
def encProgM (m : ProgM) : BitVec 10 := fnOf (match m with | .held => 0 | .susp => 1)
def encCollM (m : CollM) : BitVec 10 := fnOf (m.op.code + 8 * m.comb.code)
def encTimeM (m : TimeM) : BitVec 10 := fnOf (match m with | .ptp => 0 | .ac => 1)
def encEnergyM (m : EnergyM) : BitVec 10 := fnOf (match m with | .ctx => 0 | .grid => 1)

/-- The major opcode of each instruction (03 R74), and its FN bits and its fields. -/
def Instr.parts : Instr → Option Parts
  | .nop f => some ⟨0x01, 0#10, .alu f⟩
  | .nopEntry f => some ⟨0x01, 1#10, .alu f⟩
  | .bra f => some ⟨0x02, 0#10, .alu f⟩
  | .brc m f => some ⟨0x03, encCc m, .alu f⟩
  | .brx f => some ⟨0x04, 0#10, .alu f⟩
  | .call f => some ⟨0x05, 0#10, .alu f⟩
  | .callx f => some ⟨0x06, 0#10, .alu f⟩
  | .ret f => some ⟨0x07, 0#10, .alu f⟩
  | .meet f => some ⟨0x08, 0#10, .alu f⟩
  | .join f => some ⟨0x09, 0#10, .alu f⟩
  | .joinf f => some ⟨0x0A, 0#10, .alu f⟩
  | .exit f => some ⟨0x0B, 0#10, .alu f⟩
  | .yield f => some ⟨0x0C, 0#10, .alu f⟩
  | .setlive f => some ⟨0x0D, 0#10, .alu f⟩
  | .launch f => some ⟨0x0E, 0#10, .alu f⟩
  | .chwait f => some ⟨0x0F, 0#10, .alu f⟩
  | .evsig f => some ⟨0x10, 0#10, .mem f⟩
  | .evwait f => some ⟨0x11, 0#10, .mem f⟩
  | .spawn f => some ⟨0x12, 0#10, .alu f⟩
  | .fetchw f => some ⟨0x13, 0#10, .alu f⟩
  | .taskadd f => some ⟨0x14, 0#10, .alu f⟩
  | .taskdone f => some ⟨0x15, 0#10, .alu f⟩
  | .bar m f => some ⟨0x16, encBar4 0 m, .alu f⟩
  | .bara m f => some ⟨0x17, encBar4 0 m, .alu f⟩
  | .barw m f => some ⟨0x18, encBar4 0 m, .alu f⟩
  | .cbar m f => some ⟨0x19, encBar3 0 m, .alu f⟩
  | .cbarArr m f => some ⟨0x19, encBar3 8 m, .alu f⟩
  | .cbarWt m f => some ⟨0x19, encBar3 16 m, .alu f⟩
  | .ticketTake m f => some ⟨0x1A, encBar4 0 m, .alu f⟩
  | .ticketGive m f => some ⟨0x1A, encBar4 16 m, .alu f⟩
  | .handoff m f => some ⟨0x1B, encBar4 0 m, .alu f⟩
  | .handwait m f => some ⟨0x1C, encBar4 0 m, .alu f⟩
  | .add f => some ⟨0x20, 0#10, .alu f⟩
  | .sub f => some ⟨0x21, 0#10, .alu f⟩
  | .mul f => some ⟨0x22, 0#10, .alu f⟩
  | .mulh m f => some ⟨0x23, encMulhM m, .alu f⟩
  | .mad f => some ⟨0x24, 0#10, .alu f⟩
  | .madw m f => some ⟨0x25, encSgn m, .alu f⟩
  | .add64 f => some ⟨0x26, 0#10, .alu f⟩
  | .sub64 f => some ⟨0x27, 0#10, .alu f⟩
  | .mad64 f => some ⟨0x28, 0#10, .alu f⟩
  | .lea m f => some ⟨0x29, encLeaM m, .alu f⟩
  | .imin m f => some ⟨0x2A, encSgn m, .alu f⟩
  | .imax m f => some ⟨0x2B, encSgn m, .alu f⟩
  | .iabs m f => some ⟨0x2C, encFlag4 m, .alu f⟩
  | .adds m f => some ⟨0x2D, encAddsM m, .alu f⟩
  | .and f => some ⟨0x2E, 0#10, .alu f⟩
  | .or f => some ⟨0x2F, 0#10, .alu f⟩
  | .xor f => some ⟨0x30, 0#10, .alu f⟩
  | .andn f => some ⟨0x31, 0#10, .alu f⟩
  | .shl f => some ⟨0x32, 0#10, .alu f⟩
  | .shr f => some ⟨0x33, 0#10, .alu f⟩
  | .sar f => some ⟨0x34, 0#10, .alu f⟩
  | .rot m f => some ⟨0x35, encDir m, .alu f⟩
  | .fnl m f => some ⟨0x36, encFnlM m, .alu f⟩
  | .bfe m f => some ⟨0x37, encBfe m, .alu f⟩
  | .bfi f => some ⟨0x38, 0#10, .alu f⟩
  | .popc m f => some ⟨0x39, encWid m, .alu f⟩
  | .clz m f => some ⟨0x3A, encWid m, .alu f⟩
  | .ctz m f => some ⟨0x3B, encWid m, .alu f⟩
  | .brev m f => some ⟨0x3C, encWid m, .alu f⟩
  | .perm f => some ⟨0x3D, 0#10, .alu f⟩
  | .sel f => some ⟨0x3E, 0#10, .alu f⟩
  | .icmp m f => some ⟨0x3F, encCmpM m, .alu f⟩
  | .icvt m f => some ⟨0x40, encIcvtM m, .alu f⟩
  | .mov f => some ⟨0x41, 0#10, .alu f⟩
  | .movi f => some ⟨0x42, 0#10, .alu f⟩
  | .plop m f => some ⟨0x43, encB8 m, .alu f⟩
  | .pmov m f => some ⟨0x44, encPmovM m, .alu f⟩
  | .uadd m f => some ⟨0x50, encWid m, .alu f⟩
  | .usub m f => some ⟨0x51, encWid m, .alu f⟩
  | .umul m f => some ⟨0x52, encUmulM m, .alu f⟩
  | .umad m f => some ⟨0x53, encUmadM m, .alu f⟩
  | .ulop m f => some ⟨0x54, encB8 m, .alu f⟩
  | .ushf m f => some ⟨0x55, encUshfM m, .alu f⟩
  | .ucmp m f => some ⟨0x56, encCmpM m, .alu f⟩
  | .umov m f => some ⟨0x57, encWid m, .alu f⟩
  | .usel f => some ⟨0x58, 0#10, .alu f⟩
  | .ulea m f => some ⟨0x59, encLeaM m, .alu f⟩
  | .rdfl m f => some ⟨0x5A, encWid m, .alu f⟩
  | .rdln m f => some ⟨0x5B, encWid m, .alu f⟩
  | .wrln m f => some ⟨0x5C, encWid m, .alu f⟩
  | .shfl m f => some ⟨0x60, encShflM m, .alu f⟩
  | .swapp m f => some ⟨0x61, encSwapM m, .alu f⟩
  | .ballot f => some ⟨0x62, 0#10, .alu f⟩
  | .vote m f => some ⟨0x63, encVoteM m, .alu f⟩
  | .gred m f => some ⟨0x64, encRedOp m, .alu f⟩
  | .gscan m f => some ⟨0x65, encScanM m, .alu f⟩
  | .match m f => some ⟨0x66, encWid m, .alu f⟩
  | .cmprs f => some ⟨0x67, 0#10, .alu f⟩
  | .expnd f => some ⟨0x68, 0#10, .alu f⟩
  | .fadd m f => some ⟨0x70, encRm m, .alu f⟩
  | .fsub m f => some ⟨0x71, encRm m, .alu f⟩
  | .fmul m f => some ⟨0x72, encRm m, .alu f⟩
  | .ffma m f => some ⟨0x73, encRm m, .alu f⟩
  | .fmin m f => some ⟨0x74, encFlag4 m, .alu f⟩
  | .fmax m f => some ⟨0x75, encFlag4 m, .alu f⟩
  | .fcmp m f => some ⟨0x76, encFcmpM m, .alu f⟩
  | .fclass f => some ⟨0x77, 0#10, .alu f⟩
  | .frcp f => some ⟨0x78, 0#10, .alu f⟩
  | .frsq f => some ⟨0x79, 0#10, .alu f⟩
  | .fsqrt m f => some ⟨0x7A, encRm m, .alu f⟩
  | .fdiv m f => some ⟨0x7B, encRm m, .alu f⟩
  | .fexp2 f => some ⟨0x7C, 0#10, .alu f⟩
  | .flog2 f => some ⟨0x7D, 0#10, .alu f⟩
  | .fsin f => some ⟨0x7E, 0#10, .alu f⟩
  | .fcos f => some ⟨0x7F, 0#10, .alu f⟩
  | .fsinpi f => some ⟨0x80, 0#10, .alu f⟩
  | .fcospi f => some ⟨0x81, 0#10, .alu f⟩
  | .fsincos f => some ⟨0x82, 0#10, .alu f⟩
  | .ftanh f => some ⟨0x83, 0#10, .alu f⟩
  | .frint m f => some ⟨0x84, encRm m, .alu f⟩
  | .ffrac f => some ⟨0x85, 0#10, .alu f⟩
  | .fldexp m f => some ⟨0x86, encRm m, .alu f⟩
  | .fcvt m f => some ⟨0x87, encFcvtM m, .alu f⟩
  | .fpack m f => some ⟨0x88, encB8 m, .alu f⟩
  | .funpk m f => some ⟨0x89, encB8 m, .alu f⟩
  | .hfma2 m f => some ⟨0x8A, encRm m, .alu f⟩
  | .hadd2 m f => some ⟨0x8B, encRm m, .alu f⟩
  | .hmul2 m f => some ⟨0x8C, encRm m, .alu f⟩
  | .bfma2 m f => some ⟨0x8D, encRm m, .alu f⟩
  | .fdot2 m f => some ⟨0x8E, encFdot2M m, .alu f⟩
  | .fdot4 m f => some ⟨0x8F, encFdot4M m, .alu f⟩
  | .fsrnd m f => some ⟨0x90, encB8 m, .alu f⟩
  | .wmov m f => some ⟨0xA0, encFlagFn0 m, .alu f⟩
  | .wadd f => some ⟨0xA1, 0#10, .alu f⟩
  | .wmul f => some ⟨0xA2, 0#10, .alu f⟩
  | .wfma f => some ⟨0xA3, 0#10, .alu f⟩
  | .wmin m f => some ⟨0xA4, encFlag4 m, .alu f⟩
  | .wmax m f => some ⟨0xA5, encFlag4 m, .alu f⟩
  | .wrcp f => some ⟨0xA6, 0#10, .alu f⟩
  | .wexpn f => some ⟨0xA7, 0#10, .alu f⟩
  | .wsum f => some ⟨0xA8, 0#10, .alu f⟩
  | .wdot f => some ⟨0xA9, 0#10, .alu f⟩
  | .wlam f => some ⟨0xAA, 0#10, .alu f⟩
  | .wlerp f => some ⟨0xAB, 0#10, .alu f⟩
  | .wcvt m f => some ⟨0xAC, encFlagFn0 m, .alu f⟩
  | .wfres m f => some ⟨0xAD, encFlagFn0 m, .alu f⟩
  | .smuel m f => some ⟨0xAE, encFlagFn0 m, .alu f⟩
  | .ld m f => some ⟨0xB0, encLdM m, .mem f⟩
  | .st m f => some ⟨0xB1, encStM m, .mem f⟩
  | .ldu m f => some ⟨0xB2, encLdM m, .mem f⟩
  | .usto m f => some ⟨0xB3, encStM m, .mem f⟩
  | .ldt m f => some ⟨0xB4, encRp m, .mem f⟩
  | .stt m f => some ⟨0xB5, encRp m, .mem f⟩
  | .gath m f => some ⟨0xB6, encGathM m, .mem f⟩
  | .scat m f => some ⟨0xB7, encGathM m, .mem f⟩
  | .cstore m f => some ⟨0xB8, encCstM m, .mem f⟩
  | .pref m f => some ⟨0xB9, encPrefM m, .mem f⟩
  | .resreq f => some ⟨0xBA, 0#10, .mem f⟩
  | .resq f => some ⟨0xBB, 0#10, .alu f⟩
  | .splook f => some ⟨0xBC, 0#10, .alu f⟩
  | .sptag f => some ⟨0xBD, 0#10, .alu f⟩
  | .spfill f => some ⟨0xBE, 0#10, .alu f⟩
  | .spevict f => some ⟨0xBF, 0#10, .alu f⟩
  | .fence f => some ⟨0xC0, 0#10, .mem f⟩
  | .cflush m f => some ⟨0xC1, encFlagFn0 m, .mem f⟩
  | .cinv f => some ⟨0xC2, 0#10, .mem f⟩
  | .atom m f => some ⟨0xC3, encAtomM m, .mem f⟩
  | .acas m f => some ⟨0xC4, encCasM m, .mem f⟩
  | .afadd m f => some ⟨0xC5, encAfaddM m, .mem f⟩
  | .afaddc m f => some ⟨0xC6, encRp m, .mem f⟩
  | .ared m f => some ⟨0xC7, encAtomM m, .mem f⟩
  | .waitc m f => some ⟨0xC8, encCls m, .alu f⟩
  | .tdset f => some ⟨0xC9, 0#10, .mem f⟩
  | .tdget f => some ⟨0xCA, 0#10, .mem f⟩
  | .tcopy m f => some ⟨0xD0, encCopyDir m, .eng f⟩
  | .tcopym f => some ⟨0xD1, 0#10, .eng f⟩
  | .windef m f => some ⟨0xD2, encWinKind m, .eng f⟩
  | .wincLr m f => some ⟨0xD3, encWin5 m, .alu f⟩
  | .cbtest m f => some ⟨0xD4, encCbM m, .alu f⟩
  | .cbwait m f => some ⟨0xD5, encCbM m, .alu f⟩
  | .stream m f => some ⟨0xD6, encStreamM m, .eng f⟩
  | .sclose m f => some ⟨0xD7, encFin16 m, .alu f⟩
  | .qstat m f => some ⟨0xD8, encFin16 m, .alu f⟩
  | .qbind m f => some ⟨0xD9, encQbindM m, .eng f⟩
  | .trace m f => some ⟨0xDA, encTraceM m, .eng f⟩
  | .hitget m f => some ⟨0xDB, encHitM m, .alu f⟩
  | .ssamp m f => some ⟨0xDC, encSampM m, .eng f⟩
  | .samp m f => some ⟨0xDD, encSampM m, .eng f⟩
  | .filmacc m f => some ⟨0xDE, encFilmM m, .eng f⟩
  | .resfb m f => some ⟨0xDF, encFbM m, .eng f⟩
  | .mxalloc f => some ⟨0xE0, 0#10, .alu f⟩
  | .mxfree f => some ⟨0xE1, 0#10, .alu f⟩
  | .mxzero f => some ⟨0xE2, 0#10, .alu f⟩
  | .mxmma m f => some ⟨0xE3, encMmaM m, .mat f⟩
  | .mxvec m f => some ⟨0xE4, encVecM m, .mat f⟩
  | .mxldw m f => some ⟨0xE5, encLdwM m, .mat f⟩
  | .mxlda f => some ⟨0xE6, 0#10, .mat f⟩
  | .mxst f => some ⟨0xE7, 0#10, .mat f⟩
  | .mxhad m f => some ⟨0xE8, encHadM m, .mat f⟩
  | .mxqnt f => some ⟨0xE9, 0#10, .mat f⟩
  | .mxprog m f => some ⟨0xEA, encProgM m, .alu f⟩
  | .pxpush m f => some ⟨0xF0, encFin16 m, .eng f⟩
  | .tkmrg f => some ⟨0xF1, 0#10, .alu f⟩
  | .tkwait f => some ⟨0xF2, 0#10, .alu f⟩
  | .coll m f => some ⟨0xF3, encCollM m, .eng f⟩
  | .trap f => some ⟨0xF4, 0#10, .alu f⟩
  | .svc f => some ⟨0xF9, 0#10, .alu f⟩
  | .brk f => some ⟨0xF5, 0#10, .alu f⟩
  | .eretRes f => some ⟨0xF6, 0#10, .alu f⟩
  | .eretSkip f => some ⟨0xF6, 1#10, .alu f⟩
  | .eretStep f => some ⟨0xF6, 2#10, .alu f⟩
  | .rdsr f => some ⟨0xF7, 0#10, .alu f⟩
  | .wrsr f => some ⟨0xF8, 0#10, .alu f⟩
  | .tlbinvVa f => some ⟨0xFA, 0#10, .mem f⟩
  | .tlbinvAsid f => some ⟨0xFA, 1#10, .mem f⟩
  | .tlbinvAll f => some ⟨0xFA, 2#10, .mem f⟩
  | .time m f => some ⟨0xFB, encTimeM m, .alu f⟩
  | .energy m f => some ⟨0xFC, encEnergyM m, .alu f⟩
  | .perfrd f => some ⟨0xFD, 0#10, .alu f⟩
  | .slotIssue _ _ => none
  | .fragmentBoost _ _ => none
  | .issueCountSwitch _ _ => none
  | .fetchBlockArrival _ _ _ => none
  | .resultLanding _ => none
  | .lookaheadHoldExpiry _ _ => none
  | .faultReport _ => none
  | .contextFill _ => none
  | .displacement _ => none
  | .overflowLatchDrain _ => none
  | .taskRipening _ => none
  | .rdmaWrite _ _ _ _ _ => none
  | .rdmaRead _ _ _ _ _ => none
  | .rdmaCas _ _ _ _ _ _ => none
  | .rdmaFaa _ _ _ _ _ => none
  | .rdmaInvalid _ _ => none
  | .queuePairCreate _ _ => none
  | .queuePairDestroy _ _ => none
  | .hostWindowWrite _ _ _ => none
  | .tailNotice _ => none
  | .launchRecordCopy _ => none
  | .launchRecordCheck _ => none
  | .waitTest _ => none
  | .gridStart _ => none
  | .teamPlacement _ _ => none
  | .coResidentPlacement _ => none
  | .teamExit _ => none
  | .gridRetirement _ => none
  | .mailboxWrite _ => none
  | .triggerRecordCopy _ => none
  | .triggerFire _ => none
  | .triggerMissed _ => none
  | .preemptionStart _ => none
  | .teamSave _ => none
  | .teamRestore _ _ => none
  | .killTeam _ _ _ => none
  | .killGrid _ _ => none
  | .killContext _ => none
  | .preemptTeam _ _ _ => none
  | .killComplete _ => none
  | .watchdog _ => none
  | .machineCheck _ => none
  | .storeQueueDrain _ => none
  | .lineEviction _ _ _ _ => none
  | .upgradeAnswer _ _ _ => none
  | .slotFillComplete _ => none
  | .slotWritebackComplete _ => none
  | .readCountExhausted _ _ => none
  | .hoistSegmentComplete _ _ => none
  | .fixupReplay _ => none
  | .fixupUnresolved _ _ => none
  | .engineOperationRetire _ => none
  | .streamElement _ _ => none
  | .matrixKStep _ => none
  | .rayResult _ _ => none
  | .bedstoneContribution _ _ _ => none
  | .stagedContributionApply _ => none
  | .bolterPairVisit _ => none
  | .bolterReclaim _ => none
  | .remoteRequestArrival _ => none
  | .remoteReply _ => none
  | .replyTimeout _ => none
  | .tokenExpiry _ _ => none
  | .landingNotice _ _ => none
  | .failureNotice _ _ => none
  | .holdExpiry _ _ => none
  | .flitResend _ => none
  | .forwardingBufferSend _ => none
  | .proxyElementArrival _ _ _ _ => none
  | .proxyRefuseExpiry _ => none
  | .closeMarkArrival _ => none
  | .collComplete _ _ => none
  | .collJoinTimeout _ => none
  | .ratioChange _ _ => none
  | .ratioChangeComplete _ => none
  | .spareBank _ _ _ => none
  | .bankCopyComplete _ => none
  | .retireChannel _ _ => none
  | .channelSwap _ => none
  | .channelRetired _ => none
  | .autoSparing _ _ _ => none
  | .keyLoad _ => none
  | .keyDestroy _ => none
  | .keyPurgeComplete => none
  | .apertureCtlWrite _ _ _ => none
  | .srLeatsizeWrite _ _ => none
  | .srWlrangeWrite _ _ => none
  | .srFpflagsWrite _ _ => none
  | .srHintdropClear _ => none
  | .faultRingLostClear _ => none
  | .tenterDropClear => none
  | .fabricTkclr _ => none
  | .fantailCredit _ => none
  | .fantailMetering _ => none
  | .monitorSample _ _ => none
  | .monitorCapture _ => none
  | .monitorClear _ => none
  | .thermalLimit _ => none
  | .thermalRecovery _ => none
  | .thermalTrip => none
  | .lifetimeRecordWrite _ _ => none
  | .powerOn _ => none
  | .powerLoss => none
  | .imagePush _ => none
  | .measurementExtend _ _ => none
  | .attestationRequest _ => none
  | .firmwareError _ => none
  | .hostLinkDown _ => none
  | .hostLinkRetrained _ => none
  | .ptpCfgWrite _ => none
  | .ptpAnnounce _ => none
  | .ptpSync _ _ _ _ _ _ _ => none
  | .ptpFollowUp _ _ _ _ _ => none
  | .ptpDelayReq => none
  | .ptpDelayResp _ _ _ _ _ _ => none
  | .ptpSyncTimeout => none
  | .ptpAnnounceTimeout => none
  | .eventWaitRetest _ => none
  | .contextCreation _ _ _ => none

/-- The pairs of types FCVT converts between: not both integers, and `.sat` only to a floating type
(08 R216). -/
def cvtPairOk (dt st : CvtT) (sat : Bool) : Bool :=
  let int := fun t => t == CvtT.s32 || t == CvtT.u32
  !(int dt && int st) && !(sat && int dt)

/-- The modifiers themselves form a function the entry has: the pairs of ATOM and ARED (10 R276),
FCVT's types (08 R216), SSAMP's filters (14 R354), RESFB's address mode (14 R354), MXMMA's slot and .t (13 R334). -/
def Instr.modOk : Instr → Bool
  | .atom m _ => atomOk m.op m.ty
  | .ared m _ => aredOk m.op m.ty
  | .fcvt m _ => cvtPairOk m.dt m.st m.sat
  | .ssamp m _ => m.filt != .tri
  | .resfb m _ => m.kind == .tex || m.addr == .wrap
  | .mxmma m _ => if m.ws then !m.t else m.slot == 0#3
  | _ => true

/-- Every register of a queue operand is named once (03 R60). -/
def queuesOnce (l : List Opnd) : Bool :=
  let qs := l.filterMap fun o => match o with | .q r => some r.val | _ => none
  decide qs.Nodup

/-- Check 6 of 03 R63: every reserved field holds 0 or a defined code. -/
def resvOk (ds : Desc) (f : FmtV) : Bool :=
  ds.resv && (f.x &&& ~~~ds.xm) == 0#4
    && ds.d.resvOk f.d && ds.a.resvOk f.a
    && (match f.imm, ds.immK with
        | some _, .b | some _, .bad => f.b == .sp .zero
        | some w, .bz => f.b == .sp .zero && w == 0#32
        | _, _ => ds.b.resvOk f.b)
    && (match f.imm, ds.immK with
        | some _, .c => f.c == .sp .zero
        | _, _ => ds.c.resvOk f.c)

/-- Check 7 of 03 R63: every operand is accepted, within budget and named once. -/
def opndsOk (ds : Desc) (vb ub : Nat) (f : FmtV) : Bool :=
  ds.opx && ds.d.opndOk vb ub f.d && ds.a.opndOk vb ub f.a
    && (match f.imm, ds.immK with
        | some _, .b | some _, .bz => true
        | some _, .bad => false
        | _, _ => ds.b.opndOk vb ub f.b)
    && (match f.imm, ds.immK with
        | some _, .c => true
        | _, _ => ds.c.opndOk vb ub f.c)
    && queuesOnce [f.d, f.a, f.b, f.c]

/-- The lengths and forms of 03 R75. -/
inductive Form where
  | o64 | o96 | both | mem | eng | mat
  deriving DecidableEq, Repr

/-- Whether the fields have a length the opcode accepts (03 R75). -/
def Form.accepts : Form → FmtV → Bool
  | .o64, .alu f => f.imm.isNone
  | .o96, .alu f => f.imm.isSome
  | .both, .alu _ => true
  | .mem, .mem _ => true
  | .eng, .eng _ => true
  | .mat, .mat _ => true
  | _, _ => false

end Sys2Proof
end

