-- ==== Sys2Proof/Decode.lean ====
section
/-! DEFINITION. The decoder (03 R61 to R77 and each entry's encoding), total on every list of bytes
and refusing by name in the order of R63; the encoder after it; and `WellFormed`. -/

namespace Sys2Proof

/-- Why a word is no instruction (03 R63, checks 2 to 7). -/
inductive DecErr where
  | reservedLength
  | fetchStraddle
  | illegalOpcode
  | privilegedOp
  | reservedField
  | illegalOperand
  /-- fewer bytes than the length asks for -/
  | short
  deriving DecidableEq, Repr

/-- What the FN bits of an entry give: a function, no function (ILLEGAL_OPCODE), or a function with
an unassigned modifier bit or field value (RESERVED_FIELD) (03 R67). -/
inductive BRes (α : Type) where
  | ok (x : α)
  | badOp
  | badField
  deriving DecidableEq, Repr

def BRes.map {α β : Type} (f : α → β) : BRes α → BRes β
  | .ok x => .ok (f x)
  | .badOp => .badOp
  | .badField => .badField

/-- A minor function, absent for ILLEGAL_OPCODE, beside modifier values, absent for RESERVED_FIELD. -/
def two {α β γ : Type} (x : Option α) (y : Option β) (f : α → β → γ) : BRes γ :=
  match x, y with
  | none, _ => .badOp
  | some _, none => .badField
  | some a, some b => .ok (f a b)

/-- FN names one of the listed values; any other value names no function. -/
def pick {α : Type} (fn : BitVec 10) (l : List (Nat × α)) : BRes α :=
  match l.find? fun e => e.1 == fn.toNat with
  | some e => .ok e.2
  | none => .badOp

/-- An entry without a minor function: FN must be 0, or RESERVED_FIELD. -/
def plainF {α : Type} (fn : BitVec 10) (x : α) : BRes α :=
  if fn = 0#10 then .ok x else .badField

/-- An entry with the one minor function 0 in FN[3:0] (07 R182, 08 R203, 10 R260). -/
def plainM {α : Type} (fn : BitVec 10) (x : α) : BRes α :=
  two (if fn.toNat % 16 = 0 then some () else none) (if fn.toNat / 16 = 0 then some () else none)
    fun _ _ => x

/-- FN[3:0] by a table, FN[9:4] zero. -/
def minor4 {α : Type} (fn : BitVec 10) (k : Nat → Option α) : BRes α :=
  two (k (fn.toNat % 16)) (if fn.toNat / 16 = 0 then some () else none) fun m _ => m

def optIf {α : Type} (c : Bool) (x : α) : Option α := if c then some x else none

def ccOf : Nat → Option Cc
  | 0 => some .eq | 1 => some .ne | 2 => some .lt | 3 => some .le | 4 => some .gt | 5 => some .ge
  | 10 => some .ltu | 11 => some .leu | 12 => some .gtu | 13 => some .geu | _ => none
def sgnOf : Nat → Option Sgn
  | 0 => some .s32 | 1 => some .u32 | _ => none
def rndOf : Nat → Option Rnd
  | 0 => some .rne | 1 => some .rz | 2 => some .ru | 3 => some .rd | 4 => some .sr | _ => none
def widOf : Nat → Option Wid
  | 0 => some .b32 | 1 => some .b64 | _ => none
def dirOf : Nat → Option Dir
  | 0 => some .l | 1 => some .r | _ => none
def itypeOf : Nat → Option IType
  | 0 => some .u8 | 1 => some .s8 | 2 => some .u16 | 3 => some .s16 | 4 => some .u32
  | 5 => some .s32 | _ => none
def redOpOf : Nat → Option RedOp
  | 0 => some .addU | 1 => some .minS | 2 => some .maxS | 3 => some .minU | 4 => some .maxU
  | 5 => some .and | 6 => some .or | 7 => some .xor | 8 => some .addF | 9 => some .minF
  | 10 => some .maxF | _ => none
def fccOf : Nat → Option Fcc
  | 0 => some .eq | 1 => some .ne | 2 => some .lt | 3 => some .le | 4 => some .gt | 5 => some .ge
  | 6 => some .ord | 7 => some .uno | _ => none
def cvtOf : Nat → Option CvtT
  | 0 => some .f32 | 1 => some .f16 | 2 => some .bf16 | 3 => some .s32 | 4 => some .u32 | _ => none
def ldSzOf : Nat → Option LdSz
  | 0 => some .u8 | 1 => some .s8 | 2 => some .u16 | 3 => some .s16 | 4 => some .b32
  | 5 => some .b64 | 6 => some .b128 | _ => none
def stSzOf : Nat → Option StSz
  | 0 => some .b8 | 2 => some .b16 | 4 => some .b32 | 5 => some .b64 | 6 => some .b128 | _ => none
def atomOpOf : Nat → Option AtomOp
  | 0 => some .add | 1 => some .min | 2 => some .max | 3 => some .and | 4 => some .or
  | 5 => some .xor | 6 => some .exch | 7 => some .inc | 8 => some .dec | _ => none
def atomTOf : Nat → Option AtomT
  | 0 => some .u32 | 1 => some .s32 | 2 => some .u64 | 3 => some .s64 | 4 => some .b128
  | 5 => some .f32 | _ => none
def clsOf : Nat → Option OpClass
  | 0 => some .ld | 1 => some .st | 2 => some .tc | 3 => some .mx | 4 => some .ga | 5 => some .co
  | 6 => some .tx | _ => none
def bindOf : Nat → Option BindKind
  | 0 => some .none | 1 => some .pop | 2 => some .push | 3 => some .task | 4 => some .pxpush
  | 5 => some .pxpop | _ => none
def filtOf : Nat → Option Filt
  | 0 => some .near | 1 => some .lin | 2 => some .tri | _ => none
def addrOf : Nat → Option AddrM
  | 0 => some .wrap | 1 => some .clamp | 2 => some .mirror | _ => none
def fbKindOf : Nat → Option FbKind
  | 0 => some .tex | 1 => some .spec | 2 => some .tri | 3 => some .node | _ => none
def vecNOf : Nat → Option VecN
  | 0 => some .n16 | 1 => some .n32 | 2 => some .n64 | 3 => some .n128 | _ => none
def collOpOf : Nat → Option CollOp
  | 0 => some .allred | 1 => some .redsc | 2 => some .allgat | 3 => some .bcast | 4 => some .red
  | _ => none
def collCombOf : Nat → Option CollComb
  | 0 => some .add | 1 => some .min | 2 => some .max | _ => none
def segOf : Nat → Option Seg
  | 0 => some .width | 1 => some .s2 | 2 => some .s4 | 3 => some .s8 | 4 => some .s16
  | 5 => some .s32 | 6 => some .s64 | _ => none
def modeOf : Nat → Option ShflMode
  | 0 => some .idx | 1 => some .up | 2 => some .down | 3 => some .xor | _ => none
def flipOf : Nat → Option Flip
  | 0 => some .none | 1 => some .ng | 2 => some .ng2 | _ => none

def finOf (k n : Nat) (h : 0 < k) : Fin k := ⟨n % k, Nat.mod_lt n h⟩
def rpOf (fn : BitVec 10) : Rp := BitVec.ofNat 3 (fn.toNat / 128)

def decCc (fn : BitVec 10) : BRes Cc := minor4 fn ccOf
/-- FN[3:0] is a barrier, sequence or chain; every other bit as the entry's constant (16 R389). -/
def decBar4 (k : Nat) (fn : BitVec 10) : BRes (Fin 16) :=
  if fn.toNat / 16 = k then .ok (finOf 16 fn.toNat (by decide)) else .badField
def decCbar (fn : BitVec 10) (f : Alu) : BRes Instr :=
  let n := finOf 8 fn.toNat (by decide)
  match fn.toNat / 8 with
  | 0 => .ok (.cbar n f)
  | 1 => .ok (.cbarArr n f)
  | 2 => .ok (.cbarWt n f)
  | _ => .badField
def decTicket (fn : BitVec 10) (f : Alu) : BRes Instr :=
  let n := finOf 16 fn.toNat (by decide)
  match fn.toNat / 16 with
  | 0 => .ok (.ticketTake n f)
  | 1 => .ok (.ticketGive n f)
  | _ => .badField
def decTlb (fn : BitVec 10) (f : MemF) : BRes Instr :=
  let k : Option Instr := match fn.toNat % 4 with
    | 0 => some (.tlbinvVa f)
    | 1 => some (.tlbinvAsid f)
    | 2 => some (.tlbinvAll f)
    | _ => none
  two k (optIf (fn.toNat / 4 == 0) ()) fun i _ => i
def decMulhM (fn : BitVec 10) : BRes MulhM :=
  minor4 fn fun n => match n with | 0 => some .s32 | 1 => some .u32 | 2 => some .su | _ => none
def decSgn (fn : BitVec 10) : BRes Sgn := minor4 fn sgnOf
/-- BFE alone numbers .u32 first (07 R186). -/
def decBfe (fn : BitVec 10) : BRes Sgn :=
  minor4 fn fun n => match n with | 0 => some .u32 | 1 => some .s32 | _ => none
def decLeaM (fn : BitVec 10) : BRes LeaM :=
  two (sgnOf (fn.toNat % 16)) (optIf (fn.toNat / 256 == 0) (BitVec.ofNat 4 (fn.toNat / 16)))
    fun e s => { ext := e, sh := s }
/-- FN[3:0] zero, FN[4] a flag. -/
def decFlag4 (fn : BitVec 10) : BRes Bool :=
  two (optIf (fn.toNat % 16 == 0) ()) (optIf (fn.toNat / 32 == 0) (fn.getLsbD 4)) fun _ b => b
/-- FN[3:0] is 0 or 1. -/
def decFlagFn0 (fn : BitVec 10) : BRes Bool :=
  minor4 fn fun n => match n with | 0 => some false | 1 => some true | _ => none
def decInv (fn : BitVec 10) : BRes Bool := decFlagFn0 fn
def decAddsM (fn : BitVec 10) : BRes AddsM :=
  two (sgnOf (fn.toNat % 16)) (optIf (fn.toNat / 32 == 0) (fn.getLsbD 4))
    fun t s => { ty := t, sub := s }
def decDir (fn : BitVec 10) : BRes Dir := minor4 fn dirOf
def decFnlM (fn : BitVec 10) : BRes FnlM :=
  two (dirOf (fn.toNat % 16)) (optIf (fn.toNat / 32 == 0) (fn.getLsbD 4))
    fun d c => { dir := d, clamp := c }
def decWid (fn : BitVec 10) : BRes Wid := minor4 fn widOf
def decCmpM (fn : BitVec 10) : BRes CmpM :=
  two (ccOf (fn.toNat % 16)) (optIf (fn.toNat / 32 == 0) (fn.getLsbD 4))
    fun c m => { cc := c, m := m }
def decIcvtM (fn : BitVec 10) : BRes IcvtM :=
  two (itypeOf (fn.toNat % 16))
    (match itypeOf (fn.toNat / 16 % 8) with
      | some s => optIf (fn.toNat / 256 == 0) s
      | none => none)
    fun d s => { dt := d, st := s, sat := fn.getLsbD 7 }
def decB8 (fn : BitVec 10) : BRes (BitVec 8) :=
  if fn.toNat / 256 = 0 then .ok (BitVec.ofNat 8 fn.toNat) else .badField
def decPmovM (fn : BitVec 10) : BRes PmovM :=
  minor4 fn fun n => match n with | 0 => some .pack | 1 => some .unpack | _ => none
def decUmulM (fn : BitVec 10) : BRes UmulM :=
  minor4 fn fun n => match n with | 0 => some .lo | 1 => some .hiS | 2 => some .hiU | _ => none
def decUmadM (fn : BitVec 10) : BRes UmadM :=
  minor4 fn fun n => match n with | 0 => some .lo | 1 => some .wideS | 2 => some .wideU | _ => none
def decUshfM (fn : BitVec 10) : BRes UshfM :=
  minor4 fn fun n => match n with
    | 0 => some .shl | 1 => some .shr | 2 => some .sar | 3 => some .rotl | 4 => some .rotr
    | _ => none
def decShflM (fn : BitVec 10) : BRes ShflM :=
  two (modeOf (fn.toNat % 16))
    (match segOf (fn.toNat / 16 % 8) with
      | some s => optIf (fn.toNat / 128 == 0) s
      | none => none)
    fun m s => { mode := m, seg := s }
def decSwapM (fn : BitVec 10) : BRes SwapM :=
  two (optIf (decide (fn.toNat % 16 < 6)) (finOf 6 (fn.toNat % 16) (by decide)))
    (match flipOf (fn.toNat / 16 % 4) with
      | some s => optIf (fn.toNat / 64 == 0) s
      | none => none)
    fun k s => { k := k, flip := s }
def decVoteM (fn : BitVec 10) : BRes VoteM :=
  minor4 fn fun n => match n with | 0 => some .all | 1 => some .any | 2 => some .uni | _ => none
def decRedOp (fn : BitVec 10) : BRes RedOp := minor4 fn redOpOf
def decScanM (fn : BitVec 10) : BRes ScanM :=
  two (redOpOf (fn.toNat % 16)) (optIf (fn.toNat / 32 == 0) (fn.getLsbD 4))
    fun o e => { op := o, excl := e }
/-- RM in FN[9:7], the rest zero (08 R203). -/
def decRm (fn : BitVec 10) : BRes Rnd :=
  two (optIf (fn.toNat % 16 == 0) ())
    (match rndOf (fn.toNat / 128) with
      | some r => optIf (fn.toNat / 16 % 8 == 0) r
      | none => none)
    fun _ r => r
def decFcmpM (fn : BitVec 10) : BRes FcmpM :=
  two (fccOf (fn.toNat % 16)) (optIf (fn.toNat / 32 == 0) (fn.getLsbD 4))
    fun c m => { cc := c, m := m }
/-- FCVT's fields, then the combinations it refuses (08 R216). -/
def decFcvtM (fn : BitVec 10) : BRes FcvtM :=
  if fn.getLsbD 6 && (fn.toNat % 8 = 3 || fn.toNat % 8 = 4) then .badOp else
  match cvtOf (fn.toNat % 8), cvtOf (fn.toNat / 8 % 8), rndOf (fn.toNat / 128) with
  | some d, some s, r =>
    if cvtPairOk d s (fn.getLsbD 6) then
      match r with
      | some rm => .ok { dt := d, st := s, sat := fn.getLsbD 6, rm := rm }
      | none => .badField
    else .badOp
  | _, _, _ => .badField
def decFdot2M (fn : BitVec 10) : BRes Fdot2M :=
  match rndOf (fn.toNat / 128) with
  | some r => if fn.toNat / 2 % 64 = 0 then .ok { bf := fn.getLsbD 0, rm := r } else .badField
  | none => .badField
def decFdot4M (fn : BitVec 10) : BRes Fdot4M :=
  match rndOf (fn.toNat / 128) with
  | some r =>
    if fn.toNat / 4 % 32 = 0 then .ok { a5 := fn.getLsbD 0, b5 := fn.getLsbD 1, rm := r }
    else .badField
  | none => .badField
/-- FN[3:0] by a table, FN[6:4] zero, FN[9:7] the residency predicate (10 R260). -/
def memMinor {α β : Type} (fn : BitVec 10) (k : Nat → Option α) (f : α → Rp → β) : BRes β :=
  two (k (fn.toNat % 16)) (optIf (fn.toNat / 16 % 8 == 0) (rpOf fn)) f
def decLdM (fn : BitVec 10) : BRes LdM := memMinor fn ldSzOf fun s r => { rp := r, sz := s }
def decStM (fn : BitVec 10) : BRes StM := memMinor fn stSzOf fun s r => { rp := r, sz := s }
def decRp (fn : BitVec 10) : BRes Rp :=
  memMinor fn (fun n => optIf (n == 0) ()) fun _ r => r
def decGathM (fn : BitVec 10) : BRes GathM :=
  memMinor fn (fun n => some (BitVec.ofNat 4 n)) fun n r => { rp := r, n1 := n }
def decCstM (fn : BitVec 10) : BRes CstM :=
  memMinor fn (fun n => match n with | 4 => some Wid.b32 | 5 => some Wid.b64 | _ => none)
    fun w r => { rp := r, wid := w }
def decPrefM (fn : BitVec 10) : BRes PrefM :=
  two (optIf (fn.toNat % 16 < 8) ())
    (match fn.toNat % 4 with
      | 0 => optIf (fn.toNat / 16 == 0) PrefL.l1
      | 1 => optIf (fn.toNat / 16 == 0) PrefL.l2
      | 2 => optIf (fn.toNat / 16 == 0) PrefL.l3
      | _ => none)
    fun _ l => { lvl := l, wr := fn.getLsbD 2 }
/-- The type codes 6 and 7 are unassigned; a defined type that the operation does not have names no
function (10 R276). -/
def atomic {α β : Type} (fn : BitVec 10) (o : Option α) (f : α → AtomT → Option β) : BRes β :=
  match o with
  | none => .badOp
  | some a =>
    match atomTOf (fn.toNat / 16 % 8) with
    | none => .badField
    | some t => match f a t with
      | some b => .ok b
      | none => .badOp
def decAtomM (ok : AtomOp → AtomT → Bool) (fn : BitVec 10) : BRes AtomM :=
  atomic fn (atomOpOf (fn.toNat % 16)) fun o t => optIf (ok o t) { rp := rpOf fn, op := o, ty := t }
def decCasM (fn : BitVec 10) : BRes CasM :=
  atomic fn (optIf (fn.toNat % 16 == 0) ()) fun _ t =>
    match t with
    | .u32 => some { rp := rpOf fn, ty := .b32 }
    | .u64 => some { rp := rpOf fn, ty := .b64 }
    | .b128 => some { rp := rpOf fn, ty := .b128 }
    | _ => none
def decAfaddM (fn : BitVec 10) : BRes AfaddM :=
  atomic fn (optIf (fn.toNat % 16 == 0) ()) fun _ t =>
    match t with
    | .u32 => some { rp := rpOf fn, ty := .f32 }
    | .s32 => some { rp := rpOf fn, ty := .f16x2 }
    | .u64 => some { rp := rpOf fn, ty := .bf16x2 }
    | _ => none
/-- AFADDC has the one type code 0: another defined one names no function (10 R276). -/
def decAfaddc (fn : BitVec 10) : BRes Rp :=
  atomic fn (optIf (fn.toNat % 16 == 0) ()) fun _ t => optIf (t == .u32) (rpOf fn)
/-- The counter class in FN[2:0]; class 111 and a bit above are RESERVED_FIELD (10 R280). -/
def decCls (fn : BitVec 10) : BRes OpClass :=
  match clsOf fn.toNat with
  | some c => .ok c
  | none => .badField
/-- One flag in FN[0], the rest zero (12 R310). -/
def flag0 {α : Type} (fn : BitVec 10) (a b : α) : BRes α :=
  match fn.toNat with
  | 0 => .ok a
  | 1 => .ok b
  | _ => .badField
def decCopyDir (fn : BitVec 10) : BRes CopyDir := flag0 fn .g2s .s2g
def decWinKind (fn : BitVec 10) : BRes WinKind := flag0 fn .touch .recv
def decFilmM (fn : BitVec 10) : BRes FilmM := flag0 fn .resp .raw
def decWin5 (fn : BitVec 10) : BRes (BitVec 5) :=
  if fn.toNat % 32 = 0 then .ok (BitVec.ofNat 5 (fn.toNat / 32)) else .badField
def decCbM (fn : BitVec 10) : BRes CbM :=
  if fn.toNat / 8 % 4 = 0 then
    .ok { win := BitVec.ofNat 5 (fn.toNat / 32), quad := fn.getLsbD 2, k := BitVec.ofNat 2 fn.toNat }
  else .badField
def decStreamM (fn : BitVec 10) : BRes StreamM :=
  if fn.toNat / 64 = 0 then
    .ok { q := finOf 16 fn.toNat (by decide), st := fn.getLsbD 4, close := fn.getLsbD 5 }
  else .badField
def decFin16 (fn : BitVec 10) : BRes (Fin 16) :=
  if fn.toNat / 16 = 0 then .ok (finOf 16 fn.toNat (by decide)) else .badField
def decQbindM (fn : BitVec 10) : BRes QbindM :=
  two (bindOf (fn.toNat / 16 % 8)) (optIf (fn.toNat / 256 == 0) ()) fun k _ =>
    { q := finOf 16 fn.toNat (by decide), kind := k, u := fn.getLsbD 7 }
def decTraceM (fn : BitVec 10) : BRes TraceM :=
  if fn.toNat / 8 = 0 then
    .ok { task := fn.getLsbD 0, any := fn.getLsbD 1, cullb := fn.getLsbD 2 }
  else .badField
def decHitM (fn : BitVec 10) : BRes HitM :=
  if fn.toNat / 2 % 64 = 0 then .ok { nrm := fn.getLsbD 0, rp := rpOf fn } else .badField
def decSampM (fn : BitVec 10) : BRes SampM :=
  match filtOf (fn.toNat % 4), addrOf (fn.toNat / 4 % 4) with
  | some f, some a =>
    if fn.toNat / 16 % 8 = 0 then .ok { filt := f, addr := a, rp := rpOf fn } else .badField
  | _, _ => .badField
def decFbM (fn : BitVec 10) : BRes FbM :=
  match fbKindOf (fn.toNat % 4), addrOf (fn.toNat / 4 % 4) with
  | some k, some a =>
    if fn.toNat / 32 = 0 && (k == .tex || a == .wrap) then
      .ok { kind := k, addr := a, req := fn.getLsbD 4 }
    else .badField
  | _, _ => .badField
def decMmaM (fn : BitVec 10) : BRes MmaM :=
  let m : MmaM :=
    { ws := fn.getLsbD 0, slot := BitVec.ofNat 3 (fn.toNat / 2), t := fn.getLsbD 4 }
  if fn.toNat / 32 = 0 && (if m.ws then !m.t else m.slot == 0#3) then .ok m else .badField
def decVecM (fn : BitVec 10) : BRes VecM :=
  match vecNOf (fn.toNat / 8 % 4) with
  | some n =>
    if fn.toNat / 64 = 0 then
      .ok { slot := BitVec.ofNat 3 fn.toNat, n := n, acc := fn.getLsbD 5 }
    else .badField
  | none => .badField
def decLdwM (fn : BitVec 10) : BRes LdwM :=
  if fn.toNat / 16 = 0 then .ok { slot := BitVec.ofNat 3 fn.toNat, t := fn.getLsbD 3 }
  else .badField
def decHadM (fn : BitVec 10) : BRes HadM :=
  let b : Option HadB := match fn.toNat % 4 with
    | 1 => some .b16 | 2 => some .b32 | 3 => some .b64 | _ => none
  match b with
  | some b => if fn.toNat / 8 = 0 then .ok { b := b, m := fn.getLsbD 2 } else .badField
  | none => .badField
def decCollM (fn : BitVec 10) : BRes CollM :=
  two (collOpOf (fn.toNat % 8))
    (match collCombOf (fn.toNat / 8 % 8) with
      | some c => optIf (fn.toNat / 64 == 0) c
      | none => none)
    fun o c => { op := o, comb := c }

/-- The lengths and the form each assigned opcode accepts (03 R74, R75). -/
def opForm : Nat → Option Form
  | 0x01 => some .o64
  | 0x02 => some .o96
  | 0x03 => some .o96
  | 0x04 => some .o64
  | 0x05 => some .o96
  | 0x06 => some .o64
  | 0x07 => some .o64
  | 0x08 => some .o96
  | 0x09 => some .o64
  | 0x0A => some .o64
  | 0x0B => some .o64
  | 0x0C => some .o64
  | 0x0D => some .both
  | 0x0E => some .o64
  | 0x0F => some .o64
  | 0x10 => some .mem
  | 0x11 => some .mem
  | 0x12 => some .both
  | 0x13 => some .o64
  | 0x14 => some .both
  | 0x15 => some .o64
  | 0x16 => some .both
  | 0x17 => some .both
  | 0x18 => some .both
  | 0x19 => some .both
  | 0x1A => some .o64
  | 0x1B => some .o64
  | 0x1C => some .o64
  | 0x20 => some .both
  | 0x21 => some .both
  | 0x22 => some .both
  | 0x23 => some .both
  | 0x24 => some .both
  | 0x25 => some .both
  | 0x26 => some .both
  | 0x27 => some .both
  | 0x28 => some .both
  | 0x29 => some .both
  | 0x2A => some .both
  | 0x2B => some .both
  | 0x2C => some .both
  | 0x2D => some .both
  | 0x2E => some .both
  | 0x2F => some .both
  | 0x30 => some .both
  | 0x31 => some .both
  | 0x32 => some .both
  | 0x33 => some .both
  | 0x34 => some .both
  | 0x35 => some .both
  | 0x36 => some .both
  | 0x37 => some .both
  | 0x38 => some .both
  | 0x39 => some .both
  | 0x3A => some .both
  | 0x3B => some .both
  | 0x3C => some .both
  | 0x3D => some .both
  | 0x3E => some .both
  | 0x3F => some .both
  | 0x40 => some .both
  | 0x41 => some .both
  | 0x42 => some .o96
  | 0x43 => some .both
  | 0x44 => some .both
  | 0x50 => some .both
  | 0x51 => some .both
  | 0x52 => some .both
  | 0x53 => some .both
  | 0x54 => some .both
  | 0x55 => some .both
  | 0x56 => some .both
  | 0x57 => some .both
  | 0x58 => some .both
  | 0x59 => some .both
  | 0x5A => some .both
  | 0x5B => some .both
  | 0x5C => some .both
  | 0x60 => some .o64
  | 0x61 => some .o64
  | 0x62 => some .o64
  | 0x63 => some .o64
  | 0x64 => some .o64
  | 0x65 => some .o64
  | 0x66 => some .o64
  | 0x67 => some .o64
  | 0x68 => some .o64
  | 0x70 => some .both
  | 0x71 => some .both
  | 0x72 => some .both
  | 0x73 => some .both
  | 0x74 => some .both
  | 0x75 => some .both
  | 0x76 => some .both
  | 0x77 => some .both
  | 0x78 => some .both
  | 0x79 => some .both
  | 0x7A => some .both
  | 0x7B => some .both
  | 0x7C => some .both
  | 0x7D => some .both
  | 0x7E => some .both
  | 0x7F => some .both
  | 0x80 => some .both
  | 0x81 => some .both
  | 0x82 => some .both
  | 0x83 => some .both
  | 0x84 => some .both
  | 0x85 => some .both
  | 0x86 => some .both
  | 0x87 => some .both
  | 0x88 => some .both
  | 0x89 => some .both
  | 0x8A => some .both
  | 0x8B => some .both
  | 0x8C => some .both
  | 0x8D => some .both
  | 0x8E => some .both
  | 0x8F => some .both
  | 0x90 => some .both
  | 0xA0 => some .both
  | 0xA1 => some .both
  | 0xA2 => some .both
  | 0xA3 => some .both
  | 0xA4 => some .both
  | 0xA5 => some .both
  | 0xA6 => some .both
  | 0xA7 => some .both
  | 0xA8 => some .both
  | 0xA9 => some .both
  | 0xAA => some .both
  | 0xAB => some .both
  | 0xAC => some .both
  | 0xAD => some .both
  | 0xAE => some .both
  | 0xB0 => some .mem
  | 0xB1 => some .mem
  | 0xB2 => some .mem
  | 0xB3 => some .mem
  | 0xB4 => some .mem
  | 0xB5 => some .mem
  | 0xB6 => some .mem
  | 0xB7 => some .mem
  | 0xB8 => some .mem
  | 0xB9 => some .mem
  | 0xBA => some .mem
  | 0xBB => some .o64
  | 0xBC => some .both
  | 0xBD => some .both
  | 0xBE => some .both
  | 0xBF => some .both
  | 0xC0 => some .mem
  | 0xC1 => some .mem
  | 0xC2 => some .mem
  | 0xC3 => some .mem
  | 0xC4 => some .mem
  | 0xC5 => some .mem
  | 0xC6 => some .mem
  | 0xC7 => some .mem
  | 0xC8 => some .both
  | 0xC9 => some .mem
  | 0xCA => some .mem
  | 0xD0 => some .eng
  | 0xD1 => some .eng
  | 0xD2 => some .eng
  | 0xD3 => some .both
  | 0xD4 => some .both
  | 0xD5 => some .both
  | 0xD6 => some .eng
  | 0xD7 => some .both
  | 0xD8 => some .both
  | 0xD9 => some .eng
  | 0xDA => some .eng
  | 0xDB => some .o64
  | 0xDC => some .eng
  | 0xDD => some .eng
  | 0xDE => some .eng
  | 0xDF => some .eng
  | 0xE0 => some .o64
  | 0xE1 => some .o64
  | 0xE2 => some .o64
  | 0xE3 => some .mat
  | 0xE4 => some .mat
  | 0xE5 => some .mat
  | 0xE6 => some .mat
  | 0xE7 => some .mat
  | 0xE8 => some .mat
  | 0xE9 => some .mat
  | 0xEA => some .o64
  | 0xF0 => some .eng
  | 0xF1 => some .o64
  | 0xF2 => some .o64
  | 0xF3 => some .eng
  | 0xF4 => some .both
  | 0xF5 => some .o64
  | 0xF6 => some .o64
  | 0xF7 => some .both
  | 0xF8 => some .both
  | 0xF9 => some .both
  | 0xFA => some .mem
  | 0xFB => some .o64
  | 0xFC => some .o64
  | 0xFD => some .both
  | _ => none

/-- The instructions of opcodes 0x00 to 0x0F in this form. -/
def buildAlu0 (lo : Nat) (fn : BitVec 10) (f : Alu) : BRes Instr :=
  match lo with
  | 1 => pick fn [(0, .nop f), (1, .nopEntry f)]
  | 2 => plainF fn (.bra f)
  | 3 => (decCc fn).map fun m => .brc m f
  | 4 => plainF fn (.brx f)
  | 5 => plainF fn (.call f)
  | 6 => plainF fn (.callx f)
  | 7 => plainF fn (.ret f)
  | 8 => plainF fn (.meet f)
  | 9 => plainF fn (.join f)
  | 10 => plainF fn (.joinf f)
  | 11 => plainF fn (.exit f)
  | 12 => plainF fn (.yield f)
  | 13 => plainF fn (.setlive f)
  | 14 => plainF fn (.launch f)
  | 15 => plainF fn (.chwait f)
  | _ => .badOp

/-- The instructions of opcodes 0x10 to 0x1F in this form. -/
def buildAlu1 (lo : Nat) (fn : BitVec 10) (f : Alu) : BRes Instr :=
  match lo with
  | 2 => plainF fn (.spawn f)
  | 3 => plainF fn (.fetchw f)
  | 4 => plainF fn (.taskadd f)
  | 5 => plainF fn (.taskdone f)
  | 6 => (decBar4 0 fn).map fun m => .bar m f
  | 7 => (decBar4 0 fn).map fun m => .bara m f
  | 8 => (decBar4 0 fn).map fun m => .barw m f
  | 9 => decCbar fn f
  | 10 => decTicket fn f
  | 11 => (decBar4 0 fn).map fun m => .handoff m f
  | 12 => (decBar4 0 fn).map fun m => .handwait m f
  | _ => .badOp

/-- The instructions of opcodes 0x20 to 0x2F in this form. -/
def buildAlu2 (lo : Nat) (fn : BitVec 10) (f : Alu) : BRes Instr :=
  match lo with
  | 0 => plainM fn (.add f)
  | 1 => plainM fn (.sub f)
  | 2 => plainM fn (.mul f)
  | 3 => (decMulhM fn).map fun m => .mulh m f
  | 4 => plainM fn (.mad f)
  | 5 => (decSgn fn).map fun m => .madw m f
  | 6 => plainM fn (.add64 f)
  | 7 => plainM fn (.sub64 f)
  | 8 => plainM fn (.mad64 f)
  | 9 => (decLeaM fn).map fun m => .lea m f
  | 10 => (decSgn fn).map fun m => .imin m f
  | 11 => (decSgn fn).map fun m => .imax m f
  | 12 => (decFlag4 fn).map fun m => .iabs m f
  | 13 => (decAddsM fn).map fun m => .adds m f
  | 14 => plainM fn (.and f)
  | 15 => plainM fn (.or f)
  | _ => .badOp

/-- The instructions of opcodes 0x30 to 0x3F in this form. -/
def buildAlu3 (lo : Nat) (fn : BitVec 10) (f : Alu) : BRes Instr :=
  match lo with
  | 0 => plainM fn (.xor f)
  | 1 => plainM fn (.andn f)
  | 2 => plainM fn (.shl f)
  | 3 => plainM fn (.shr f)
  | 4 => plainM fn (.sar f)
  | 5 => (decDir fn).map fun m => .rot m f
  | 6 => (decFnlM fn).map fun m => .fnl m f
  | 7 => (decBfe fn).map fun m => .bfe m f
  | 8 => plainM fn (.bfi f)
  | 9 => (decWid fn).map fun m => .popc m f
  | 10 => (decWid fn).map fun m => .clz m f
  | 11 => (decWid fn).map fun m => .ctz m f
  | 12 => (decWid fn).map fun m => .brev m f
  | 13 => plainM fn (.perm f)
  | 14 => plainM fn (.sel f)
  | 15 => (decCmpM fn).map fun m => .icmp m f
  | _ => .badOp

/-- The instructions of opcodes 0x40 to 0x4F in this form. -/
def buildAlu4 (lo : Nat) (fn : BitVec 10) (f : Alu) : BRes Instr :=
  match lo with
  | 0 => (decIcvtM fn).map fun m => .icvt m f
  | 1 => plainM fn (.mov f)
  | 2 => plainM fn (.movi f)
  | 3 => (decB8 fn).map fun m => .plop m f
  | 4 => (decPmovM fn).map fun m => .pmov m f
  | _ => .badOp

/-- The instructions of opcodes 0x50 to 0x5F in this form. -/
def buildAlu5 (lo : Nat) (fn : BitVec 10) (f : Alu) : BRes Instr :=
  match lo with
  | 0 => (decWid fn).map fun m => .uadd m f
  | 1 => (decWid fn).map fun m => .usub m f
  | 2 => (decUmulM fn).map fun m => .umul m f
  | 3 => (decUmadM fn).map fun m => .umad m f
  | 4 => (decB8 fn).map fun m => .ulop m f
  | 5 => (decUshfM fn).map fun m => .ushf m f
  | 6 => (decCmpM fn).map fun m => .ucmp m f
  | 7 => (decWid fn).map fun m => .umov m f
  | 8 => plainM fn (.usel f)
  | 9 => (decLeaM fn).map fun m => .ulea m f
  | 10 => (decWid fn).map fun m => .rdfl m f
  | 11 => (decWid fn).map fun m => .rdln m f
  | 12 => (decWid fn).map fun m => .wrln m f
  | _ => .badOp

/-- The instructions of opcodes 0x60 to 0x6F in this form. -/
def buildAlu6 (lo : Nat) (fn : BitVec 10) (f : Alu) : BRes Instr :=
  match lo with
  | 0 => (decShflM fn).map fun m => .shfl m f
  | 1 => (decSwapM fn).map fun m => .swapp m f
  | 2 => plainM fn (.ballot f)
  | 3 => (decVoteM fn).map fun m => .vote m f
  | 4 => (decRedOp fn).map fun m => .gred m f
  | 5 => (decScanM fn).map fun m => .gscan m f
  | 6 => (decWid fn).map fun m => .match m f
  | 7 => plainM fn (.cmprs f)
  | 8 => plainM fn (.expnd f)
  | _ => .badOp

/-- The instructions of opcodes 0x70 to 0x7F in this form. -/
def buildAlu7 (lo : Nat) (fn : BitVec 10) (f : Alu) : BRes Instr :=
  match lo with
  | 0 => (decRm fn).map fun m => .fadd m f
  | 1 => (decRm fn).map fun m => .fsub m f
  | 2 => (decRm fn).map fun m => .fmul m f
  | 3 => (decRm fn).map fun m => .ffma m f
  | 4 => (decFlag4 fn).map fun m => .fmin m f
  | 5 => (decFlag4 fn).map fun m => .fmax m f
  | 6 => (decFcmpM fn).map fun m => .fcmp m f
  | 7 => plainM fn (.fclass f)
  | 8 => plainM fn (.frcp f)
  | 9 => plainM fn (.frsq f)
  | 10 => (decRm fn).map fun m => .fsqrt m f
  | 11 => (decRm fn).map fun m => .fdiv m f
  | 12 => plainM fn (.fexp2 f)
  | 13 => plainM fn (.flog2 f)
  | 14 => plainM fn (.fsin f)
  | 15 => plainM fn (.fcos f)
  | _ => .badOp

/-- The instructions of opcodes 0x80 to 0x8F in this form. -/
def buildAlu8 (lo : Nat) (fn : BitVec 10) (f : Alu) : BRes Instr :=
  match lo with
  | 0 => plainM fn (.fsinpi f)
  | 1 => plainM fn (.fcospi f)
  | 2 => plainM fn (.fsincos f)
  | 3 => plainM fn (.ftanh f)
  | 4 => (decRm fn).map fun m => .frint m f
  | 5 => plainM fn (.ffrac f)
  | 6 => (decRm fn).map fun m => .fldexp m f
  | 7 => (decFcvtM fn).map fun m => .fcvt m f
  | 8 => (decB8 fn).map fun m => .fpack m f
  | 9 => (decB8 fn).map fun m => .funpk m f
  | 10 => (decRm fn).map fun m => .hfma2 m f
  | 11 => (decRm fn).map fun m => .hadd2 m f
  | 12 => (decRm fn).map fun m => .hmul2 m f
  | 13 => (decRm fn).map fun m => .bfma2 m f
  | 14 => (decFdot2M fn).map fun m => .fdot2 m f
  | 15 => (decFdot4M fn).map fun m => .fdot4 m f
  | _ => .badOp

/-- The instructions of opcodes 0x90 to 0x9F in this form. -/
def buildAlu9 (lo : Nat) (fn : BitVec 10) (f : Alu) : BRes Instr :=
  match lo with
  | 0 => (decB8 fn).map fun m => .fsrnd m f
  | _ => .badOp

/-- The instructions of opcodes 0xA0 to 0xAF in this form. -/
def buildAluA (lo : Nat) (fn : BitVec 10) (f : Alu) : BRes Instr :=
  match lo with
  | 0 => (decFlagFn0 fn).map fun m => .wmov m f
  | 1 => plainM fn (.wadd f)
  | 2 => plainM fn (.wmul f)
  | 3 => plainM fn (.wfma f)
  | 4 => (decFlag4 fn).map fun m => .wmin m f
  | 5 => (decFlag4 fn).map fun m => .wmax m f
  | 6 => plainM fn (.wrcp f)
  | 7 => plainM fn (.wexpn f)
  | 8 => plainM fn (.wsum f)
  | 9 => plainM fn (.wdot f)
  | 10 => plainM fn (.wlam f)
  | 11 => plainM fn (.wlerp f)
  | 12 => (decFlagFn0 fn).map fun m => .wcvt m f
  | 13 => (decFlagFn0 fn).map fun m => .wfres m f
  | 14 => (decFlagFn0 fn).map fun m => .smuel m f
  | _ => .badOp

/-- The instructions of opcodes 0xB0 to 0xBF in this form. -/
def buildAluB (lo : Nat) (fn : BitVec 10) (f : Alu) : BRes Instr :=
  match lo with
  | 11 => plainF fn (.resq f)
  | 12 => plainF fn (.splook f)
  | 13 => plainF fn (.sptag f)
  | 14 => plainF fn (.spfill f)
  | 15 => plainF fn (.spevict f)
  | _ => .badOp

/-- The instructions of opcodes 0xC0 to 0xCF in this form. -/
def buildAluC (lo : Nat) (fn : BitVec 10) (f : Alu) : BRes Instr :=
  match lo with
  | 8 => (decCls fn).map fun m => .waitc m f
  | _ => .badOp

/-- The instructions of opcodes 0xD0 to 0xDF in this form. -/
def buildAluD (lo : Nat) (fn : BitVec 10) (f : Alu) : BRes Instr :=
  match lo with
  | 3 => (decWin5 fn).map fun m => .wincLr m f
  | 4 => (decCbM fn).map fun m => .cbtest m f
  | 5 => (decCbM fn).map fun m => .cbwait m f
  | 7 => (decFin16 fn).map fun m => .sclose m f
  | 8 => (decFin16 fn).map fun m => .qstat m f
  | 11 => (decHitM fn).map fun m => .hitget m f
  | _ => .badOp

/-- The instructions of opcodes 0xE0 to 0xEF in this form. -/
def buildAluE (lo : Nat) (fn : BitVec 10) (f : Alu) : BRes Instr :=
  match lo with
  | 0 => plainF fn (.mxalloc f)
  | 1 => plainF fn (.mxfree f)
  | 2 => plainF fn (.mxzero f)
  | 10 => pick fn [(0, .mxprog .held f), (1, .mxprog .susp f)]
  | _ => .badOp

/-- The instructions of opcodes 0xF0 to 0xFF in this form. -/
def buildAluF (lo : Nat) (fn : BitVec 10) (f : Alu) : BRes Instr :=
  match lo with
  | 1 => plainF fn (.tkmrg f)
  | 2 => plainF fn (.tkwait f)
  | 4 => pick fn [(0, .trap f)]
  | 5 => pick fn [(0, .brk f)]
  | 6 => pick fn [(0, .eretRes f), (1, .eretSkip f), (2, .eretStep f)]
  | 7 => pick fn [(0, .rdsr f)]
  | 8 => pick fn [(0, .wrsr f)]
  | 9 => pick fn [(0, .svc f)]
  | 11 => pick fn [(0, .time .ptp f), (1, .time .ac f)]
  | 12 => pick fn [(0, .energy .ctx f), (1, .energy .grid f)]
  | 13 => pick fn [(0, .perfrd f)]
  | _ => .badOp

/-- The instruction of an opcode in the Alu form. -/
def buildAlu (op : Nat) (fn : BitVec 10) (f : Alu) : BRes Instr :=
  match op / 16 with
  | 0 => buildAlu0 (op % 16) fn f
  | 1 => buildAlu1 (op % 16) fn f
  | 2 => buildAlu2 (op % 16) fn f
  | 3 => buildAlu3 (op % 16) fn f
  | 4 => buildAlu4 (op % 16) fn f
  | 5 => buildAlu5 (op % 16) fn f
  | 6 => buildAlu6 (op % 16) fn f
  | 7 => buildAlu7 (op % 16) fn f
  | 8 => buildAlu8 (op % 16) fn f
  | 9 => buildAlu9 (op % 16) fn f
  | 10 => buildAluA (op % 16) fn f
  | 11 => buildAluB (op % 16) fn f
  | 12 => buildAluC (op % 16) fn f
  | 13 => buildAluD (op % 16) fn f
  | 14 => buildAluE (op % 16) fn f
  | 15 => buildAluF (op % 16) fn f
  | _ => .badOp

/-- The instructions of opcodes 0x10 to 0x1F in this form. -/
def buildMem1 (lo : Nat) (fn : BitVec 10) (f : MemF) : BRes Instr :=
  match lo with
  | 0 => plainF fn (.evsig f)
  | 1 => plainF fn (.evwait f)
  | _ => .badOp

/-- The instructions of opcodes 0xB0 to 0xBF in this form. -/
def buildMemB (lo : Nat) (fn : BitVec 10) (f : MemF) : BRes Instr :=
  match lo with
  | 0 => (decLdM fn).map fun m => .ld m f
  | 1 => (decStM fn).map fun m => .st m f
  | 2 => (decLdM fn).map fun m => .ldu m f
  | 3 => (decStM fn).map fun m => .usto m f
  | 4 => (decRp fn).map fun m => .ldt m f
  | 5 => (decRp fn).map fun m => .stt m f
  | 6 => (decGathM fn).map fun m => .gath m f
  | 7 => (decGathM fn).map fun m => .scat m f
  | 8 => (decCstM fn).map fun m => .cstore m f
  | 9 => (decPrefM fn).map fun m => .pref m f
  | 10 => plainM fn (.resreq f)
  | _ => .badOp

/-- The instructions of opcodes 0xC0 to 0xCF in this form. -/
def buildMemC (lo : Nat) (fn : BitVec 10) (f : MemF) : BRes Instr :=
  match lo with
  | 0 => plainM fn (.fence f)
  | 1 => (decInv fn).map fun m => .cflush m f
  | 2 => plainM fn (.cinv f)
  | 3 => (decAtomM atomOk fn).map fun m => .atom m f
  | 4 => (decCasM fn).map fun m => .acas m f
  | 5 => (decAfaddM fn).map fun m => .afadd m f
  | 6 => (decAfaddc fn).map fun m => .afaddc m f
  | 7 => (decAtomM aredOk fn).map fun m => .ared m f
  | 9 => plainM fn (.tdset f)
  | 10 => plainM fn (.tdget f)
  | _ => .badOp

/-- The instructions of opcodes 0xF0 to 0xFF in this form. -/
def buildMemF (lo : Nat) (fn : BitVec 10) (f : MemF) : BRes Instr :=
  match lo with
  | 10 => decTlb fn f
  | _ => .badOp

/-- The instruction of an opcode in the MemF form. -/
def buildMem (op : Nat) (fn : BitVec 10) (f : MemF) : BRes Instr :=
  match op / 16 with
  | 1 => buildMem1 (op % 16) fn f
  | 11 => buildMemB (op % 16) fn f
  | 12 => buildMemC (op % 16) fn f
  | 15 => buildMemF (op % 16) fn f
  | _ => .badOp

/-- The instructions of opcodes 0xD0 to 0xDF in this form. -/
def buildEngD (lo : Nat) (fn : BitVec 10) (f : EngF) : BRes Instr :=
  match lo with
  | 0 => (decCopyDir fn).map fun m => .tcopy m f
  | 1 => plainF fn (.tcopym f)
  | 2 => (decWinKind fn).map fun m => .windef m f
  | 6 => (decStreamM fn).map fun m => .stream m f
  | 9 => (decQbindM fn).map fun m => .qbind m f
  | 10 => (decTraceM fn).map fun m => .trace m f
  | 12 => (decSampM fn).map fun m => .ssamp m f
  | 13 => (decSampM fn).map fun m => .samp m f
  | 14 => (decFilmM fn).map fun m => .filmacc m f
  | 15 => (decFbM fn).map fun m => .resfb m f
  | _ => .badOp

/-- The instructions of opcodes 0xF0 to 0xFF in this form. -/
def buildEngF (lo : Nat) (fn : BitVec 10) (f : EngF) : BRes Instr :=
  match lo with
  | 0 => (decFin16 fn).map fun m => .pxpush m f
  | 3 => (decCollM fn).map fun m => .coll m f
  | _ => .badOp

/-- The instruction of an opcode in the EngF form. -/
def buildEng (op : Nat) (fn : BitVec 10) (f : EngF) : BRes Instr :=
  match op / 16 with
  | 13 => buildEngD (op % 16) fn f
  | 15 => buildEngF (op % 16) fn f
  | _ => .badOp

/-- The instructions of opcodes 0xE0 to 0xEF in this form. -/
def buildMatE (lo : Nat) (fn : BitVec 10) (f : MatF) : BRes Instr :=
  match lo with
  | 3 => (decMmaM fn).map fun m => .mxmma m f
  | 4 => (decVecM fn).map fun m => .mxvec m f
  | 5 => (decLdwM fn).map fun m => .mxldw m f
  | 6 => plainF fn (.mxlda f)
  | 7 => plainF fn (.mxst f)
  | 8 => (decHadM fn).map fun m => .mxhad m f
  | 9 => plainF fn (.mxqnt f)
  | _ => .badOp

/-- The instruction of an opcode in the MatF form. -/
def buildMat (op : Nat) (fn : BitVec 10) (f : MatF) : BRes Instr :=
  match op / 16 with
  | 14 => buildMatE (op % 16) fn f
  | _ => .badOp

/-- The first `k` bytes of a number, lowest first (00 R4). -/
def bytesLE : Nat → Nat → List Byte
  | 0, _ => []
  | k + 1, n => BitVec.ofNat 8 (n % 256) :: bytesLE k (n / 256)

/-- The number of a list of bytes, lowest first. -/
def natLE : List Byte → Nat
  | [] => 0
  | b :: bs => b.toNat + 256 * natLE bs

/-- The operand a 9-bit code names; 0x1E8–0x1EF and 0x1F8–0x1FF are undefined (03 R58). -/
def opndOf (n : Nat) : Option Opnd :=
  if n < 0x100 then some (.v (finOf 256 n (by decide)))
  else if n < 0x1C0 then some (.s (finOf 192 (n - 0x100) (by decide)))
  else if n < 0x1D0 then some (.w (finOf 16 (n - 0x1C0) (by decide)))
  else if n < 0x1E0 then some (.q (finOf 16 (n - 0x1D0) (by decide)))
  else if n < 0x1E8 then some (.p (finOf 8 (n - 0x1E0) (by decide)))
  else match n with
    | 0x1F0 => some (.sp .zero)
    | 0x1F1 => some (.sp .laneid)
    | 0x1F2 => some (.sp .gwidth)
    | 0x1F3 => some (.sp .gindex)
    | 0x1F4 => some (.sp .tindex)
    | 0x1F5 => some (.sp .amasklo)
    | 0x1F6 => some (.sp .amaskhi)
    | 0x1F7 => some (.sp .idlemask)
    | _ => none

def scopeOf (n : Nat) : Scope :=
  match n with
  | 0 => .th | 1 => .gp | 2 => .tm | 3 => .cl | 4 => .die | 5 => .pkg | 6 => .pod | _ => .sys
def Scope.code : Scope → Nat
  | .th => 0 | .gp => 1 | .tm => 2 | .cl => 3 | .die => 4 | .pkg => 5 | .pod => 6 | .sys => 7
def orderOf (n : Nat) : Order :=
  match n with
  | 0 => .rlx | 1 => .acq | 2 => .rel | _ => .str
def Order.code : Order → Nat
  | .rlx => 0 | .acq => 1 | .rel => 2 | .str => 3
/-- SPACE 111 is reserved (03 R69). -/
def spaceOf (n : Nat) : Option Space :=
  match n with
  | 0 => some .glob | 1 => some .scratch | 2 => some .mailbox | 3 => some .remote | 4 => some .apert
  | 5 => some .tdrel | 6 => some .uconst | _ => none
def Space.code : Space → Nat
  | .glob => 0 | .scratch => 1 | .mailbox => 2 | .remote => 3 | .apert => 4 | .tdrel => 5
  | .uconst => 6
/-- ATW 11 is reserved (03 R69). -/
def atwOfCode (n : Nat) : Option Atw :=
  match n with
  | 0 => some .a4 | 1 => some .a8 | 2 => some .a16 | _ => none
def Atw.code : Atw → Nat
  | .a4 => 0 | .a8 => 1 | .a16 => 2
/-- DEP 11 is reserved (03 R69). -/
def depOf (n : Nat) : Option Dep :=
  match n with
  | 0 => some .none | 1 => some .one | 2 => some .two | _ => none
def Dep.code : Dep → Nat
  | .none => 0 | .one => 1 | .two => 2
/-- ARR 11 is reserved (03 R73). -/
def arrOf (n : Nat) : Option Arr :=
  match n with
  | 0 => some .arr0 | 1 => some .arr1 | 2 => some .both | _ => none
def Arr.code : Arr → Nat
  | .arr0 => 0 | .arr1 => 1 | .both => 2
/-- GUARD: [13] negate, [12:10] the predicate (03 R64). -/
def guardOf (n : Nat) : Guard := { neg := n / 8 % 2 == 1, p := finOf 8 n (by decide) }
def Guard.code (g : Guard) : Nat := g.p.val + bit1 g.neg 3

/-- The fields of the given widths, the first in the lowest bits. -/
def unpack : List Nat → Nat → List Nat
  | [], _ => []
  | w :: ws, n => n % 2 ^ w :: unpack ws (n / 2 ^ w)

/-- The number whose fields of the given widths are the given values. -/
def packBits : List Nat → List Nat → Nat
  | w :: ws, v :: vs => v % 2 ^ w + 2 ^ w * packBits ws vs
  | _, _ => 0

/-- LEN, OP, GUARD, LAH or MOD, DST, SRCA, SRCB, SRCC, FN (03 R64). -/
def hdrW : List Nat := [2, 8, 4, 4, 9, 9, 9, 9, 10]
/-- ORD, SCOPE, EVICT, ATW, SPACE, TDI, TOK, DEP, OFS (03 R69). -/
def memW : List Nat := [2, 3, 3, 2, 3, 10, 1, 2, 38]
/-- ORD, SCOPE, WIN, SPACE, TDI, bit 87, FMTO, EIMM (03 R72). -/
def engW : List Nat := [2, 3, 5, 3, 10, 1, 8, 32]
/-- ORD, SCOPE, ARR, RND, SPA, ACC, TDB, TDA, FMTB, FMTA, KB (03 R73). -/
def matW : List Nat := [2, 3, 2, 3, 3, 3, 10, 10, 8, 8, 12]

/-- Fields read from a word, and whether a reserved code (03 R69, R72, R73) or an undefined operand
code (03 R58) stood among them. -/
structure Raw where
  fmt : FmtV
  badResv : Bool
  badOpnd : Bool
  deriving DecidableEq, Repr

/-- The header's fields as numbers. -/
structure Hdr where
  len : Nat
  op : Nat
  g : Nat
  x : Nat
  d : Nat
  a : Nat
  b : Nat
  c : Nat
  fn : Nat
  deriving DecidableEq, Repr

def hdrOf (n : Nat) : Hdr :=
  match unpack hdrW n with
  | [l, o, g, x, d, a, b, c, f] =>
    { len := l, op := o, g := g, x := x, d := d, a := a, b := b, c := c, fn := f }
  | _ => { len := 3, op := 0, g := 0, x := 0, d := 0, a := 0, b := 0, c := 0, fn := 0 }

/-- The operand of a code; an undefined one stands as q0, which no unused field may hold. -/
def opndD (n : Nat) : Opnd := (opndOf n).getD (.q 0)
def Hdr.badOpnd (h : Hdr) : Bool :=
  (opndOf h.d).isNone || (opndOf h.a).isNone || (opndOf h.b).isNone || (opndOf h.c).isNone

def parseAlu (h : Hdr) (imm : Option Word) : Raw :=
  { fmt := .alu { g := guardOf h.g, x := BitVec.ofNat 4 h.x, d := opndD h.d, a := opndD h.a,
                  b := opndD h.b, c := opndD h.c, imm := imm }
    badResv := false, badOpnd := h.badOpnd }

def parseMem (h : Hdr) (hi : Nat) : Raw :=
  match unpack memW hi with
  | [ord, scope, evict, atw, space, tdi, tok, dep, ofs] =>
    { fmt := .mem { g := guardOf h.g, x := BitVec.ofNat 4 h.x, d := opndD h.d, a := opndD h.a,
                    b := opndD h.b, c := opndD h.c, ofs := BitVec.ofNat 38 ofs,
                    dep := (depOf dep).getD .none, tok := tok == 1, tdi := BitVec.ofNat 10 tdi,
                    space := (spaceOf space).getD .glob, atw := (atwOfCode atw).getD .a4,
                    evict := BitVec.ofNat 3 evict, scope := scopeOf scope, ord := orderOf ord }
      badResv := (depOf dep).isNone || (spaceOf space).isNone || (atwOfCode atw).isNone
      badOpnd := h.badOpnd }
  | _ => parseAlu h none

def parseEng (h : Hdr) (hi : Nat) : Raw :=
  match unpack engW hi with
  | [ord, scope, win, space, tdi, r, fmto, eimm] =>
    { fmt := .eng { g := guardOf h.g, x := BitVec.ofNat 4 h.x, d := opndD h.d, a := opndD h.a,
                    b := opndD h.b, c := opndD h.c, eimm := BitVec.ofNat 32 eimm,
                    fmto := BitVec.ofNat 8 fmto, tdi := BitVec.ofNat 10 tdi,
                    space := (spaceOf space).getD .glob, win := BitVec.ofNat 5 win,
                    scope := scopeOf scope, ord := orderOf ord }
      badResv := (spaceOf space).isNone || r != 0
      badOpnd := h.badOpnd }
  | _ => parseAlu h none

def parseMat (h : Hdr) (hi : Nat) : Raw :=
  match unpack matW hi with
  | [ord, scope, arr, rnd, spa, acc, tdb, tda, fmtb, fmta, kb] =>
    { fmt := .mat { g := guardOf h.g, x := BitVec.ofNat 4 h.x, d := opndD h.d, a := opndD h.a,
                    b := opndD h.b, c := opndD h.c, kb := BitVec.ofNat 12 kb,
                    fmta := BitVec.ofNat 8 fmta, fmtb := BitVec.ofNat 8 fmtb,
                    tda := BitVec.ofNat 10 tda, tdb := BitVec.ofNat 10 tdb,
                    acc := BitVec.ofNat 3 acc, spa := (spaceOf spa).getD .glob,
                    rnd := (rndOf rnd).getD .rne, arr := (arrOf arr).getD .arr0,
                    scope := scopeOf scope, ord := orderOf ord }
      badResv := (spaceOf spa).isNone || (rndOf rnd).isNone || (arrOf arr).isNone
      badOpnd := h.badOpnd }
  | _ => parseAlu h none

/-- The fields of an instruction whose opcode accepts the form, none where LEN is no length that the
opcode accepts (03 R75). -/
def parse (fm : Form) (h : Hdr) (n : Nat) : Option Raw :=
  let hi := n / 2 ^ 64
  match fm, h.len with
  | .o64, 0 | .both, 0 => some (parseAlu h none)
  | .o96, 1 | .both, 1 => some (parseAlu h (some (BitVec.ofNat 32 hi)))
  | .mem, 2 => some (parseMem h hi)
  | .eng, 2 => some (parseEng h hi)
  | .mat, 2 => some (parseMat h hi)
  | _, _ => none

/-- The instruction of an opcode, its FN and its fields. -/
def build (op : Nat) (fn : BitVec 10) : FmtV → BRes Instr
  | .alu f => buildAlu op fn f
  | .mem f => buildMem op fn f
  | .eng f => buildEng op fn f
  | .mat f => buildMat op fn f

/-- ERET and TLBINV are privileged in every use (03 R76). -/
def privOp (op : Nat) : Bool := op == 0xF6 || op == 0xFA

/-- Whether an instruction is one of a privileged context by its bits alone: ERET, TLBINV, or a
register that IMM names (18 R435 check 2, by 03 R63). -/
def privBits (op : Nat) (f : FmtV) : Bool :=
  privOp op || ((op == 0xF7 || op == 0xF8) && match f.imm with
    | some w => selNames w.toNat && selPriv (op == 0xF8) w.toNat
    | none => false)

/-- Checks 5 to 7 of 03 R63 for an instruction that check 4 let through. -/
def checks (priv : Bool) (vb ub op : Nat) (r : Raw) (b : BRes Instr) : Except DecErr Instr :=
  match b with
  | .badOp => .error .illegalOpcode
  | .badField =>
    if privBits op r.fmt && !priv then .error .privilegedOp else .error .reservedField
  | .ok i =>
    if privBits op r.fmt && !priv then .error .privilegedOp
    else if r.badResv || !resvOk (i.desc vb ub) r.fmt || !i.modOk then .error .reservedField
    else if r.badOpnd || !opndsOk (i.desc vb ub) vb ub r.fmt then .error .illegalOperand
    else .ok i

/-- Checks 4 to 7 of 03 R63 on the bits of an instruction, in their order. -/
def decodeNat (priv : Bool) (vb ub : Nat) (n : Nat) : Except DecErr Instr :=
  let h := hdrOf n
  match opForm h.op with
  | none => .error .illegalOpcode
  | some fm =>
    match parse fm h n with
    | none => .error .illegalOpcode
    | some r => checks priv vb ub h.op r (build h.op (BitVec.ofNat 10 h.fn) r.fmt)

/-- The bytes of an instruction by the LEN bits of its first byte (03 R61). -/
def lenBytes (b : Byte) : Option Nat :=
  match b.toNat % 4 with
  | 0 => some 8
  | 1 => some 12
  | 2 => some 16
  | _ => none

/-- The instruction at the head of a list of bytes, with its length: checks 2 and 4 to 7 of 03 R63
(check 3 is of the address). `priv`, `vb` and `ub` are the context's privilege and the grid's vector
and uniform register budgets. -/
def decode (priv : Bool) (vb ub : Nat) (bs : List Byte) : Except DecErr (Instr × Nat) :=
  match bs with
  | [] => .error .short
  | b :: _ =>
    match lenBytes b with
    | none => .error .reservedLength
    | some l =>
      if bs.length < l then .error .short
      else match decodeNat priv vb ub (natLE (bs.take l)) with
        | .ok i => .ok (i, l)
        | .error e => .error e

/-- LEN of an instruction's fields (03 R61, R64, R68). -/
def FmtV.len : FmtV → Nat
  | .alu f => if f.imm.isSome then 1 else 0
  | _ => 2

/-- The bytes of an instruction's fields. -/
def FmtV.bytes (f : FmtV) : Nat :=
  match f.len with
  | 0 => 8
  | 1 => 12
  | _ => 16

/-- Bits [127:64] of an instruction (03 R68, R69, R72, R73). -/
def FmtV.upper : FmtV → Nat
  | .alu f => match f.imm with
    | some w => w.toNat
    | none => 0
  | .mem f => packBits memW [f.ord.code, f.scope.code, f.evict.toNat, f.atw.code, f.space.code,
      f.tdi.toNat, bit1 f.tok 0, f.dep.code, f.ofs.toNat]
  | .eng f => packBits engW [f.ord.code, f.scope.code, f.win.toNat, f.space.code, f.tdi.toNat, 0,
      f.fmto.toNat, f.eimm.toNat]
  | .mat f => packBits matW [f.ord.code, f.scope.code, f.arr.code, f.rnd.code, f.spa.code,
      f.acc.toNat, f.tdb.toNat, f.tda.toNat, f.fmtb.toNat, f.fmta.toNat, f.kb.toNat]

/-- Bits [63:0] of an instruction (03 R64). -/
def Parts.header (p : Parts) : Nat :=
  packBits hdrW [p.fmt.len, p.op, p.fmt.g.code, p.fmt.x.toNat, p.fmt.d.code, p.fmt.a.code,
    p.fmt.b.code, p.fmt.c.code, p.fn.toNat]

/-- All the bits of an instruction. -/
def Parts.toNat (p : Parts) : Nat := p.header + 2 ^ 64 * p.fmt.upper

/-- The encoding of an instruction, its bytes in memory order; an event has none. -/
def encode (i : Instr) : List Byte :=
  match i.parts with
  | some p => bytesLE p.fmt.bytes p.toNat
  | none => []

/-- Whether an instruction could stand in a program with the given budgets: it has the fields of a
form that its opcode accepts, its reserved fields are 0 and its operands are accepted. -/
def wellFormed (vb ub : Nat) (i : Instr) : Bool :=
  match i.parts with
  | none => true
  | some p =>
    (match opForm p.op with
      | some fm => fm.accepts p.fmt
      | none => false)
    && i.modOk && Sys2Proof.resvOk (i.desc vb ub) p.fmt
    && Sys2Proof.opndsOk (i.desc vb ub) vb ub p.fmt

/-- An instruction of the machine: one of the opcode table's instructions, not an event. -/
def Instr.isInsn (i : Instr) : Bool := i.parts.isSome

/-- The instruction the decoder reads from the bits `w` of a table row, the bits above `nbits` zero,
in a privileged context with the largest budgets. -/
def decodeTableWord (nbits w : Nat) : Option Instr :=
  match decode true 256 192 (bytesLE 16 (w % 2 ^ nbits)) with
  | .ok (i, _) => some i
  | .error _ => none

end Sys2Proof
end

