-- ==== Sys2Proof/Machine/Causes.lean ====
section
/-! DEFINITION. The cause codes of 18 R426. -/

namespace Sys2Proof.Cause

abbrev swTrap : Nat := 0x00
abbrev breakpoint : Nat := 0x01
abbrev illegalOpcode : Nat := 0x02
abbrev reservedLength : Nat := 0x03
abbrev fetchStraddle : Nat := 0x04
abbrev reservedField : Nat := 0x05
abbrev illegalOperand : Nat := 0x06
abbrev privilegedOp : Nat := 0x07
abbrev illegalConvergence : Nat := 0x08
abbrev budgetExceeded : Nat := 0x09
abbrev badMeeting : Nat := 0x0A
abbrev callDepth : Nat := 0x0B
abbrev nestDepth : Nat := 0x0C
abbrev yieldLimit : Nat := 0x0D
abbrev instrFetchFault : Nat := 0x0E
abbrev singleStep : Nat := 0x0F
abbrev fpInvalid : Nat := 0x10
abbrev fpDivzero : Nat := 0x11
abbrev fpOverflow : Nat := 0x12
abbrev fpUnderflow : Nat := 0x13
abbrev fpInexact : Nat := 0x14
abbrev formatInvalid : Nat := 0x15
abbrev scaleInvalid : Nat := 0x16
abbrev spectralRange : Nat := 0x17
abbrev pageNotPresent : Nat := 0x18
abbrev protectionRead : Nat := 0x19
abbrev protectionWrite : Nat := 0x1A
abbrev protectionExec : Nat := 0x1B
abbrev addressNoncanonical : Nat := 0x1C
abbrev misalignedAtomic : Nat := 0x1D
abbrev misalignedStrict : Nat := 0x1E
abbrev mixedSizeRace : Nat := 0x1F
abbrev memPoison : Nat := 0x20
abbrev memUncorrectable : Nat := 0x21
abbrev metadataUncorrectable : Nat := 0x22
abbrev apertureViolation : Nat := 0x23
abbrev scratchBounds : Nat := 0x24
abbrev scratchSlotState : Nat := 0x25
abbrev windowConflict : Nat := 0x26
abbrev tdInvalid : Nat := 0x27
abbrev tdBounds : Nat := 0x28
abbrev kvSealedWrite : Nat := 0x29
abbrev keyRevoked : Nat := 0x2A
abbrev translationTableError : Nat := 0x2B
abbrev cxlTierError : Nat := 0x2C
abbrev synonymConflict : Nat := 0x2D
abbrev atomicUnsupported : Nat := 0x2E
abbrev residencyRequestFailed : Nat := 0x2F
abbrev queueUnbound : Nat := 0x30
abbrev queueOverrun : Nat := 0x31
abbrev queueClosedPop : Nat := 0x32
abbrev streamProgramInvalid : Nat := 0x33
abbrev fixupUnresolved : Nat := 0x34
abbrev tcopyFault : Nat := 0x35
abbrev multicastTargetInvalid : Nat := 0x36
abbrev counterOverflow : Nat := 0x37
abbrev matrixState : Nat := 0x38
abbrev matrixFormat : Nat := 0x39
abbrev weightBufferCorrupt : Nat := 0x3A
abbrev traceInvalidBvh : Nat := 0x3B
abbrev samplerInvalid : Nat := 0x3C
abbrev filmInvalid : Nat := 0x3D
abbrev taskQueueFull : Nat := 0x3E
abbrev taskRecordInvalid : Nat := 0x3F
abbrev contOverflow : Nat := 0x40
abbrev contCorrupt : Nat := 0x41
abbrev spawnInvalid : Nat := 0x42
abbrev fetchwInvalid : Nat := 0x43
abbrev barrierMismatch : Nat := 0x44
abbrev ticketVoid : Nat := 0x45
abbrev handoffOrder : Nat := 0x46
abbrev raceReport : Nat := 0x47
abbrev preemptRequest : Nat := 0x48
abbrev kill : Nat := 0x49
abbrev energyExhausted : Nat := 0x4A
abbrev watchdog : Nat := 0x4B
abbrev childFault : Nat := 0x4C
abbrev parentKilled : Nat := 0x4D
abbrev dependenceFailed : Nat := 0x4E
abbrev launchInvalid : Nat := 0x4F
abbrev tokenExpired : Nat := 0x50
abbrev tokenTableFull : Nat := 0x51
abbrev holdQueueFull : Nat := 0x52
abbrev fabricUnreachable : Nat := 0x53
abbrev fabricProtection : Nat := 0x54
abbrev remotePoison : Nat := 0x55
abbrev proxyQueueOverflow : Nat := 0x56
abbrev collectiveMismatch : Nat := 0x57
abbrev ptpLoss : Nat := 0x58
abbrev triggerMissed : Nat := 0x59
abbrev channelRetired : Nat := 0x5A
abbrev degradedReconfig : Nat := 0x5B
abbrev thermalLimit : Nat := 0x5C
abbrev firmwareError : Nat := 0x5D
abbrev machineCheck : Nat := 0x5E
abbrev hostLinkDown : Nat := 0x5F

end Sys2Proof.Cause
end

