-- ==== Sys2Proof/Machine/Ops.lean ====
section
/-! DEFINITION. The named operations over the state: maps, memory in its canonical form, the working
form that a step changes, registers, fragments and records, and the taking of an exception, which
every fault of every chapter goes through (18 R427). -/

namespace Sys2Proof.Machine

/-! ## Maps -/

/-- The value of a key. -/
def aget {K V : Type} [DecidableEq K] : AMap K V → K → Option V
  | [], _ => none
  | (k, v) :: m, x => if k = x then some v else aget m x

/-- Replaces the value of a key in its place, or adds the key at the end. -/
def aset {K V : Type} [DecidableEq K] : AMap K V → K → V → AMap K V
  | [], x, y => [(x, y)]
  | (k, v) :: m, x, y => if k = x then (k, y) :: m else (k, v) :: aset m x y

/-- Removes a key. -/
def adel {K V : Type} [DecidableEq K] (m : AMap K V) (x : K) : AMap K V :=
  m.filter fun e => e.1 ≠ x

/-- Adds to a counter. -/
def abump {K : Type} [DecidableEq K] (m : AMap K Nat) (x : K) (n : Nat) : AMap K Nat :=
  aset m x ((aget m x).getD 0 + n)

/-- Insertion into a list in rising order of a key. -/
def insertBy {α : Type} (key : α → Nat) (x : α) : List α → List α
  | [] => [x]
  | y :: ys => if key x ≤ key y then x :: y :: ys else y :: insertBy key x ys

/-- A list in rising order of a key; equal keys keep their order. -/
def sortBy {α : Type} (key : α → Nat) : List α → List α
  | [] => []
  | x :: xs => insertBy key x (sortBy key xs)

/-- The list without repeats, first occurrences kept. -/
def uniq {α : Type} [DecidableEq α] : List α → List α
  | [] => []
  | x :: xs => x :: (uniq xs).filter fun y => y ≠ x

/-- The mask of a set of lanes. -/
def laneMask (ls : List Nat) : Nat := ls.foldl (fun m l => m ||| 2 ^ l) 0

/-- The lanes of a mask below `n`, ascending. -/
def maskLanes (m n : Nat) : List Nat := (List.range n).filter fun l => m.testBit l

/-- The first element of a list with the least key. -/
def minBy {α : Type} (key : α → Nat) : List α → Option α
  | [] => none
  | x :: xs =>
    match minBy key xs with
    | none => some x
    | some y => if key y < key x then some y else some x

/-! ## Memory (09 R241, R242; 00 R4) -/

/-- The byte at an address; an unlisted address reads 0x00 (log entry 1). -/
def Memory.get : Memory → Nat → Byte
  | [], _ => 0
  | (x, b) :: m, a => if x = a then b else Memory.get m a

/-- Writes one byte and keeps the canonical form. -/
def Memory.put : Memory → Nat → Byte → Memory
  | [], a, b => if b = 0 then [] else [(a, b)]
  | (x, y) :: m, a, b =>
    if a < x then (if b = 0 then (x, y) :: m else (a, b) :: (x, y) :: m)
    else if a = x then (if b = 0 then m else (a, b) :: m)
    else (x, y) :: Memory.put m a b

/-- Addresses rise from `lo` and no entry is 0x00. -/
def Memory.wfFrom : Nat → Memory → Bool
  | _, [] => true
  | lo, (x, b) :: m => decide (lo ≤ x) && b != 0 && Memory.wfFrom (x + 1) m

/-- The canonical form: addresses strictly rising, no entry equal to what an unlisted address
reads as. -/
def Memory.wf (m : Memory) : Bool := Memory.wfFrom 0 m

/-- Performs the writes of a log, oldest (last in the list) first. -/
def Memory.commit (m : Memory) (log : List (Nat × Byte)) : Memory :=
  log.foldr (fun e m => Memory.put m e.1 e.2) m

/-! ## The working form of a step -/

/-- What a step works on: the chip, the memory as it was, the bytes written so far (newest first), and
the boot state. -/
structure W where
  c : Chip
  m0 : Memory
  wq : List (Nat × Byte) := []
  boot : Boot
  deriving DecidableEq, Repr

def State.toW (s : State) : W := { c := s.chip, m0 := s.mem, boot := s.boot }

/-- The state after a step that worked from `s`. -/
def W.toState (w : W) (s : State) : State :=
  { chip := w.c, mem := Memory.commit s.mem w.wq, boot := s.boot }

/-- Performs a working step; the boot state does not change. -/
def State.act (f : W → W) (s : State) : State := (f s.toW).toState s

/-- The byte at a physical address. -/
def W.byte (w : W) (pa : Nat) : Byte :=
  match aget w.wq pa with
  | some b => b
  | none => Memory.get w.m0 pa

def W.putByte (w : W) (pa : Nat) (b : Byte) : W := { w with wq := (pa, b) :: w.wq }

/-- The `n` bytes from a physical address. -/
def W.bytes (w : W) (pa n : Nat) : List Byte := (List.range n).map fun i => w.byte (pa + i)

/-- Writes bytes from a physical address up. -/
def W.putBytes (w : W) (pa : Nat) : List Byte → W
  | [] => w
  | b :: bs => W.putBytes (w.putByte pa b) (pa + 1) bs

/-- A little-endian number of bytes (00 R4). -/
def leNat : List Byte → Nat
  | [] => 0
  | b :: bs => b.toNat + 256 * leNat bs

/-- The `k` low bytes of a number, lowest first. -/
def leBytes : Nat → Nat → List Byte
  | 0, _ => []
  | k + 1, n => BitVec.ofNat 8 n :: leBytes k (n / 256)

/-- A field of a byte block. -/
def fieldLE (bs : List Byte) (ofs len : Nat) : Nat := leNat ((bs.drop ofs).take len)

/-- The next free number of the model. -/
def W.newId (w : W) : W × Nat := ({ w with c.mdl.next := w.c.mdl.next + 1 }, w.c.mdl.next)

/-- A free value, and the counter advanced (00 R8; log entry 3). -/
def W.freeWord (w : W) (i : Nat) : Word := Config.freeWord w.c.mdl.fresh i
def W.bumpFresh (w : W) : W := { w with c.mdl.fresh := w.c.mdl.fresh + 1 }

/-- The die of a core, and its core cluster (01 R10, R11). -/
def dieOf (c : Nat) : Nat := c / 144
def clusterOf (c : Nat) : Nat := c / 16

/-! ## Registers -/

/-- A vector register of a lane. -/
def W.vr (w : W) (g l r : Nat) : Word := (aget w.c.thr.vr (g, l, r)).getD 0
def W.setVr (w : W) (g l r : Nat) (x : Word) : W :=
  { w with c.thr.vr := aset w.c.thr.vr (g, l, r) x }

/-- A uniform register of a fragment. -/
def W.sr (w : W) (f r : Nat) : Word := (aget w.c.thr.sr (f, r)).getD 0
def W.setSr (w : W) (f r : Nat) (x : Word) : W :=
  { w with c.thr.sr := aset w.c.thr.sr (f, r) x }

/-- A predicate of a lane; p7 reads 1 (03 R54). -/
def W.pr (w : W) (g l p : Nat) : Bool :=
  if p = 7 then true else (aget w.c.thr.pr (g, l, p)).getD false
/-- Writes a predicate; p7 is no register and keeps reading 1 (03 R52, R54). -/
def W.setPr (w : W) (g l p : Nat) (x : Bool) : W :=
  if p = 7 then w else { w with c.thr.pr := aset w.c.thr.pr (g, l, p) x }

def W.lane (w : W) (g l : Nat) : Lane := (aget w.c.thr.lanes (g, l)).getD {}
def W.setLane (w : W) (g l : Nat) (x : Lane) : W :=
  { w with c.thr.lanes := aset w.c.thr.lanes (g, l) x }
def W.modLane (w : W) (g l : Nat) (h : Lane → Lane) : W := w.setLane g l (h (w.lane g l))

def W.frag (w : W) (f : Nat) : Frag := (aget w.c.thr.frags f).getD {}
def W.setFrag (w : W) (f : Nat) (x : Frag) : W :=
  { w with c.thr.frags := aset w.c.thr.frags f x }
def W.modFrag (w : W) (f : Nat) (h : Frag → Frag) : W := w.setFrag f (h (w.frag f))

def W.group (w : W) (g : Nat) : Group := (aget w.c.thr.groups g).getD {}
def W.setGroup (w : W) (g : Nat) (x : Group) : W :=
  { w with c.thr.groups := aset w.c.thr.groups g x }
def W.modGroup (w : W) (g : Nat) (h : Group → Group) : W := w.setGroup g (h (w.group g))

def W.core (w : W) (c : Nat) : Core := (aget w.c.cores c).getD {}
def W.setCore (w : W) (c : Nat) (x : Core) : W := { w with c.cores := aset w.c.cores c x }
def W.modCore (w : W) (c : Nat) (h : Core → Core) : W := w.setCore c (h (w.core c))

def W.team (w : W) (t : Nat) : Team := (aget w.c.slu.teams t).getD {}
def W.setTeam (w : W) (t : Nat) (x : Team) : W :=
  { w with c.slu.teams := aset w.c.slu.teams t x }
def W.modTeam (w : W) (t : Nat) (h : Team → Team) : W := w.setTeam t (h (w.team t))

def W.grid (w : W) (n : Nat) : Grid := (aget w.c.slu.grids n).getD {}
def W.setGrid (w : W) (n : Nat) (x : Grid) : W :=
  { w with c.slu.grids := aset w.c.slu.grids n x }
def W.modGrid (w : W) (n : Nat) (h : Grid → Grid) : W := w.setGrid n (h (w.grid n))

def W.ctx (w : W) (a : Nat) : Ctx := (aget w.c.sys.ctxs a).getD {}
def W.setCtx (w : W) (a : Nat) (x : Ctx) : W := { w with c.sys.ctxs := aset w.c.sys.ctxs a x }
def W.modCtx (w : W) (a : Nat) (h : Ctx → Ctx) : W := w.setCtx a (h (w.ctx a))

/-- What a context's register holds at its creation (04 R126, 08 R223, 12 R309; else 0). -/
def srReset : Reg → Dword
  | .wlrange => 0x444F800043B40000
  | .fixlim => 2000
  | _ => 0

/-- What a block register holds at reset (03 R92, 05 R126, 17 R402, 19 R454; else 0). -/
def blkReset : Reg → Dword
  | .ylimit => 200000
  | .preempt => 100 * 256 + 0xFE
  | .tgather => 256
  | .edefault => 1000
  | .fabricTkexp => 4000
  | .fabricTimeout => 1000
  | .fantailPlan => 5200
  | _ => 0

/-- A register of a context as stored. -/
def W.srReg (w : W) (a : Nat) (r : Reg) : Dword := (aget w.c.sys.sr (a, r)).getD (srReset r)
def W.setSrReg (w : W) (a : Nat) (r : Reg) (x : Dword) : W :=
  { w with c.sys.sr := aset w.c.sys.sr (a, r) x }

/-- A block register as stored. -/
def W.blk (w : W) (r : Reg) (n : Nat) : Dword := (aget w.c.sys.blk (r, n)).getD (blkReset r)
def W.setBlk (w : W) (r : Reg) (n : Nat) (x : Dword) : W :=
  { w with c.sys.blk := aset w.c.sys.blk (r, n) x }

/-- A field of a 64-bit register. -/
def fld (x : Dword) (lo len : Nat) : Nat := bits x.toNat lo len

/-- The register with a field replaced. -/
def setFld (x : Dword) (lo len v : Nat) : Dword :=
  BitVec.ofNat 64 (x.toNat - fld x lo len * 2 ^ lo + v % 2 ^ len * 2 ^ lo)

/-- The ac count, and how many ac make 1 µs, 10 µs and 1 ms at 850 MHz (01 R13, 04 R114). -/
def W.ac (w : W) : Nat := w.c.mdl.ac
def acPerUs : Nat := 850

/-! ## Fragments and their lanes (06 R148–R152) -/

/-- The lanes of a group. -/
def W.allLanes (w : W) (g : Nat) : List Nat := List.range (w.group g).width

/-- The lanes a fragment holds, live or held. -/
def W.fragLanes (w : W) (g f : Nat) : List Nat :=
  (w.allLanes g).filter fun l =>
    (w.lane g l).frag = f && ((w.lane g l).st == .live || (w.lane g l).st == .held)

/-- The runnable lanes of a fragment (06 R149). -/
def W.runLanes (w : W) (g f : Nat) : List Nat :=
  (w.allLanes g).filter fun l => (w.lane g l).frag = f && (w.lane g l).st == .live

/-- The lanes of a fragment held at JOINs. -/
def W.heldLanes (w : W) (g f : Nat) : List Nat :=
  (w.allLanes g).filter fun l => (w.lane g l).frag = f && (w.lane g l).st == .held

def W.idleLanes (w : W) (g : Nat) : List Nat :=
  (w.allLanes g).filter fun l => (w.lane g l).st == .idle

/-- The fragments of a group. -/
def W.groupFrags (w : W) (g : Nat) : List Nat :=
  (w.c.thr.frags.filter fun e => e.2.gid = g).map Prod.fst

/-- The fragments on a core, with their numbers. -/
def W.coreFrags (w : W) (c : Nat) : List (Nat × Frag) :=
  w.c.thr.frags.filter fun e => (w.group e.2.gid).core = c

/-- The fragment in a context of a core. -/
def W.inCtx (w : W) (c k : Nat) : Option Nat :=
  ((w.coreFrags c).find? fun e => e.2.place == .ctx k).map Prod.fst

/-- The address after an instruction, past a skip word (03 R62). -/
def nextPc (pc len : Nat) : Nat :=
  let a := pc + len
  if a % 32 = 28 then a + 4 else a

/-! ## Continuation records (06 R154–R161) -/

/-- Whether the lanes differ in meeting address or call depth, and in sr counter (06 R154). -/
def W.perLane (w : W) (g : Nat) (ls : List Nat) : Bool :=
  match ls with
  | [] => false
  | l :: rest => rest.any fun k =>
      (w.lane g k).meet != (w.lane g l).meet || (w.lane g k).depth != (w.lane g l).depth
def W.perSeq (w : W) (g : Nat) (ls : List Nat) : Bool :=
  match ls with
  | [] => false
  | l :: rest => rest.any fun k => (w.lane g k).seq != (w.lane g l).seq

/-- The bytes of a record, padded to a multiple of 64 (06 R156). -/
def recBytes (width lv ls : Nat) (perLane perSeq : Bool) : Nat :=
  let n := 128 + (if perLane then 8 * width else 0) + (if perSeq then 4 * width else 0)
    + 4 * ls + 4 * width * lv
  (n + 63) / 64 * 64

/-- The reserved part of a Leat area (06 R160). -/
def leatReserved : Nat := 4954521600

/-- The allocations of a context's Leat pool: offset and bytes. -/
def W.poolUse (w : W) (a : Nat) : List (Nat × Nat) :=
  w.c.thr.frags.filterMap fun e => if (w.group e.2.gid).asid = a then e.2.pool else none

/-- The pool bytes of a context's staged contributions (16 R399). -/
def W.stagedBytes (w : W) (a : Nat) : Nat :=
  (w.c.syn.staged.map fun e =>
    ((e.2.filter fun x => x.asid = a).length * 16 + 63) / 64 * 64).sum

/-- The pool bytes held (06 R159, SR.LEATUSE). -/
def W.leatUse (w : W) (a : Nat) : Nat :=
  ((w.poolUse a).map Prod.snd).sum + w.stagedBytes a

/-- The pool's bytes that records may take. -/
def W.poolSize (w : W) (a : Nat) : Nat :=
  fld (w.srReg a .leatsize) 0 40 - leatReserved - w.stagedBytes a

/-- The lowest offset of the pool where `n` bytes are free (log entry 4: first fit). -/
def poolFit (used : List (Nat × Nat)) (size n : Nat) : Option Nat :=
  let starts := 0 :: used.map fun u => u.1 + u.2
  minBy id (starts.filter fun o =>
    decide (o + n ≤ size) && used.all fun u => o + n ≤ u.1 || u.1 + u.2 ≤ o)

/-- The records of a core's overflow latch. -/
def W.latchCount (w : W) (c : Nat) : Nat :=
  ((w.coreFrags c).filter fun e => e.2.latch.isSome).length

/-- The base and pointer registers of a report ring (18 R431). -/
def W.ringBase (w : W) : Ring → Dword
  | .ctx a => w.srReg a .fltring
  | .sys => w.blk .errring 0
def W.ringPtr (w : W) : Ring → Dword
  | .ctx a => w.srReg a .fltptr
  | .sys => w.blk .errptr 0
def W.setRingBase (w : W) (r : Ring) (x : Dword) : W :=
  match r with
  | .ctx a => w.setSrReg a .fltring x
  | .sys => w.setBlk .errring 0 x
def W.setRingPtr (w : W) (r : Ring) (x : Dword) : W :=
  match r with
  | .ctx a => w.setSrReg a .fltptr x
  | .sys => w.setBlk .errptr 0 x

/-- Whether a ring is full (18 R429, R431). -/
def W.ringFull (w : W) (r : Ring) : Bool :=
  let p := w.ringPtr r
  2 ^ (fld (w.ringBase r) 0 4 + 6) ≤ (fld p 32 32 + 2 ^ 32 - fld p 0 32) % 2 ^ 32

/-- A record is dropped: LOST increases, saturating (18 R429, R431). -/
def W.ringLost (w : W) (r : Ring) : W :=
  let b := w.ringBase r
  w.setRingBase r (setFld b 4 8 (min (fld b 4 8 + 1) 255))

/-- Queues a report for a ring; one that belongs to no FAULT record is dropped when the ring is full
and sixteen such wait (18 R429). -/
def W.report (w : W) (r : Ring) (x : Report) : W :=
  let waits := (w.c.sys.reps.filter fun e => e.1 = r && e.2.frag.isNone).length
  if x.frag.isNone && w.ringFull r && 16 ≤ waits then w.ringLost r
  else { w with c.sys.reps := w.c.sys.reps ++ [(r, x)] }

/-- The report of an event of a context (KIND 2 or 3), on its fault ring. -/
def W.reportCtx (w : W) (a cause kind addr : Nat) : W :=
  w.report (.ctx a) { cause := cause, kind := kind, asid := a, addr := addr }

/-- An S record on the system ring. -/
def W.reportSys (w : W) (x : Report) : W := w.report .sys x

/-- A place for a record of `n` bytes: the pool, else the overflow latch with CONT_OVERFLOW raised
once for the episode, else none (06 R160, R161). -/
def W.place (w : W) (g n : Nat) : Option (W × Option (Nat × Nat) × Option Nat) :=
  let a := (w.group g).asid
  let c := (w.group g).core
  match poolFit (w.poolUse a) (w.poolSize a) n with
  | some o => some (w, some (o, n), none)
  | none =>
    if w.latchCount c < 4 then
      let w1 := if (w.core c).overflow then w
        else (w.modCore c fun k => { k with overflow := true }).reportCtx a 0x40 2 0
      some (w1, none, some w.c.mdl.next)
    else none

/-- The new record's number: a fragment with copies of the uniform registers (06 R158). -/
def W.copySr (w : W) (f f' : Nat) : W :=
  { w with c.thr.sr := w.c.thr.sr ++ (w.c.thr.sr.filterMap fun e =>
      if e.1.1 = f then some ((f', e.1.2), e.2) else none) }

/-- Moves lanes into another fragment. -/
def W.moveLanes (w : W) (g f' : Nat) (ls : List Nat) : W :=
  ls.foldl (fun w l => w.modLane g l fun x => { x with frag := f' }) w

/-- A pending result of registers below a watermark; what lies above is discarded (06 R157). -/
def Pend.cut (p : Pend) (lv ls : Nat) : Pend :=
  { p with vdst := p.vdst.filter fun r => decide (r < lv)
           sdst := p.sdst.filter fun r => decide (r < ls) }

/-- Whether nothing is left to land. -/
def Pend.dead (p : Pend) : Bool :=
  !p.fence && p.vdst.isEmpty && p.sdst.isEmpty && p.pdst.isNone

/-- The pending results of leaving lanes go with them into their record; their windows end, and a
result for a register at or above the watermark is discarded (06 R145, R153, R157). -/
def W.movePends (w : W) (f f' : Nat) (ls : List Nat) (lv lsr : Nat) : W :=
  w.c.thr.pends.foldl (fun w e =>
    let p := e.2
    let mine := p.lanes.filter fun l => ls.contains l
    let rest := p.lanes.filter fun l => !ls.contains l
    if p.frag ≠ f || mine.isEmpty then w
    else
      let q := { p.cut lv lsr with frag := f', lanes := mine, left := none }
      let w := if rest.isEmpty then { w with c.thr.pends := adel w.c.thr.pends e.1 }
        else { w with c.thr.pends := aset w.c.thr.pends e.1 { p with lanes := rest } }
      if q.dead || q.landed then w
      else
        let (w, n) := w.newId
        { w with c.thr.pends := aset w.c.thr.pends n q }) w

/-- The lanes leave their fragment as one record, with a place for it (06 R152, R153). -/
def W.leaveAt (w : W) (g f : Nat) (ls : List Nat) (wk : Wake) (fr : FaultRec)
    (pool : Option (Nat × Nat)) (latch : Option Nat) (mark : Frag → Frag) : W :=
  let old := w.frag f
  let (w, f') := w.newId
  let w := w.setFrag f' (mark
    { gid := g, place := (match old.place with
        | .saved _ => .saved none
        | _ => .parked)
      wake := wk, lv := old.lv, ls := old.ls,
      pool := pool, latch := latch, fr := fr, wrote := w.ac })
  let w := (w.copySr f f').moveLanes g f' ls
  let w := w.movePends f f' ls old.lv old.ls
  let w := if old.mem then w.modFrag f fun x => { x with mem := false } else w
  w.modGroup g fun x => { x with perf.records := x.perf.records + 1 }

/-- A FAULT record is counted, and its report is queued for the context's fault ring (18 R427, R428). -/
def W.tellFault (w : W) (g f' : Nat) : W :=
  let x := w.frag f'
  match x.wake with
  | .fault _ _ cause =>
    let w := w.modGroup g fun y => { y with perf.faults := y.perf.faults + 1 }
    let gr := w.group g
    let ls := w.fragLanes g f'
    w.report (.ctx gr.asid)
      { cause := cause, kind := x.fr.kind, asid := gr.asid, core := gr.core, addr := x.fr.addr
        pc := (w.lane g (ls.headD 0)).pc, lanes := laneMask ls, gindex := gr.gindex
        tlin := (w.team gr.team).tlin, grid := gr.grid, frag := some f' }
  | _ => w

/-- The lanes of a departure leave their fragment as one record; none when no place is free. -/
def W.depart (w : W) (g f : Nat) (d : Depart) (mark : Frag → Frag := id) : Option W :=
  let old := w.frag f
  let n := recBytes (w.group g).width old.lv old.ls (w.perLane g d.lanes) (w.perSeq g d.lanes)
  match w.place g n with
  | none => none
  | some (w, pool, latch) =>
    let f' := w.c.mdl.next
    let w := w.leaveAt g f d.lanes d.wake d.fr pool latch fun x => mark { x with replay := d.replay }
    some (w.tellFault g f')

/-- The lanes leave their fragment as one record of the given class, now or, where the overflow latch
is full, when it has room (06 R152, R161). A record of faulting lanes waits like that of a park
(DEDUCED, log entry 15). -/
def W.leave (w : W) (g f : Nat) (ls : List Nat) (wk : Wake) (fr : FaultRec)
    (replay : Option (Nat × Nat) := none) (mark : Frag → Frag := id) : W :=
  let d : Depart := { lanes := ls, wake := wk, fr := fr, replay := replay }
  match w.depart g f d mark with
  | some w => w
  | none => w.modFrag f fun x => { x with hold := x.hold ++ [d] }

/-- Removes a fragment and its uniform registers. -/
def W.dropFrag (w : W) (f : Nat) : W :=
  { w with c.thr.frags := adel w.c.thr.frags f
           c.thr.sr := w.c.thr.sr.filter fun e => e.1.1 ≠ f }

/-- A fragment whose lanes have all been written frees its context, unless it is held (06 R161). -/
def W.dropDone (w : W) (f : Nat) : W := if (w.frag f).hold.isEmpty then w.dropFrag f else w

/-- A fragment left without a runnable lane writes its held lanes as JOIN records, one for each
meeting address, and frees its context (06 R152, R178). -/
def W.shed (w : W) (g f : Nat) : W :=
  if (w.runLanes g f).isEmpty && (w.frag f).hold.isEmpty then
    let held := w.heldLanes g f
    let meets := uniq (held.map fun l => (w.lane g l).meet)
    let w := meets.foldl (fun w m =>
      w.leave g f (held.filter fun l => (w.lane g l).meet = m) (.join m) {}) w
    w.dropDone f
  else w

/-- The lanes of a fragment by PC and, for held ones, meeting address (06 R152). -/
def W.laneSets (w : W) (g f : Nat) : List (Wake × List Nat) :=
  let run := w.runLanes g f
  let held := w.heldLanes g f
  (uniq (run.map fun l => (w.lane g l).pc)).map
      (fun pc => (Wake.ready, run.filter fun l => (w.lane g l).pc = pc)) ++
    (uniq (held.map fun l => (w.lane g l).meet)).map fun m =>
      (Wake.join m, held.filter fun l => (w.lane g l).meet = m)

/-- Every lane of a fragment is written, and its context is freed (06 R152). -/
def W.writeOut (w : W) (g f : Nat) (mark : Frag → Frag) : W :=
  ((w.laneSets g f).foldl (fun w e => w.leave g f e.2 e.1 {} none mark) w).dropDone f

/-! ## Taking an exception (18 R427) -/

/-- A fault of one lane: its cause (18 R426) and the faulting address. -/
structure LFault where
  lane : Nat
  cause : Nat
  addr : Nat := 0
  deriving DecidableEq, Repr

/-- The lanes leave as one FAULT record with the PC given (06 R164, 18 R427). `iaddr` is the faulting
instruction's address. -/
def W.takeFault (w : W) (g f : Nat) (ls : List Nat) (cause addr kind pc iaddr : Nat)
    (replay : Bool) : W :=
  let w := ls.foldl (fun w l => w.modLane g l fun x => { x with pc := pc }) w
  w.leave g f ls (.fault iaddr replay cause) { addr := addr, kind := kind, rep := .waiting }

/-- Lanes that fault with several causes leave as several records, in ascending cause (18 R427). -/
def W.takeFaults (w : W) (g f : Nat) (fs : List LFault) (pc iaddr : Nat) (replay : Bool) : W :=
  (sortBy id (uniq (fs.map LFault.cause))).foldl (fun w c =>
    let mine := fs.filter fun x => x.cause = c
    let low := minBy LFault.lane mine
    w.takeFault g f (mine.map LFault.lane) c (match low with | some x => x.addr | none => 0) 0
      pc iaddr replay) w

/-- The place of a record in the order of waking: the ac, then the team's index, the group's with task
groups last, and the lowest lane (06 R162). -/
def W.wakeKey (w : W) (f : Nat) : Nat :=
  let g := (w.frag f).gid
  let gr := w.group g
  ((w.ac * 2 ^ 40 + (w.team gr.team).tlin) * 2 ^ 33 + gr.gindex) * 64 + (w.fragLanes g f).headD 0

/-- A woken record enters the resume FIFO behind the others (06 R153, R162). -/
def W.wake (w : W) (f : Nat) : W :=
  let n := w.wakeKey f
  w.modFrag f fun x =>
    match x.place with
    | .parked => { x with place := .fifo n }
    | .saved none => { x with place := .saved (some n) }
    | _ => x

/-- The departures of a held fragment, in order, as far as there is room; then what is left of it goes
on, or frees its context (06 R161). -/
def W.letGo (w : W) (f : Nat) : W :=
  let g := (w.frag f).gid
  let w := (w.frag f).hold.foldl (fun w d =>
    if (w.frag f).hold.head? ≠ some d then w
    else match w.depart g f d with
      | some w => w.modFrag f fun x => { x with hold := x.hold.drop 1 }
      | none => w) w
  if !(w.frag f).hold.isEmpty then w
  else match (w.frag f).place, (w.frag f).wake with
    | .ctx _, _ => w.shed g f
    | _, .fault _ _ _ => if (w.fragLanes g f).isEmpty then w.dropFrag f else w.wake f
    | _, _ => if (w.fragLanes g f).isEmpty then w.dropFrag f else w

/-- The lanes of a resumed record that a kept fault strikes leave again (06 R164). -/
def W.leaveAgain (w : W) (f : Nat) (ls : List Nat) (k : Late) : W :=
  let x := w.frag f
  let g := x.gid
  (uniq (ls.map fun l => (w.lane g l).pc)).foldl (fun w pc =>
    w.takeFault g f (ls.filter fun l => (w.lane g l).pc = pc) k.cause k.addr 0 pc k.iaddr true) w

/-- Takes lanes out of the first kept fault that holds one of them. -/
def takeKept (ls : List Nat) : List Late → Option (Late × List Late)
  | [] => none
  | k :: ks =>
    if k.lanes.any fun l => ls.contains l then
      let rest := k.lanes.filter fun l => !ls.contains l
      some (k, if rest.isEmpty then ks else { k with lanes := rest } :: ks)
    else (takeKept ls ks).map fun r => (r.1, k :: r.2)

/-- The return from an exception: the record of a FAULT wakes (18 R434); lanes for which a later fault
was kept leave at once as a record of it (06 R164). -/
def W.resume (w : W) (f : Nat) : W :=
  let w := w.modFrag f fun x => { x with fr.rep := .none }
  let g := (w.frag f).gid
  let ls := w.fragLanes g f
  match takeKept ls (w.group g).kept with
  | none => w.wake f
  | some (k, ks) =>
    let mine := k.lanes.filter fun l => ls.contains l
    let w := (w.modGroup g fun x => { x with kept := ks }).leaveAgain f mine k
    if (w.fragLanes g f).isEmpty then w.dropFrag f else if (w.frag f).hold.isEmpty then w.wake f else w

end Sys2Proof.Machine
end

