-- ==== Sys2Proof/Machine/Aes.lean ====
section
/-! DEFINITION. AES-256 in XTS mode (IEEE 1619), by which lines are encrypted between a memory-side
cache and memory (15 R371). Blocks and keys are lists of bytes as numbers. -/

namespace Sys2Proof.Machine

/-- Multiplication by x in GF(2^8) of AES. -/
def aesX (a : Nat) : Nat := if a < 128 then 2 * a else (2 * a - 256) ^^^ 0x1B

/-- The product in GF(2^8): `n` bits of `b`, lowest first. -/
def aesMulN : Nat → Nat → Nat → Nat
  | 0, _, _ => 0
  | n + 1, a, b => (if b % 2 = 1 then a else 0) ^^^ aesMulN n (aesX a) (b / 2)

def aesMul (a b : Nat) : Nat := aesMulN 8 a b

/-- The inverse in GF(2^8), 0 for 0: the power 254. -/
def aesInv (a : Nat) : Nat :=
  let a2 := aesMul a a
  let a3 := aesMul a2 a
  let a6 := aesMul a3 a3
  let a12 := aesMul a6 a6
  let a15 := aesMul a12 a3
  let a30 := aesMul a15 a15
  let a60 := aesMul a30 a30
  let a120 := aesMul a60 a60
  let a126 := aesMul a120 a6
  let a252 := aesMul a126 a126
  aesMul a252 a2

/-- A byte turned left by `n` bits. -/
def rotl8 (a n : Nat) : Nat := (a * 2 ^ n) % 256 + a / 2 ^ (8 - n)

def aesSub (a : Nat) : Nat :=
  let b := aesInv a
  b ^^^ rotl8 b 1 ^^^ rotl8 b 2 ^^^ rotl8 b 3 ^^^ rotl8 b 4 ^^^ 0x63

def aesInvSub (a : Nat) : Nat := aesInv (rotl8 a 1 ^^^ rotl8 a 3 ^^^ rotl8 a 6 ^^^ 0x05)

def xorB (a b : List Nat) : List Nat := a.zipWith (fun x y => x ^^^ y) b

/-- The key schedule of AES-256 as 4-byte words, the next word from those so far (newest first). -/
def aesNextWord (ws : List (List Nat)) : List Nat :=
  let i := ws.length
  let prev := ws.headD []
  let back := ws.getD 7 []
  let t :=
    if i % 8 = 0 then
      match prev with
      | a :: rest =>
        xorB ((rest ++ [a]).map aesSub) [(List.range (i / 8 - 1)).foldl (fun r _ => aesX r) 1, 0, 0, 0]
      | [] => []
    else if i % 8 = 4 then prev.map aesSub
    else prev
  xorB back t

def aesWords : Nat → List (List Nat) → List (List Nat)
  | 0, ws => ws
  | n + 1, ws => aesWords n (aesNextWord ws :: ws)

/-- The fifteen round keys. -/
def aesKeys (key : List Nat) : List (List Nat) :=
  let first := (List.range 8).map fun i => (key.drop (4 * i)).take 4
  let ws := (aesWords 52 first.reverse).reverse
  (List.range 15).map fun r => ((ws.drop (4 * r)).take 4).flatten

/-- Byte (row r, column c) of a state is at 4c + r; ShiftRows takes it from column c + k·r. -/
def aesRows (k : Nat) (s : List Nat) : List Nat :=
  (List.range 16).map fun i => s.getD (4 * ((i / 4 + k * (i % 4)) % 4) + i % 4) 0

/-- Each column multiplied by the circulant of the coefficients. -/
def aesCols (co : List Nat) (s : List Nat) : List Nat :=
  (List.range 16).map fun i =>
    (List.range 4).foldl (fun x j =>
      x ^^^ aesMul (co.getD ((j + 4 - i % 4) % 4) 0) (s.getD (4 * (i / 4) + j) 0)) 0

def aesEncrypt (key block : List Nat) : List Nat :=
  let ks := aesKeys key
  let s := xorB block (ks.getD 0 [])
  let s := (List.range 13).foldl (fun s r =>
    xorB (aesCols [2, 3, 1, 1] (aesRows 1 (s.map aesSub))) (ks.getD (r + 1) [])) s
  xorB (aesRows 1 (s.map aesSub)) (ks.getD 14 [])

def aesDecrypt (key block : List Nat) : List Nat :=
  let ks := aesKeys key
  let s := xorB block (ks.getD 14 [])
  let s := (List.range 13).foldl (fun s r =>
    aesCols [14, 11, 13, 9] (xorB ((aesRows 3 s).map aesInvSub) (ks.getD (13 - r) []))) s
  xorB ((aesRows 3 s).map aesInvSub) (ks.getD 0 [])

/-- The tweak times x: bytes lowest first, reduction by 0x87. -/
def xtsX (t : List Nat) : List Nat :=
  let n := t.foldr (fun b n => b + 256 * n) 0
  let m := if n < 2 ^ 127 then 2 * n else (2 * n - 2 ^ 128) ^^^ 0x87
  (List.range 16).map fun i => m / 256 ^ i % 256

/-- The bytes of a 512-bit key: the data key, then the tweak key (IEEE 1619; KEYDATA0 lowest). -/
def keyBytes (k : BitVec 512) (lo : Nat) : List Nat :=
  (List.range 32).map fun i => k.toNat / 256 ^ (lo + i) % 256

/-- The tweak of a 16-byte block: the line PA[51:7] encrypted, times x to the power PA[6:4]. -/
def xtsTweak (k : BitVec 512) (pa : Nat) : List Nat :=
  let t := aesEncrypt (keyBytes k 32) ((List.range 16).map fun i => pa / 128 / 256 ^ i % 256)
  (List.range (pa / 16 % 8)).foldl (fun t _ => xtsX t) t

/-- One 16-byte block at a physical address, encrypted or decrypted (15 R371). -/
def xtsBlock (enc : Bool) (k : BitVec 512) (pa : Nat) (block : List Byte) : List Byte :=
  let t := xtsTweak k pa
  let x := xorB (block.map BitVec.toNat) t
  let y := if enc then aesEncrypt (keyBytes k 0) x else aesDecrypt (keyBytes k 0) x
  (xorB y t).map (BitVec.ofNat 8)

end Sys2Proof.Machine
end

