-- ==== Sys2Proof/Machine/Mem.lean ====
section
/-! DEFINITION. The memory a program sees: the three levels, translation, permission and residency,
poison, keys, and the reads and writes of bytes by scope (09 R235–R245, 11 R288, R296, 15 R371–R373). -/

namespace Sys2Proof.Machine

/-- How an access ends: with its value, at a page that is not resident, or with a cause and an
address (09 R243, R245). -/
inductive MRes (α : Type) where
  | ok (x : α)
  | nonres (va : Nat)
  | bad (cause va : Nat)
  deriving DecidableEq, Repr

/-- What an access asks of a page (09 R243). -/
inductive Acc where
  | read
  | write
  | exec
  deriving DecidableEq, Repr

/-! ## Level 3: physical memory under keys, with poison (15 R371–R373) -/

/-- The 16-byte block at a physical address as plaintext; none when the key is not loaded. -/
def W.block3 (w : W) (key pa : Nat) : Option (List Byte) :=
  let raw := w.bytes (pa / 16 * 16) 16
  if key = 0 then some raw
  else if w.c.mc.purging.contains key then none
  else match aget w.c.mc.keys key with
    | none => none
    | some k => some (xtsBlock false k (pa / 16 * 16) raw)

/-- The plaintext bytes at a physical address, within the blocks that hold them. -/
def W.plain3 (w : W) (key pa n : Nat) : Option (List Byte) :=
  if key = 0 then some (w.bytes pa n)
  else
    let b0 := pa / 16
    let blocks := (List.range ((pa + n + 15) / 16 - b0)).map fun i => w.block3 key (16 * (b0 + i))
    if blocks.any Option.isNone then none
    else some (((blocks.filterMap id).flatten.drop (pa % 16)).take n)

/-- Writes plaintext bytes at a physical address under a key; none when the key is not loaded. -/
def W.write3 (w : W) (key pa : Nat) (bs : List Byte) : Option W :=
  if key = 0 then some (w.putBytes pa bs)
  else
    let b0 := pa / 16
    let cnt := (pa + bs.length + 15) / 16 - b0
    match w.plain3 key (16 * b0) (16 * cnt), aget w.c.mc.keys key with
    | some old, some k =>
      let new := old.take (pa % 16) ++ bs ++ old.drop (pa % 16 + bs.length)
      let enc := (List.range cnt).map fun i =>
        xtsBlock true k (16 * (b0 + i)) ((new.drop (16 * i)).take 16)
      some (w.putBytes (16 * b0) enc.flatten)
    | _, _ => none

/-- The sectors that `n` bytes from a physical address touch (15 R373). -/
def sectors (pa n : Nat) : List Nat :=
  (List.range ((pa + n + 31) / 32 - pa / 32)).map fun i => pa / 32 + i

/-- A read meets the sectors: poison, or an uncorrectable sector that becomes poisoned. -/
def W.meetSectors (w : W) (pa n : Nat) : W × Option Nat :=
  let ss := sectors pa n
  if ss.any fun s => w.c.cch.poison.contains s then (w, some Cause.memPoison)
  else
    let bad := ss.filter fun s => w.c.cch.badEcc.contains s
    if bad.isEmpty then (w, none)
    else
      ({ w with c.cch.poison := w.c.cch.poison ++ bad
                c.cch.badEcc := w.c.cch.badEcc.filter fun s => !bad.contains s },
       some Cause.memUncorrectable)

/-- The sectors of a write: one covered whole loses its poison; a partial write into a poisoned
sector is dropped there and reported to the context (15 R373). The bytes that remain to write. -/
def W.storePoison (w : W) (a pa : Nat) (bs : List Byte) : W × List (Nat × Byte) :=
  let ss := sectors pa bs.length
  let whole := ss.filter fun s => pa ≤ 32 * s && 32 * s + 32 ≤ pa + bs.length
  let w := { w with c.cch.poison := w.c.cch.poison.filter fun s => !whole.contains s
                    c.cch.badEcc := w.c.cch.badEcc.filter fun s => !whole.contains s }
  let kept := ss.filter fun s => w.c.cch.poison.contains s
  let w := if kept.isEmpty then w else w.reportCtx a Cause.memPoison 2 pa
  (w, (bs.zipIdx.map fun e => (e.2, e.1)).filter fun e => !kept.contains ((pa + e.1) / 32))

/-! ## Translation (09 R241–R244) -/

/-- A page as a leaf entry maps it. -/
structure Page where
  /-- log2 of its bytes -/
  size : Nat
  epa : Nat
  entry : Nat
  deriving DecidableEq, Repr

def Page.bit (p : Page) (n : Nat) : Bool := p.entry.testBit n
def Page.key (p : Page) : Nat := bits p.entry 56 8
def Page.tier (p : Page) : Nat := bits p.entry 54 2
/-- The physical address of a VA of the page. -/
def Page.pa (p : Page) (va : Nat) : Nat := bits p.entry 8 44 * 256 + va % 2 ^ p.size

inductive Walk where
  | page (p : Page)
  | unmapped
  | tableError
  deriving DecidableEq, Repr

/-- The index of a VA in the table of a level, and log2 of what its leaf maps (09 R241). -/
def walkIndex (level va : Nat) : Nat :=
  match level with
  | 0 => bits va 39 17
  | 1 => bits va 30 9
  | 2 => bits va 21 9
  | _ => bits va 16 5
def leafSize (level : Nat) : Nat :=
  match level with
  | 0 => 39 | 1 => 30 | 2 => 21 | _ => 16

/-- The walk from a level, four levels at most (09 R241–R243). -/
def W.walkAt (w : W) (va : Nat) : Nat → Nat → Nat → Walk
  | 0, _, _ => .tableError
  | n + 1, level, tbl =>
    let epa := tbl + 8 * walkIndex level va
    let e := leNat (w.bytes epa 8)
    let addr := bits e 8 44 * 256
    if w.c.cch.poison.contains (epa / 32) || w.c.cch.badEcc.contains (epa / 32) then .tableError
    else if !e.testBit 0 then .unmapped
    else if e.testBit 52 then .tableError
    else if e.testBit 1 then
      if level = 0 || addr % 2 ^ leafSize level != 0 || 2 ≤ bits e 54 2
        || (e.testBit 4 && !e.testBit 3) then .tableError
      else .page { size := leafSize level, epa := epa, entry := e }
    else if level = 3 || bits e 53 11 != 0 || bits e 2 6 != 0
      || addr % (if level = 2 then 256 else 4096) != 0 then .tableError
    else W.walkAt w va n (level + 1) addr

def W.walk (w : W) (a va : Nat) : Walk :=
  w.walkAt va 4 0 (fld (w.srReg a .ttbase) 20 32 * 2 ^ 20)

/-- The translation the TLBs hold for a VA (09 R244). -/
def W.tlbFind (w : W) (a va : Nat) : Option Page :=
  let g := (w.ctx a).gen
  let try_ := fun s => match aget w.c.cch.tlb (a, g, s, va / 2 ^ s) with
    | some t => some { size := t.size, epa := t.epa, entry := t.entry : Page }
    | none => none
  match try_ 16 with
  | some p => some p
  | none => match try_ 21 with
    | some p => some p
    | none => try_ 30

/-- Sets A or D of an entry in memory by its one byte (09 R242). -/
def W.setEntryBit (w : W) (epa bit : Nat) : W :=
  let pa := epa + bit / 8
  let b := (w.byte pa).toNat
  if b.testBit (bit % 8) then w else w.putByte pa (BitVec.ofNat 8 (b ||| 2 ^ (bit % 8)))

/-- A page found resident leaves the filters of residency requests (09 R246). -/
def W.unfilter (w : W) (a va : Nat) : W :=
  { w with c.cch.filter := w.c.cch.filter.map fun e => (e.1, e.2.filter fun x => x ≠ (a, va / 65536)) }

/-- The page of a VA: from the TLBs, else by a walk that is counted, sets A, and enters the TLBs when
the page is resident. -/
def W.findPage (w : W) (a va : Nat) : W × MRes Page :=
  match w.tlbFind a va with
  | some p => (w.unfilter a va, .ok p)
  | none =>
    let w := { w with c.cch.walks := abump w.c.cch.walks a 1 }
    match w.walk a va with
    | .unmapped => (w, .bad Cause.pageNotPresent va)
    | .tableError =>
      (w.reportCtx a Cause.translationTableError 2 va, .bad Cause.translationTableError va)
    | .page p =>
      if p.bit 2 then
        let w := w.setEntryBit p.epa 7
        let k := (a, (w.ctx a).gen, p.size, va / 2 ^ p.size)
        let t : Tlb := { size := p.size, epa := p.epa, entry := p.entry }
        ({ w.unfilter a va with c.cch.tlb := aset w.c.cch.tlb k t }, .ok p)
      else (w, .nonres va)

/-- Whether a page permits an access; `u` asks U = 1 too (09 R243). -/
def Page.permits (p : Page) (acc : Acc) (u : Bool) : Bool :=
  (!u || p.bit 6) && match acc with
    | .read => p.bit 3
    | .write => p.bit 4
    | .exec => p.bit 5

def Acc.cause : Acc → Nat
  | .read => Cause.protectionRead
  | .write => Cause.protectionWrite
  | .exec => Cause.protectionExec

/-- A translation with its checks, as system software (`u` false) or as the context asks. -/
def W.xlate (w : W) (a va : Nat) (acc : Acc) (u : Bool) : W × MRes Page :=
  match w.findPage a va with
  | (w, .ok p) => (w, if p.permits acc u then .ok p else .bad acc.cause va)
  | r => r

/-- Write permission is granted: D is set (09 R237, R242). -/
def W.granted (w : W) (p : Page) : W := w.setEntryBit p.epa 53

/-- The cause of an error of memory: the CXL device's own on a page of the second tier (09 R256). -/
def errCause (tier : Bool) (c : Nat) : Nat := if tier then Cause.cxlTierError else c

/-- An unprivileged context needs U (09 R242). -/
def W.needU (w : W) (a : Nat) : Bool := !(w.ctx a).priv

/-- The tier log's sample of an access to a second-tier page that misses in level 3 (09 R257). The
I/O die of a page is the part's choice. -/
def W.tierAccess (w : W) (a pa : Nat) : W :=
  let die := Config.choice 1 (pa / 65536) % 2
  let base := w.blk .tierLogbase die
  let rate := fld base 4 5
  if rate = 0 then w
  else
    let n := (aget w.c.cch.tierMiss die).getD 0 + 1
    let w := { w with c.cch.tierMiss := aset w.c.cch.tierMiss die n }
    let ctl := w.blk .tierLogctl die
    let ring := 2 ^ (fld base 0 4 + 8)
    let tail := fld ctl 32 32
    let head := fld ctl 0 32
    let slot := fun k => fld base 12 40 * 4096 + 16 * (k % ring)
    let logged := (aget w.c.cch.tierLog (die, pa / 65536)).filter fun k =>
      (tail + 2 ^ 32 - k) % 2 ^ 32 ≤ (tail + 2 ^ 32 - head) % 2 ^ 32
    match logged with
    | some k =>
      let at_ := slot k + 10
      let c := leNat (w.bytes at_ 2)
      w.putBytes at_ (leBytes 2 (min (c + 1) 65535))
    | none =>
      if n % 2 ^ (rate - 1) ≠ 0 || (tail + 2 ^ 32 - head) % 2 ^ 32 ≥ ring then w
      else
        let w := w.putBytes (slot tail)
          (leBytes 8 (pa / 65536 * 65536) ++ leBytes 2 a ++ leBytes 2 1 ++ leBytes 4 0)
        let w := { w with c.cch.tierLog := aset w.c.cch.tierLog (die, pa / 65536) tail }
        w.setBlk .tierLogctl die (setFld ctl 32 32 (tail + 1))

/-! ## The memory-side caches (01 R10, 09 R235) -/

/-- The stack beside which a physical line lies, and so its memory-side cache: the part's choice. -/
def stackOf (ln : Nat) : Nat := Config.choice 42 ln % Config.hbmStacks

/-- A memory-side cache takes a line, in the place of another when it is full. -/
def W.keep3 (w : W) (ln : Nat) : W :=
  let old := w.c.cch.l3
  let mine := if old.length < Config.l3Lines then [] else old.filter fun x => stackOf x = stackOf ln
  let out := if mine.length < Config.l3Lines then none
    else mine[Config.choice 43 w.c.mdl.fresh % mine.length]?
  { w with c.cch.l3 := ln :: (old.filter fun x => some x ≠ out) }

/-- An access at level 3 meets a line; one that misses in the second tier may be logged (09 R257). -/
def W.reach3 (w : W) (a pa : Nat) (tier : Bool) : W :=
  if w.c.cch.l3.contains (pa / 128) then w
  else (if tier then w.tierAccess a pa else w).keep3 (pa / 128)

/-! ## The lines of levels 1 and 2 (09 R236–R240) -/

def Line.byte (l : Line) (i : Nat) : Byte := l.data.getD i 0
def emptyData : List Byte := List.replicate 128 0

/-- Writes bytes of a line and marks them written. -/
def Line.write (l : Line) (bs : List (Nat × Byte)) : Line :=
  bs.foldl (fun l e => { l with data := l.data.set e.1 e.2, wr := l.wr ||| 2 ^ e.1 }) l

/-- Fills a sector with bytes from below, keeping the bytes written since (11 R288). -/
def Line.fill (l : Line) (s : Nat) (bs : List Byte) : Line :=
  let d := (List.range 32).foldl (fun d i =>
    if l.wr.testBit (32 * s + i) then d else d.set (32 * s + i) (bs.getD i 0)) l.data
  { l with data := d, sv := l.sv ||| 2 ^ s }

/-- The bytes written since the fill: index and value. -/
def Line.dirty (l : Line) : List (Nat × Byte) :=
  ((List.range 128).filter fun i => l.wr.testBit i).map fun i => (i, l.byte i)

/-- The runs of dirty bytes as single writes to memory. -/
def W.writeDirty (w : W) (key pa : Nat) (bs : List (Nat × Byte)) : W :=
  bs.foldl (fun w e => (w.write3 key (pa + e.1) [e.2]).getD w) w

/-- Writes an L2 line back to level 3; its sectors stay valid. -/
def W.flush2 (w : W) (a ln : Nat) : W :=
  match aget w.c.cch.l2 (a, ln) with
  | none => w
  | some l =>
    let w := if l.wr = 0 then w else (w.reach3 a l.pa l.tier).writeDirty l.key l.pa l.dirty
    { w with c.cch.l2 := aset w.c.cch.l2 (a, ln) { l with wr := 0 } }

/-- Removes an L2 line; the directory forgets it as holder. -/
def W.drop2 (w : W) (a ln : Nat) : W :=
  { w with c.cch.l2 := adel w.c.cch.l2 (a, ln)
           c.cch.dir := w.c.cch.dir.filter fun e => e.2 ≠ (a, ln) }

/-- Writes the dirty bytes of an L1 line into its L2 line; the L1 line keeps its valid sectors. An L2
line is never given up before these bytes have reached it (`W.gather1`), so it stands. -/
def W.flush1 (w : W) (c a ln : Nat) : W :=
  match aget w.c.cch.l1 (c, a, ln) with
  | none => w
  | some l =>
    if l.wr = 0 then w
    else
    let l2 := (aget w.c.cch.l2 (a, ln)).getD
      { key := l.key, pa := l.pa, tier := l.tier, data := emptyData }
    { w with c.cch.l2 := aset w.c.cch.l2 (a, ln) { l2.write l.dirty with wsc := l.wsc }
             c.cch.l1 := aset w.c.cch.l1 (c, a, ln) { l with wr := 0 } }

def W.drop1 (w : W) (c a ln : Nat) : W :=
  { w with c.cch.l1 := adel w.c.cch.l1 (c, a, ln) }

/-- The dirty bytes that any L1 holds of a line of a context go to its L2 line. -/
def W.gather1 (w : W) (a ln : Nat) : W :=
  (w.c.cch.l1.filter fun e => e.1.2 = (a, ln) && e.2.wr ≠ 0).foldl (fun w e => w.flush1 e.1.1 a ln) w

/-- A line loses its write permission at both levels, and the directory its holder. -/
def W.noWrite (w : W) (a ln : Nat) : W :=
  { w with c.cch.l1 := w.c.cch.l1.map fun e =>
             if e.1.2 = (a, ln) then (e.1, { e.2 with pw := false }) else e
           c.cch.l2 := w.c.cch.l2.map fun e =>
             if e.1 = (a, ln) then (e.1, { e.2 with pw := false }) else e
           c.cch.dir := w.c.cch.dir.filter fun e => e.2 ≠ (a, ln) }

/-- A line leaves L2: written back and removed. -/
def W.evict2 (w : W) (a ln : Nat) : W :=
  (((w.gather1 a ln).flush2 a ln).noWrite a ln).drop2 a ln

/-- Every L2 line of a physical line but the one named is written back and removed (09 R238). -/
def W.snoop (w : W) (pa : Nat) (keep : Option (Nat × Nat)) : W :=
  let ls := w.c.cch.l2.filter fun e => e.2.pa = pa / 128 * 128 && some e.1 ≠ keep
  ls.foldl (fun w e => w.evict2 e.1.1 e.1.2) w

/-- A read of a physical line under one VA: every other L2 line of it writes back its dirty bytes, and
keeps no write permission (09 R238; across contexts by 09 R235). -/
def W.recall (w : W) (a ln pa : Nat) : W :=
  let ls := w.c.cch.l2.filter fun e => e.2.pa = pa / 128 * 128 && e.1 ≠ (a, ln)
  ls.foldl (fun w e => ((w.gather1 e.1.1 e.1.2).flush2 e.1.1 e.1.2).noWrite e.1.1 e.1.2) w

/-- Before a physical line is read at the memory-side cache, every L2 line of it writes back its dirty
bytes (09 R235). -/
def W.pull3 (w : W) (pa : Nat) : W :=
  let ls := w.c.cch.l2.filter fun e => e.2.pa = pa / 128 * 128
  ls.foldl (fun w e => (w.gather1 e.1.1 e.1.2).flush2 e.1.1 e.1.2) w

/-- The home slice of a line: a fixed function of ASID and VA, the part's choice (09 R235). -/
def W.home (w : W) (a ln : Nat) : Nat := Config.choice 40 (2 ^ 49 * a + ln) % max 1 (fld w.boot.config 51 9)

/-- Room for a new line in its home slice: another line leaves a slice that is full. -/
def W.room2 (w : W) (a ln : Nat) : W :=
  if w.c.cch.l2.length < Config.l2Lines then w
  else
    let mine := w.c.cch.l2.filter fun e => w.home e.1.1 e.1.2 = w.home a ln
    if mine.length < Config.l2Lines then w
    else match mine[Config.choice 41 w.c.mdl.fresh % mine.length]? with
      | some e => w.evict2 e.1.1 e.1.2
      | none => w

/-- An L2 line as it is to stand; a new one takes its place in its home slice. -/
def W.setLine2 (w : W) (a ln : Nat) (l : Line) : W :=
  let w := if (aget w.c.cch.l2 (a, ln)).isNone then w.room2 a ln else w
  { w with c.cch.l2 := aset w.c.cch.l2 (a, ln) l }

/-- An L1 line as it is to stand; another line leaves a full L1. -/
def W.setLine1 (w : W) (c a ln : Nat) (l : Line) : W :=
  let full := (aget w.c.cch.l1 (c, a, ln)).isNone && Config.l1Lines ≤ w.c.cch.l1.length
  let mine := if full then w.c.cch.l1.filter fun e => e.1.1 = c else []
  let w := if mine.length < Config.l1Lines then w
    else match mine[Config.choice 44 w.c.mdl.fresh % mine.length]? with
      | some e => (w.flush1 c e.1.2.1 e.1.2.2).drop1 c e.1.2.1 e.1.2.2
      | none => w
  { w with c.cch.l1 := aset w.c.cch.l1 (c, a, ln) l }

/-- Brings a sector of a line into L2 for reading (09 R237, R238). -/
def W.fetch2 (w : W) (a va : Nat) : W × MRes Unit :=
  let ln := va / 128
  let s := va / 32 % 4
  let have_ := match aget w.c.cch.l2 (a, ln) with
    | some l => l.pr && l.sv.testBit s
    | none => false
  if have_ then
    let pa := match aget w.c.cch.l2 (a, ln) with
      | some l => l.pa + 32 * s
      | none => 0
    match w.meetSectors pa 32 with
    | (w, some c) => (w, .bad c va)
    | (w, none) => (w, .ok ())
  else
    let w := { w with c.cch.l2miss := abump w.c.cch.l2miss a 1 }
    match w.xlate a va .read (w.needU a) with
    | (w, .bad c v) => (w, .bad c v)
    | (w, .nonres v) => (w, .nonres v)
    | (w, .ok p) =>
      let pa := p.pa va / 32 * 32
      let w := (w.recall a ln pa).reach3 a pa (p.tier = 1)
      match w.meetSectors pa 32 with
      | (w, some c) => (w, .bad (errCause (p.tier = 1) c) va)
      | (w, none) =>
        match w.plain3 p.key pa 32 with
        | none => (w, .bad Cause.keyRevoked va)
        | some bs =>
          let l := (aget w.c.cch.l2 (a, ln)).getD { data := emptyData }
          let l := { l.fill s bs with pr := true, key := p.key, pa := pa / 128 * 128, tier := p.tier = 1 }
          (w.setLine2 a ln l, .ok ())

/-- The write permission of a page is granted to a line: every other line of it is written back and
removed first (09 R237, R238). -/
def W.grant2 (w : W) (a va : Nat) (p : Page) : W :=
  let ln := va / 128
  let pa := p.pa va / 128 * 128
  let w := (w.snoop pa (some (a, ln))).granted p
  let l := (aget w.c.cch.l2 (a, ln)).getD { data := emptyData }
  let w := w.setLine2 a ln { l with pw := true, key := p.key, pa := pa, tier := p.tier = 1 }
  { w with c.cch.dir := aset w.c.cch.dir (pa / 128) (a, ln) }

/-- Gives a line the write permission, by an upgrade at level 3 where it lacks it (09 R237, R238). -/
def W.upgrade2 (w : W) (a va : Nat) : W × MRes Unit :=
  let ln := va / 128
  match aget w.c.cch.l2 (a, ln) with
  | some { pw := true, .. } => (w, .ok ())
  | _ =>
    match w.xlate a va .write (w.needU a) with
    | (w, .bad c v) => (w, .bad c v)
    | (w, .nonres v) => (w, .nonres v)
    | (w, .ok p) =>
      let pa := p.pa va / 128 * 128
      let clash := match aget w.c.cch.dir (pa / 128) with
        | some h => h.1 = a && h.2 ≠ ln
        | none => false
      if clash then (w, .bad Cause.synonymConflict va)
      else if p.key ≠ 0 && (w.plain3 p.key pa 16).isNone then (w, .bad Cause.keyRevoked va)
      else (w.grant2 a va p, .ok ())

/-- Brings a sector of a line into a core's L1 for reading. -/
def W.fetch1 (w : W) (c a va : Nat) : W × MRes Unit :=
  let ln := va / 128
  let s := va / 32 % 4
  match aget w.c.cch.l1 (c, a, ln) with
  | some { sv := sv, pr := true, pa := pa, .. } =>
    if sv.testBit s then
      match w.meetSectors (pa + 32 * s) 32 with
      | (w, some k) => (w, .bad k va)
      | (w, none) => (w, .ok ())
    else fill w ln s
  | _ => fill w ln s
where
  fill (w : W) (ln s : Nat) : W × MRes Unit :=
    let w := w.modCore c fun k => { k with l1miss := abump k.l1miss a 1 }
    match w.fetch2 a va with
    | (w, .ok ()) =>
      let l2 := (aget w.c.cch.l2 (a, ln)).getD {}
      let l := (aget w.c.cch.l1 (c, a, ln)).getD { data := emptyData }
      let bs := (l2.data.drop (32 * s)).take 32
      let l := { l.fill s bs with pr := true, pw := l2.pw, key := l2.key, pa := l2.pa, tier := l2.tier }
      (w.setLine1 c a ln l, .ok ())
    | r => r

/-! ## Accesses by scope (09 R239, R240) -/

/-- The code of a scope (03 R69). -/
def scopeNum : Scope → Nat
  | .th => 0 | .gp => 1 | .tm => 2 | .cl => 3 | .die => 4 | .pkg => 5 | .pod => 6 | .sys => 7

/-- The level that serves a scope (09 R235). -/
def scopeLevel : Scope → Nat
  | .th | .gp | .tm => 1
  | .cl | .die | .pkg => 2
  | .pod | .sys => 3

/-- The parts of an access, split at lines of 128 bytes (11 R296); an access of no bytes has none. -/
def lineParts (va n : Nat) : List (Nat × Nat) :=
  (List.range (if n = 0 then 0 else (va + n + 127) / 128 - va / 128)).map fun i =>
    let lo := max va (128 * (va / 128 + i))
    (lo, min (va + n) (128 * (va / 128 + i + 1)) - lo)

/-- The first failure of a list of accesses, each of which may change the caches. -/
def seqM (w : W) (l : List Nat) (f : W → Nat → W × MRes Unit) : W × MRes Unit :=
  l.foldl (fun (r : W × MRes Unit) v =>
    match r with
    | (w, .ok ()) => f w v
    | r => r) (w, .ok ())

/-- The first address of each sector of a part. -/
def sectorVas (va n : Nat) : List Nat :=
  (List.range (if n = 0 then 0 else (va + n + 31) / 32 - va / 32)).map fun i => max va (32 * (va / 32 + i))

/-- Reads one part of a load from the level that serves the scope. A read below its scope's level
writes the core's own dirty bytes of the line back first and gives up its copies (11 R288). -/
def W.readPart (w : W) (c a : Nat) (sc : Scope) (va n : Nat) : W × MRes (List Byte) :=
  let ln := va / 128
  match (scopeLevel sc) with
  | 1 =>
    match seqM w (sectorVas va n) (fun w v => w.fetch1 c a v) with
    | (w, .ok ()) =>
      let l := (aget w.c.cch.l1 (c, a, ln)).getD {}
      (w, .ok ((List.range n).map fun i => l.byte (va % 128 + i)))
    | (w, .bad k v) => (w, .bad k v)
    | (w, .nonres v) => (w, .nonres v)
  | 2 =>
    let w := (w.flush1 c a ln).drop1 c a ln
    match seqM w (sectorVas va n) (fun w v => w.fetch2 a v) with
    | (w, .ok ()) =>
      let l := (aget w.c.cch.l2 (a, ln)).getD {}
      (w, .ok ((List.range n).map fun i => l.byte (va % 128 + i)))
    | (w, .bad k v) => (w, .bad k v)
    | (w, .nonres v) => (w, .nonres v)
  | _ =>
    let w := (w.flush1 c a ln).drop1 c a ln
    let w := w.flush2 a ln
    let w := { w with c.cch.l2 := w.c.cch.l2.map fun e =>
                 if e.1 = (a, ln) then (e.1, { e.2 with sv := 0 }) else e }
    match seqM w (sectorVas va n) (fun w v => w.fetch2 a v) with
    | (w, .ok ()) =>
      let l := (aget w.c.cch.l2 (a, ln)).getD {}
      (w, .ok ((List.range n).map fun i => l.byte (va % 128 + i)))
    | (w, .bad k v) => (w, .bad k v)
    | (w, .nonres v) => (w, .nonres v)

/-- Gives a part of a store its permission (09 R237, 11 R296). -/
def W.prepPart (w : W) (a va : Nat) : W × MRes Unit := w.upgrade2 a va

/-- The line of an accepted store has its permission again when the store is performed: acceptance
was the check (09 R237, 06 R145). -/
def W.regrant (w : W) (a va : Nat) : W :=
  match w.upgrade2 a va with
  | (w, .ok ()) => w
  | (w, _) => match w.findPage a va with
    | (w, .ok p) => w.grant2 a va p
    | (w, _) => w

/-- Writes a part of a store into L1, and through to a level: that of its scope, or of the atomic that
it is part of (09 R239). -/
def W.writePart (w : W) (c a : Nat) (sc : Scope) (lv va : Nat) (bs : List Byte) : W :=
  let ln := va / 128
  let w := w.regrant a va
  match aget w.c.cch.l2 (a, ln) with
  | none => w
  | some l2 =>
    let (w, keep) := w.storePoison a (l2.pa + va % 128) bs
    let bytes := keep.map fun e => (va % 128 + e.1, e.2)
    let l := (aget w.c.cch.l1 (c, a, ln)).getD { data := emptyData }
    let l := { l.write bytes with pw := true, key := l2.key, pa := l2.pa, tier := l2.tier, wsc := (scopeNum sc) }
    let w := w.setLine1 c a ln l
    let w := if 2 ≤ lv then w.flush1 c a ln else w
    if 3 ≤ lv then w.flush2 a ln else w

/-- A release at a scope: the dirty lines of the context below its level are written back
(09 R240). -/
def W.release (w : W) (c a : Nat) (sc : Scope) : W :=
  if (scopeLevel sc) = 1 then w
  else
    let l1 := w.c.cch.l1.filter fun e => e.1.1 = c && e.1.2.1 = a && e.2.wr ≠ 0
    let w := l1.foldl (fun w e => w.flush1 c a e.1.2.2) w
    if (scopeLevel sc) = 3 then
      let w := (w.c.cch.l2.filter fun e => e.1.1 = a && e.2.wr ≠ 0).foldl
        (fun w e => w.flush2 a e.1.2) w
      w
    else w

/-- An acquire at a scope: the clean lines of the context in the core's L1 are invalidated; dirty
sectors are kept (09 R240). -/
def W.acquire (w : W) (c a : Nat) (sc : Scope) : W :=
  if (scopeLevel sc) = 1 then w
  else
    { w with c.cch.l1 := (w.c.cch.l1.filter fun e =>
        !(e.1.1 = c && e.1.2.1 = a) || e.2.wr ≠ 0).map fun e =>
          if e.1.1 = c && e.1.2.1 = a then
            (e.1, { e.2 with sv := (List.range 4).foldl (fun m s =>
              if bits e.2.wr (32 * s) 32 ≠ 0 && e.2.sv.testBit s then m + 2 ^ s else m) 0 })
          else e }

/-! ## Whole accesses of an agent in a context -/

/-- How a part on a page that is not resident ends: with a residency predicate it is left out, with
none it faults (09 R245). -/
def nonresPart {α : Type} (rp : Bool) (va : Nat) (x : α) : MRes α :=
  if rp then .ok x else .bad Cause.pageNotPresent va

/-- The bytes of a load of `n` bytes and the addresses of its parts on pages that are not resident,
which read 0; a fault is that of the lowest failing part (09 R245, 11 R296). -/
def W.loadParts (w : W) (c a : Nat) (sc : Scope) (va n : Nat) (rp : Bool) : W × MRes (List Byte × List Nat) :=
  (lineParts va n).foldl (fun (r : W × MRes (List Byte × List Nat)) p =>
    match r with
    | (w, .ok (bs, nr)) =>
      match w.readPart c a sc p.1 p.2 with
      | (w, .ok x) => (w, .ok (bs ++ x, nr))
      | (w, .nonres _) => (w, nonresPart rp p.1 (bs ++ List.replicate p.2 0, nr ++ [p.1]))
      | (w, .bad k v) => (w, .bad k v)
    | r => r) (w, .ok ([], []))

/-- A load that leaves out parts that are not resident; the Boolean says whether it did. -/
def W.load (w : W) (c a : Nat) (sc : Scope) (va n : Nat) : W × MRes (List Byte × Bool) :=
  match w.loadParts c a sc va n true with
  | (w, .ok (bs, nr)) => (w, .ok (bs, !nr.isEmpty))
  | (w, .nonres v) => (w, .nonres v)
  | (w, .bad k v) => (w, .bad k v)

/-- Gives every part of a store its permission; the parts that are not resident (11 R296). -/
def W.prep (w : W) (a va n : Nat) (rp : Bool := true) : W × MRes (List Nat) :=
  (lineParts va n).foldl (fun (r : W × MRes (List Nat)) p =>
    match r with
    | (w, .ok nr) =>
      match w.prepPart a p.1 with
      | (w, .ok ()) => (w, .ok nr)
      | (w, .nonres _) => (w, nonresPart rp p.1 (nr ++ [p.1]))
      | (w, .bad k v) => (w, .bad k v)
    | r => r) (w, .ok [])

/-- Writes the parts of a store that are resident, through to a level. -/
def W.storeAt (w : W) (c a : Nat) (sc : Scope) (lv va : Nat) (bs : List Byte) (skip : List Nat) : W :=
  (lineParts va bs.length).foldl (fun w p =>
    if skip.contains p.1 then w
    else w.writePart c a sc lv p.1 ((bs.drop (p.1 - va)).take p.2)) w

/-- Writes the parts of a store that are resident. -/
def W.store (w : W) (c a : Nat) (sc : Scope) (va : Nat) (bs : List Byte) (skip : List Nat) : W :=
  w.storeAt c a sc (scopeLevel sc) va bs skip

/-- One read-modify-write at the home slice, or at level 3 for .pod and .sys (09 R239, 10 R277): the
bytes found, and the bytes written if any. -/
def W.rmw (w : W) (c a : Nat) (sc : Scope) (va n : Nat) (f : List Byte → Option (List Byte)) :
    W × MRes (List Byte) :=
  match w.prep a va n with
  | (w, .bad k v) => (w, .bad k v)
  | (w, .ok (v :: _)) => (w, .nonres v)
  | (w, .nonres v) => (w, .nonres v)
  | (w, .ok []) =>
    let at_ := if (scopeLevel sc) = 1 then Scope.pkg else sc
    match w.load c a at_ va n with
    | (w, .ok (old, _)) =>
      match f old with
      | some new => (w.storeAt c a sc (scopeLevel at_) va new [], .ok old)
      | none => (w, .ok old)
    | (w, .bad k v) => (w, .bad k v)
    | (w, .nonres v) => (w, .nonres v)

/-- Bytes read by an agent at the memory-side cache in a context: the Sluice, the fabric, the host,
mailbox accesses (11 R283). `u` asks U of the page. -/
def W.read3 (w : W) (a va n : Nat) (u : Bool) : W × MRes (List Byte) :=
  (lineParts va n).foldl (fun (r : W × MRes (List Byte)) p =>
    match r with
    | (w, .ok bs) =>
      match w.xlate a p.1 .read u with
      | (w, .ok pg) =>
        match ((w.pull3 (pg.pa p.1)).reach3 a (pg.pa p.1) (pg.tier = 1)).meetSectors (pg.pa p.1) p.2 with
        | (w, some k) => (w, .bad (errCause (pg.tier = 1) k) p.1)
        | (w, none) =>
          match w.plain3 pg.key (pg.pa p.1) p.2 with
          | some x => (w, .ok (bs ++ x))
          | none => (w, .bad Cause.keyRevoked p.1)
      | (w, .bad k v) => (w, .bad k v)
      | (w, .nonres v) => (w, .nonres v)
    | r => r) (w, .ok [])

/-- Whether every byte of a range can be written at the memory-side cache. -/
def W.check3 (w : W) (a va n : Nat) (u : Bool) : W × MRes Unit :=
  seqM w ((lineParts va n).map Prod.fst) fun w v =>
    match w.xlate a v .write u with
    | (w, .ok pg) =>
      if pg.key ≠ 0 && (w.plain3 pg.key (pg.pa v / 16 * 16) 16).isNone then
        (w, .bad Cause.keyRevoked v)
      else (w.granted pg, .ok ())
    | (w, .bad k v) => (w, .bad k v)
    | (w, .nonres v) => (w, .nonres v)

/-- Writes physical bytes at the memory-side cache: L2 lines of the physical line are written back
and invalidated first (09 R235). -/
def W.put3 (w : W) (a key pa : Nat) (bs : List Byte) (tier : Bool := false) : W :=
  let w := (lineParts pa bs.length).foldl (fun w p => (w.snoop p.1 none).reach3 a p.1 tier) w
  let (w, keep) := w.storePoison a pa bs
  keep.foldl (fun w e => (w.write3 key (pa + e.1) [e.2]).getD w) w

/-- Bytes written by an agent at the memory-side cache in a context. -/
def W.write3va (w : W) (a va : Nat) (bs : List Byte) (u : Bool) : W × MRes Unit :=
  match w.check3 a va bs.length u with
  | (w, .ok ()) =>
    ((lineParts va bs.length).foldl (fun w p =>
      match w.xlate a p.1 .write u with
      | (w, .ok pg) => w.put3 a pg.key (pg.pa p.1) ((bs.drop (p.1 - va)).take p.2) (pg.tier = 1)
      | (w, _) => w) w, .ok ())
  | r => r

/-- The L1 and L2 lines of a context in a VA range are written back and invalidated, and so are its
instruction blocks, its uniform constants and its translations there (09 R244, R258, 06 R138). -/
def W.invalidate (w : W) (a : Nat) (inRange : Nat → Nat → Bool) : W :=
  let l1 := w.c.cch.l1.filter fun e => e.1.2.1 = a && inRange (e.1.2.2 * 128) 128
  let w := l1.foldl (fun w e => (w.flush1 e.1.1 a e.1.2.2).drop1 e.1.1 a e.1.2.2) w
  let l2 := w.c.cch.l2.filter fun e => e.1.1 = a && inRange (e.1.2 * 128) 128
  let w := l2.foldl (fun w e => w.evict2 a e.1.2) w
  { w with
    c.cch.konst := w.c.cch.konst.filter fun e =>
      !((w.grid e.1.2.1).asid = a && inRange (e.1.2.2 * 128) 128)
    c.cch.tlb := w.c.cch.tlb.filter fun e =>
      !(e.1.1 = a && inRange (e.1.2.2.2 * 2 ^ e.1.2.2.1) (2 ^ e.1.2.2.1))
    c.cores := w.c.cores.map fun e =>
      (e.1, { e.2 with icache := e.2.icache.filter fun b =>
        !(b.1.1 = a && inRange b.1.2 32) }) }

/-! ## Residency requests (09 R246, R247) -/

/-- The status of a residency request, and the request made (09 R246). -/
def W.request (w : W) (core a va : Nat) : W × MRes Nat :=
  let page := va / 65536
  match w.findPage a va with
  | (w, .ok p) =>
    if p.permits .read (w.needU a) then (w, .ok 2) else (w, .bad Cause.protectionRead va)
  | (w, .bad k v) => if k = Cause.pageNotPresent then (w, .ok 3) else (w, .bad k v)
  | (w, .nonres _) =>
    if ((aget w.c.cch.filter core).getD []).contains (a, page) then (w, .ok 1)
    else
      let base := w.srReg a .resqbase
      let ptr := w.srReg a .resqptr
      let n := 2 ^ (fld base 0 4 + 6)
      let tail := fld ptr 32 32
      if (tail + 2 ^ 32 - fld ptr 0 32) % 2 ^ 32 = n then (w, .ok 4)
      else
        let slot := fld base 12 44 * 4096 + 16 * (tail % n)
        match (w.release core a .sys).write3va a slot
          (leBytes 8 (page * 65536) ++ leBytes 2 core ++ leBytes 2 a ++ leBytes 4 0) false with
        | (w, .ok ()) =>
          let l := ((aget w.c.cch.filter core).getD []) ++ [(a, page)]
          let w := { w with c.cch.filter := aset w.c.cch.filter core (l.drop (l.length - 64)) }
          (w.setSrReg a .resqptr (setFld ptr 32 32 (tail + 1)), .ok 0)
        | (w, _) =>
          (w.reportCtx a Cause.residencyRequestFailed 2 slot,
            .bad Cause.residencyRequestFailed va)

/-- A hint dropped (09 R247). -/
def W.hintDrop (w : W) (a : Nat) : W :=
  let r := w.srReg a .hintdrop
  w.setSrReg a .hintdrop (setFld r 0 48 (min (fld r 0 48 + 1) (2 ^ 48 - 1)))

end Sys2Proof.Machine
end

