-- ==== Sys2Proof/Machine/Stores.lean ====
section
/-! DEFINITION. Stores into the scratchpad and its tag table, the store queues of groups, and releases
and acquires of a group (09 R239, R240, R249–R252, 11 R286). -/

namespace Sys2Proof.Machine

def W.modOp (w : W) (n : Nat) (h : Op → Op) : W :=
  match aget w.c.eng.ops n with
  | some o => { w with c.eng.ops := aset w.c.eng.ops n (h o) }
  | none => w

/-- A read count of 256 marks a slot whose last counted read was served: it is INVALID (09 R252). -/
def exhausted (x : Tag) : Bool := x.rcnt = 256
def W.tag (w : W) (t s : Nat) : Tag :=
  let x := (aget w.c.spd.tags (t, s)).getD {}
  if exhausted x then { x with rcnt := 0, state := 0, dirty := false } else x
def W.setTag (w : W) (t s : Nat) (x : Tag) : W :=
  { w with c.spd.tags := aset w.c.spd.tags (t, s) x }

/-- The slots that bytes of an allocation touch. -/
def slotsOf (o n : Nat) : List Nat :=
  (List.range ((o + n + 4095) / 4096 - o / 4096)).map fun i => o / 4096 + i

/-- Writes bytes of a scratchpad without marking the slots. -/
def W.spRaw (w : W) (t o : Nat) (bs : List Byte) : W :=
  { w with c.spd.bytes := bs.zipIdx.foldl (fun m e => aset m (t, o + e.2) e.1) w.c.spd.bytes }

/-- A scratchpad store: a VALID slot becomes dirty (09 R250). -/
def W.spStore (w : W) (t o : Nat) (bs : List Byte) : W :=
  let w := w.spRaw t o bs
  if bs.isEmpty then w
  else (slotsOf o bs.length).foldl (fun w s =>
    if (w.tag t s).state = 2 then w.setTag t s { w.tag t s with dirty := true } else w) w

/-- The entries of an operation in the range scoreboard clear, at its retirement (09 R254). -/
def W.dropRanges (w : W) (op : Nat) : W :=
  { w with c.spd.ranges := w.c.spd.ranges.filter fun r => r.op ≠ op }

/-! ## The store queue (11 R286) -/

def W.sq (w : W) (g : Nat) : List QStore := (aget w.c.eng.sq g).getD []
def W.pushSq (w : W) (g : Nat) (q : QStore) : W :=
  { w with c.eng.sq := aset w.c.eng.sq g (w.sq g ++ [q]) }

/-- Performs the oldest store of a group's queue (11 R286, 09 R239, R240); its operation is done with
its last one. -/
def W.drainOne (w : W) (g : Nat) : W :=
  match w.sq g with
  | [] => w
  | q :: rest =>
    let gr := w.group g
    let w := { w with c.eng.sq := aset w.c.eng.sq g rest }
    let w := if q.ord = .rel || q.ord = .str then w.release gr.core gr.asid q.scope else w
    let w := match q.space with
      | .scratch => w.spStore gr.team q.addr q.data
      | _ => w.store gr.core gr.asid q.scope q.addr q.data []
    if rest.any fun x => x.op = q.op then w
    else w.modOp q.op fun o => { o with done := true }

/-- Performs every store of a group's queue. -/
def W.drainAll (w : W) (g : Nat) : W :=
  (List.range (w.sq g).length).foldl (fun w _ => w.drainOne g) w

/-- Performs every queued store of a context. -/
def W.drainCtx (w : W) (a : Nat) : W :=
  ((w.c.thr.groups.filter fun e => e.2.asid = a).map Prod.fst).foldl (fun w g => w.drainAll g) w

/-- A release of a group at a scope (09 R240). -/
def W.releaseAt (w : W) (g : Nat) (sc : Scope) : W :=
  (w.drainAll g).release (w.group g).core (w.group g).asid sc
def W.acquireAt (w : W) (g : Nat) (sc : Scope) : W :=
  w.acquire (w.group g).core (w.group g).asid sc

end Sys2Proof.Machine
end

