-- ==== Sys2Proof/Machine/QueueOps.lean ====
section
/-! DEFINITION. Pops and pushes of queue registers at each kind of binding, and the adding of tasks
to a core's pool (12 R317–R321, 17 R414–R416, 05 R132, R133). -/

namespace Sys2Proof.Machine

/-- How a queue access ends: with a value, with a fault at every executing lane, or by parking the
instruction as a whole (12 R319). -/
inductive QRes (α : Type) where
  | ok (x : α)
  | fault (cause addr : Nat)
  | park (wk : Wake)
  deriving DecidableEq, Repr

/-- The binding of a queue register; absent is unbound. -/
def W.bind (w : W) (g q : Nat) : Bind := (aget w.c.thr.binds (g, q)).getD {}
def W.setBind (w : W) (g q : Nat) (b : Bind) : W :=
  { w with c.thr.binds := aset w.c.thr.binds (g, q) b }

def W.hq (w : W) (t h : Nat) : HwQueue := (aget w.c.eng.hq (t, h)).getD {}
def W.setHq (w : W) (t h : Nat) (x : HwQueue) : W :=
  { w with c.eng.hq := aset w.c.eng.hq (t, h) x }

/-! ## Tasks (05 R132, R133) -/

/-- The entry checks of a task record (05 R132). -/
def entryValid (e : Nat) : Bool := e % 4 = 0 && e % 32 ≠ 28 && e < 2 ^ 56

/-- Whether the pool of a core has room for `k` more records. -/
def W.poolRoom (w : W) (c k : Nat) : Bool := (w.core c).tasks.length + k ≤ 4096

/-- Whether the pool holds a ready task, one whose WAITS is 0 (05 R132, R133). -/
def W.poolReady (w : W) (c : Nat) : Bool := (w.core c).tasks.any fun t => t.waits = 0

/-- The lowest number that a list does not hold. -/
def lowestOut (xs : List Nat) : Nat :=
  ((List.range (xs.length + 1)).find? fun n => !xs.contains n).getD xs.length

/-- A number below `lim` that is not in use: the part's choice, where it is one (log entry 3). -/
def freeId (kind seed lim : Nat) (used : List Nat) : Nat :=
  let x := Config.choice kind seed
  if x < lim && !used.contains x then x else lowestOut used

/-- Places a record in the pool (05 R133): it is ready now if it waits for nothing. -/
def W.addTask (w : W) (g entry flags succ : Nat) (args : List Word) : W × Nat :=
  let c := (w.group g).core
  let k := w.core c
  let waits := bits flags 16 8
  let id := freeId 21 (c * 2 ^ 64 + k.nextTask) 0xFFFFFFFF (k.tasks.map Task.id)
  let t : Task :=
    { id := id, team := (w.group g).team, entry := entry, flags := flags, waits := waits,
      succ := succ, args := args, readyAt := if waits = 0 then some w.ac else none }
  (w.setCore c { k with tasks := k.tasks ++ [t], nextTask := k.nextTask + 1 }, id)

/-- Adds one task for each value pushed to a .task register (12 R321). -/
def W.pushTasks (w : W) (g : Nat) (b : Bind) (xs : List Word) : W × QRes Unit :=
  let c := (w.group g).core
  if !w.poolRoom c xs.length then
    (w, if w.poolReady c then .park (.slot 1) else .fault Cause.taskQueueFull 0)
  else
    (xs.foldl (fun w x => (w.addTask g b.entry b.tflags 0xFFFFFFFF (x :: List.replicate 7 0)).1) w,
      .ok ())

/-! ## Proxy queues (17 R414, R415) -/

/-- The ring of a proxy queue: base VA, log2 of its elements, the owner's ASID. -/
def W.pxRing (w : W) (n : Nat) : Nat × Nat × Nat :=
  (fld (w.blk .pxqRing n) 6 50 * 64, fld (w.blk .pxqCtl n) 4 4 + 6, fld (w.blk .pxqCtl n) 48 16)

/-- The elements a proxy ring holds. -/
def W.pxCount (w : W) (n : Nat) : Nat :=
  (fld (w.blk .pxqPtr n) 32 32 + 2 ^ 32 - fld (w.blk .pxqPtr n) 0 32) % 2 ^ 32

/-- Reads the first `k` elements of a proxy ring. -/
def W.pxRead (w : W) (n k : Nat) : W × MRes (List Word) :=
  let (base, lg, a) := w.pxRing n
  let head := fld (w.blk .pxqPtr n) 0 32
  (List.range k).foldl (fun (r : W × MRes (List Word)) i =>
    match r with
    | (w, .ok xs) =>
      match w.read3 a (base + 4 * ((head + i) % 2 ^ lg)) 4 true with
      | (w, .ok bs) => (w, .ok (xs ++ [BitVec.ofNat 32 (leNat bs)]))
      | (w, .bad c v) => (w, .bad c v)
      | (w, .nonres v) => (w, .nonres v)
    | r => r) (w, .ok [])

/-- Removes `k` elements from a proxy ring. -/
def W.pxDrop (w : W) (n k : Nat) : W :=
  let p := w.blk .pxqPtr n
  w.setBlk .pxqPtr n (setFld p 0 32 (fld p 0 32 + k))

/-- The elements that a forwarding buffer holds. -/
def FwdBuf.count (f : FwdBuf) : Nat := (f.items.filter fun x => match x with
  | .elem _ => true
  | _ => false).length

/-! ## Pops and pushes (12 R319) -/

/-- The values that the executing lanes receive from the elements removed: one each, in lane order,
or element 0 for all under .u; the lanes that received 0 for want of an element. -/
def dealOut (u : Bool) (es : List Nat) (xs : List Word) : List (Nat × Word) × List Nat :=
  if u then
    (es.map fun l => (l, xs.headD 0), if xs.isEmpty then es else [])
  else
    (es.zipIdx.map fun e => (e.1, xs.getD e.2 0),
      (es.zipIdx.filter fun e => xs.length ≤ e.2).map Prod.fst)

/-- A pop by the executing lanes: the value of each, and the lanes that received 0. -/
def W.pop (w : W) (g q : Nat) (es : List Nat) : W × QRes (List (Nat × Word) × List Nat) :=
  let b := w.bind g q
  let k := if b.u then 1 else es.length
  let closedPop := fun (w : W) (xs : List Word) =>
    let r := dealOut b.u es xs
    if !r.2.isEmpty && b.endp.isNone then (w, QRes.fault Cause.queueClosedPop 0)
    else (w, QRes.ok r)
  match b.kind with
  | .pop =>
    let t := (w.group g).team
    let h := w.hq t b.n
    if k ≤ h.elems.length then
      (w.setHq t b.n { h with elems := h.elems.drop k }, .ok (dealOut b.u es (h.elems.take k)))
    else if h.err ≠ 0 then (w, .fault h.err 0)
    else if h.closed then closedPop (w.setHq t b.n { h with elems := [] }) h.elems
    else (w, .park (.queue false q))
  | .pxpop =>
    let w := w.acquireAt g .pod
    let n := w.pxCount b.n
    let m := if k ≤ n then k else n
    if n < k && !fld (w.blk .pxqCtl b.n) 3 1 = 1 then (w, .park (.queue false q))
    else match w.pxRead b.n m with
      | (w, .ok xs) =>
        if k ≤ n then (w.pxDrop b.n k, .ok (dealOut b.u es xs))
        else closedPop (w.pxDrop b.n n) xs
      | (w, .bad c v) => (w, .fault c v)
      | (w, .nonres v) => (w, .fault Cause.pageNotPresent v)
  | _ => (w, .fault Cause.queueUnbound 0)

/-- A push of the executing lanes' values, in ascending lane order: a release at .tm, or at .pod into a
proxy queue (12 R320, 17 R415). -/
def W.push (w0 : W) (g q : Nat) (vals : List Word) : W × QRes Unit :=
  let b := w0.bind g q
  let w := w0.releaseAt g (if b.kind = .pxpush then .pod else .tm)
  let xs := if b.u then vals.take 1 else vals
  match b.kind with
  | .push =>
    let t := (w.group g).team
    let h := w.hq t b.n
    if h.err ≠ 0 then (w, .fault h.err 0)
    else if h.closed || h.closepend then (w, .fault Cause.queueOverrun 0)
    else if 2048 < h.elems.length + xs.length then (w, .park (.queue true q))
    else (w.setHq t b.n { h with elems := h.elems ++ xs }, .ok ())
  | .task => w.pushTasks g b xs
  | .pxpush =>
    match aget w.c.fab.bufs b.buf with
    | none => (w, .fault Cause.queueUnbound 0)
    | some f =>
      if b.err ≠ 0 then (w, .fault b.err 0)
      else if 64 < f.count + xs.length then (w, .park (.queue true q))
      else
        let f' := { f with items := f.items ++ xs.map FwdItem.elem }
        ({ w with c.fab.bufs := aset w.c.fab.bufs b.buf f' }, .ok ())
  | _ => (w, .fault Cause.queueUnbound 0)

end Sys2Proof.Machine
end

