-- ==== Sys2Proof/Machine/Operands.lean ====
section
/-! DEFINITION. Every operand form: registers of each class, predicates, special sources, pairs and
runs, immediates, queue operands, and the reads and writes inside lookahead windows (03 R52–R60,
R68, 06 R146). -/

namespace Sys2Proof.Machine

/-! ## Reads and writes under lookahead (06 R146) -/

/-- Whether a pending result covers a vector register of a lane. -/
def W.coversV (w : W) (g l r : Nat) : Bool :=
  w.c.thr.pends.any fun e => e.2.gid = g && e.2.lanes.contains l && e.2.vdst.contains r
def W.coversP (w : W) (g l p : Nat) : Bool :=
  w.c.thr.pends.any fun e => e.2.gid = g && e.2.lanes.contains l && e.2.pdst = some p
def W.coversS (w : W) (f r : Nat) : Bool :=
  w.c.thr.pends.any fun e => e.2.frag = f && e.2.sdst.contains r

/-- The value an instruction reads from v(r) in a lane: undefined inside a window that will write
it. -/
def W.readV (w : W) (g l r : Nat) : Word :=
  if w.coversV g l r then w.freeWord (l * 256 + r) else w.vr g l r
def W.readS (w : W) (f r : Nat) : Word :=
  if w.coversS f r then w.freeWord (16384 + r) else w.sr f r
def W.readP (w : W) (g l p : Nat) : Bool :=
  if w.coversP g l p then (w.freeWord (16640 + l * 8 + p)).getLsbD 0 else w.pr g l p

/-- v(r) of a lane is undefined once the results of the windows that write it have landed: it holds a
free value, and they leave it. -/
def W.clobV (w : W) (g l r : Nat) : W :=
  let w := { w with c.thr.pends := w.c.thr.pends.map fun (e : Nat × Pend) =>
    if e.2.gid = g && e.2.lanes.contains l && e.2.vdst.contains r then
      (e.1, { e.2 with clob := (l, r) :: e.2.clob })
    else e }
  w.setVr g l r (w.freeWord (20000 + l * 256 + r))
def W.clobS (w : W) (f r : Nat) : W :=
  let w := { w with c.thr.pends := w.c.thr.pends.map fun (e : Nat × Pend) =>
    if e.2.frag = f && e.2.sdst.contains r then (e.1, { e.2 with sclob := r :: e.2.sclob }) else e }
  w.setSr f r (w.freeWord (36384 + r))
def W.clobP (w : W) (g l p : Nat) : W :=
  let w := { w with c.thr.pends := w.c.thr.pends.map fun (e : Nat × Pend) =>
    if e.2.gid = g && e.2.lanes.contains l && e.2.pdst = some p then
      (e.1, { e.2 with pclob := (l, p) :: e.2.pclob })
    else e }
  w.setPr g l p ((w.freeWord (36640 + l * 8 + p)).getLsbD 0)

/-- An instruction writes v(r) of a lane; inside a window that writes it too, the register is
undefined once both results have landed. -/
def W.writeV (w : W) (g l r : Nat) (x : Word) : W :=
  if w.coversV g l r then w.clobV g l r else w.setVr g l r x
def W.writeS (w : W) (f r : Nat) (x : Word) : W :=
  if w.coversS f r then w.clobS f r else w.setSr f r x
def W.writeP (w : W) (g l p : Nat) (x : Bool) : W :=
  if w.coversP g l p then w.clobP g l p else w.setPr g l p x

/-! ## Sources -/

/-- What the sources of an issue are read from: the state before it, the issue, the elements
popped for each queue register, and the executing lanes. -/
structure Rd where
  w : W
  i : Issue
  pops : List (Nat × List (Nat × Word)) := []
  es : List Nat := []
  deriving DecidableEq, Repr

/-- The active mask of an issue, with the idle lanes of a converged one (03 R55, 06 R150). -/
def Issue.mask (i : Issue) : Nat := laneMask i.lanes ||| laneMask i.idle

/-- A special source (03 R55). -/
def Rd.special (r : Rd) (x : Special) (l : Nat) : Word :=
  let g := r.w.group r.i.gid
  match x with
  | .zero => 0
  | .laneid => BitVec.ofNat 32 l
  | .gwidth => BitVec.ofNat 32 g.width
  | .gindex => BitVec.ofNat 32 g.gindex
  | .tindex => BitVec.ofNat 32 (r.w.team g.team).tlin
  | .amasklo => BitVec.ofNat 32 r.i.mask
  | .amaskhi => BitVec.ofNat 32 (r.i.mask / 2 ^ 32)
  | .idlemask => BitVec.ofNat 32 (laneMask (r.w.idleLanes r.i.gid) / (if l < 32 then 1 else 2 ^ 32))

/-- A 32-bit source of a lane (03 R54, R58). -/
def Rd.word (r : Rd) (o : Opnd) (l : Nat) : Word :=
  match o with
  | .v n => r.w.readV r.i.gid l n.val
  | .s n => r.w.readS r.i.frag n.val
  | .p n => wordOfBool (r.w.readP r.i.gid l n.val)
  | .q n => match aget r.pops n.val with
    | some xs => (aget xs l).getD 0
    | none => 0
  | .w n => r.w.readV r.i.gid l (16 * n.val)
  | .sp x => r.special x l

/-- Register `k` of a run that starts at an operand (03 R59); a code 0x1F0 reads 0 throughout. -/
def Rd.run (r : Rd) (o : Opnd) (k l : Nat) : Word :=
  match o with
  | .v n => r.w.readV r.i.gid l (n.val + k)
  | .s n => r.w.readS r.i.frag (n.val + k)
  | .w n => r.w.readV r.i.gid l (16 * n.val + k)
  | _ => r.word o l

/-- Whether a run of `n` registers lies within the group's budgets (03 R56). -/
def W.runIn (w : W) (g : Nat) (o : Opnd) (n : Nat) : Bool :=
  match o with
  | .v r => r.val + n ≤ (w.group g).vb
  | .s r => r.val + n ≤ (w.group g).ub
  | _ => true

/-- A 64-bit source: an even register and the one above it, low half first (03 R59). -/
def Rd.pair (r : Rd) (o : Opnd) (l : Nat) : Dword := dword (r.run o 0 l) (r.run o 1 l)

/-- SRCB, for which IMM stands in the 96-bit form (03 R68). -/
def Rd.b (r : Rd) (f : Alu) (l : Nat) : Word :=
  match f.imm with
  | some x => x
  | none => r.word f.b l

/-- The lane whose value of a source an instruction takes that acts once for the fragment: any of the
executing ones where the source differs by lane, which is the part's choice (log entry 7). -/
def Rd.onceLane (r : Rd) (o : Opnd) : Nat :=
  match o with
  | .q _ | .p _ | .sp .laneid => r.es.getD (Config.choice 45 r.w.c.mdl.fresh % max 1 r.es.length) 0
  | _ => 0

/-- SRCB of an instruction that acts once. -/
def Rd.bOnce (r : Rd) (f : Alu) : Word := r.b f (r.onceLane f.b)

/-- SRCB of 64 bits; IMM stands there sign-extended (07 R181). -/
def Rd.bPair (r : Rd) (f : Alu) (l : Nat) : Dword :=
  match f.imm with
  | some x => x.signExtend 64
  | none => r.pair f.b l

/-- SRCC of PERM, for which IMM stands (07 R187). -/
def Rd.cImm (r : Rd) (f : Alu) (l : Nat) : Word :=
  match f.imm with
  | some x => x
  | none => r.word f.c l

/-! ## Destinations -/

/-- Writes registers of a run from an operand (03 R54, R58); a predicate takes bit 0. -/
def W.dst (w : W) (i : Issue) (o : Opnd) (l : Nat) (xs : List Word) : W :=
  match o with
  | .v n => (xs.zipIdx).foldl (fun w e => w.writeV i.gid l (n.val + e.2) e.1) w
  | .w n => (xs.zipIdx).foldl (fun w e => w.writeV i.gid l (16 * n.val + e.2) e.1) w
  | .s n => (xs.zipIdx).foldl (fun w e => w.writeS i.frag (n.val + e.2) e.1) w
  | .p n => w.writeP i.gid l n.val ((xs.headD 0).getLsbD 0)
  | _ => w

/-- The queue registers of source fields, in the order SRCA, SRCB, SRCC (03 R60). -/
def queueRegs (os : List Opnd) : List Nat :=
  os.filterMap fun o => match o with
    | .q n => some n.val
    | _ => none

/-- All pops of an instruction: each is performed, or none is (03 R60, 12 R319). The lanes that
received 0, by queue register. -/
def W.popAll (w : W) (g : Nat) (es : List Nat) (qs : List Nat) :
    W × QRes (List (Nat × List (Nat × Word)) × List (Nat × List Nat)) :=
  qs.foldl (fun (r : W × QRes (List (Nat × List (Nat × Word)) × List (Nat × List Nat))) q =>
    match r with
    | (w, .ok (ps, zs)) =>
      match w.pop g q es with
      | (w, .ok x) => (w, .ok (ps ++ [(q, x.1)], zs ++ [(q, x.2)]))
      | (w, .fault c a) => (w, .fault c a)
      | (w, .park k) => (w, .park k)
    | r => r) (w, .ok ([], []))

/-- The end predicates after an instruction's pops: 1 in lanes that received 0 (12 R319). -/
def W.endPreds (w : W) (g : Nat) (es : List Nat) (zs : List (Nat × List Nat)) : W :=
  let ps := uniq (zs.filterMap fun z => (w.bind g z.1).endp)
  ps.foldl (fun w p =>
    es.foldl (fun w l =>
      w.writeP g l p (zs.any fun z => (w.bind g z.1).endp = some p && z.2.contains l)) w) w

end Sys2Proof.Machine
end

