-- ==== Sys2Proof/Machine/Records.lean ====
section
/-! DEFINITION. Continuation records in the backing area: their bytes, what the Leat spills and reads
back, and the records of a pre-emption (06 R154–R163, 18 R427, R430, R441). -/

namespace Sys2Proof.Machine

/-! ## The bytes of a record (06 R154–R156) -/

/-- The payload and class of a wake word (06 R155). -/
def wakeWord : Wake → Nat
  | .ready => 0
  | .result => 1 * 2 ^ 188
  | .counter n c => 2 * 2 ^ 188 + n * 8 + c.code
  | .chunk win mask => 3 * 2 ^ 188 + win * 2 ^ 128 + mask % 2 ^ 128
  | .queue push q => 4 * 2 ^ 188 + (if push then 16 else 0) + q
  | .range a b => 5 * 2 ^ 188 + b * 2 ^ 20 + a
  | .barrier id => 6 * 2 ^ 188 + id
  | .ticket p => 7 * 2 ^ 188 + p
  | .token t => 8 * 2 ^ 188 + t
  | .event th a => 9 * 2 ^ 188 + th * 2 ^ 64 + a
  | .child all h => 10 * 2 ^ 188 + (if all then 2 ^ 32 else 0) + h
  | .slot k => 11 * 2 ^ 188 + k
  | .join a => 12 * 2 ^ 188 + a
  | .fault i r c => 13 * 2 ^ 188 + i * 256 + (if r then 128 else 0) + c

/-- Call depth and meeting address of a lane (06 R154). -/
def meetWord (x : Lane) : Nat := x.depth * 2 ^ 56 + x.meet

def widthCode (w : Nat) : Nat := if w = 64 then 3 else if w = 32 then 2 else if w = 16 then 1 else 0

/-- The lanes of a record, and which of its optional parts it has. -/
structure RecShape where
  g : Nat
  lanes : List Nat
  width : Nat
  perLane : Bool
  perSeq : Bool
  lv : Nat
  ls : Nat
  deriving DecidableEq, Repr

def W.recShape (w : W) (f : Nat) : RecShape :=
  let x := w.frag f
  let lanes := w.fragLanes x.gid f
  { g := x.gid, lanes := lanes, width := (w.group x.gid).width
    perLane := w.perLane x.gid lanes, perSeq := w.perSeq x.gid lanes, lv := x.lv, ls := x.ls }

/-- The bytes of a record as it stands in memory. -/
def W.recordBytes (w : W) (f : Nat) : List Byte :=
  let x := w.frag f
  let s := w.recShape f
  let gr := w.group s.g
  let low := w.lane s.g (s.lanes.headD 0)
  let in_ := fun l => s.lanes.contains l
  let ctl := (if s.perSeq then 32 else 0) + (if x.disp then 16 else 0) + (if x.pre then 8 else 0)
    + (if s.perLane then 4 else 0) + widthCode s.width
  let isTask := match gr.kind with
    | .task _ => true
    | _ => false
  let grp := (if isTask then 2 ^ 62 else 0) + gr.lid * 2 ^ 50 + gr.gindex % 1024 * 2 ^ 40
    + (w.team gr.team).tlin
  let pred := fun p => (s.lanes.filter fun l => w.pr s.g l p).foldl (fun m l => m + 2 ^ l) 0
  let all := List.range s.width
  let body :=
    leBytes 6 (low.pc / 4) ++ leBytes 2 ctl ++ leBytes 8 (laneMask s.lanes)
      ++ leBytes 8 (laneMask (w.idleLanes s.g)) ++ leBytes 8 (if s.perLane then 0 else meetWord low)
      ++ leBytes 24 (wakeWord x.wake) ++ leBytes 8 grp ++ leBytes 2 s.lv ++ leBytes 2 s.ls
      ++ leBytes 4 low.seq.toNat ++ ((List.range 7).map fun p => leBytes 8 (pred p)).flatten
      ++ (if s.perLane then
            (all.map fun l => leBytes 8 (if in_ l then meetWord (w.lane s.g l) else 0)).flatten else [])
      ++ (if s.perSeq then
            (all.map fun l => leBytes 4 (if in_ l then (w.lane s.g l).seq.toNat else 0)).flatten else [])
      ++ ((List.range s.ls).map fun r => leBytes 4 (w.sr f r).toNat).flatten
      ++ (all.map fun l => ((List.range s.lv).map fun r =>
            leBytes 4 (if in_ l then (w.vr s.g l r).toNat else 0)).flatten).flatten
  body ++ List.replicate (recBytes s.width s.lv s.ls s.perLane s.perSeq - body.length) 0

/-- What system software may have rewritten is taken from the bytes of a record (18 R430). -/
def W.readRecord (w : W) (f : Nat) (bs : List Byte) : W :=
  let s := w.recShape f
  let meetAt := 128
  let seqAt := meetAt + (if s.perLane then 8 * s.width else 0)
  let sAt := seqAt + (if s.perSeq then 4 * s.width else 0)
  let vAt := sAt + 4 * s.ls
  let pc := fieldLE bs 0 6 * 4
  let w := s.lanes.foldl (fun w l =>
    let m := if s.perLane then fieldLE bs (meetAt + 8 * l) 8 else fieldLE bs 24 8
    let q := if s.perSeq then fieldLE bs (seqAt + 4 * l) 4 else fieldLE bs 68 4
    let w := w.modLane s.g l fun x =>
      { x with pc := pc, meet := m % 2 ^ 56, depth := m / 2 ^ 56, seq := BitVec.ofNat 32 q }
    let w := (List.range 7).foldl (fun w p =>
      w.setPr s.g l p ((fieldLE bs (72 + 8 * p) 8).testBit l)) w
    (List.range s.lv).foldl (fun w r =>
      w.setVr s.g l r (BitVec.ofNat 32 (fieldLE bs (vAt + 4 * (l * s.lv + r)) 4))) w) w
  (List.range s.ls).foldl (fun w r =>
    w.setSr f r (BitVec.ofNat 32 (fieldLE bs (sAt + 4 * r) 4))) w

/-- The fields of a header that must stay as they were written: CTL, the masks, WAKE, GROUP, LV, LS
(18 R430). -/
def fixedFields (bs : List Byte) : List Byte :=
  (bs.drop 6).take 18 ++ (bs.drop 32).take 36

/-- The VA of a record that holds pool space (06 R160). -/
def W.recVa (w : W) (f : Nat) : Option Nat :=
  let x := w.frag f
  x.pool.map fun p => fld (w.srReg (w.group x.gid).asid .leatbase) 0 56 + leatReserved + p.1

/-- A team stops, and CONT_CORRUPT is raised (06 R160, 18 R441). -/
def W.corrupt (w : W) (t addr : Nat) : W :=
  let a := (w.team t).asid
  (w.modTeam t fun x => { x with st := .stopped }).reportCtx a Cause.contCorrupt 2 addr

/-! ## The backing area (06 R159–R163) -/

/-- A record is written at a VA of its context's area; a failure of the area stops its team
(06 R160). -/
def W.writeAt (w : W) (f va : Nat) : W × Bool :=
  let g := (w.frag f).gid
  match w.write3va (w.group g).asid va (w.recordBytes f) false with
  | (w, .ok ()) => (w.modFrag f fun y => { y with mem := true }, true)
  | (w, _) => (w.corrupt (w.group g).team va, false)

/-- A FAULT record is written to its pool space in memory; its VA (18 R427). -/
def W.writeRecord (w : W) (f : Nat) : W × Option Nat :=
  let bs := w.recordBytes f
  match w.recVa f with
  | none => (w, none)
  | some va => match w.writeAt f va with
    | (w, true) => (w.modFrag f fun y => { y with fr.bytes := bs, mem := false }, some va)
    | (w, false) => (w, none)

/-- The records that a core's Leat holds on chip, with their bytes: those of the pool that are not in
memory, FAULT records apart (06 R159, 18 R427). -/
def W.onChip (w : W) (c : Nat) : List (Nat × Nat) :=
  (w.coreFrags c).filterMap fun e => match e.2.pool, e.2.wake with
    | some _, .fault _ _ _ => none
    | some p, _ => if e.2.mem then none else some (e.1, p.2)
    | none, _ => none

/-- The Leat spills records beyond what it holds on chip, the oldest first that wait for no result
(06 R159; which of them is the part's choice, log entry 28). -/
def W.spill (w : W) (c : Nat) : W :=
  let mine := w.onChip c
  let much := (mine.map Prod.snd).sum - Config.leatBytes
  if much = 0 then w
  else ((sortBy (fun e => (w.frag e.1).wrote) mine).foldl (fun (p : W × Nat) e =>
      if p.2 = 0 || w.c.thr.pends.any (fun x => x.2.frag = e.1 && !x.2.landed) then p
      else match p.1.recVa e.1 with
        | some va => ((p.1.writeAt e.1 va).1, p.2 - e.2)
        | none => p) (w, much)).1

/-- Every core spills what it must. -/
def W.spillAll (w : W) : W :=
  if (w.c.thr.frags.map fun e => match e.2.pool with
      | some p => p.2
      | none => 0).sum ≤ Config.leatBytes then w
  else w.c.cores.foldl (fun w e => w.spill e.1) w

/-- A record that stands in memory is read back; an error, or header fields that are not what was
written, stop its team (06 R155, R160). -/
def W.unspill (w : W) (f : Nat) : W × Bool :=
  match (w.frag f).mem, w.recVa f with
  | true, some va =>
    let g := (w.frag f).gid
    let own := w.recordBytes f
    match w.read3 (w.group g).asid va own.length false with
    | (w, .ok bs) =>
      if fixedFields bs = fixedFields own then
        ((w.readRecord f bs).modFrag f fun y => { y with mem := false }, true)
      else (w.corrupt (w.group g).team va, false)
    | (w, _) => (w.corrupt (w.group g).team va, false)
  | _, _ => (w, true)

/-- The VA of the reserved slot of a context of a core (06 R160). -/
def W.slotVa (w : W) (a c k : Nat) : Nat :=
  fld (w.srReg a .leatbase) 0 56 + c * 4300800 + k * 67200

/-- The fragment of a team that is pre-empted is written into the reserved slot of its context
(06 R160, R163). -/
def W.writePre (w : W) (g f : Nat) : W :=
  match (w.frag f).place with
  | .ctx k =>
    let gr := w.group g
    let w := (w.laneSets g f).foldl (fun w e =>
      let f' := w.c.mdl.next
      let w := w.leaveAt g f e.2 e.1 {} none none fun x =>
        { x with pre := true, place := .saved none, slot := some k }
      (w.writeAt f' (w.slotVa gr.asid gr.core k)).1) w
    w.dropFrag f
  | _ => w

end Sys2Proof.Machine
end

