-- ==== Sys2Proof/Machine/Contexts.lean ====
section
/-! DEFINITION. The contexts of a core: the landing of results, late faults, the absorption of lanes,
the relaunch of records, the start of groups and the exit of lanes (05 R115–R117, R128, R135, R136,
06 R140, R146, R153, R157, R158, R164–R167, R178). -/

namespace Sys2Proof.Machine

/-! ## Records and late faults -/

/-- Removes a record, or frees a context, that holds no lane any more. -/
def W.dropEmpty (w : W) (g f : Nat) : W :=
  if (w.fragLanes g f).isEmpty then w.dropFrag f else w

/-- Whether a fragment is a FAULT record that awaits resume or its report (18 R427). -/
def Frag.isFault (x : Frag) : Bool :=
  match x.wake, x.place with
  | .fault _ _ _, .parked => true
  | .fault _ _ _, .saved none => true
  | _, _ => false

/-- A fault that a late result brings to lanes of a group, of the instruction at `iaddr`. Lanes that
wait in a FAULT record keep it for their resume; the others leave as FAULT records, by fragment and
PC, with REPLAY when a later instruction has issued (06 R164). -/
def W.lateFault (w : W) (g : Nat) (ls : List Nat) (cause addr iaddr : Nat) (later : Bool) : W :=
  let fs := uniq (ls.map fun l => (w.lane g l).frag)
  fs.foldl (fun w f =>
    let mine := ls.filter fun l => (w.lane g l).frag = f
    let late := fun (w : W) (ls : List Nat) => if ls.isEmpty then w else w.modGroup g fun x =>
      { x with kept := x.kept ++ [{ lanes := ls, cause := cause, addr := addr, iaddr := iaddr }] }
    if (w.frag f).isFault then late w mine
    else
      let out := (((w.frag f).hold.filter fun d => match d.wake with
        | .fault _ _ _ => true
        | _ => false).map Depart.lanes).flatten
      let w := late w (mine.filter fun l => out.contains l)
      let mine := mine.filter fun l => !out.contains l
      let w := w.modFrag f fun x => { x with hold := (x.hold.map fun d =>
        { d with lanes := d.lanes.filter fun l => !mine.contains l }).filter fun d => !d.lanes.isEmpty }
      let pcs := uniq (mine.map fun l => (w.lane g l).pc)
      let w := mine.foldl (fun w l => w.modLane g l fun x =>
        { x with st := if x.st == .held then .live else x.st }) w
      let w := pcs.foldl (fun w pc =>
        w.takeFault g f (mine.filter fun l => (w.lane g l).pc = pc) cause addr 0
          (if later then pc else iaddr) iaddr later) w
      match (w.frag f).place with
      | .ctx _ => w.shed g f
      | _ => w.dropEmpty g f) w

/-! ## Landing (06 R146, R153) -/

/-- Writes a pending result into its registers, or into the record that holds them; those that an
instruction of the window wrote stay undefined. -/
def W.landValues (w : W) (p : Pend) : W :=
  let w := if (w.frag p.frag).mem then w.modFrag p.frag fun x => { x with mem := false } else w
  let w := p.vval.foldl (fun w e =>
    if p.lanes.contains e.1.1 && p.vdst.contains e.1.2 && !p.clob.contains e.1 then
      w.setVr p.gid e.1.1 e.1.2 e.2
    else w) w
  let w := p.sval.foldl (fun w e =>
    if p.sdst.contains e.1 && !p.sclob.contains e.1 then w.setSr p.frag e.1 e.2 else w) w
  p.pval.foldl (fun w e =>
    if p.lanes.contains e.1.1 && p.pdst = some e.1.2 && !p.pclob.contains e.1 then
      w.setPr p.gid e.1.1 e.1.2 e.2
    else w) w

/-- The faults of a late result strike their lanes, by cause. -/
def W.landFaults (w : W) (p : Pend) : W :=
  (sortBy id (uniq (p.faults.map fun e => e.2.1))).foldl (fun w c =>
    let mine := p.faults.filter fun e => e.2.1 = c && p.lanes.contains e.1
    match mine with
    | [] => w
    | e :: _ => w.lateFault p.gid (mine.map Prod.fst) c e.2.2 p.iaddr p.later) w

/-- The results of an operation land: every pending result of it is written, and its window goes on
to its end (06 R145, R153). -/
def W.land (w : W) (op : Nat) : W :=
  (w.c.thr.pends.filter fun e => e.2.op = op && !e.2.landed).foldl (fun w e =>
    let w := w.landValues e.2
    let w := match e.2.left with
      | some (n + 1) =>
        { w with c.thr.pends := aset w.c.thr.pends e.1 { e.2 with landed := true, left := some (n + 1) } }
      | _ => { w with c.thr.pends := adel w.c.thr.pends e.1 }
    w.landFaults e.2) w

/-- Gives the pending results of an operation their values. -/
def W.giveResult (w : W) (op : Nat) (h : Pend → Pend) : W :=
  { w with c.thr.pends := w.c.thr.pends.map fun (e : Nat × Pend) =>
      if e.2.op = op then (e.1, { h e.2 with ready := true }) else e }

/-- Whether a fragment has a result that has not landed. -/
def W.pending (w : W) (f : Nat) : Bool :=
  w.c.thr.pends.any fun e => e.2.frag = f && !e.2.landed

/-! ## Absorption and relaunch (06 R157, R158, R166) -/

/-- Registers of a record at or above its watermark read 0 once it is loaded. -/
def W.trunc (w : W) (f : Nat) : W :=
  let x := w.frag f
  let ls := w.fragLanes x.gid f
  { w with
    c.thr.vr := w.c.thr.vr.filter fun e =>
      !(e.1.1 = x.gid && x.lv ≤ e.1.2.2 && ls.contains e.1.2.1)
    c.thr.sr := w.c.thr.sr.filter fun e => !(e.1.1 = f && x.ls ≤ e.1.2) }

/-- Merges the uniform registers of a fragment into another: those that differ are undefined. -/
def W.mergeSr (w : W) (f f2 : Nat) : W :=
  let rs := uniq ((w.c.thr.sr.filter fun e => e.1.1 = f || e.1.1 = f2).map fun e => e.1.2)
  let a := w.frag f
  let b := w.frag f2
  let w := rs.foldl (fun w r =>
    if w.sr f r = w.sr f2 r then w else w.setSr f r (w.freeWord (40000 + r))) w.bumpFresh
  w.setFrag f { a with lv := max a.lv b.lv, ls := max a.ls b.ls }

/-- Lanes held in other fragments and records of the group are loaded into fragment `f`. -/
def W.absorb (w : W) (g f : Nat) (ls : List Nat) : W :=
  let fs := (uniq (ls.map fun l => (w.lane g l).frag)).filter fun x => x ≠ f
  fs.foldl (fun w f2 =>
    let mine := ls.filter fun l => (w.lane g l).frag = f2
    let inCtx := match (w.frag f2).place with
      | .ctx _ => true
      | _ => false
    let w := if inCtx then w else w.trunc f2
    let w := w.mergeSr f f2
    let w := { w with c.thr.pends := w.c.thr.pends.map fun (e : Nat × Pend) =>
      if e.2.frag = f2 && e.2.lanes.all (fun l => mine.contains l) then
        (e.1, { e.2 with frag := f }) else e }
    (w.moveLanes g f mine).dropEmpty g f2) w

/-- The meeting set of an address (06 R165). -/
def W.meetingSet (w : W) (g m : Nat) : List Nat :=
  (w.allLanes g).filter fun l =>
    (w.lane g l).meet = m && ((w.lane g l).st == .live || (w.lane g l).st == .held)

/-- Whether every lane of a meeting set is held. -/
def W.meetingFull (w : W) (g m : Nat) : Bool :=
  m ≠ 0 && !(w.meetingSet g m).isEmpty &&
    (w.meetingSet g m).all fun l => (w.lane g l).st == .held

/-- The lanes of a meeting set become runnable at the JOIN, where they are released together. -/
def W.unhold (w : W) (g : Nat) (ls : List Nat) : W :=
  ls.foldl (fun w l => w.modLane g l fun x => { x with st := .live }) w

/-- Bytes of the register file that one fragment's context takes (03 R57). -/
def shareOf (vb ub width : Nat) : Nat := (vb * width * 4 + ub * 4 + 1023) / 1024 * 1024

/-- Bytes of the register file in use on a core. -/
def W.rfUsed (w : W) (c : Nat) : Nat :=
  ((w.coreFrags c).map fun e => match e.2.place with
    | .ctx _ =>
      let g := w.group e.2.gid
      shareOf g.vb g.ub g.width
    | _ => 0).sum

/-- Whether a context with the given share fits in the register file. -/
def W.rfFits (w : W) (c vb ub width : Nat) : Bool :=
  w.rfUsed c + shareOf vb ub width ≤ Config.regFile

/-- The contexts of a core that take no fragment: those occupied, and those whose reserved slot holds
a record of a pre-emption (18 R443). -/
def W.busyCtx (w : W) (c : Nat) : List Nat :=
  (w.coreFrags c).filterMap fun e => match e.2.place with
    | .ctx k => some k
    | _ => e.2.slot

/-- The context that a fragment takes: the lowest free one of the slot with the fewest occupied
contexts, the lower slot on a tie (06 R140). -/
def W.freeCtx (w : W) (c : Nat) : Option Nat :=
  let busy := w.busyCtx c
  let count := fun s => (busy.filter fun k => k / 16 = s).length
  match minBy count ((List.range 4).filter fun s => decide (count s < 16)) with
  | none => none
  | some s => ((List.range 16).map fun i => 16 * s + i).find? fun k => !busy.contains k

/-- A fragment takes a context; its group's age begins with the first (06 R142). -/
def W.occupy (w : W) (f k : Nat) : W :=
  let g := (w.frag f).gid
  let w := w.modFrag f fun x =>
    { x with place := .ctx k, meter := 0, since := w.ac, issued := w.ac, notBefore := 0,
             boost := false, disp := false, pre := false, hold := [], pool := none,
             latch := none }
  w.modGroup g fun x => { x with born := some (x.born.getD w.ac) }

/-- A record is loaded into a context (06 R153, R157, R164, R166); one in memory is read back first,
and stays where it is when that fails (06 R160). -/
def W.relaunch (w : W) (f k : Nat) : W :=
  let x := w.frag f
  match w.unspill f with
  | (w, false) => w
  | (w, true) =>
  let w := w.trunc f
  let w := match x.wake with
    | .join m =>
      let ls := w.meetingSet x.gid m
      if w.meetingFull x.gid m then (w.absorb x.gid f ls).unhold x.gid ls
      else w.unhold x.gid (w.fragLanes x.gid f)
    | _ => w
  let w := match x.wake with
    | .fault iaddr true cause => w.modFrag f fun y => { y with replay := some (iaddr, cause) }
    | .fault iaddr false cause =>
      if cause = Cause.raceReport then w.modFrag f fun y => { y with skip := some iaddr } else w
    | _ => w
  (w.modFrag f fun y => { y with wake := .ready }).occupy f k

/-! ## Exit of lanes (05 R136, 06 R178) -/

/-- A task of a team completes: its successor waits for one fewer (05 R136). -/
def W.taskDone (w : W) (c team id : Nat) : W :=
  let k := w.core c
  match k.tasks.find? fun t => t.id = id && t.team = team with
  | none => w
  | some t =>
    let rest := k.tasks.filter fun u => !(u.id = id && u.team = team)
    w.setCore c { k with tasks := rest.map fun u =>
      if t.succ ≠ 0xFFFFFFFF && u.id = t.succ && u.team = t.team && !u.started && 0 < u.waits then
        { u with waits := u.waits - 1
                 readyAt := if u.waits = 1 then some w.ac else u.readyAt }
      else u }

/-- The unfinished task of a lane completes, with a release at .tm; a UNIF group's with its last lane
(05 R136). -/
def W.laneTaskDone (w : W) (g l : Nat) : W :=
  match (w.lane g l).task with
  | none => w
  | some t =>
    let gr := w.group g
    let w := w.modLane g l fun x => { x with task := none }
    match gr.kind with
    | .task (some _) =>
      if (w.allLanes g).any fun k => (w.lane g k).task.isSome then w
      else (w.releaseAt g .tm).taskDone gr.core gr.team t
    | _ => (w.releaseAt g .tm).taskDone gr.core gr.team t

/-- Lanes exit: they leave their meeting sets, and their tasks complete (06 R178). -/
def W.exitLanes (w : W) (g : Nat) (ls : List Nat) : W :=
  ls.foldl (fun w l =>
    (w.modLane g l fun x => { x with st := .exited, meet := 0 }).laneTaskDone g l) w

/-- Whether every lane of a group has exited. -/
def W.allExited (w : W) (g : Nat) : Bool :=
  (w.allLanes g).all fun l => (w.lane g l).st == .exited || (w.lane g l).st == .idle

/-! ## The launch record and the kernel handle of a grid (04 R94, R101) -/

def Grid.u (x : Grid) (ofs len : Nat) : Nat := fieldLE x.lrec ofs len
def Grid.entry (x : Grid) : Nat := fieldLE x.hnd 0 8
def Grid.livev (x : Grid) : Nat := fieldLE x.hnd 14 2
def Grid.lives (x : Grid) : Nat := fieldLE x.hnd 16 2
def Grid.dimX (x : Grid) : Nat := x.u 8 4
def Grid.dimY (x : Grid) : Nat := x.u 12 4
def Grid.dimZ (x : Grid) : Nat := x.u 16 4
def Grid.count (x : Grid) : Nat := x.dimX * x.dimY * x.dimZ
/-- T, the threads of a team. -/
def Grid.threads (x : Grid) : Nat := x.u 20 2 * x.u 22 2 * x.u 24 2
def Grid.vb (x : Grid) : Nat := x.u 26 2
def Grid.ub (x : Grid) : Nat := x.u 28 2
/-- W, the group width, from WCODE. -/
def widthOf (code : Nat) : Nat := 8 * 2 ^ (code % 4)
def Grid.width (x : Grid) : Nat := widthOf (x.u 30 1)
def Grid.cluster (x : Grid) : Nat := x.u 31 1
def Grid.det (x : Grid) : Bool := (x.u 32 4).testBit 0
def Grid.cores (x : Grid) : Bool := (x.u 32 4).testBit 1
def Grid.ser (x : Grid) : Bool := (x.u 32 4).testBit 2
def Grid.spbytes (x : Grid) : Nat := x.u 36 4
def Grid.nwin (x : Grid) : Nat := x.u 40 1
def Grid.groups (x : Grid) : Nat := (x.threads + x.width - 1) / x.width

/-! ## The start of groups (04 R103, 05 R116, R128, R135) -/

/-- The lowest core-local identity that no group of the core holds (06 R148, R154). -/
def W.freeLid (w : W) (c : Nat) : Option Nat :=
  let used := (w.c.thr.groups.filter fun e => e.2.core = c).map fun e => e.2.lid
  (List.range (min Config.groupsPerCore (used.length + 1))).find? fun n => !used.contains n

/-- What a new group begins with. -/
structure Start where
  team : Nat
  kind : GroupKind
  gindex : Nat
  entry : Nat
  live : List Nat
  lv : Nat
  ls : Nat
  sregs : List (Nat × Word)
  vregs : List ((Nat × Nat) × Word)
  tasks : List (Nat × Nat)
  check : Bool

/-- A group starts in a context of its team's core; registers beyond a budget are not written. -/
def W.startGroup (w : W) (k : Nat) (st : Start) : W :=
  let tm := w.team st.team
  let gr := w.grid tm.grid
  match w.freeLid tm.core with
  | none => w
  | some lid =>
    let (w, g) := w.newId
    let (w, f) := w.newId
    let w := w.setGroup g
      { asid := tm.asid, core := tm.core, grid := tm.grid, team := st.team, gindex := st.gindex,
        lid := lid, kind := st.kind, width := gr.width, vb := gr.vb, ub := gr.ub, entry := st.check }
    let w := w.setFrag f { gid := g, lv := st.lv, ls := st.ls }
    let w := st.live.foldl (fun w l =>
      w.setLane g l { st := .live, pc := st.entry, frag := f }) w
    let w := st.tasks.foldl (fun w e =>
      w.modLane g e.1 fun x => { x with task := some e.2, tid := some e.2 }) w
    let w := st.sregs.foldl (fun w e => if e.1 < gr.ub then w.setSr f e.1 e.2 else w) w
    let w := st.vregs.foldl (fun w e => if e.1.2 < gr.vb then w.setVr g e.1.1 e.1.2 e.2 else w) w
    w.occupy f k

/-- A group of a grid's team (04 R103). -/
def launchStart (w : W) (t gi : Nat) : Start :=
  let gr := w.grid (w.team t).grid
  let n := gr.threads - gi * gr.width
  { team := t, kind := .launch, gindex := gi, entry := gr.entry
    live := List.range (min gr.width n), lv := gr.livev, ls := gr.lives
    sregs := (List.range 8).map (fun j => (j, BitVec.ofNat 32 (gr.u (56 + 4 * j) 4))) ++
      [(8, BitVec.ofNat 32 (gr.u 48 4)), (9, BitVec.ofNat 32 (gr.u 52 4))]
    vregs := [], tasks := [], check := false }

/-- A spawned group (05 R128). -/
def spawnStart (w : W) (r : SpawnRec) : Start :=
  let gr := w.grid (w.team r.team).grid
  { team := r.team, kind := .spawn, gindex := r.gindex, entry := r.entry
    live := List.range gr.width, lv := gr.vb, ls := gr.ub
    sregs := r.args.zipIdx.map fun e => (e.2, e.1)
    vregs := [], tasks := [], check := true }

/-- A task group of one team and entry (05 R135). -/
def taskStart (w : W) (ts : List Task) : Start :=
  let t0 : Task := ts.headD
    { id := 0, team := 0, entry := 0, flags := 0, waits := 0, succ := 0, args := [], readyAt := none }
  let gr := w.grid (w.team t0.team).grid
  let unif := t0.flags.testBit 8
  let words := fun (t : Task) => t.args.zipIdx.map fun e => (e.2, e.1)
  { team := t0.team, kind := .task (if unif then some t0.id else none)
    gindex := 0xFFFFFFFF, entry := t0.entry
    live := if unif then List.range gr.width else List.range ts.length
    lv := gr.vb, ls := gr.ub
    sregs := if unif || ts.length = 1 then words t0 else []
    vregs := if unif then [] else (ts.zipIdx.map fun e =>
      (words e.1).map fun x => ((e.2, x.1), x.2)).flatten
    tasks := if unif then (List.range gr.width).map fun l => (l, t0.id)
      else ts.zipIdx.map fun e => (e.2, e.1.id)
    check := true }

/-- Whether a team's work may take a context: it is resident (06 R163, 18 R441). -/
def W.teamRuns (w : W) (t : Nat) : Bool := (w.team t).st == .resident

/-! ## Task gathering (05 R134) -/

/-- The key by which tasks gather. -/
def Task.key (t : Task) : Nat × Nat × Nat := (t.team, t.entry, t.flags % 512)

/-- The ready tasks of a core that have not started, in the order they became ready. -/
def W.readyTasks (w : W) (c : Nat) : List Task :=
  let ts := (w.core c).tasks.filter fun t => t.readyAt.isSome && !t.started
  sortBy (fun t => t.readyAt.getD 0) (sortBy Task.id ts)

/-- The size of a task group of a key. -/
def W.groupSize (w : W) (t : Task) : Nat :=
  let width := (w.grid (w.team t.team).grid).width
  let hint := t.flags % 256
  if t.flags.testBit 8 then 1 else if hint = 0 then width else min hint width

/-- The first task group of a core that is ripe, oldest first. -/
def W.ripeGroup (w : W) (c : Nat) : Option (List Task) :=
  let ts := (w.readyTasks c).filter fun t => w.teamRuns t.team
  let age := max 1 (fld (w.blk .tgather 0) 0 16)
  let groups := (uniq (ts.map Task.key)).filterMap fun k =>
    let mine := ts.filter fun t => t.key = k
    match mine with
    | [] => none
    | t :: _ =>
      let n := w.groupSize t
      if n ≤ mine.length || t.readyAt.getD 0 + age ≤ w.ac then some (mine.take n) else none
  minBy (fun (g : List Task) => match g with
    | t :: _ => t.readyAt.getD 0 * 2 ^ 32 + t.id
    | [] => 0) groups

/-! ## Filling a context (05 R117) -/

/-- The head of the resume FIFO of a core (06 R162). -/
def W.fifoHead (w : W) (c : Nat) : Option Nat :=
  let fs := (w.coreFrags c).filterMap fun e => match e.2.place with
    | .fifo n => if w.teamRuns (w.group e.2.gid).team then some (e.1, n) else none
    | _ => none
  (minBy Prod.snd fs).map Prod.fst

/-- Whether a new group of a team can start (06 R148, 05 R117). -/
def W.groupFits (w : W) (t : Nat) : Bool :=
  let tm := w.team t
  let gr := w.grid tm.grid
  (w.freeLid tm.core).isSome && w.rfFits tm.core gr.vb gr.ub gr.width

/-- Starts an unstarted group, and takes it off the list. -/
def W.startUnstarted (w : W) (c k t gi : Nat) : W :=
  let w := w.modCore c fun x => { x with unstarted := x.unstarted.filter fun e => e ≠ (t, gi) }
  w.startGroup k (launchStart w t gi)

/-- Tasks that a group has taken. -/
def W.markStarted (w : W) (c : Nat) (ids : List Nat) : W :=
  let x := w.core c
  let ts := x.tasks.map fun u => if ids.contains u.id then { u with started := true } else u
  w.setCore c { x with tasks := ts }

/-- Fills one free context from the first source with work that fits; none when there is no such
work or no free context. -/
def W.fill (w : W) (c : Nat) : Option W :=
  match w.freeCtx c with
  | none => none
  | some k =>
    let fromFifo := match w.fifoHead c with
      | some f =>
        let g := w.group (w.frag f).gid
        if w.rfFits c g.vb g.ub g.width then some (w.relaunch f k) else none
      | none => none
    match fromFifo with
    | some w' => some { w' with c.cores := aset w'.c.cores c { w'.core c with fifoSince := none } }
    | none =>
      let fromUn := match (w.core c).unstarted.find? (fun e => w.teamRuns e.1) with
        | some (t, gi) => if w.groupFits t then some (w.startUnstarted c k t gi) else none
        | none => none
      match fromUn with
      | some w' => some w'
      | none =>
        let fromSpawn := match (w.core c).spawns.find? (fun r => w.teamRuns r.team) with
          | some r =>
            if w.groupFits r.team then
              let rest := (w.core c).spawns.erase r
              some ((w.modCore c fun x => { x with spawns := rest }).startGroup k (spawnStart w r))
            else none
          | none => none
        match fromSpawn with
        | some w' => some w'
        | none => match w.ripeGroup c with
          | some (t :: ts) =>
            if w.groupFits t.team then
              let ids := (t :: ts).map Task.id
              some ((w.markStarted c ids).startGroup k (taskStart w (t :: ts)))
            else none
          | _ => none

end Sys2Proof.Machine
end

