-- ==== Sys2Proof/Machine/Issue.lean ====
section
/-! DEFINITION. What every instruction does around its own effect: the guard, the advance of the
program counter, parking, the splitting of faulting lanes, single steps; and the shapes that most
instructions share: a function of each lane, and an act once for the fragment (03 R65, 06 R151,
R152, R164, 18 R427, R434). -/

namespace Sys2Proof.Machine

/-- The outcome type of a meaning. -/
abbrev Out1 := Host.Outcome State Fault Refusal

/-- What the body of an instruction gives: the state after it, the lanes that fault, the lanes that
wait while the others go on, or a wait of all, with which nothing of the body is done (06 R152,
R153); and whether the body itself writes records. -/
structure Eff where
  w : W
  leaves : Bool := false
  faults : List LFault := []
  parks : List (Nat × Wake) := []
  park : Option Wake := none
  deriving DecidableEq, Repr

/-- The lanes that execute: active, with a guard that reads 1 (03 R65). -/
def W.execLanes (w : W) (i : Issue) (g : Guard) : List Nat :=
  i.lanes.filter fun l => xor g.neg (w.readP i.gid l g.p.val)

/-- Moves the active lanes past the instruction; a replayed instruction leaves their PCs (06 R151,
R164). -/
def W.advance (w : W) (i : Issue) : W :=
  if i.replay then w
  else i.lanes.foldl (fun w l => w.modLane i.gid l fun x => { x with pc := nextPc i.pc i.len }) w

/-- Puts lanes at an address. -/
def W.setPcs (w : W) (g : Nat) (ls : List Nat) (pc : Nat) : W :=
  ls.foldl (fun w l => w.modLane g l fun x => { x with pc := pc }) w

/-- The executing lanes wait: one record with the instruction's PC (06 R152, R153). A replayed
instruction that waits leaves its address in the record's payload of the replay. -/
def W.parkSome (w : W) (i : Issue) (es : List Nat) (wk : Wake) : W :=
  let w := if i.replay then w else w.setPcs i.gid es i.pc
  w.leave i.gid i.frag es wk {} (if i.replay then some (i.pc, 0) else none)
def W.parkLanes (w : W) (i : Issue) (es : List Nat) (wk : Wake) : W :=
  (w.parkSome i es wk).shed i.gid i.frag

/-- Two waits on chunks of one window are one wait on all of them. -/
def joinWakes (a b : Wake) : Option Wake :=
  match a, b with
  | .chunk w m, .chunk w2 m2 => if w = w2 then some (.chunk w (m ||| m2)) else none
  | a, b => if a = b then some a else none

/-- Adds a lane's wait to the waits of records to write. -/
def addPark : List (List Nat × Wake) → Nat → Wake → List (List Nat × Wake)
  | [], l, k => [([l], k)]
  | (ls, k0) :: rest, l, k =>
    match joinWakes k0 k with
    | some j => (ls ++ [l], j) :: rest
    | none => (ls, k0) :: addPark rest l k

/-- Lanes of an instruction that wait for several things leave as a record for each. -/
def W.parkEach (w : W) (i : Issue) (ps : List (Nat × Wake)) : W :=
  (ps.foldl (fun rs p => addPark rs p.1 p.2) []).foldl (fun w r => w.parkSome i r.1 r.2) w

/-- Where the record of a faulting instruction goes on: at the instruction, or at the PC that a
replayed instruction's lanes hold (06 R164). -/
def W.faultPc (w : W) (i : Issue) (fs : List LFault) : Nat :=
  if i.replay then (w.lane i.gid (match fs with | x :: _ => x.lane | [] => 0)).pc else i.pc

/-- After an instruction of lanes resumed by ERET.step: those that are still in their fragment fault
SINGLE_STEP (18 R434). `w0` is the state in which the instruction began. -/
def W.stepEnd (w w0 : W) (i : Issue) : W :=
  if (w0.frag i.frag).step then
    let w1 := match aget w.c.thr.frags i.frag with
      | some x => w.setFrag i.frag { x with step := false }
      | none => w
    let out := ((w1.frag i.frag).hold.map Depart.lanes).flatten
    let ls := (w1.runLanes i.gid i.frag).filter fun l => i.lanes.contains l && !out.contains l
    match ls with
    | [] => w1
    | l :: _ =>
      (w1.takeFault i.gid i.frag ls Cause.singleStep 0 0 (w1.lane i.gid l).pc i.pc false).shed i.gid i.frag
  else w

/-- The end of an instruction: its waits and faults taken, from the state `w0` that only advanced. -/
def finish (i : Issue) (es : List Nat) (w0 : W) (e : Eff) : W :=
  if e.park.isNone && e.faults.isEmpty && e.parks.isEmpty && !e.leaves then e.w.stepEnd w0 i
  else
    let w1 := match e.park with
      | some wk => w0.parkLanes i es wk
      | none =>
        if e.faults.isEmpty && e.parks.isEmpty then e.w
        else ((e.w.takeFaults i.gid i.frag e.faults (w0.faultPc i e.faults) i.pc i.replay).parkEach i
          e.parks).shed i.gid i.frag
    w1.stepEnd w0 i

/-- An instruction: its guard, its advance, its body when a lane executes, its end. -/
def issue (g : Guard) (body : Issue → List Nat → W → Eff) (w : W) : W :=
  let i := w.c.mdl.cur
  let es := w.execLanes i g
  let w0 := (w.advance i).bumpFresh
  if es.isEmpty then w0.stepEnd w0 i else finish i es w0 (body i es w0)

/-- A meaning: one working step. -/
def step1 (f : W → W) (s : State) : Out1 := .next (s.act f)

/-- An instruction's meaning from its body. -/
def run (g : Guard) (body : Issue → List Nat → W → Eff) (s : State) : Out1 :=
  step1 (issue g body) s

/-- The same fault at every executing lane (03 R63). -/
def Eff.allFault (w : W) (es : List Nat) (cause : Nat) (addr : Nat := 0) : Eff :=
  { w := w, faults := es.map fun l => { lane := l, cause := cause, addr := addr } }

/-! ## Functions of each lane -/

/-- What an instruction gives in one lane: the words of its destination run, its flags, a fault, and
whether the lane drew a random number (02 R36). -/
structure LOut where
  vals : List Word := []
  flags : BitVec 5 := 0
  fault : Option (Nat × Nat) := none
  draw : Bool := false
  deriving DecidableEq, Repr

/-- ORs flags into the group's SR.FPFLAGS (02 R38). -/
def W.orFlags (w : W) (g : Nat) (x : BitVec 5) : W :=
  if x = 0#5 then w else w.modGroup g fun k => { k with flags := k.flags ||| x }

/-- Advances the sr counter of a lane (02 R36). -/
def W.bumpSeq (w : W) (g l : Nat) : W := w.modLane g l fun x => { x with seq := x.seq + 1 }

/-- The queue register that a destination names. -/
def queueOf : Opnd → Option Nat
  | .q n => some n.val
  | _ => none

/-- The body of an instruction that computes a function of each executing lane: pops, the function on
the state before, the writes `wr` of the lanes that do not fault, flags, also those of a lane that traps
(02 R39), pushes to the queue register `dq` (03 R60, 12 R319). Where every executing lane faults, no
queue changes (03 R63). -/
def laneBodyW (srcs : List Opnd) (dq : Option Nat) (wr : Issue → W → Nat → List Word → W)
    (k : Rd → Nat → LOut) (i : Issue) (es : List Nat) (w0 : W) : Eff :=
  match w0.popAll i.gid es (queueRegs srcs) with
  | (_, .park wk) => { w := w0, park := some wk }
  | (_, .fault c a) => Eff.allFault w0 es c a
  | (w, .ok (pops, zeros)) =>
    let rd : Rd := { w := w0, i := i, pops := pops, es := es }
    let outs := es.map fun l => (l, k rd l)
    let good := outs.filter fun o => o.2.fault.isNone
    let bad : List LFault := outs.filterMap fun o => match o.2.fault with
      | some (c, a) => some { lane := o.1, cause := c, addr := a }
      | none => none
    let flags := outs.foldl (fun x o => x ||| o.2.flags) 0
    if good.isEmpty then { w := w0.orFlags i.gid flags, faults := bad }
    else
    let w := good.foldl (fun w o => wr i w o.1 o.2.vals) w
    let w := w.orFlags i.gid flags
    let w := (good.filter fun o => o.2.draw).foldl (fun w o => w.bumpSeq i.gid o.1) w
    let w := w.endPreds i.gid (good.map Prod.fst) zeros
    match dq with
    | some q => match w.push i.gid q (good.map fun o => o.2.vals.headD 0) with
        | (w, .ok ()) => { w := w, faults := bad }
        | (_, .fault c a) => Eff.allFault w0 es c a
        | (_, .park wk) => { w := w0, park := some wk }
    | none => { w := w, faults := bad }

/-- The body of an instruction with one destination operand. -/
def laneBody (srcs : List Opnd) (d : Opnd) (k : Rd → Nat → LOut) (i : Issue) (es : List Nat)
    (w0 : W) : Eff :=
  laneBodyW srcs (queueOf d) (fun i w l xs => w.dst i d l xs) k i es w0

/-- The source fields that an instruction of the 64- and 96-bit form reads. -/
def aluSrcs (f : Alu) : List Opnd := f.a :: (if f.imm.isSome then [] else [f.b]) ++ [f.c]

/-- A lane instruction of the 64- and 96-bit form. -/
def laneOp (f : Alu) (k : Rd → Nat → LOut) : State → Out1 :=
  run f.g (laneBody (aluSrcs f) f.d k)

/-- A lane instruction whose writes are its own. -/
def laneOpW (f : Alu) (wr : Issue → W → Nat → List Word → W) (k : Rd → Nat → LOut) : State → Out1 :=
  run f.g (laneBodyW (aluSrcs f) (queueOf f.d) wr k)

/-- One word for each lane. -/
def lane1 (f : Alu) (k : Rd → Nat → Word) : State → Out1 :=
  laneOp f fun r l => { vals := [k r l] }

/-- A register pair for each lane. -/
def lane2 (f : Alu) (k : Rd → Nat → Dword) : State → Out1 :=
  laneOp f fun r l => { vals := [lo32 (k r l), hi32 (k r l)] }

/-- A body of its own whose sources `srcs` may be queue registers: they are popped for each executing lane
first. Where no executing lane goes on, all of them faulting or waiting, no queue changes (03 R60, R63). -/
def popBody (srcs : List Opnd) (k : Rd → List Nat → W → Eff) (i : Issue) (es : List Nat) (w0 : W) : Eff :=
  match queueRegs srcs with
  | [] => k { w := w0, i := i, es := es } es w0
  | qs => match w0.popAll i.gid es qs with
    | (_, .park wk) => { w := w0, park := some wk }
    | (_, .fault c a) => Eff.allFault w0 es c a
    | (w, .ok (pops, zeros)) =>
      let rd : Rd := { w := w0, i := i, pops := pops, es := es }
      let e := k rd es w
      if e.faults.length + e.parks.length = es.length then k rd es w0
      else
        let good := es.filter fun l => !(e.faults.any fun x => x.lane = l)
        { e with w := e.w.endPreds i.gid good zeros }

/-! ## Acts once for the fragment (06 R151) -/

/-- An instruction that acts once for the fragment when a lane executes. -/
def onceOp (g : Guard) (k : Rd → List Nat → W → Eff) : State → Out1 :=
  run g fun i es w => k { w := w, i := i, es := es } es w

/-- The same, where SRCB may be a queue register. -/
def oncePop (f : Alu) (k : Rd → List Nat → W → Eff) : State → Out1 :=
  run f.g (popBody (if f.imm.isSome then [] else [f.b]) k)

/-- Writes one word, or the words of a run, to a uniform destination, or to each executing lane of a
vector or predicate one. -/
def W.dstAll (w : W) (i : Issue) (d : Opnd) (es : List Nat) (xs : List Word) : W :=
  match d with
  | .s _ => w.dst i d 0 xs
  | _ => es.foldl (fun w l => w.dst i d l xs) w

/-- An instruction that writes one uniform result. -/
def uniOp (f : Alu) (k : Rd → List Word) : State → Out1 :=
  onceOp f.g fun r _ w => { w := w.dst r.i f.d 0 (k r) }

/-- An instruction that has no effect but its advance. -/
def nopOp (g : Guard) : State → Out1 := run g fun _ _ w => { w := w }

end Sys2Proof.Machine
end

