-- ==== Sys2Proof/Machine/Flags.lean ====
section
/-! DEFINITION. The conditions of the machine: the integer compares, the floating-point conditions of
an operation with the traps they take, and the weight, the check points and the transfers that an
issue looks at (06 R171, 02 R38, R39, 03 R91, 06 R145). -/

namespace Sys2Proof.Machine

/-! ## Integer compares (06 R171) -/

/-- Whether a compare holds of two 32-bit values. -/
def ccHolds (c : Cc) (a b : Word) : Bool :=
  match c with
  | .eq => a == b
  | .ne => a != b
  | .lt => a.slt b
  | .le => a.sle b
  | .gt => b.slt a
  | .ge => b.sle a
  | .ltu => a.ult b
  | .leu => a.ule b
  | .gtu => b.ult a
  | .geu => b.ule a

/-! ## Floating-point conditions (02 R38, R39) -/

/-- The bits of SR.FPFLAGS. -/
abbrev flagNX : BitVec 5 := 0b00001
abbrev flagUF : BitVec 5 := 0b00010
abbrev flagOF : BitVec 5 := 0b00100
abbrev flagDZ : BitVec 5 := 0b01000
abbrev flagNV : BitVec 5 := 0b10000

/-- A flag when a condition holds. -/
def flagIf (c : Bool) (f : BitVec 5) : BitVec 5 := if c then f else 0

/-- SR.FPCTL of the context of a group. -/
def W.fpctl (w : W) (g : Nat) : Dword := w.srReg (w.group g).asid .fpctl

/-- FTZ of SR.FPCTL (02 R37). -/
def W.ftz (w : W) (g : Nat) : Bool := (w.fpctl g).getLsbD 7
/-- TSC of SR.FPCTL (02 R29). -/
def W.tsc (w : W) (g : Nat) : Bool := (w.fpctl g).getLsbD 6

/-- The cause of the highest-ranked condition whose trap SR.FPCTL enables (02 R39). -/
def trapCause (ctl : Dword) (f : BitVec 5) : Option Nat :=
  if f.getLsbD 4 && ctl.getLsbD 5 then some Cause.fpInvalid
  else if f.getLsbD 3 && ctl.getLsbD 4 then some Cause.fpDivzero
  else if f.getLsbD 2 && ctl.getLsbD 3 then some Cause.fpOverflow
  else if f.getLsbD 1 && ctl.getLsbD 2 then some Cause.fpUnderflow
  else if f.getLsbD 0 && ctl.getLsbD 1 then some Cause.fpInexact
  else none

/-- A lane's floating-point result: its words and conditions, or the trap that a condition takes,
with which it writes nothing and draws nothing (02 R36, R39). -/
def fpOut (r : Rd) (vals : List Word) (fl : BitVec 5) (draw : Bool := false) : LOut :=
  match trapCause (r.w.fpctl r.i.gid) fl with
  | some c => { flags := fl, fault := some (c, 0) }
  | none => { vals := vals, flags := fl, draw := draw }

/-! ## What an issue looks at in an instruction -/

/-- The guard of an instruction. -/
def insnGuard (i : Instr) : Guard :=
  match i.parts with
  | some p => p.fmt.g
  | none => Guard.always

/-- Whether an instruction names a queue register (03 R91). -/
def namesQueue (i : Instr) : Bool :=
  match i.parts with
  | some p => [p.fmt.d, p.fmt.a, p.fmt.b, p.fmt.c].any fun o => match o with
      | .q _ => true
      | _ => false
  | none => false

/-- The weight of an instruction on a yield path in ac (03 R91): 64 for the matrix operations, GATH,
SCAT and COLL, by opcode. -/
def weight (i : Instr) : Nat :=
  match i.parts with
  | some p =>
    if (0xE3 ≤ p.op && p.op ≤ 0xE9) || p.op = 0xB6 || p.op = 0xB7 || p.op = 0xF3 then 64 else 2
  | none => 0

/-- The opcodes of the transfers, BRA to RET, and of JOIN and JOINF, which take lanes out of the
straight line too (06 R145, R169). -/
def transferOps : List Nat := [0x02, 0x03, 0x04, 0x05, 0x06, 0x07, 0x09, 0x0A]

/-- The opcodes of the check points of 03 R91; of CBAR the forms that wait (16 R390). -/
def checkOps : List Nat :=
  [0x0C, 0x0B, 0x04, 0x06, 0x07, 0x0F, 0x11, 0x13, 0x16, 0x18, 0x1A, 0x1C, 0xC8, 0xD5, 0xD6, 0xD7, 0xD8, 0xD9, 0xF0, 0xF2]

/-- Whether an instruction is a check point (03 R91). -/
def checkPoint (i : Instr) : Bool :=
  namesQueue i || match i with
    | .cbar _ _ | .cbarWt _ _ => true
    | _ => match i.parts with
      | some p => checkOps.contains p.op
      | none => false

/-- Whether an instruction ends the open windows of its lanes (06 R145). -/
def endsWindow (i : Instr) : Bool :=
  checkPoint i || match i.parts with
    | some p => transferOps.contains p.op
    | none => false

/-! ## Formats an instruction names in its own fields (02 R22, R23) -/

/-- A format code that R22 defines. -/
def fmtDefined (c : Nat) : Bool :=
  (1 ≤ c && c ≤ 0x0C) || (0x10 ≤ c && c ≤ 0x15) || isNf c

/-- A floating-point or integer element format that is not blocked and not a scale. -/
def fmtPlain (c : Nat) : Bool := (1 ≤ c && c ≤ 0x0B) || isNf c

/-- A block format. -/
def fmtMx (c : Nat) : Bool := 0x10 ≤ c && c ≤ 0x15

/-- Whether the codes in an instruction's own format fields are defined (02 R23), and those of the
packing instructions within their entries' lists (08 R217–R219). -/
def fmtOk (i : Instr) : Bool :=
  let z := fun (c : BitVec 8) => c == 0#8 || fmtDefined c.toNat
  match i with
  | .fpack m _ | .funpk m _ => (2 ≤ m.toNat && m.toNat ≤ 0x0B) || isNf m.toNat
  | .fsrnd m _ => 2 ≤ m.toNat && m.toNat ≤ 8
  | _ => match i.parts with
    | some { fmt := .eng f, .. } => z f.fmto
    | some { fmt := .mat f, .. } => z f.fmta && z f.fmtb
    | _ => true

end Sys2Proof.Machine
end

