-- ==== Sys2Proof/Machine/Fp.lean ====
section
/-! DEFINITION. Numbers: exact values, the formats of 02 R22, decoding, rounding in every mode,
conversion with its flags, the generator of stochastic rounding, block scales, the Hadamard
transform, and the sums of the matrix engines and of the Bedstone (02 R22–R44). -/

namespace Sys2Proof.Machine

/-! ## Exact values -/

/-- The number m · 2^e / d, with d positive. -/
structure Num where
  m : Int
  e : Int := 0
  d : Nat := 1
  deriving DecidableEq, Repr

/-- 2^k for a natural exponent as an integer. -/
def pow2 (k : Int) : Int := (2 ^ k.toNat : Nat)

def Num.add (a b : Num) : Num :=
  let e := min a.e b.e
  { m := a.m * pow2 (a.e - e) * b.d + b.m * pow2 (b.e - e) * a.d, e := e, d := a.d * b.d }
def Num.neg (a : Num) : Num := { a with m := -a.m }
def Num.sub (a b : Num) : Num := a.add b.neg
def Num.mul (a b : Num) : Num := { m := a.m * b.m, e := a.e + b.e, d := a.d * b.d }
/-- The quotient by a number that is not zero. -/
def Num.div (a b : Num) : Num :=
  { m := (if b.m < 0 then -a.m else a.m) * b.d, e := a.e - b.e, d := a.d * b.m.natAbs }
def Num.abs (a : Num) : Num := { a with m := a.m.natAbs }
def Num.isZero (a : Num) : Bool := a.m = 0
def Num.lt (a b : Num) : Bool := (a.sub b).m < 0
def Num.le (a b : Num) : Bool := (a.sub b).m ≤ 0
def Num.eq (a b : Num) : Bool := (a.sub b).m = 0
def Num.ofInt (x : Int) : Num := { m := x }
def Num.zero : Num := { m := 0 }
/-- 2^k. -/
def Num.pow (k : Int) : Num := { m := 1, e := k }

/-- floor(|a| / 2^k), and the 32 bits that follow with whether anything is left below them. -/
def Num.quot (a : Num) (k : Int) : Nat × Nat × Bool :=
  let n := a.m.natAbs * 2 ^ (a.e - k).toNat * 2 ^ 32
  let d := a.d * 2 ^ (k - a.e).toNat
  let q := n / d
  (q / 2 ^ 32, q % 2 ^ 32, n % d ≠ 0)

/-- The floor of a number. -/
def Num.floor (a : Num) : Int :=
  let q := a.quot 0
  if a.m < 0 then -(q.1 : Int) - (if q.2.1 ≠ 0 || q.2.2 then 1 else 0) else q.1

/-- floor(log2 |a|) of a number that is not zero. -/
def Num.log2 (a : Num) : Int :=
  let g : Int := (Nat.log2 a.m.natAbs : Int) - (Nat.log2 a.d : Int) + a.e
  if a.abs.lt (.pow g) then g - 1 else if (Num.pow (g + 1)).le a.abs then g + 1 else g

/-- A value of a format: a number with its sign bit, an infinity, or a NaN with its sign, the bits
below the quiet bit at the top of 52, and whether it signals. -/
inductive Fv where
  | num (neg : Bool) (x : Num)
  | inf (neg : Bool)
  | nan (neg : Bool) (pay : Nat) (snan : Bool)
  deriving DecidableEq, Repr

def Fv.zero : Fv := .num false Num.zero
def Fv.isNan : Fv → Bool
  | .nan _ _ _ => true
  | _ => false
def Fv.isSnan : Fv → Bool
  | .nan _ _ s => s
  | _ => false
def Fv.isInf : Fv → Bool
  | .inf _ => true
  | _ => false
def Fv.isZero : Fv → Bool
  | .num _ x => x.isZero
  | _ => false
def Fv.neg : Fv → Bool
  | .num n _ => n
  | .inf n => n
  | .nan n _ _ => n
/-- The exact number of a finite value. -/
def Fv.val : Fv → Num
  | .num _ x => x
  | _ => Num.zero
/-- The value of an exact number; a zero takes the sign given. -/
def Fv.ofNum (x : Num) (zneg : Bool := false) : Fv := .num (if x.isZero then zneg else x.m < 0) x
/-- The value with its sign bit inverted. -/
def Fv.flip : Fv → Fv
  | .num n x => .num (!n) x.neg
  | .inf n => .inf (!n)
  | .nan n p s => .nan (!n) p s
/-- The default NaN. -/
def Fv.dnan : Fv := .nan false 0 false
/-- The default NaN of an invalid operation on the way to a conversion, which sets NV and quiets
it. -/
def Fv.inan : Fv := .nan false 0 true

/-! ## Formats (02 R22, R24, R26, R31) -/

/-- What a code of a floating-point format may hold beside numbers. -/
inductive NanK where
  | none
  /-- exponent all ones: infinity and NaNs -/
  | ieee
  /-- exponent and mantissa all ones: a quiet NaN -/
  | ones
  /-- likewise in a parametric format, which no conversion gives (02 R32) -/
  | par
  deriving DecidableEq, Repr

/-- A format: sign, exponent bits, mantissa bits, bias, NaNs. With `int` the code is two's complement
or unsigned in units of 2^−bias. -/
structure Fmt where
  s : Bool
  e : Nat
  m : Nat
  bias : Int
  nan : NanK
  int : Bool := false
  deriving DecidableEq, Repr

def fp32 : Fmt := { s := true, e := 8, m := 23, bias := 127, nan := .ieee }
def fp16 : Fmt := { s := true, e := 5, m := 10, bias := 15, nan := .ieee }
def bf16 : Fmt := { s := true, e := 8, m := 7, bias := 127, nan := .ieee }
def e4m3 : Fmt := { s := true, e := 4, m := 3, bias := 7, nan := .ones }
def e5m2 : Fmt := { s := true, e := 5, m := 2, bias := 15, nan := .ieee }
def e2m3 : Fmt := { s := true, e := 2, m := 3, bias := 1, nan := .none }
def e3m2 : Fmt := { s := true, e := 3, m := 2, bias := 3, nan := .none }
def e2m1 : Fmt := { s := true, e := 2, m := 1, bias := 1, nan := .none }
def int8 : Fmt := { s := true, e := 0, m := 7, bias := 0, nan := .none, int := true }
def int4 : Fmt := { s := true, e := 0, m := 3, bias := 0, nan := .none, int := true }
def uint8 : Fmt := { s := false, e := 0, m := 8, bias := 0, nan := .none, int := true }
def mxint8 : Fmt := { s := true, e := 0, m := 7, bias := 6, nan := .none, int := true }
/-- E8M0 scales decode through their own rule; the format stands for the code alone (02 R29). -/
def e8m0 : Fmt := { s := false, e := 8, m := 0, bias := 127, nan := .none }

/-- A parametric format (02 R31). -/
def nfFmt (code : Nat) (bias : Int) (nanFlag : Bool) : Fmt :=
  { s := code.testBit 6, e := bits code 3 3, m := bits code 0 3, bias := bias
    nan := if nanFlag then .par else .none }

/-- The format of a code that R22 defines; an MX code gives its element's. -/
def fmtOf (code : Nat) (bias : Int := 0) (nanFlag : Bool := false) : Fmt :=
  match code with
  | 0x01 => fp32 | 0x02 => fp16 | 0x03 => bf16 | 0x04 => e4m3 | 0x05 => e5m2
  | 0x06 => e2m3 | 0x07 => e3m2 | 0x08 => e2m1 | 0x09 => int8 | 0x0A => int4
  | 0x0B => uint8 | 0x0C => e8m0
  | 0x10 => e4m3 | 0x11 => e5m2 | 0x12 => e2m3 | 0x13 => e3m2 | 0x14 => e2m1 | 0x15 => mxint8
  | _ => nfFmt code bias nanFlag

/-- The width of an element in bits. -/
def Fmt.width (f : Fmt) : Nat := (if f.s then 1 else 0) + f.e + f.m

/-- The code of the largest finite magnitude. A parametric format with NAN and neither exponent nor
mantissa bits has the code 0 alone, which 02 R31 makes a NaN: the model saturates to that code (DESIGN
CHOICE, log entry 10). -/
def Fmt.maxMag (f : Fmt) : Nat :=
  match f.nan with
  | .ieee => 2 ^ f.m * (2 ^ f.e - 1) - 1
  | .ones | .par => 2 ^ (f.e + f.m) - 2
  | .none => 2 ^ (f.e + f.m) - 1

/-- Whether the code of a magnitude is a NaN's or an infinity's. -/
def Fmt.special (f : Fmt) (c : Nat) : Bool := f.nan ≠ .none && f.maxMag < c

/-- The value of the code of a magnitude, also above the largest (02 R26, R31). -/
def Fmt.mag (f : Fmt) (c : Nat) : Num :=
  if f.e = 0 then { m := c, e := -f.bias }
  else
    let ex := c / 2 ^ f.m
    let mn := c % 2 ^ f.m
    if ex = 0 then { m := mn, e := 1 - f.bias - f.m }
    else { m := mn + 2 ^ f.m, e := ex - f.bias - f.m }

/-- The value of an element's code (02 R24, R26, R28, R31). The FP8 E5M2 NaN S.11111.01 signals, the
other two are quiet (DEDUCED from the quiet form of 02 R26, log entry 10). -/
def Fmt.dec (f : Fmt) (code : Nat) : Fv :=
  let c := code % 2 ^ f.width
  if f = e8m0 then
    if c = 0xFF then .dnan else .num false (.pow ((c : Int) - 127))
  else if f.int then
    let x : Int := if f.s && 2 ^ f.m ≤ c then (c : Int) - 2 ^ (f.m + 1) else c
    .num (x < 0) { m := x, e := -f.bias }
  else
    let n := f.s && c.testBit (f.e + f.m)
    let g := c % 2 ^ (f.e + f.m)
    let mn := g % 2 ^ f.m
    match f.nan with
    | .ieee =>
      if g / 2 ^ f.m = 2 ^ f.e - 1 then
        if mn = 0 then .inf n
        else .nan n (mn % 2 ^ (f.m - 1) * 2 ^ (52 - (f.m - 1))) (!mn.testBit (f.m - 1))
      else num n g
    | .ones | .par =>
      if g = 2 ^ (f.e + f.m) - 1 then .nan n (mn % 2 ^ (f.m - 1) * 2 ^ (52 - (f.m - 1))) false
      else num n g
    | .none => num n g
where
  num (n : Bool) (g : Nat) : Fv :=
    let x := f.mag g
    .num n (if n then x.neg else x)

/-- The code of a NaN: its sign and top bits, quiet (02 R25, R27). -/
def Fmt.nanCode (f : Fmt) (neg : Bool) (pay : Nat) : Nat :=
  let top := match f.nan with
    | .ieee => 2 ^ f.m * (2 ^ f.e - 1) + 2 ^ (f.m - 1) + pay / 2 ^ (52 - (f.m - 1))
    | _ => 2 ^ (f.e + f.m) - 1
  top + if neg && f.s then 2 ^ (f.e + f.m) else 0

/-- OCP formats keep the quiet form of a NaN (02 R26, R27). -/
def Fmt.quiet (f : Fmt) (neg : Bool) (pay : Nat) : Nat :=
  if f = e5m2 then f.nanCode neg 0 else f.nanCode neg pay

/-! ## Rounding (02 R34, R35) -/

/-- Whether a remainder makes the magnitude go up: the quotient, the 32 bits below it, whether more
is left, and the random bits. -/
def roundUp (rm : Rnd) (neg : Bool) (r : Nat) (q frac : Nat) (more : Bool) : Bool :=
  match rm with
  | .rne => 2 ^ 31 < frac || (frac = 2 ^ 31 && (more || q % 2 = 1))
  | .rz => false
  | .ru => !neg && (frac ≠ 0 || more)
  | .rd => neg && (frac ≠ 0 || more)
  | .sr => (frac ≠ 0 || more) && r < frac

/-- The exponent of the unit of a magnitude in a format. -/
def Fmt.unit (f : Fmt) (x : Num) : Int :=
  if f.e = 0 then -f.bias else max x.log2 (1 - f.bias) - f.m

/-- The code of a magnitude rounded with the format's range continued upwards, and whether it is
inexact. In a format without mantissa bits a tie of rne goes to the even code, where 02 R34 speaks of
the even mantissa (DESIGN CHOICE, log entry 11). -/
def Fmt.roundMag (f : Fmt) (rm : Rnd) (r : Nat) (neg : Bool) (x : Num) : Nat × Bool :=
  let u := f.unit x
  let (q, frac, more) := x.quot u
  let q' := if roundUp rm neg r q frac more then q + 1 else q
  let base := if f.e = 0 then 0 else ((u - (1 - f.bias - f.m)).toNat) * 2 ^ f.m
  (q' + base, frac ≠ 0 || more)

/-- Whether a result is tiny: rounded with no lower bound of its exponent, it lies below the smallest
normal magnitude (02 R38). -/
def Fmt.tiny (f : Fmt) (rm : Rnd) (r : Nat) (neg : Bool) (x : Num) : Bool :=
  let l := x.log2
  if 1 - f.bias ≤ l then false
  else
    let (q, frac, more) := x.quot (l - f.m)
    let q' := if roundUp rm neg r q frac more then q + 1 else q
    l + 1 < 1 - f.bias || q' < 2 ^ (f.m + 1)

/-- In sr, whether a magnitude above the largest finite one goes on to the next (02 R35). -/
def Fmt.srOver (f : Fmt) (lim : Nat) (r : Nat) (x : Num) : Bool :=
  let top := f.mag lim
  let u := if lim = 0 then f.mag 1 else top.sub (f.mag (lim - 1))
  let fr := (x.abs.sub top).div u
  (Num.ofInt 1).le fr || decide (r < (fr.quot (-32)).1)

/-- The result of a conversion: code, flags, and whether it was inexact (a draw under sr). -/
structure Cv where
  code : Nat
  flags : BitVec 5
  drew : Bool := false
  deriving DecidableEq, Repr

/-- The sign bit of a code. -/
def Fmt.signed (f : Fmt) (neg : Bool) (c : Nat) : Nat :=
  if neg && f.s then c + 2 ^ (f.e + f.m) else c

/-- The two's complement code of an integer. -/
def Fmt.intCode (f : Fmt) (neg : Bool) (c : Nat) : Nat :=
  if neg then (2 ^ f.width - c) % 2 ^ f.width else c

/-- The conversion of an exact value into a format in a mode (02 R27, R28, R32, R35, R38). -/
def Fmt.conv (f : Fmt) (rm : Rnd) (r : Nat) (v : Fv) : Cv :=
  match v with
  | .nan n p s =>
    let nv := flagIf s flagNV
    if f.int then { code := 0, flags := flagNV }
    else if f = fp32 || f = fp16 || f = bf16 || f = e4m3 || f = e5m2 then
      { code := f.quiet n p, flags := nv }
    else { code := 0, flags := flagNV }
  | .inf n =>
    if f.int then { code := f.intCode n (lim n), flags := flagNV }
    else if f.nan = .ieee then { code := f.signed n (f.maxMag + 1), flags := 0 }
    else if !f.s && n then { code := 0, flags := flagOF ||| flagNX }
    else { code := f.signed n f.maxMag, flags := flagOF ||| flagNX }
  | .num n x =>
    if x.isZero then { code := if f.int then 0 else f.signed n 0, flags := 0 }
    else if f.int then
      let (c, nx) := f.roundMag rm r n x
      let ovf := if rm = .sr && (f.mag (lim n)).lt x.abs then f.srOver (lim n) r x else lim n < c
      if ovf then { code := f.intCode n (lim n), flags := flagNV, drew := nx }
      else { code := f.intCode n (min c (lim n)), flags := flagIf nx flagNX, drew := nx }
    else if !f.s && n then { code := 0, flags := flagOF ||| flagNX }
    else
      let (c0, nx) := f.roundMag rm r n x
      let big := f.maxMag
      let above := (f.mag big).lt x.abs
      let ovf := if rm = .sr && above then f.srOver big r x else big < c0
      if ovf then
        let toInf := match rm with
          | .rne | .sr => true
          | .rz => false
          | .ru => !n
          | .rd => n
        let c := if f.nan = .ieee && toInf then big + 1 else big
        { code := f.signed n c, flags := flagOF ||| flagNX, drew := nx }
      else
        let c := min c0 big
        let uf := if f.e = 0 then c = 0 else nx && f.tiny rm r n x
        let inex := nx || above
        { code := f.signed n c, flags := flagIf inex flagNX ||| flagIf uf flagUF, drew := inex }
where
  /-- the largest magnitude of an integer of a sign -/
  lim (neg : Bool) : Nat :=
    if f.s then (if neg then 2 ^ f.m else 2 ^ f.m - 1) else (if neg then 0 else 2 ^ f.m - 1)

/-! ## The generator (02 R36) -/

/-- One round of the hash. -/
def mix (x : Nat) : Nat :=
  let m := 2 ^ 64
  let x := (x + 0x9E3779B97F4A7C15) % m
  let x := ((x ^^^ (x >>> 30)) * 0xBF58476D1CE4E5B9) % m
  let x := ((x ^^^ (x >>> 27)) * 0x94D049BB133111EB) % m
  x ^^^ (x >>> 31)

/-- The seed of a thread: the context's, its team's, its group's or task's. -/
def W.seed (w : W) (g l : Nat) : Nat :=
  let gr := w.group g
  let gi := match gr.kind with
    | .task _ => 2 ^ 32 + ((w.lane g l).tid.getD 0)
    | _ => gr.gindex
  mix (mix ((w.srReg gr.asid .srseed).toNat ^^^ (w.team gr.team).tlin) ^^^ gi)

/-- The random bits of an element for a seed and a count. -/
def drawOf (seed seq k : Nat) : Nat := mix (seed ^^^ ((seq * 2 ^ 32 + k) % 2 ^ 64)) % 2 ^ 32

/-- The random bits of an element of a lane's result. -/
def W.draw (w : W) (g l k : Nat) : Nat := drawOf (w.seed g l) (w.lane g l).seq.toNat k

/-! ## Wide arithmetic (02 R25, R37, 08 R202–R211) -/

/-- A wide operand read: subnormals of FP32 and BF16 are zeros under FTZ. -/
def readWide (f : Fmt) (ftz : Bool) (code : Nat) : Fv :=
  match f.dec code with
  | .num n x =>
    if ftz && f.e = 8 && !x.isZero && x.abs.lt (.pow (1 - f.bias)) then .num n Num.zero
    else .num n x
  | v => v

/-- A wide result: rounded once, and a subnormal flushed under FTZ (02 R37). -/
def writeWide (f : Fmt) (ftz : Bool) (rm : Rnd) (r : Nat) (v : Fv) : Cv :=
  let c := f.conv rm r v
  let g := c.code % 2 ^ (f.e + f.m)
  if ftz && f.e = 8 && g ≠ 0 && g < 2 ^ f.m then
    { c with code := c.code - g, flags := c.flags ||| flagUF ||| flagNX }
  else c

/-- The NaN of an operation from its first NaN operand, quieted (02 R25). -/
def firstNan (vs : List Fv) : Option Fv :=
  (vs.find? Fv.isNan).map fun v => match v with
    | .nan n p _ => .nan n p false
    | v => v

/-- The first NaN of some operands, which signals where any of them does: its conversion then sets NV
(02 R25). -/
def signalNan (vs : List Fv) : Option Fv :=
  (vs.find? Fv.isNan).map fun v => match v with
    | .nan n p _ => .nan n p (vs.any Fv.isSnan)
    | v => v

/-- The invalid flag of signalling operands. -/
def snanFlag (vs : List Fv) : BitVec 5 := flagIf (vs.any Fv.isSnan) flagNV

/-- The sum of two values that are no NaN: an exact zero of unlike signs is +0, and −0 in rd; none for
∞ − ∞. -/
def addFv (rd : Bool) (a b : Fv) : Option Fv :=
  match a, b with
  | .inf x, .inf y => if x = y then some (.inf x) else none
  | .inf x, _ => some (.inf x)
  | _, .inf y => some (.inf y)
  | a, b =>
    let s := a.val.add b.val
    some (Fv.ofNum s (if a.isZero && b.isZero && a.neg = b.neg then a.neg else rd))

/-- The product of two values that are no NaN; none for 0 · ∞. -/
def mulFv (a b : Fv) : Option Fv :=
  let n := xor a.neg b.neg
  match a, b with
  | .inf _, b => if b.isZero then none else some (.inf n)
  | a, .inf _ => if a.isZero then none else some (.inf n)
  | a, b => some (.num n (a.val.mul b.val))

/-- A fused a · b + c in a format: the code and the flags. 0 · ∞ with a quiet NaN addend gives that
NaN and sets no NV, by the first two sentences of 02 R25 (DEDUCED, log entry 11). -/
def fmaWide (f : Fmt) (ftz : Bool) (rm : Rnd) (r : Nat) (a b c : Fv) : Cv :=
  match firstNan [a, b, c] with
  | some v =>
    { code := (f.conv rm r v).code, flags := snanFlag [a, b, c] }
  | none => match mulFv a b with
    | none => { code := (f.conv rm r .dnan).code, flags := flagNV }
    | some p => match addFv (rm = .rd) p c with
      | none => { code := (f.conv rm r .dnan).code, flags := flagNV }
      | some s => writeWide f ftz rm r s

/-- A sum in a format. -/
def addWide (f : Fmt) (ftz : Bool) (rm : Rnd) (r : Nat) (a b : Fv) : Cv :=
  match firstNan [a, b] with
  | some v => { code := (f.conv rm r v).code, flags := snanFlag [a, b] }
  | none => match addFv (rm = .rd) a b with
    | none => { code := (f.conv rm r .dnan).code, flags := flagNV }
    | some s => writeWide f ftz rm r s

/-- A product in a format. -/
def mulWide (f : Fmt) (ftz : Bool) (rm : Rnd) (r : Nat) (a b : Fv) : Cv :=
  match firstNan [a, b] with
  | some v => { code := (f.conv rm r v).code, flags := snanFlag [a, b] }
  | none => match mulFv a b with
    | none => { code := (f.conv rm r .dnan).code, flags := flagNV }
    | some s => writeWide f ftz rm r s

/-- An FP32 sum of words in rne with subnormals kept: AFADD, the Bedstone, staged sums (10 R278,
02 R44). -/
def addF32 (a b : Word) : Word :=
  BitVec.ofNat 32 (addWide fp32 false .rne 0 (fp32.dec a.toNat) (fp32.dec b.toNat)).code

/-- One addition of Neumaier's rule to a pair (02 R44). -/
def neumaier (p : Word × Word) (x : Word) : Word × Word :=
  let neg := fun (y : Word) => y ^^^ 0x80000000
  let t := addF32 p.1 x
  let comp := match fp32.dec t.toNat with
    | .num _ _ =>
      let big := (fp32.dec x.toNat).val.abs.le (fp32.dec p.1.toNat).val.abs
      if big then addF32 p.2 (addF32 (addF32 p.1 (neg t)) x)
      else addF32 p.2 (addF32 (addF32 x (neg t)) p.1)
    | _ => 0
  (t, comp)

/-- A read of a pair (02 R44). -/
def neumaierRead (p : Word × Word) : Word :=
  match fp32.dec p.1.toNat with
  | .num _ _ => addF32 p.1 p.2
  | _ => p.1

/-! ## Block scales (02 R29, R30) -/

/-- The value of an E8M0 byte; none for NaN. -/
def scaleVal (x : Nat) : Option Num := if x = 0xFF then none else some (.pow ((x : Int) - 127))

/-- emax of an MX code. -/
def mxEmax (code : Nat) : Int :=
  match code with
  | 0x10 => 8 | 0x11 => 15 | 0x12 => 2 | 0x13 => 4 | 0x14 => 2 | _ => 0

/-- The conversion of a block into an MX format: the scale, and each element's code and flags; the
random bits of each element are given. -/
def mxConv (code : Nat) (rm : Rnd) (rs : List Nat) (vs : List Fv) : Nat × List Cv :=
  let f := fmtOf code
  if vs.any fun v => v.isNan || v.isInf then
    (0xFF, vs.map fun v => f.conv rm 0 (if v.isNan then v else .dnan))
  else
    let amax := vs.foldl (fun (m : Num) v => if m.lt v.val.abs then v.val.abs else m) Num.zero
    let ex := if amax.isZero then 0 else max (-127) (min 127 (amax.log2 - mxEmax code))
    ((ex + 127).toNat, vs.zipIdx.map fun e => match e.1 with
      | .num n x => f.conv rm (rs.getD e.2 0) (.num n (x.mul (.pow (-ex))))
      | v => f.conv rm (rs.getD e.2 0) v)

/-! ## The Hadamard transform (02 R41) -/

/-- The parity of the bits of a number below 2^6. -/
def parity6 (x : Nat) : Bool :=
  (List.range 6).foldl (fun p i => xor p (x.testBit i)) false

/-- The factor of the transform of size b. -/
def hadScale (b : Nat) : Num :=
  if b = 16 then .pow (-2) else if b = 64 then .pow (-3) else (fp32.dec 0x3E3504F3).val

/-- The transform of a run of b values: exact sums and the factor. A run that holds a NaN gives in
every place its first NaN in the order of the elements, with its own sign, and NV where any of its
NaNs signals; an infinity gives an infinity, or the default NaN where two differ; a sum that is exactly
0 is +0 unless every term is −0. 02 R41 says nothing of these three (DESIGN CHOICE, log entry 11). -/
def hadamard (vs : List Fv) : List Fv :=
  let b := vs.length
  (List.range b).map fun i =>
    let terms := vs.zipIdx.map fun e => if parity6 (i &&& e.2) then e.1.flip else e.1
    match signalNan vs with
    | some v => v
    | none =>
      if (terms.any fun t => t = .inf false) && (terms.any fun t => t = .inf true) then .inan
      else match terms.find? Fv.isInf with
        | some v => v
        | none =>
          let s := terms.foldl (fun (s : Num) t => s.add t.val) Num.zero
          Fv.ofNum (s.mul (hadScale b)) (terms.all fun t => t.isZero && t.neg)

/-! ## Matrix sums (02 R42, R43) -/

/-- acc plus the exact sum of a block of products of pairs of values (02 R42, R43). An acc that is
already NaN stays that NaN, quieted, where no product is NaN: 02 R43 names the products alone (DEDUCED
from 02 R25, log entry 11). -/
def blockSum (ftz : Bool) (acc : Word) (ps : List (Fv × Fv)) : Word × BitVec 5 :=
  let a := readWide fp32 ftz acc.toNat
  let prods := ps.map fun p => if p.1.isNan || p.2.isNan then none else mulFv p.1 p.2
  let bad := (0x7FC00000#32, flagNV)
  if prods.any Option.isNone then bad
  else
    let xs := prods.filterMap id
    let infs := xs.filter Fv.isInf
    let sum : Option Fv :=
      match infs with
      | [] =>
        some (Fv.ofNum (xs.foldl (fun (s : Num) x => s.add x.val) Num.zero)
          (xs.all fun x => x.isZero && x.neg))
      | i :: rest => if rest.all (fun j => j = i) then some i else none
    match sum with
    | none => bad
    | some s => match a with
      | .nan n p sn =>
        (BitVec.ofNat 32 (fp32.nanCode n p), flagIf sn flagNV)
      | a => match addFv false a s with
        | none => bad
        | some t =>
          let c := writeWide fp32 ftz .rne 0 t
          (BitVec.ofNat 32 c.code, c.flags)

end Sys2Proof.Machine
end

