-- ==== Sys2Proof/Machine/Desc.lean ====
section
/-! DEFINITION. Tensor descriptors: their fields, their validity by type, the addresses of elements
and scales, the containers of elements, and the resolution of key-value pages (02 R45–R51, 12 R322,
14 R348–R353, 15 R374–R376, R385). -/

namespace Sys2Proof.Machine

/-! ## Fields (02 R46) -/

/-- A descriptor. -/
abbrev Td := BitVec 512

def tdF (d : Td) (lo len : Nat) : Nat := bits d.toNat lo len
def tdV (d : Td) : Bool := d.getLsbD 0
def tdNdim (d : Td) : Nat := tdF d 1 3
def tdType (d : Td) : Nat := tdF d 4 4
def tdFmt (d : Td) : Nat := tdF d 8 8
/-- A two's complement field. -/
def sfield (x n : Nat) : Int := if x < 2 ^ (n - 1) then x else (x : Int) - 2 ^ n
def tdBias (d : Td) : Int := sfield (tdF d 16 8) 8
def tdRndCode (d : Td) : Nat := tdF d 24 3
def rndOf (c : Nat) : Rnd :=
  match c with
  | 1 => .rz | 2 => .ru | 3 => .rd | 4 => .sr | _ => .rne
def tdRnd (d : Td) : Rnd := rndOf (tdRndCode d)
def tdScm (d : Td) : Nat := tdF d 27 2
def tdHad (d : Td) : Nat := tdF d 29 2
/-- b of the Hadamard transform; 0 for none. -/
def tdHadB (d : Td) : Nat := if tdHad d = 0 then 0 else 8 * 2 ^ tdHad d
def tdHdim (d : Td) : Nat := tdF d 31 3
def tdNan (d : Td) : Bool := d.getLsbD 34
def tdPack6 (d : Td) : Bool := d.getLsbD 35
def tdClamp (d : Td) : Bool := d.getLsbD 36
def tdFlags (d : Td) : Nat := tdF d 34 14
def tdBase (d : Td) : Nat := tdF d 64 56
def tdSbase (d : Td) : Nat := tdF d 128 56
def tdSize (d : Td) (k : Nat) : Nat := if k < 5 then tdF d (192 + 24 * k) 24 else 0
/-- The stride of dimension k from 1 to 4. -/
def tdStr (d : Td) (k : Nat) : Int :=
  if 1 ≤ k && k ≤ 4 then sfield (tdF d (312 + 44 * (k - 1)) 44) 44 else 0
def tdSizes (d : Td) : List Nat := (List.range (tdNdim d)).map (tdSize d)

/-- The descriptor of a context (02 R45). -/
def W.td (w : W) (a i : Nat) : Td := (aget w.c.sys.td (a, i)).getD 0

/-- The format of a descriptor's elements. -/
def tdFormat (d : Td) : Fmt := fmtOf (tdFmt d) (tdBias d) (tdNan d)

/-! ## Containers (02 R33) -/

/-- How elements of a format lie. -/
inductive Cont where
  | bytes (n : Nat)
  | nibble
  | pack6
  deriving DecidableEq, Repr

def contOf (code : Nat) (pack6 : Bool) : Cont :=
  let wd := (fmtOf code).width
  if wd = 32 then .bytes 4
  else if wd = 16 then .bytes 2
  else if wd = 6 && pack6 then .pack6
  else if 5 ≤ wd then .bytes 1
  else .nibble

def tdCont (d : Td) : Cont := contOf (tdFmt d) (tdPack6 d)

/-- The bytes of the unit that holds an element. -/
def Cont.unit : Cont → Nat
  | .bytes n => n
  | .nibble => 1
  | .pack6 => 3

/-- The offset of element i of a row: that of its unit. -/
def Cont.pos (c : Cont) (i : Nat) : Nat :=
  match c with
  | .bytes n => n * i
  | .nibble => i / 2
  | .pack6 => 3 * (i / 4)

/-- The bytes of a row of n elements. -/
def Cont.row (c : Cont) (n : Nat) : Nat :=
  match c with
  | .bytes k => k * n
  | .nibble => (n + 1) / 2
  | .pack6 => 3 * n / 4

/-- The code of element i in the bytes of its unit. -/
def Cont.get (c : Cont) (i : Nat) (bs : List Byte) : Nat :=
  let x := leNat bs
  match c with
  | .bytes _ => x
  | .nibble => bits x (4 * (i % 2)) 4
  | .pack6 => bits x (6 * (i % 4)) 6

/-- The bytes of a unit with element i replaced. -/
def Cont.put (c : Cont) (i code : Nat) (bs : List Byte) : List Byte :=
  let x := leNat bs
  match c with
  | .bytes n => leBytes n code
  | .nibble => leBytes 1 (x - bits x (4 * (i % 2)) 4 * 2 ^ (4 * (i % 2)) + code % 16 * 2 ^ (4 * (i % 2)))
  | .pack6 =>
    leBytes 3 (x - bits x (6 * (i % 4)) 6 * 2 ^ (6 * (i % 4)) + code % 64 * 2 ^ (6 * (i % 4)))

/-! ## Addresses of elements (02 R50) -/

/-- Coordinates inside SIZE. -/
def tdInside (d : Td) (ix : List Nat) : Bool :=
  ix.zipIdx.all fun e => e.1 < tdSize d e.2

/-- BASE plus the offset of an element's unit, before any check. -/
def tdAddrInt (d : Td) (ix : List Nat) : Int :=
  ix.zipIdx.foldl (fun (a : Int) e => if e.2 = 0 then a else a + e.1 * tdStr d e.2)
    ((tdBase d : Int) + ((tdCont d).pos (ix.headD 0) : Nat))

/-- The address in 64 bits. -/
def tdAddr (d : Td) (ix : List Nat) : Nat := (BitVec.ofInt 64 (tdAddrInt d ix)).toNat

/-- The VA of an element's E8M0 scale (02 R49). -/
def tdScaleAddr (d : Td) (ix : List Nat) : Nat :=
  let row := (tdSize d 0 + 31) / 32
  let hi := (ix.zipIdx.drop 1).foldr (fun e acc => e.1 + tdSize d e.2 * acc) 0
  tdSbase d + ix.headD 0 / 32 + row * hi

/-- The lowest and the highest byte of any element (10 R231). -/
def tdSpan (d : Td) : Int × Int :=
  let ends := (List.range (tdNdim d)).map fun k =>
    if k = 0 then (0, (((tdCont d).pos (tdSize d 0 - 1) + (tdCont d).unit - 1 : Nat) : Int))
    else
      let x := ((tdSize d k - 1 : Nat) : Int) * tdStr d k
      (min 0 x, max 0 x)
  ends.foldl (fun (a : Int × Int) e => (a.1 + e.1, a.2 + e.2)) ((tdBase d : Int), (tdBase d : Int))

/-! ## Validity (02 R47–R50, 12 R322, 15 R375, R385) -/

/-- The checks common to every type; an FMT that 02 R22 does not define is among them (02 R23). -/
def tdCommon (d : Td) : Bool :=
  tdV d && 1 ≤ tdNdim d && tdNdim d ≤ 5 && tdType d ≤ 7 && tdF d 488 24 = 0 && tdF d 184 8 = 0
    && tdF d 120 8 = 0 && tdF d 48 16 = 0 && tdF d 37 11 = 0 && tdRndCode d ≤ 4 && tdScm d ≠ 3
    && fmtDefined (tdFmt d)

/-- Sizes and strides of the dimensions in use, and zeros beyond. -/
def tdDims (d : Td) : Bool :=
  let n := tdNdim d
  ((List.range 5).all fun k => if k < n then tdSize d k ≠ 0 else tdSize d k = 0)
    && ((List.range 5).all fun k => k = 0 || k < n || tdStr d k = 0)

/-- Alignment of BASE and the strides to the container. -/
def tdAligned (d : Td) : Bool :=
  let c := match tdCont d with
    | .bytes n => n
    | _ => 1
  tdBase d % c = 0 && (List.range 5).all fun k => tdStr d k % c = 0

/-- The scale mode of R49. -/
def tdScaleOk (d : Td) : Bool :=
  (if fmtMx (tdFmt d) then tdScm d = 1 else tdScm d ≠ 1)
    && (tdScm d ≠ 2 || tdF d 160 24 = 0) && (tdScm d ≠ 0 || tdSbase d = 0)

/-- The Hadamard field of R41. -/
def tdHadOk (d : Td) : Bool :=
  tdHad d = 0 || (tdHdim d < tdNdim d && tdSize d (tdHdim d) % tdHadB d = 0)

/-- PACK6 of R50. -/
def tdPackOk (d : Td) : Bool :=
  !tdPack6 d || ((fmtOf (tdFmt d)).width = 6 && tdSize d 0 % 4 = 0)

/-- A dense descriptor is valid (02 R50). -/
def tdDense (d : Td) : Bool :=
  tdCommon d && tdType d = 0 && tdDims d && tdAligned d && tdScaleOk d
    && tdHadOk d && tdPackOk d

/-- A KV-paged descriptor is valid (15 R375). -/
def tdKv (d : Td) : Bool :=
  tdCommon d && tdType d = 1 && 2 ≤ tdNdim d && tdNdim d ≤ 4 && tdDims d
    && ((List.range 5).all fun k => tdStr d k = 0) && tdSbase d = 0
    && tdSize d 0 % 32 = 0 && 61440 % tdSize d 0 = 0 && tdBase d % 16 = 0
    && (tdFmt d = 4 || tdFmt d = 5) && tdScm d = 0 && !tdNan d && !tdPack6 d && tdHadOk d
    && tdF d 16 8 = 0

/-- A stream layout descriptor is valid (12 R322). The base and strides of R50 hold too. -/
def tdStream (d : Td) : Bool :=
  tdCommon d && tdType d = 6 && tdDims d && tdAligned d && tdPackOk d
    && (tdScm d = 0 || tdScm d = 2) && tdScaleOk d && tdHad d = 0 && !fmtMx (tdFmt d) && !tdClamp d

/-- A descriptor read with a format override: 0 takes its own FMT (03 R72). -/
def tdAs (d : Td) (fmto : Nat) : Td :=
  if fmto = 0 then d else BitVec.ofNat 512 (d.toNat - tdFmt d * 256 + fmto * 256)

/-! ## Elements of key-value pages (15 R374–R376) -/

/-- The logical page and the element in it of coordinates (15 R375). -/
def kvPlace (d : Td) (ix : List Nat) : Nat × Nat :=
  let i := fun k => ix.getD k 0
  let t := 61440 / tdSize d 0
  let pph := (tdSize d 1 + t - 1) / t
  ((i 3 * max 1 (tdSize d 2) + i 2) * pph + i 1 / t, i 1 % t * tdSize d 0 + i 0)

/-- The header of its 256 bytes; none when a field is out of its list. -/
def kvHeader (bs : List Byte) : Option KvHdr :=
  let f := fieldLE bs 0 1
  let h := fieldLE bs 1 1
  if (f = 4 || f = 5 || f = 0x14) && h < 4 && (h.testBit 1 == (f = 0x14 : Bool))
    && fieldLE bs 2 2 = 0 && fieldLE bs 32 224 = 0 then
    some { fmt := f, sealed_ := h.testBit 0, gen := fieldLE bs 4 4, scale0 := fieldLE bs 8 4,
           scale1 := fieldLE bs 12 4, sealt := fieldLE bs 16 8 }
  else none

/-- Reads the header of a page. -/
def W.kvHead (w : W) (a page : Nat) : W × MRes KvHdr :=
  match w.read3 a page 256 (w.needU a) with
  | (w, .ok bs) => match kvHeader bs with
    | some h => (w, .ok h)
    | none => (w, .bad Cause.formatInvalid page)
  | (w, .bad c v) => (w, .bad c v)
  | (w, .nonres v) => (w, .nonres v)

/-- A block-table entry as an operation resolves it: its value, with `2 ^ 63` for an entry whose V is
0. -/
def W.kvResolve (w : W) (a : Nat) (d : Td) (n : Nat) : W × MRes Nat :=
  match w.read3 a (tdBase d + 8 * n) 8 (w.needU a) with
  | (w, .ok bs) =>
    let e := leNat bs
    if bits e 56 8 ≠ 0 || bits e 2 14 ≠ 0 then (w, .bad Cause.tdInvalid (tdBase d + 8 * n))
    else if e % 2 = 0 then (w, .ok (2 ^ 63))
    else (w, .ok e)
  | (w, .bad c v) => (w, .bad c v)
  | (w, .nonres v) => (w, .nonres v)

/-- The byte of an element's code in its page, of its block scale, and the scale word (15 R374). -/
def kvElem (h : KvHdr) (half e : Nat) : Nat × Option Nat × Nat :=
  if h.fmt = 0x14 then
    (256 + 32640 * half + e / 2, some (256 + 32640 * half + 30720 + e / 32),
      if half = 0 then h.scale0 else h.scale1)
  else (256 + e, none, h.scale0)

/-- The value of a product that may hold infinities and NaNs; a signalling operand leaves its NaN
signalling, for the conversion that follows to set NV (02 R25). -/
def mulAny (a b : Fv) : Fv :=
  match signalNan [a, b] with
  | some v => v
  | none => (mulFv a b).getD .inan

/-- Reads an element of a resolved page, exactly (15 R374, R376): entry value, header and element. A NaN
block scale faults under the scale trap `tsc` (02 R29). -/
def W.kvRead (w : W) (a ent e : Nat) (h : KvHdr) (tsc : Bool) : W × MRes Fv :=
  let page := bits ent 16 40 * 65536
  let (at_, sc, word) := kvElem h (bits ent 1 1) e
  let sv := fp32.dec word
  match w.read3 a (page + at_) 1 (w.needU a) with
  | (w, .ok bs) =>
    let code := if h.fmt = 0x14 then bits (leNat bs) (4 * (e % 2)) 4 else leNat bs
    let v := (fmtOf h.fmt).dec code
    match sc with
    | none => (w, .ok (mulAny v sv))
    | some p => match w.read3 a (page + p) 1 (w.needU a) with
      | (w, .ok sb) =>
        match scaleVal (leNat sb) with
        | some s => (w, .ok (mulAny (mulAny v (.num false s)) sv))
        | none => if tsc then (w, .bad Cause.scaleInvalid (page + p)) else (w, .ok (mulAny .inan sv))
      | (w, .bad c v) => (w, .bad c v)
      | (w, .nonres v) => (w, .nonres v)
  | (w, .bad c v) => (w, .bad c v)
  | (w, .nonres v) => (w, .nonres v)

/-! ## Values of elements with scales (02 R49, 10 R266) -/

/-- The value of a code times a block scale; a NaN scale gives NaN and sets NV (02 R29). -/
def scaled (f : Fmt) (code : Nat) (sc : Option Num) : Fv :=
  match sc with
  | none => .inan
  | some s => match f.dec code with
    | .num n x => .num n (x.mul s)
    | v => v

/-- The FP32 scale of SCM 10. -/
def tdScale32 (d : Td) : Fv := fp32.dec (tdF d 128 32)

/-- Decoded · scale for a descriptor without block scales. -/
def tdValue (d : Td) (code : Nat) : Fv :=
  let v := (tdFormat d).dec code
  if tdScm d = 2 then mulAny v (tdScale32 d) else v

/-- A quotient of values that may be infinities, zeros and NaNs, with its flags. -/
def divAny (a b : Fv) : Fv × BitVec 5 :=
  match firstNan [a, b] with
  | some v => (v, snanFlag [a, b])
  | none =>
    let n := xor a.neg b.neg
    match a, b with
    | .inf _, .inf _ => (.dnan, flagNV)
    | .inf _, _ => (.inf n, 0)
    | _, .inf _ => (.num n Num.zero, 0)
    | a, b =>
      if b.isZero then (if a.isZero then (.dnan, flagNV) else (.inf n, flagDZ))
      else (.num n (a.val.div b.val), 0)

/-- The code of a value divided by the descriptor's scale and converted in its format (10 R266). -/
def tdEncode (d : Td) (r : Nat) (v : Fv) : Cv :=
  let q := if tdScm d = 2 then divAny v (tdScale32 d) else (v, 0)
  let c := (tdFormat d).conv (tdRnd d) r q.1
  { c with flags := c.flags ||| q.2 }

end Sys2Proof.Machine
end

