-- ==== Sys2Proof/Machine/Access.lean ====
section
/-! DEFINITION. Accesses of lanes: spaces and their checks, the scratchpad with its ranges and
windows, apertures and their transforms, the store queue, the outstanding-operation counters, the
debug check of mixed sizes and the Tenter (09 R230–R234, R245, R248–R255, 11 R283–R296, 12 R313,
R314, 15 R380–R384, 16 R400, R401). -/

namespace Sys2Proof.Machine

/-! ## Counters (09 R255) -/

/-- The counter of a group and class. -/
def W.count (w : W) (g : Nat) (c : OpClass) : Nat :=
  (w.c.eng.ops.filter fun e => e.2.gid = g && e.2.cls = c).length

/-- The operations of a group and class so far. -/
def W.total (w : W) (g : Nat) (c : OpClass) : Nat := (aget (w.group g).issued c).getD 0

/-- Adds an operation. -/
def W.newOp (w : W) (o : Op) : W × Nat :=
  let (w, n) := w.newId
  let k := w.total o.gid o.cls
  let w := w.modGroup o.gid fun x => { x with issued := aset x.issued o.cls (k + 1) }
  ({ w with c.eng.ops := aset w.c.eng.ops n { o with no := k } }, n)

/-- Whether one more operation of a class would take the counter above 63. -/
def W.countFull (w : W) (g : Nat) (c : OpClass) : Bool := 63 ≤ w.count g c

/-! ## Teams and their scratchpad -/

def W.spbytes (w : W) (t : Nat) : Nat := (w.grid (w.team t).grid).spbytes

/-- The byte at an offset of a team's allocation; a byte never written is a free value (09 R249). -/
def W.spByte (w : W) (t o : Nat) : Byte :=
  match aget w.c.spd.bytes (t, o) with
  | some b => b
  | none =>
    let tm := w.team t
    Config.freeScratch tm.core (tm.slot0 * 4096 + o) ((aget w.c.spd.stamps (t, o / 4096)).getD tm.at_)
def W.spBytes (w : W) (t o n : Nat) : List Byte := (List.range n).map fun i => w.spByte t (o + i)

/-- A load instruction counts once against each slot that its lanes read (09 R252). -/
def W.countReads (w : W) (t : Nat) (slots : List Nat) : W :=
  (uniq slots).foldl (fun w s =>
    let x := w.tag t s
    if x.rcnt = 0 then w
    else if x.rcnt = 1 then w.setTag t s { x with rcnt := 256 }
    else w.setTag t s { x with rcnt := x.rcnt - 1 }) w

/-- The oldest entry of the range scoreboard that bytes overlap (09 R254). -/
def W.rangeHit (w : W) (t o n : Nat) : Option RangeE :=
  w.c.spd.ranges.find? fun r => r.team = t && o < r.stop && r.start < o + n

/-- The entries of a core's range scoreboard; a saved team's are kept with it (12 R326). -/
def W.coreRanges (w : W) (c : Nat) : List RangeE :=
  w.c.spd.ranges.filter fun r => (w.team r.team).core = c && (w.team r.team).st ≠ .saved

/-! ## Windows (09 R253, 12 R314) -/

/-- The chunks of a window. -/
def Window.chunks (x : Window) : Nat := 8 * x.slots
/-- Whether a chunk bit reads 1; bits beyond the window read 1. -/
def Window.bit (x : Window) (k : Nat) : Bool := x.chunks ≤ k || x.bits.testBit k
def Window.failedAt (x : Window) (k : Nat) : Option (Nat × Nat) :=
  (x.failed.find? fun e => e.1 = k).map fun e => e.2

def W.win (w : W) (t n : Nat) : Option Window := aget w.c.spd.wins (t, n)
def W.setWin (w : W) (t n : Nat) (x : Window) : W :=
  { w with c.spd.wins := aset w.c.spd.wins (t, n) x }

/-- The linear indices of a tile's elements with the coordinates in the tile. -/
def tileCoords : List Nat → List (List Nat)
  | [] => [[]]
  | e :: es => ((tileCoords es).map fun t => (List.range e).map fun i => i :: t).flatten

/-- The pitch of a tile's rows in the scratchpad (12 R306). -/
def pitchOf (cont : Cont) (e0 pitch : Nat) : Nat :=
  if pitch = 0 then (cont.row e0 + 3) / 4 * 4 else pitch

/-- The scratchpad container of a copy: PACK6 only for raw copies (12 R306). -/
def spCont (d : Td) (fmto : Nat) : Cont :=
  if fmto = 0 then contOf (tdFmt d) (tdPack6 d) else contOf fmto false

/-- The rows of a tile: the product of the extents above dimension 0. -/
def tileRows (ext : List Nat) : Nat := (ext.drop 1).foldl (· * ·) 1

/-- The bytes from a tile's first to its last. -/
def tileBytes (cont : Cont) (ext : List Nat) (pitch : Nat) : Nat :=
  (tileRows ext - 1) * pitchOf cont (ext.headD 0) pitch + cont.row (ext.headD 0)

/-- Whether a chunk of a tile at an offset holds a byte of it. -/
def chunkUsed (cont : Cont) (ext : List Nat) (pitch off k : Nat) : Bool :=
  let p := pitchOf cont (ext.headD 0) pitch
  let row := cont.row (ext.headD 0)
  (List.range (tileRows ext)).any fun r =>
    let lo := off + r * p
    lo < 512 * (k + 1) && 512 * k < lo + row

/-- The chunks of a tile. -/
def tileChunks (cont : Cont) (ext : List Nat) (pitch off : Nat) : List Nat :=
  let last := off + tileBytes cont ext pitch
  ((List.range ((last + 511) / 512 - off / 512)).map fun i => off / 512 + i).filter
    (chunkUsed cont ext pitch off)

/-- Whether an offset from a tile's base lies in one of its rows (12 R306). -/
def inTile (cont : Cont) (ext : List Nat) (pitch o : Nat) : Bool :=
  let p := max 1 (pitchOf cont (ext.headD 0) pitch)
  o / p < tileRows ext && o % p < cont.row (ext.headD 0)

/-- The bytes of a window outside its tile are undefined from now on (12 R314, 00 R8). -/
def W.undefWindow (w : W) (t : Nat) (x : Window) (cont : Cont) (ext : List Nat) : W :=
  let lo := 4096 * x.slot0
  let w := { w with
    c.spd.bytes := w.c.spd.bytes.filter fun e =>
      !(e.1.1 = t && lo ≤ e.1.2 && e.1.2 < lo + 4096 * x.slots && !inTile cont ext x.pitch (e.1.2 - lo))
    c.spd.stamps := (List.range x.slots).foldl (fun m k => aset m (t, x.slot0 + k) (2 ^ 64 + w.c.mdl.fresh))
      w.c.spd.stamps }
  w.bumpFresh

/-- The copy of a .touch window starts, counted in TC of group `g`, for the executing lanes `es` of the
instruction that starts it: ORD is honoured as by TCOPY, and a conversion under sr counts for each lane
(02 R36, 11 R297, 12 R314). -/
def W.startWindow (w : W) (g t n : Nat) (x : Window) (es : List Nat) : W :=
  let gr := w.group g
  let ext := x.extents.map BitVec.toNat
  let cont := spCont x.desc x.fmto
  let used := tileChunks cont ext x.pitch 0
  let w := w.drainAll g
  let w := if x.ord = .rel || x.ord = .str then w.releaseAt g x.scope else w
  let w := if x.ord = .acq || x.ord = .str then w.acquireAt g x.scope else w
  let w := w.undefWindow t x cont ext
  let lane0 := es.headD 0
  let empty := (List.range x.chunks).filter fun k => !used.contains k
  let h : Hoist :=
    { g2s := true, core := gr.core, asid := gr.asid, team := t, desc := x.desc, fmto := x.fmto
      origin := x.origin.map BitVec.toNat, extents := ext, off := 0, pitch := x.pitch
      scope := x.scope, ord := x.ord, seed := BitVec.ofNat 64 (w.seed g lane0)
      seq := (w.lane g lane0).seq, win := some n, teams := []
      done := [], failed := [], resolved := [] }
  let raw := x.fmto = 0 || x.fmto = tdFmt x.desc
  let w := if tdRnd x.desc = .sr && (!raw || tdType x.desc = 1) then es.foldl (fun w l => w.bumpSeq g l) w else w
  let (w, id) := w.newOp { gid := g, cls := .tc, iaddr := w.c.mdl.cur.pc, kind := .hoist h, scope := x.scope }
  let bits := empty.foldl (fun b k => b ||| 2 ^ k) x.bits
  w.setWin t n { x with state := if used.isEmpty then 2 else 1, bits := bits, op := some id }

/-- How an access of a lane ends: its bytes, with whether a part was not resident; a wait; or a
fault with its address. -/
inductive LaneAcc where
  | ok (bs : List Byte) (nr : Bool)
  | wait (wk : Wake)
  | bad (cause addr : Nat)
  deriving DecidableEq, Repr

/-- The waits and faults of a scratchpad access at its windows and ranges (09 R253, R254), by one of the
executing lanes `es`. -/
def W.spGate (w : W) (g t o n : Nat) (es : List Nat) : W × Option LaneAcc :=
  match w.rangeHit t o n with
  | some r => (w, some (.wait (.range r.start r.stop)))
  | none =>
    (w.c.spd.wins.filter fun e => e.1.1 = t).foldl (fun (r : W × Option LaneAcc) e =>
      match r with
      | (w, some x) => (w, some x)
      | (w, none) =>
        match w.win t e.1.2 with
        | none => (w, none)
        | some x =>
          let lo := x.slot0 * 4096
          let hi := lo + x.slots * 4096
          if o + n ≤ lo || hi ≤ o then (w, none)
          else
            let a := max o lo - lo
            let b := min (o + n) hi - lo
            let ks := (List.range ((b + 511) / 512 - a / 512)).map fun i => a / 512 + i
            match ks.findSome? x.failedAt with
            | some (c, v) => (w, some (.bad c v))
            | none =>
              let miss := ks.filter fun k => !x.bit k
              if miss.isEmpty then (w, none)
              else if x.state = 0 && x.touch && w.countFull g .tc then
                (w, some (.bad Cause.counterOverflow o))
              else
                let w := if x.state = 0 && x.touch then w.startWindow g t e.1.2 x es else w
                (w, some (.wait (.chunk e.1.2 (laneMask miss))))) (w, none)

/-! ## Apertures (15 R380–R384) -/

def W.aprCtl (w : W) (n : Nat) : Dword := w.blk .aprCtl n
def aprEn (c : Dword) : Bool := c.getLsbD 0
def aprXf (c : Dword) : Nat := fld c 1 3
def aprParm (c : Dword) : Nat := fld c 8 4
def aprRw (c : Dword) : Nat := fld c 16 16
def aprKid (c : Dword) : Nat := fld c 38 8
def W.aprPa (w : W) (n : Nat) : Nat := fld (w.blk .aprPa n) 12 40 * 4096
def W.aprBytes (w : W) (n : Nat) : Nat := fld (w.blk .aprSize n) 12 44 * 4096
def W.aprSideAt (w : W) (n k : Nat) : Nat := fld (w.blk .aprSide n) 7 45 * 128 + 4 * k

/-- The checks of an access through an aperture (15 R381). -/
def W.aprOk (w : W) (a n o len : Nat) (write : Bool) : Bool :=
  let c := w.aprCtl n
  aprEn c && 1 ≤ aprXf c && aprXf c ≤ 4 && (fld c 48 16 = a || c.getLsbD 47)
    && o + len ≤ w.aprBytes n && (!write || (c.getLsbD 46 && aprXf c ≠ 3))

/-- Bytes of an aperture's buffer, by physical address, at the memory-side cache. -/
def W.phys (w : W) (key pa n : Nat) : W × MRes (List Byte) :=
  let w := (lineParts pa n).foldl (fun w p => (w.pull3 p.1).reach3 0 p.1 false) w
  match w.meetSectors pa n with
  | (w, some c) => (w, .bad c pa)
  | (w, none) => match w.plain3 key pa n with
    | some bs => (w, .ok bs)
    | none => (w, .bad Cause.keyRevoked pa)

/-- Several reads, one after another. -/
def seqL {α β : Type} (w : W) (xs : List α) (f : W → α → W × MRes β) : W × MRes (List β) :=
  xs.foldl (fun (r : W × MRes (List β)) x =>
    match r with
    | (w, .ok ys) => match f w x with
      | (w, .ok y) => (w, .ok (ys ++ [y]))
      | (w, .bad c v) => (w, .bad c v)
      | (w, .nonres v) => (w, .nonres v)
    | r => r) (w, .ok [])

/-- The buffer byte of a view byte of an identity or a transposing aperture (15 R382). -/
def W.aprMap (w : W) (n o : Nat) : Nat :=
  let c := w.aprCtl n
  if aprXf c = 4 then
    let es := if aprParm c = 1 then 4 else 2
    let cols := max 1 (aprRw c)
    let rows := max 1 (w.aprBytes n / (es * cols))
    let i := o / es
    w.aprPa n + (i % rows * cols + i / rows) * es + o % es
  else w.aprPa n + o

/-- One view element of a KV-dequantising aperture in its bytes (15 R382). -/
def W.aprKv (w : W) (n el : Nat) : W × MRes (List Byte) :=
  let c := w.aprCtl n
  let key := aprKid c
  let vs := if aprParm c = 1 then 4 else 2
  let f := if aprParm c = 1 then fp32 else bf16
  let page := w.aprPa n + 65536 * (el / 122880)
  let x := el % 122880
  match w.phys key page 256 with
  | (w, .ok hb) => match kvHeader hb with
    | none => (w, .bad Cause.formatInvalid page)
    | some h =>
      if h.fmt ≠ 0x14 && 61440 ≤ x then (w, .ok (List.replicate vs 0))
      else
        let (at_, sc, word) := kvElem h (x / 61440) (x % 61440)
        match w.phys key (page + at_) 1 with
        | (w, .ok b) =>
          let code := if h.fmt = 0x14 then bits (leNat b) (4 * (x % 2)) 4 else leNat b
          let s := match sc with
            | none => (w, MRes.ok [0x7F#8])
            | some p => w.phys key (page + p) 1
          match s with
          | (w, .ok sb) =>
            let v := mulAny (scaled (fmtOf h.fmt) code (scaleVal (leNat sb))) (fp32.dec word)
            (w, .ok (leBytes vs (f.conv .rne 0 v).code))
          | (w, .bad c v) => (w, .bad c v)
          | (w, .nonres v) => (w, .nonres v)
        | (w, .bad c v) => (w, .bad c v)
        | (w, .nonres v) => (w, .nonres v)
  | (w, .bad c v) => (w, .bad c v)
  | (w, .nonres v) => (w, .nonres v)

/-- b of a coded aperture (15 R380). -/
def codedBits (parm : Nat) : Nat :=
  match parm with
  | 0 => 2 | 1 => 3 | 2 => 4 | _ => 6

/-- The FP32 codes of a block from its bytes and its side-table entry (15 R383). -/
def codedDecode (b : Nat) (block : List Byte) (entry : Nat) : List Nat :=
  let x := leNat block
  let s : Int := (bits entry 16 8 : Int) - 127
  (List.range 16).map fun j =>
    if entry.testBit 24 then 0x7FC00000
    else
      let q := sfield (bits x (b * j) b) b
      (fp32.conv .rne 0 (Fv.ofNum { m := q, e := s })).code

/-- A BF16 bound of a number that is not negative, rounded up. -/
def bfUp (x : Num) : Nat := (bf16.conv .ru 0 (Fv.ofNum x)).code

/-- A block's bytes, its scale and flags, and the greatest error, from 16 FP32 codes (15 R383). -/
def codedEncode (b : Nat) (codes : List Nat) : List Byte × Nat × Bool × Num :=
  let vs := codes.map fp32.dec
  if vs.any fun v => v.isNan || v.isInf then (leBytes (2 * b) 0, 127, true, Num.zero)
  else
    let amax := vs.foldl (fun (m : Num) v => if m.lt v.val.abs then v.val.abs else m) Num.zero
    let s : Int := if amax.isZero then 0 else max (-127) (min 127 (amax.log2 - ((b : Int) - 2)))
    let top : Int := 2 ^ (b - 1) - 1
    let f : Fmt := { s := true, e := 0, m := 40, bias := 0, nan := .none, int := true }
    let qs := vs.map fun v =>
      let c := f.conv .rne 0 (.num v.neg (v.val.mul (.pow (-s))))
      max (-top) (min top (sfield c.code 41))
    let word := qs.zipIdx.foldl (fun (a : Nat) e =>
      a + (e.1 % 2 ^ b).toNat * 2 ^ (b * e.2)) 0
    let err := (vs.zip qs).foldl (fun (m : Num) e =>
      let d := (e.1.val.sub { m := e.2, e := s }).abs
      if m.lt d then d else m) Num.zero
    (leBytes (2 * b) word, (s + 127).toNat, false, err)

/-- The block and the position in it of an element of a coded view of `rw` columns. -/
def codedPlace (rw el : Nat) : Nat × Nat :=
  let r := el / rw
  let c := el % rw
  (r / 4 * (rw / 4) + c / 4, 4 * (r % 4) + c % 4)

/-- A block of a coded aperture: its FP32 codes and its entry. -/
def W.codedBlock (w : W) (n k : Nat) : W × MRes (List Nat × Nat) :=
  let c := w.aprCtl n
  let b := codedBits (aprParm c)
  match w.phys (aprKid c) (w.aprPa n + 2 * b * k) (2 * b) with
  | (w, .ok bs) => match w.phys (aprKid c) (w.aprSideAt n k) 4 with
    | (w, .ok e) => (w, .ok (codedDecode b bs (leNat e), leNat e))
    | (w, .bad c v) => (w, .bad (if c = Cause.memUncorrectable then c else Cause.memPoison) v)
    | (w, .nonres v) => (w, .nonres v)
  | (w, .bad c v) => (w, .bad c v)
  | (w, .nonres v) => (w, .nonres v)

/-- A read through an aperture (15 R382, R383). -/
def W.aprRead (w : W) (n o len : Nat) : W × MRes (List Byte) :=
  let c := w.aprCtl n
  match aprXf c with
  | 3 =>
    let vs := if aprParm c = 1 then 4 else 2
    let els := (List.range ((o + len + vs - 1) / vs - o / vs)).map fun i => o / vs + i
    match seqL w els fun w el => w.aprKv n el with
    | (w, .ok bss) => (w, .ok ((bss.flatten.drop (o % vs)).take len))
    | (w, .bad c v) => (w, .bad c v)
    | (w, .nonres v) => (w, .nonres v)
  | 2 =>
    let els := (List.range ((o + len + 3) / 4 - o / 4)).map fun i => o / 4 + i
    match seqL w els fun w el =>
      let p := codedPlace (max 1 (aprRw c)) el
      match w.codedBlock n p.1 with
      | (w, .ok x) => (w, MRes.ok (leBytes 4 (x.1.getD p.2 0)))
      | (w, .bad c v) => (w, .bad c v)
      | (w, .nonres v) => (w, .nonres v) with
    | (w, .ok bss) => (w, .ok ((bss.flatten.drop (o % 4)).take len))
    | (w, .bad c v) => (w, .bad c v)
    | (w, .nonres v) => (w, .nonres v)
  | _ =>
    match seqL w (List.range len) fun w i => w.phys (aprKid c) (w.aprMap n (o + i)) 1 with
    | (w, .ok bss) => (w, .ok bss.flatten)
    | (w, .bad c v) => (w, .bad c v)
    | (w, .nonres v) => (w, .nonres v)

/-- Writes the new codes of a block of a coded aperture, given by position, as one step (15 R384). -/
def W.codedWrite (w : W) (a n k : Nat) (new : List (Nat × Nat)) (unit : Bool) : W :=
  let c := w.aprCtl n
  let b := codedBits (aprParm c)
  let side := w.aprSideAt n k
  let lineBad := (sectors (side / 128 * 128) 128).any fun s =>
    w.c.cch.badEcc.contains s || w.c.cch.poison.contains s
  let body := w.aprPa n + 2 * b * (k / 32 * 32)
  if lineBad && !unit then
    let ss := sectors (side / 128 * 128) 128 ++ sectors body (64 * b)
    let w := { w with c.cch.poison := uniq (w.c.cch.poison ++ ss)
                      c.cch.badEcc := w.c.cch.badEcc.filter fun s => !ss.contains s }
    w.reportCtx a Cause.memPoison 2 side
  else
    let w := if unit then
        let ss := sectors (side / 128 * 128) 128 ++ sectors body (64 * b)
        { w with c.cch.poison := w.c.cch.poison.filter fun s => !ss.contains s
                 c.cch.badEcc := w.c.cch.badEcc.filter fun s => !ss.contains s }
      else w
    let whole := (List.range 16).all fun j => (aget new j).isSome
    let (w, old) : W × (List Nat × Nat) := if whole then (w, ([], 0))
      else match w.codedBlock n k with
        | (w, .ok x) => (w, x)
        | (w, _) => (w, ([], 0))
    let codes := (List.range 16).map fun j => (aget new j).getD (old.1.getD j 0)
    let (blk, sc, nanb, err) := codedEncode b codes
    let oldErr := bf16.dec (bits old.2 0 16)
    let e := if nanb then 0x7FC0
      else if whole then bfUp err
      else match oldErr with
        | .num _ x => bfUp (x.add err)
        | _ => 0x7FC0
    let w := w.put3 a (aprKid c) (w.aprPa n + 2 * b * k) blk
    w.put3 a (aprKid c) side (leBytes 4 (e + 65536 * sc + if nanb then 2 ^ 24 else 0))

/-- A write through an aperture by a context (15 R382, R384). -/
def W.aprWrite (w : W) (a n o : Nat) (bs : List Byte) : W :=
  let c := w.aprCtl n
  if aprXf c = 2 then
    let els := (List.range ((o + bs.length + 3) / 4 - o / 4)).map fun i => o / 4 + i
    let rw_ := max 1 (aprRw c)
    let vals : List (Nat × Nat × List Byte × Nat) := els.map fun el =>
      let p := codedPlace rw_ el
      let lo := max o (4 * el)
      let hi := min (o + bs.length) (4 * el + 4)
      (p.1, p.2, (bs.drop (lo - o)).take (hi - lo), lo - 4 * el)
    let blocks := uniq (vals.map fun v => v.1)
    blocks.foldl (fun w k =>
      let mine := vals.filter fun v => v.1 = k
      let new := mine.map fun v =>
        if v.2.2.1.length = 4 then (v.2.1, leNat v.2.2.1)
        else
          let old := match w.codedBlock n k with
            | (_, .ok x) => leBytes 4 (x.1.getD v.2.1 0)
            | _ => leBytes 4 0
          (v.2.1, leNat (old.take v.2.2.2 ++ v.2.2.1 ++ old.drop (v.2.2.2 + v.2.2.1.length)))
      let unit := (List.range 32).all fun u => blocks.contains (k / 32 * 32 + u) &&
        (vals.filter fun v => v.1 = k / 32 * 32 + u && v.2.2.1.length = 4).length = 16
      w.codedWrite a n k new unit) w
  else
    bs.zipIdx.foldl (fun w e => w.put3 a (aprKid c) (w.aprMap n (o + e.2)) [e.1]) w

/-! ## Effective addresses and spaces (03 R70, 09 R230–R234) -/

/-- The effective address of a lane. -/
def Rd.ea (r : Rd) (f : MemF) (l : Nat) : Nat :=
  (r.pair f.a l + (r.word f.b l).signExtend 64 + f.ofs.signExtend 64).toNat

/-- Where an access goes. -/
inductive Tgt where
  | va (a : Nat)
  | konst (a : Nat)
  | sp (o : Nat)
  | mb (a : Nat)
  | ap (n o : Nat)
  | rem (pkg a : Nat)
  /-- outside the span of a clamping descriptor -/
  | none_
  deriving DecidableEq, Repr

/-- The check of a global address (09 R230). -/
def checkVa (a n : Nat) : Except (Nat × Nat) Tgt :=
  if a + n ≤ 2 ^ 56 then .ok (.va a) else .error (Cause.addressNoncanonical, a)

/-- The check of an address in a space (09 R230, R231, 15 R381). -/
def W.target (w : W) (g : Nat) (space : Space) (tdi ea n : Nat) (write : Bool) :
    Except (Nat × Nat) Tgt :=
  let gr := w.group g
  match space with
  | .glob => checkVa ea n
  | .uconst => if ea + n ≤ 2 ^ 56 then .ok (.konst ea) else .error (Cause.addressNoncanonical, ea)
  | .scratch =>
    if ea + n ≤ w.spbytes gr.team then .ok (.sp ea) else .error (Cause.scratchBounds, ea)
  | .mailbox =>
    if ea + n ≤ 65536 then .ok (.mb (fld (w.srReg gr.asid .mbbase) 16 40 * 65536 + ea))
    else .error (Cause.addressNoncanonical, ea)
  | .remote => .ok (.rem (bits ea 54 10) (bits ea 0 54))
  | .apert =>
    if bits ea 62 2 ≠ 0 then .error (Cause.addressNoncanonical, ea)
    else if w.aprOk gr.asid (bits ea 56 6) (bits ea 0 56) n write then
      .ok (.ap (bits ea 56 6) (bits ea 0 56))
    else .error (Cause.apertureViolation, ea)
  | .tdrel =>
    let d := w.td gr.asid tdi
    if !tdDense d then .error (Cause.tdInvalid, ea)
    else
      let a : Int := (tdBase d : Int) + sfield ea 64
      let sp := tdSpan d
      if sp.1 ≤ a && a + n - 1 ≤ sp.2 then checkVa (BitVec.ofInt 64 a).toNat n
      else if tdClamp d then .ok .none_
      else .error (Cause.tdBounds, (BitVec.ofInt 64 a).toNat)

/-- The bytes of a single-copy atomic unit (03 R69). -/
def atwBytes : Atw → Nat
  | .a4 => 4 | .a8 => 8 | .a16 => 16

/-- Whether a strong access of `n` bytes is misaligned (10 R263). -/
def strictBad (f : MemF) (ea n : Nat) : Bool :=
  f.ord ≠ .rlx && ea % min n (atwBytes f.atw) ≠ 0

/-! ## The store queue (11 R286) -/

/-- The bytes of a location with those that the group's queue still holds laid over, newest last. -/
def W.overlay (w : W) (g : Nat) (sp : Bool) (a : Nat) (bs : List Byte) : List Byte :=
  (w.sq g).foldl (fun bs q =>
    if (q.space = .scratch) ≠ sp then bs
    else bs.zipIdx.map fun e =>
      if q.addr ≤ a + e.2 && a + e.2 < q.addr + q.data.length then
        q.data.getD (a + e.2 - q.addr) e.1
      else e.1) bs


/-! ## The Tenter (16 R400, R401) -/

/-- The component of a team's vector clock; a team's own begins at 1. -/
def W.clk (w : W) (t u : Nat) : Nat :=
  (aget w.c.syn.clocks (0, t, u)).getD (if t = u then 1 else 0)

/-- Whether the Tenter watches a context. -/
def W.tenterOn (w : W) (a : Nat) : Bool :=
  (w.blk .tenterCtl 0).getLsbD 0 && fld (w.blk .tenterCtl 0) 48 16 = a

/-- The vector of a team, by the other teams it has heard of. -/
def W.clkVec (w : W) (k t : Nat) : List (Nat × Nat) :=
  (w.c.syn.clocks.filter fun e => e.1.1 = k && e.1.2.1 = t).map fun e => (e.1.2.2, e.2)

/-- A vector joins another: 0 the clock of a team, 1 what its relaxed reads found, 2 what its last
release fence published. -/
def W.clkJoin (w : W) (k t : Nat) (v : List (Nat × Nat)) : W :=
  { w with c.syn.clocks := v.foldl (fun m e =>
      aset m (k, t, e.1) (max ((aget m (k, t, e.1)).getD 0) e.2)) w.c.syn.clocks }

/-- A release by a team: what it publishes, after which its own component advances. -/
def W.clkRelease (w : W) (t : Nat) : W × List (Nat × Nat) :=
  let v := (t, w.clk t t) :: (w.clkVec 0 t).filter fun e => e.1 ≠ t
  ({ w with c.syn.clocks := aset w.c.syn.clocks (0, t, t) (w.clk t t + 1) }, v)

/-- An edge from a team to another (11 R290) at .cl or wider. -/
def W.clkEdge (w : W) (t u : Nat) : W :=
  if !w.tenterOn (w.team t).asid then w
  else
    let (w, v) := w.clkRelease t
    w.clkJoin 0 u v

/-- Writes a report of the Tenter, or drops it (16 R401). -/
def W.tenterReport (w : W) (va old new pc a kind : Nat) : W :=
  let lg := w.blk .tenterLog 0
  let p := w.blk .tenterPtr 0
  let n := 2 ^ (fld lg 0 4 + 6)
  let tail := fld p 32 32
  if (tail + 2 ^ 32 - fld p 0 32) % 2 ^ 32 = n then
    let c := w.blk .tenterCtl 0
    w.setBlk .tenterCtl 0 (setFld c 32 16 (min (fld c 32 16 + 1) 65535))
  else
    let slot := fld lg 12 40 * 4096 + 32 * (tail % n)
    let rec_ := leBytes 8 va ++ leBytes 5 old ++ leBytes 5 new ++ leBytes 6 (pc / 4) ++ leBytes 2 a
      ++ leBytes 1 kind ++ leBytes 5 0
    (w.put3 a 0 slot rec_).setBlk .tenterPtr 0 (setFld p 32 32 (tail + 1))

/-- What the Tenter needs of an access. -/
structure TAcc where
  write : Bool
  atomic : Bool
  ord : Order
  scope : Scope

/-- Whether two strong accesses of a context are at scopes both teams share (11 R284). -/
def W.sharedScopes (w : W) (s1 s2 : Scope) (t u : Nat) : Bool :=
  let c1 := (w.team t).core
  let c2 := (w.team u).core
  let ok := fun s => match s with
    | .cl => clusterOf c1 = clusterOf c2
    | .die => dieOf c1 = dieOf c2
    | .pkg | .pod | .sys => true
    | _ => false
  ok s1 && ok s2

/-- An access at the home slice passes the Tenter; whether it was reported (16 R401). -/
def W.tenterCheck (w : W) (g : Nat) (va n pc : Nat) (x : TAcc) : W × Bool :=
  let gr := w.group g
  let t := gr.team
  if !w.tenterOn gr.asid || scopeLevel x.scope ≠ 2 then (w, false)
  else
    (sectors va n).foldl (fun (r : W × Bool) s =>
      let (w, hit) := r
      let lo := max va (32 * s)
      let hi := min (va + n) (32 * s + 32)
      let mask := (List.range (hi - lo)).foldl (fun m i => m ||| 2 ^ (lo - 32 * s + i)) 0
      let old := (aget w.c.syn.tent (gr.asid, s)).getD []
      let bad := old.filter fun e =>
        e.tlin ≠ t && e.mask &&& mask ≠ 0 && (e.write || x.write) && !(e.atomic && x.atomic)
          && !(match e.strong with
            | some sc => x.ord = .str && w.sharedScopes sc x.scope t e.tlin
            | none => false)
          && w.clk t e.tlin < e.clock
      let w := match bad with
        | [] => w
        | e :: _ =>
          let first := (minBy id (maskLanes (e.mask &&& mask) 32)).getD 0
          w.tenterReport (32 * s + first) (w.team e.tlin).tlin (w.team t).tlin pc gr.asid
            ((if e.write then 1 else 0) + (if x.write then 2 else 0))
      let me : Tent :=
        { mask := mask, grid := gr.grid, tlin := t, clock := w.clk t t, atomic := x.atomic,
          strong := if x.ord = .str then some x.scope else none, write := x.write }
      let keep := if x.write then old.filter fun e => e.mask &&& mask ≠ e.mask else old
      ({ w with c.syn.tent := aset w.c.syn.tent (gr.asid, s) (keep ++ [me]) },
        hit || !bad.isEmpty)) (w, false)

/-- The clocks after an access at .cl or wider: what an acquire read, what a release publishes. -/
def W.tenterClock (w : W) (g va : Nat) (rd wr : Bool) (ord : Order) (sc : Scope) : W :=
  let gr := w.group g
  let t := gr.team
  if !w.tenterOn gr.asid || scopeLevel sc < 2 then w
  else
    let key := fun u => (gr.asid, va / 32, u)
    let got := (w.c.syn.relClk.filter fun e => e.1.1 = gr.asid && e.1.2.1 = va / 32).map
      fun e => (e.1.2.2, e.2)
    let w := if rd then w.clkJoin (if ord = .acq || ord = .str then 0 else 1) t got else w
    if !wr then w
    else
      let (w, v) := if ord = .rel || ord = .str then w.clkRelease t else (w, w.clkVec 2 t)
      let base := if rd then w.c.syn.relClk
        else w.c.syn.relClk.filter fun e => !(e.1.1 = gr.asid && e.1.2.1 = va / 32)
      { w with c.syn.relClk := v.foldl (fun m e =>
          aset m (key e.1) (max ((aget m (key e.1)).getD 0) e.2)) base }

/-! ## Reads and writes of one lane -/

/-- What an access is made with. -/
structure AccCtx where
  g : Nat
  pc : Nat
  scope : Scope
  ord : Order
  rp : Bool
  atomic : Bool := false
  /-- the access is performed without the Tenter's check, after RACE_REPORT (16 R401) -/
  again : Bool := false
  /-- the executing lanes of the instruction -/
  es : List Nat := []
  deriving DecidableEq, Repr

/-- Whether an access releases or acquires. -/
def AccCtx.rel (x : AccCtx) : Bool := x.ord = .rel || x.ord = .str

/-! ## Strong accesses of mixed sizes (11 R295) -/

/-- The lines that strong accesses are recorded by: those of the context's virtual addresses, or of an
aperture's view. -/
def strongKeys (sp : Nat × Nat) (a n : Nat) : List (Nat × Nat × Nat) :=
  (lineParts a n).map fun p => (sp.1, sp.2, p.1 / 128)

/-- Whether two strong accesses of different groups overlap with different widths. -/
def Strong.clash (x y : Strong) : Bool :=
  x.gid ≠ y.gid && x.n ≠ y.n && x.va < y.va + y.n && y.va < x.va + x.n

/-- In debug mode: whether a strong access clashes with the last one recorded in a line of it. -/
def W.mixedSize (w : W) (sp : Nat × Nat) (x : Strong) : Bool :=
  (w.ctx (w.group x.gid).asid).dbg && (strongKeys sp x.va x.n).any fun k =>
    match aget w.c.cch.strong k with
    | some (y :: _) => x.clash y
    | _ => false

/-- The offsets of the bytes of a strong access that another one, of another size and group, has met,
with a write by either. Whether one happened before the other is not judged: the bytes may then be free
where the spec gives them a value (log entry 45). -/
def W.metBytes (w : W) (sp : Nat × Nat) (x : Strong) : List Nat :=
  let ys := ((strongKeys sp x.va x.n).map fun k => (aget w.c.cch.strong k).getD []).flatten.filter
    fun y => x.clash y && (x.wr || y.wr)
  (List.range x.n).filter fun i => ys.any fun y => y.va ≤ x.va + i && x.va + i < y.va + y.n

/-- A strong access is recorded at its point of coherence. -/
def W.recordStrong (w : W) (sp : Nat × Nat) (x : Strong) : W :=
  { w with c.cch.strong := (strongKeys sp x.va x.n).foldl (fun m k =>
      aset m k (x :: ((aget m k).getD []).filter fun y => y ≠ x)) w.c.cch.strong }

/-- Bytes with free values at the offsets named. -/
def W.freeAt (w : W) (is : List Nat) (bs : List Byte) : List Byte :=
  bs.zipIdx.map fun e =>
    if is.contains e.2 then BitVec.ofNat 8 (w.freeWord (60000 + e.2)).toNat else e.1

/-- The bytes at offsets of a location that a group's queued stores are still to write are free values
too. -/
def W.freeQueued (w : W) (a : Nat) (asid : Nat) (is : List Nat) (bs : List Byte) : W :=
  { w with c.eng.sq := w.c.eng.sq.map fun e =>
      if (w.group e.1).asid = asid then
        (e.1, e.2.map fun q =>
          if q.space = .scratch then q
          else { q with data := q.data.zipIdx.map fun b =>
            if a ≤ q.addr + b.2 && is.contains (q.addr + b.2 - a) then bs.getD (q.addr + b.2 - a) b.1
            else b.1 })
      else e }

/-- How a strong access meets others: the bytes as they are read or written, with free values where it
meets one of another size; the access is recorded. -/
def W.meet (w : W) (x : AccCtx) (sp : Nat × Nat) (a : Nat) (wr : Bool) (bs : List Byte) :
    W × List Byte × List Nat :=
  if x.ord ≠ .str then (w, bs, [])
  else
    let me : Strong := { va := a, n := bs.length, gid := x.g, wr := wr }
    let is := w.metBytes sp me
    let w' := w.recordStrong sp me
    if is.isEmpty then (w', bs, []) else (w'.bumpFresh, w.freeAt is bs, is)

/-- A read of a uniform constant through the constant cache (09 R232). -/
def W.konstRead (w : W) (g va n : Nat) (rp : Bool) : W × MRes (List Byte × List Nat) :=
  let gr := w.group g
  let key := (gr.core, gr.grid, va / 128)
  match aget w.c.cch.konst key with
  | some line =>
    if va % 128 + n ≤ 128 then (w, .ok ((line.drop (va % 128)).take n, []))
    else w.loadParts gr.core gr.asid .pkg va n rp
  | none =>
    match w.loadParts gr.core gr.asid .pkg va n rp with
    | (w, .ok (bs, [])) =>
      match w.load gr.core gr.asid .pkg (va / 128 * 128) 128 with
      | (w', .ok (line, false)) =>
        ({ w' with c.cch.konst := aset w'.c.cch.konst key line }, .ok (bs, []))
      | (w', _) => (w', .ok (bs, []))
    | r => r

/-- The checks of an access at its point of coherence: mixed sizes in debug mode, and the Tenter's of a
global access. -/
def W.cohere (w : W) (x : AccCtx) (sp : Nat × Nat) (va n : Nat) (write : Bool) (tenter : Bool := true) :
    W × Option LaneAcc :=
  if x.ord = .str && w.mixedSize sp { va := va, n := n, gid := x.g, wr := write } then
    (w, some (.bad Cause.mixedSizeRace va))
  else if x.again || !tenter then (w, none)
  else match w.tenterCheck x.g va n x.pc
      { write := write, atomic := x.atomic, ord := x.ord, scope := x.scope } with
    | (w', true) =>
      if (w'.blk .tenterCtl 0).getLsbD 1 then (w', some (.bad Cause.raceReport va)) else (w', none)
    | (w', false) => (w', none)

/-- The address of the part of an access that a byte belongs to (11 R296). -/
def partOf (a i : Nat) : Nat := max a ((a + i) / 128 * 128)

/-- A read of whole bytes outside the caches, by a lane: a mailbox or an aperture. -/
def W.outerRead (w : W) (x : AccCtx) (sp : Nat × Nat) (a n : Nat) (r : W × MRes (List Byte)) : W × LaneAcc :=
  match r with
  | (w', .nonres v) => (w', if x.rp then .ok (List.replicate n 0) true else .bad Cause.pageNotPresent v)
  | (w', .bad c v) => (w', .bad c v)
  | (w', .ok bs) =>
    match w.cohere x sp a n false false with
    | (_, some e) => (w, e)
    | (_, none) =>
      let (w', bs, _) := w'.meet x sp a false bs
      (w', .ok bs false)

/-- A read by one lane of a local space. -/
def W.laneRead (w : W) (x : AccCtx) (t : Tgt) (n : Nat) : W × LaneAcc :=
  let gr := w.group x.g
  match t with
  | .va a =>
    match w.loadParts gr.core gr.asid x.scope a n x.rp with
    | (w, .bad c v) => (w, .bad c v)
    | (w, .nonres v) => (w, .bad Cause.pageNotPresent v)
    | (w, .ok (bs, nr)) =>
      match w.cohere x (0, gr.asid) a n false with
      | (w, some r) => (w, r)
      | (w, none) =>
        let w := w.tenterClock x.g a true false x.ord x.scope
        let own := w.overlay x.g false a bs
        let bs := (bs.zip own).zipIdx.map fun e =>
          if nr.contains (partOf a e.2) then e.1.1 else e.1.2
        let (w, bs, is) := w.meet x (0, gr.asid) a false bs
        -- bytes that a write and a read of different sizes meet on hold a free value from then on
        let w := if is.isEmpty then w
          else is.foldl (fun w i => w.store gr.core gr.asid x.scope (a + i) [bs.getD i 0] [])
            (w.freeQueued a gr.asid is bs)
        (w, .ok bs (!nr.isEmpty))
  | .konst a =>
    match w.konstRead x.g a n x.rp with
    | (w, .ok (bs, nr)) => (w, .ok bs (!nr.isEmpty))
    | (w, .nonres v) => (w, .bad Cause.pageNotPresent v)
    | (w, .bad c v) => (w, .bad c v)
  | .sp o =>
    match w.spGate x.g gr.team o n x.es with
    | (w, some r) => (w, r)
    | (w, none) => (w, .ok (w.overlay x.g true o (w.spBytes gr.team o n)) false)
  | .mb a => w.outerRead x (0, gr.asid) a n (w.read3 gr.asid a n (w.needU gr.asid))
  | .ap k o => w.outerRead x (1, k) o n (w.aprRead k o n)
  | .rem _ _ => (w, .ok [] false)
  | .none_ => (w, .ok (List.replicate n 0) false)

/-- The bytes of a load on parts that are not resident read 0 also where a result came back short. -/
def padTo (n : Nat) (bs : List Byte) : List Byte := (bs ++ List.replicate n 0).take n

/-- The parts of a scratchpad access, split at bank rows of 512 bytes (11 R296). -/
def rowParts (o n : Nat) : List (Nat × Nat) :=
  (List.range ((o + n + 511) / 512 - o / 512)).map fun i =>
    let lo := max o (512 * (o / 512 + i))
    (lo, min (o + n) (512 * (o / 512 + i + 1)) - lo)

/-- A write of whole bytes outside the caches, by a lane: a mailbox or an aperture. -/
def W.outerWrite (w : W) (x : AccCtx) (sp : Nat × Nat) (a : Nat) (bs : List Byte)
    (put : W → List Byte → W × MRes Unit) : W × LaneAcc :=
  match w.cohere x sp a bs.length true false with
  | (w, some e) => (w, e)
  | (w, none) =>
    let (w', data, _) := w.meet x sp a true bs
    match put w' data with
    | (w, .ok ()) => (w, .ok [] false)
    | (w', .nonres v) =>
      ({ w' with c.cch.strong := w.c.cch.strong },
        if x.rp then .ok [] true else .bad Cause.pageNotPresent v)
    | (w', .bad c v) => ({ w' with c.cch.strong := w.c.cch.strong }, .bad c v)

/-- A write by one lane of a local space is accepted: permissions are given, and a global or scratchpad
store enters the group's queue under operation `op`; an outer one is performed, a mailbox's at system
scope (09 R234, 11 R286, R287, R296). -/
def W.laneWrite (w : W) (x : AccCtx) (op l : Nat) (t : Tgt) (bs : List Byte) : W × LaneAcc :=
  let gr := w.group x.g
  let n := bs.length
  match t with
  | .va a =>
    match w.prep gr.asid a n x.rp with
    | (w, .bad c v) => (w, .bad c v)
    | (w, .nonres v) => (w, .bad Cause.pageNotPresent v)
    | (w, .ok skip) =>
      match w.cohere x (0, gr.asid) a n true with
      | (w, some r) => (w, r)
      | (w, none) =>
        let w := w.tenterClock x.g a false true x.ord x.scope
        let (w, data, is) := w.meet x (0, gr.asid) a true bs
        let w := if is.isEmpty then w else w.freeQueued a gr.asid is data
        let w := (lineParts a n).foldl (fun w p =>
          if skip.contains p.1 then w
          else w.pushSq x.g { op := op, space := .glob, lane := l, addr := p.1,
                              data := (data.drop (p.1 - a)).take p.2, scope := x.scope, ord := x.ord }) w
        (w, .ok [] (!skip.isEmpty))
  | .konst a => (w, .bad Cause.protectionWrite a)
  | .sp o =>
    match w.spGate x.g gr.team o n x.es with
    | (w, some r) => (w, r)
    | (w, none) =>
      ((rowParts o n).foldl (fun w p =>
        w.pushSq x.g { op := op, space := .scratch, lane := l, addr := p.1,
                       data := (bs.drop (p.1 - o)).take p.2, scope := x.scope, ord := .rlx }) w, .ok [] false)
  | .mb a =>
    (if x.rel then w.releaseAt x.g .sys else w).outerWrite x (0, gr.asid) a bs fun w bs =>
      w.write3va gr.asid a bs (w.needU gr.asid)
  | .ap k o =>
    (if x.rel then w.releaseAt x.g x.scope else w).outerWrite x (1, k) o bs fun w bs =>
      (w.aprWrite gr.asid k o bs, .ok ())
  | .rem _ _ => (w, .ok [] false)
  | .none_ => (w, .ok [] false)

/-! ## All lanes of an instruction -/

/-- One access for each lane in ascending order. -/
def accEach (w : W) (es : List Nat) (k : W → Nat → W × LaneAcc) : W × List (Nat × LaneAcc) :=
  es.foldl (fun (r : W × List (Nat × LaneAcc)) l =>
    let (w, a) := k r.1 l
    (w, r.2 ++ [(l, a)])) (w, [])

/-- The lanes that faulted, and those that wait. -/
def accFaults (rs : List (Nat × LaneAcc)) : List LFault :=
  rs.filterMap fun r => match r.2 with
    | .bad c a => some { lane := r.1, cause := c, addr := a }
    | _ => none
def accWaits (rs : List (Nat × LaneAcc)) : List (Nat × Wake) :=
  rs.filterMap fun r => match r.2 with
    | .wait k => some (r.1, k)
    | _ => none
/-- The lanes whose access was made: the bytes, and whether a part was not resident. -/
def accDone (rs : List (Nat × LaneAcc)) : List (Nat × List Byte × Bool) :=
  rs.filterMap fun r => match r.2 with
    | .ok bs nr => some (r.1, bs, nr)
    | _ => none

/-- The residency predicate named by RP (10 R260). -/
def rpOf (c : Rp) : Option Nat := if c = 7#3 then none else some c.toNat

/-! ## Results that land later (06 R145, R153) -/

/-- The window of a lookahead instruction opens with the registers its result goes to; a register that
another pending result goes to is undefined once both have landed (06 R146). -/
def W.openPend (w : W) (i : Issue) (op lah : Nat) (lanes vdst sdst : List Nat) (pdst : Option Nat)
    (fence : Bool := false) : W :=
  let vs := (lanes.map fun l => (vdst.filter fun r => w.coversV i.gid l r).map fun r => (l, r)).flatten
  let ss := sdst.filter fun r => w.coversS i.frag r
  let ps := (lanes.map fun l => (pdst.toList.filter fun p => w.coversP i.gid l p).map fun p => (l, p)).flatten
  let w := vs.foldl (fun w e => w.clobV i.gid e.1 e.2) w
  let w := ss.foldl (fun w r => w.clobS i.frag r) w
  let w := ps.foldl (fun w e => w.clobP i.gid e.1 e.2) w
  let (w, n) := w.newId
  let p : Pend :=
    { gid := i.gid, frag := i.frag, lanes := lanes, iaddr := i.pc, op := op, left := some lah
      at_ := w.ac, vdst := vdst, sdst := sdst, pdst := pdst, fence := fence
      clob := vs, sclob := ss, pclob := ps }
  { w with c.thr.pends := aset w.c.thr.pends n p }

/-- The words of bytes, lowest first. -/
def wordsOf (n : Nat) (bs : List Byte) : List Word :=
  (List.range n).map fun k => BitVec.ofNat 32 (leNat ((bs.drop (4 * k)).take 4))

/-- The vector and uniform registers that a run of `n` starting at an operand covers. -/
def runV (o : Opnd) (n : Nat) : List Nat :=
  match o with
  | .v r => (List.range n).map fun k => r.val + k
  | .w r => (List.range n).map fun k => 16 * r.val + k
  | _ => []
def runS (o : Opnd) (n : Nat) : List Nat :=
  match o with
  | .s r => (List.range n).map fun k => r.val + k
  | _ => []

/-- The word of a lane, bytes of a load by size (10 R262). -/
def ldWords (sz : LdSz) (bs : List Byte) : List Word :=
  let x := leNat bs
  match sz with
  | .u8 => [BitVec.ofNat 32 (x % 256)]
  | .s8 => [(BitVec.ofNat 8 x).signExtend 32]
  | .u16 => [BitVec.ofNat 32 (x % 65536)]
  | .s16 => [(BitVec.ofNat 16 x).signExtend 32]
  | .b32 => wordsOf 1 bs
  | .b64 => wordsOf 2 bs
  | .b128 => wordsOf 4 bs

/-- Gives the pending results of an operation the words of each lane, and the predicate. -/
def W.giveLanes (w : W) (op : Nat) (vals : List (Nat × List Word)) (ps : List (Nat × Bool)) : W :=
  w.giveResult op fun p =>
    { p with
      vval := p.vval ++ (vals.map fun e => (e.2.zip p.vdst).map fun x => ((e.1, x.2), x.1)).flatten
      sval := p.sval ++ match vals with
        | e :: _ => (e.2.zip p.sdst).map fun x => (x.2, x.1)
        | [] => []
      pval := p.pval ++ match p.pdst with
        | some q => ps.map fun e => ((e.1, q), e.2)
        | none => [] }

/-- The result of a lookahead instruction that no counter counts: it lands later under a number of its
own. -/
def W.lateResult (w : W) (i : Issue) (lah : Nat) (lanes : List Nat) (d : Opnd) (n : Nat) (vals : List (Nat × List Word))
    (pdst : Option Nat) (ps : List (Nat × Bool)) : W :=
  let (w, id) := w.newId
  (w.openPend i id lah lanes (runV d n) (runS d n) pdst).giveLanes id vals ps

end Sys2Proof.Machine
end

