-- ==== Sys2Proof/Machine/Fabric.lean ====
section
/-! DEFINITION. The fabric: the steps of atomics, dependency tokens, remote requests at the source and
at the destination, the Weir, and the token instructions (10 R276–R278, 17 R402–R413). -/

namespace Sys2Proof.Machine

/-! ## Atomic steps (10 R276–R278) -/

/-- The width of a type in bytes. -/
def atomW : AtomT → Nat
  | .u32 | .s32 | .f32 => 4
  | .u64 | .s64 => 8
  | .b128 => 16

/-- The new value of an atomic from the old one and the operand (10 R276). -/
def atomNew (op : AtomOp) (ty : AtomT) (old b : Nat) : Nat :=
  let n := 8 * atomW ty
  let sg := ty = .s32 || ty = .s64
  let lt := fun (x y : Nat) => if sg then sfield x n < sfield y n else x < y
  match op with
  | .add =>
    if ty = .f32 then (addF32 (BitVec.ofNat 32 old) (BitVec.ofNat 32 b)).toNat else (old + b) % 2 ^ n
  | .min => if lt b old then b else old
  | .max => if lt old b then b else old
  | .and => old &&& b
  | .or => old ||| b
  | .xor => old ^^^ b
  | .exch => b
  | .inc => if b ≤ old then 0 else old + 1
  | .dec => if old = 0 || b < old then b else old - 1

/-- The new value of AFADD (10 R277, R278). -/
def faddNew (ty : FaddT) (old b : Nat) : Nat :=
  let half := fun (f : Fmt) (k : Nat) =>
    (addWide f false .rne 0 (f.dec (bits old (16 * k) 16)) (f.dec (bits b (16 * k) 16))).code
  match ty with
  | .f32 => (addF32 (BitVec.ofNat 32 old) (BitVec.ofNat 32 b)).toNat
  | .f16x2 => half fp16 0 + 65536 * half fp16 1
  | .bf16x2 => half bf16 0 + 65536 * half bf16 1

/-- What an atomic request writes for the bytes it finds; none for a failed compare. -/
def remAtom (op : RemOp) (data swp old : List Byte) : Option (List Byte) :=
  match op with
  | .atom o t => some (leBytes (atomW t) (atomNew o t (leNat old) (leNat data)))
  | .cas => if old = data then some swp else none
  | .fadd t => some (leBytes 4 (faddNew t (leNat old) (leNat data)))
  | _ => none

/-! ## Packages and tokens (17 R402, R403, R407, R408) -/

def W.pkg (w : W) : Nat := fld (w.blk .fabricId 0) 0 10
def W.pkgValid (w : W) : Bool := (w.blk .fabricId 0).getLsbD 10

/-- Whether a package is the own one or marked reachable. -/
def W.reaches (w : W) (d : Nat) : Bool :=
  d = w.pkg || (w.blk .fabricReach (d / 64)).getLsbD (d % 64)

/-- EXP and TMO in ac. -/
def W.expAc (w : W) : Nat := max 1 (fld (w.blk .fabricTkexp 0) 0 32) * acPerUs
def W.tmoAc (w : W) : Nat := max 1 (fld (w.blk .fabricTimeout 0) 0 32) * acPerUs

/-- SR.PODJOB of a context: EN and JOB. -/
def W.podEn (w : W) (a : Nat) : Bool := (w.srReg a .podjob).getLsbD 16
def W.podJob (w : W) (a : Nat) : Nat := fld (w.srReg a .podjob) 0 16

/-- The peer context of a job: the lowest ASID that takes part. -/
def W.peer (w : W) (job : Nat) : Option Nat :=
  minBy id ((w.c.sys.ctxs.map Prod.fst).filter fun a => w.podEn a && w.podJob a = job)

def nullSeq : Nat := 0x3FFFFF
def nullTok : Nat := 0xFFFFFFFF
/-- Destination and sequence of a token. -/
def tokKey (t : Nat) : Nat × Nat := (bits t 22 10, bits t 0 22)
def tokOf (k : Nat × Nat) : Nat := k.1 * 2 ^ 22 + k.2

/-- NEXT of a destination. -/
def W.nextSeq (w : W) (d : Nat) : Nat := (aget w.c.fab.next d).getD 0

/-- What a token stands for at this package (17 R407, R408). -/
inductive TokView where
  | illegal
  | landed
  | failed
  | waiting
  deriving DecidableEq, Repr

def W.tokView (w : W) (a t : Nat) : TokView :=
  let k := tokKey t
  if k.2 = nullSeq then .landed
  else if !w.reaches k.1 || 2 ^ 21 ≤ (w.nextSeq k.1 + 2 ^ 23 - 1 - k.2) % 2 ^ 22 then .illegal
  else match aget w.c.fab.toks k with
    | none => .landed
    | some e =>
      if e.asid ≠ a then .illegal
      else match e.st with
        | .outstanding => .waiting
        | .landed => .landed
        | .failed => .failed

/-- Whether the token table of a destination is full. -/
def W.tokFull (w : W) (d : Nat) : Bool :=
  4096 ≤ (w.c.fab.toks.filter fun e => e.1.1 = d).length

/-- Allocates a token to a destination. -/
def W.newTok (w : W) (d a : Nat) (parts : List (Nat × Nat)) : W × (Nat × Nat) :=
  let q := w.nextSeq d
  let q' := (q + 1) % 2 ^ 22
  let nxt := if q' = nullSeq then 0 else q'
  ({ w with c.fab.next := aset w.c.fab.next d nxt
            c.fab.toks := aset w.c.fab.toks (d, q)
              { asid := a, st := .outstanding, at_ := w.ac, parts := parts } }, (d, q))

/-! ## Messages -/

/-- Hands a message to another package, or, to the own one, to the local fabric engine. -/
def W.send (w : W) (dst : Nat) (out : Out) : W :=
  if dst = w.pkg then { w with c.fab.inbox := w.c.fab.inbox ++ [out] }
  else { w with c.fab.outbox := w.c.fab.outbox ++ [out] }

/-- The notices of a token to the packages that watch it (17 R409). -/
def W.notices (w : W) (k : Nat × Nat) (watch : List Nat) (landed : Bool) : W :=
  watch.foldl (fun w d =>
    if landed then w.send d (.landing d (tokOf k))
    else w.send d (.failure d (tokOf k))) w

/-- One token lands or fails: its notices are sent, and a landed one is freed; the merge tokens that
land or fail with it. -/
def W.tokStep (w : W) (k : Nat × Nat) (landed : Bool) : W × List (Nat × Nat) :=
  match aget w.c.fab.toks k with
  | none => (w, [])
  | some e =>
    if e.st ≠ .outstanding then (w, [])
    else
      let w := w.notices k e.watch landed
      if landed then
        let rest := (adel w.c.fab.toks k).map fun (x : (Nat × Nat) × Token) =>
          (x.1, { x.2 with parts := x.2.parts.filter fun p => p ≠ k })
        let due := (adel w.c.fab.toks k).filter fun x =>
          x.2.st = .outstanding && x.2.parts.contains k && x.2.parts.all fun p => p = k
        ({ w with c.fab.toks := rest }, due.map Prod.fst)
      else
        let due := w.c.fab.toks.filter fun x => x.2.st = .outstanding && x.2.parts.contains k
        ({ w with c.fab.toks := aset w.c.fab.toks k { e with st := .failed, watch := [] } },
          due.map Prod.fst)

/-- Tokens land or fail, with the merge tokens over them. -/
def W.tokEnd : Nat → W → List (Nat × Nat) → Bool → W
  | 0, w, _, _ => w
  | _, w, [], _ => w
  | n + 1, w, k :: ks, landed =>
    let (w, due) := w.tokStep k landed
    W.tokEnd n w (ks ++ due) landed

def W.tokLand (w : W) (k : Nat × Nat) : W := w.tokEnd (w.c.fab.toks.length + 1) [k] true
def W.tokFail (w : W) (k : Nat × Nat) : W := w.tokEnd (w.c.fab.toks.length + 1) [k] false

/-! ## The source (17 R403–R405, R409) -/

/-- The checks of a remote access at issue (17 R403). -/
def W.remCheck (w : W) (a d : Nat) (toks : List Nat) (wantTok : Bool) : Option Nat :=
  if !w.podEn a then some Cause.fabricProtection
  else if !w.reaches d then some Cause.fabricUnreachable
  else if toks.any fun t => w.tokView a t = .illegal then some Cause.illegalOperand
  else if wantTok && w.tokFull d then some Cause.tokenTableFull
  else none

/-- The end of one remote request at its source: its result, its fault, its token (17 R405, R408). -/
def W.remEnd (w : W) (id : Nat) (o : RemOut) (ok nonres : Bool) (cause : Nat) (data : List Byte) : W :=
  let w := { w with c.fab.outs := adel w.c.fab.outs id }
  let isStore := o.req.op = .store
  let w := match o.tok with
    | some k => if ok then w.tokLand k else w.tokFail k
    | none => w
  let softNr := nonres && o.rp.isSome
  let recorded := isStore && !ok && !softNr
  let c := if nonres then Cause.pageNotPresent else cause
  let w := if recorded then w.modOp o.op fun x =>
      { x with fault := some (x.fault.getD (c, o.req.va)) } else w
  let hard := !isStore && !ok && !softNr
  let w := if o.acq && (ok || softNr) then w.acquireAt o.gid o.scope else w
  let bytes := if softNr then List.replicate o.req.len 0 else data
  let vals := if isStore || hard then [] else ldWords o.ext bytes
  let w := { w with c.thr.pends := w.c.thr.pends.map fun (e : Nat × Pend) =>
    if e.2.op ≠ o.op then e
    else (e.1, { e.2 with
      vval := e.2.vval ++ (vals.zip e.2.vdst).map (fun (x : Word × Nat) => ((o.lane, x.2), x.1))
      pval := e.2.pval ++ (match e.2.pdst with
        | some q => if hard then [] else [((o.lane, q), softNr)]
        | none => [])
      faults := e.2.faults ++ if hard then [(o.lane, c, o.req.va)] else [] }) }
  if w.c.fab.outs.any fun e => e.2.op = o.op then w
  else (w.modOp o.op fun x => { x with done := true }).giveResult o.op fun p => p

/-- Whether an access of the same thread to the same bytes of the same package has still to return:
one thread's outer accesses to the same bytes are performed in program order (11 R287). -/
def W.remBehind (w : W) (id : Nat) (o : RemOut) : Bool :=
  w.c.fab.outs.any fun e => e.1 < id && e.2.gid = o.gid && e.2.lane = o.lane && e.2.req.dst = o.req.dst
    && e.2.req.va < o.req.va + o.req.len && o.req.va < e.2.req.va + e.2.req.len

/-- Tries to send a request: its landed tokens are dropped, a failed one fails it, and the packages
watch the others; a full watch list makes it wait in the source's engine (17 R409). -/
def W.remTry (w : W) (id : Nat) : W :=
  match aget w.c.fab.outs id with
  | none => w
  | some o =>
    if o.sent.isSome || !w.pkgValid || w.remBehind id o then w
    else
      let live := o.req.toks.filter fun t => w.tokView o.asid t ≠ .landed
      if live.any fun t => w.tokView o.asid t = .failed || w.tokView o.asid t = .illegal then
        w.remEnd id o false false Cause.tokenExpired []
      else
        let full := live.any fun t => match aget w.c.fab.toks (tokKey t) with
          | some e => !e.watch.contains o.req.dst && 8 ≤ e.watch.length
          | none => false
        if full then w
        else
          let w := live.foldl (fun w t => match aget w.c.fab.toks (tokKey t) with
            | some e =>
              if e.watch.contains o.req.dst then w
              else { w with c.fab.toks := aset w.c.fab.toks (tokKey t)
                              { e with watch := e.watch ++ [o.req.dst] } }
            | none => w) w
          let req := { o.req with toks := live }
          let w := { w with c.fab.outs := aset w.c.fab.outs id { o with req := req, sent := some w.ac } }
          w.send o.req.dst (.req req)

/-- A remote request of a lane enters the source's fabric engine. -/
def W.remIssue (w : W) (o : RemOut) : W :=
  let id := w.c.fab.nextReq
  let o := { o with req := { o.req with id := id, src := w.pkg, port := 18 } }
  let w := { w with c.fab.nextReq := id + 1, c.fab.outs := aset w.c.fab.outs id o }
  w.remTry id

/-! ## The destination (17 R404, R410, R411) -/

/-- The reply to a request. -/
def W.reply (w : W) (req : RemReq) (r : RemRep) : W :=
  w.send req.src (.reply req.src r)

/-- A poisoned sector at the destination is REMOTE_POISON. -/
def remCause (c : Nat) : Nat :=
  if c = Cause.memPoison || c = Cause.memUncorrectable then Cause.remotePoison else c

/-- Performs a request in the peer context at the memory-side cache, and replies (17 R404). -/
def W.remPerform (w : W) (req : RemReq) : W :=
  let bad := fun (w : W) (nr : Bool) (c : Nat) =>
    w.reply req { id := req.id, ok := false, nonres := nr, cause := c, data := [] }
  match w.peer req.job with
  | none => bad w false Cause.fabricProtection
  | some a =>
    match req.op with
    | .store => match w.write3va a req.va req.data true with
      | (w, .ok ()) => w.reply req { id := req.id, ok := true, nonres := false, cause := 0, data := [] }
      | (w, .nonres _) => bad w true 0
      | (w, .bad c _) => bad w false (remCause c)
    | op => match w.read3 a req.va req.len true with
      | (w, .nonres _) => bad w true 0
      | (w, .bad c _) => bad w false (remCause c)
      | (w, .ok old) =>
        match op with
        | .load =>
          w.reply req { id := req.id, ok := true, nonres := false, cause := 0, data := old }
        | op => match remAtom op req.data req.swp old with
          | none =>
            match w.check3 a req.va req.len true with
            | (w, .ok ()) =>
              w.reply req { id := req.id, ok := true, nonres := false, cause := 0, data := old }
            | (w, .nonres _) => bad w true 0
            | (w, .bad c _) => bad w false (remCause c)
          | some new => match w.write3va a req.va new true with
            | (w, .ok ()) =>
              w.reply req { id := req.id, ok := true, nonres := false, cause := 0, data := old }
            | (w, .nonres _) => bad w true 0
            | (w, .bad c _) => bad w false (remCause c)

/-- Whether two stores of one source touch a common line. -/
def sameLine (x y : RemReq) : Bool :=
  x.src = y.src && x.job = y.job && x.va / 128 ≤ (y.va + y.len - 1) / 128
    && y.va / 128 ≤ (x.va + x.len - 1) / 128

def W.weir (w : W) (p : Nat) : List Held := (aget w.c.fab.weir p).getD []

/-- The first held store of a port that waits for nothing any more. -/
def weirDue : List Held → List Held → Option (Held × List Held)
  | _, [] => none
  | before, h :: rest =>
    if h.toks.isEmpty && before.all fun b => !sameLine b.req h.req then some (h, before ++ rest)
    else weirDue (before ++ [h]) rest

/-- Performs the held stores of a port that have become due. -/
def W.weirRun : Nat → W → Nat → W
  | 0, w, _ => w
  | n + 1, w, p =>
    match weirDue [] (w.weir p) with
    | none => w
    | some (h, rest) =>
      let w := { w with c.fab.weir := aset w.c.fab.weir p rest }
      W.weirRun n (w.remPerform h.req) p

/-- Discards a held store: its peer context hears of it and it retires with TOKEN_EXPIRED (17 R411). -/
def W.weirDrop (w : W) (p : Nat) (h : Held) : W :=
  let w := { w with c.fab.weir := aset w.c.fab.weir p ((w.weir p).erase h) }
  let w := match w.peer h.req.job with
    | some a => w.reportCtx a Cause.tokenExpired 2 h.req.va
    | none => w
  w.reply h.req
    { id := h.req.id, ok := false, nonres := false, cause := Cause.tokenExpired, data := [] }

/-- A request is refused with a retry indication: its sender's link layer sends it again; a request of
the own package waits at its port (17 R406). -/
def W.retryLater (w : W) (req : RemReq) : W :=
  if req.src = w.pkg then
    let l := (aget w.c.fab.resend req.port).getD [] ++ [.req req]
    { w with c.fab.resend := aset w.c.fab.resend req.port l }
  else { w with c.fab.outbox := w.c.fab.outbox ++ [.retry req.port req.id] }

/-- REMOTE_REQUEST_ARRIVAL (17 R402, R404, R406, R410; 15 R370). -/
def W.remArrive (w : W) (req : RemReq) : W :=
  if !w.pkgValid || req.dst ≠ w.pkg || (req.src ≠ w.pkg && Config.ualinks ≤ req.port) then w
  else if req.op ≠ .load && req.src ≠ w.pkg && w.c.mc.stks.any fun e => e.2.closed then w.retryLater req
  else
    let early := w.c.fab.early.filter fun e => e.2.1 = req.src && req.toks.contains e.2.2.1
    let failed := early.any fun e => e.2.2.2.1
    let toks := req.toks.filter fun t => !(early.any fun e => e.2.2.1 = t && !e.2.2.2.1)
    let w1 := { w with c.fab.early := w.c.fab.early.filter fun e => !early.contains e }
    let behind := req.op = .store && (w.weir req.port).any fun h => sameLine h.req req
    if failed then w1.weirDrop req.port { req := req, toks := [], at_ := w.ac }
    else if toks.isEmpty && !behind then w1.remPerform req
    else if 1024 ≤ (w.weir req.port).length then
      let w := w.retryLater req
      if w.c.fab.fullTold.contains req.port then w
      else
        { w with c.fab.fullTold := w.c.fab.fullTold ++ [req.port] }.reportSys
          { cause := Cause.holdQueueFull, kind := 2 }
    else
      { w1 with
        c.fab.weir := aset w1.c.fab.weir req.port
          (w1.weir req.port ++ [{ req := req, toks := toks, at_ := w.ac }])
        c.fab.fullTold := w1.c.fab.fullTold.filter fun p => p ≠ req.port }

def execRemoteRequestArrival (req : RemReq) (s : State) : Out1 := step1 (fun w => w.remArrive req) s

/-- REMOTE_REPLY: the reply of a request that still waits (17 R404, R405). -/
def execRemoteReply (rep : RemRep) (s : State) : Out1 :=
  step1 (fun w => match aget w.c.fab.outs rep.id with
    | none => w
    | some o => w.remEnd rep.id o rep.ok rep.nonres rep.cause rep.data) s

/-- REPLY_TIMEOUT: a request without a reply TMO µs after its first sending fails (17 R404). -/
def execReplyTimeout (id : Nat) (s : State) : Out1 :=
  step1 (fun w => match aget w.c.fab.outs id with
    | none => w
    | some o => match o.sent with
      | none => w
      | some t =>
        if t + w.tmoAc ≤ w.ac then w.remEnd id o false false Cause.fabricUnreachable [] else w) s

/-- TOKEN_EXPIRY: an entry outstanding for EXP µs fails (17 R408). -/
def execTokenExpiry (dest seq : Nat) (s : State) : Out1 :=
  step1 (fun w => match aget w.c.fab.toks (dest, seq) with
    | none => w
    | some e => if e.st = .outstanding && e.at_ + w.expAc ≤ w.ac then w.tokFail (dest, seq) else w) s

/-- A notice reaches the held stores of its source, or waits for its store (17 R410, R411). -/
def W.notice (w : W) (src token : Nat) (failed : Bool) : W :=
  let hits := (w.c.fab.weir.map fun e =>
    (e.2.filter fun h => h.req.src = src && h.toks.contains token).map fun h => (e.1, h)).flatten
  if hits.isEmpty then
    { w with c.fab.early := w.c.fab.early ++ [(0, src, token, failed, w.ac)] }
  else if failed then hits.foldl (fun w e => w.weirDrop e.1 e.2) w
  else
    let w := { w with c.fab.weir := w.c.fab.weir.map fun e => (e.1, e.2.map fun h =>
      if h.req.src = src then { h with toks := h.toks.filter fun t => t ≠ token } else h) }
    (uniq (hits.map Prod.fst)).foldl (fun w p => w.weirRun ((w.weir p).length + 1) p) w

def execLandingNotice (src token : Nat) (s : State) : Out1 := step1 (fun w => w.notice src token false) s
def execFailureNotice (src token : Nat) (s : State) : Out1 := step1 (fun w => w.notice src token true) s

/-- HOLD_EXPIRY: a held store whose notice is missing after EXP µs is discarded, and early notices as
old are forgotten (17 R410, R411). -/
def execHoldExpiry (port index : Nat) (s : State) : Out1 :=
  step1 (fun w =>
    let w := { w with c.fab.early := w.c.fab.early.filter fun e => w.ac < e.2.2.2.2 + w.expAc }
    match (w.weir port)[index]? with
    | none => w
    | some h =>
      if !h.toks.isEmpty && h.at_ + w.expAc ≤ w.ac then
        let w := w.weirDrop port h
        w.weirRun ((w.weir port).length + 1) port
      else w) s

/-- FLIT_RESEND: the refused requests of a port, and requests that wait in the fabric engine, are sent
again (17 R406, R409). -/
def execFlitResend (port : Nat) (s : State) : Out1 :=
  step1 (fun w =>
    let again := (aget w.c.fab.resend port).getD []
    let w := { w with c.fab.resend := adel w.c.fab.resend port, c.fab.inbox := w.c.fab.inbox ++ again }
    (w.c.fab.outs.filter fun e => e.2.sent.isNone).foldl (fun w e => w.remTry e.1) w) s

/-! ## TKMRG, TKWAIT (17 R412, R413) -/

/-- The token of a source; the zero source is a null token. -/
def tokSrc (r : Rd) (o : Opnd) (l : Nat) : Nat :=
  match o with
  | .sp _ => nullTok
  | o => (r.word o l).toNat

/-- A merge of two tokens: the result, or a fault (17 R412). -/
def W.merge (w : W) (a x y : Nat) : W × Except Nat Nat :=
  match w.tokView a x, w.tokView a y with
  | .illegal, _ => (w, .error Cause.illegalOperand)
  | _, .illegal => (w, .error Cause.illegalOperand)
  | .landed, .landed => (w, .ok nullTok)
  | .landed, _ => (w, .ok y)
  | _, .landed => (w, .ok x)
  | vx, vy =>
    if w.tokFull w.pkg then (w, .error Cause.tokenTableFull)
    else
      let (w, k) := w.newTok w.pkg a (uniq [tokKey x, tokKey y])
      let w := if vx = .failed || vy = .failed then w.tokFail k else w
      (w, .ok (tokOf k))

/-- TKMRG (17 R412). -/
def execTkmrg (f : Alu) : State → Out1 :=
  onceOp f.g fun r es w =>
    let a := (w.group r.i.gid).asid
    match f.d with
    | .s _ => match w.merge a (tokSrc r f.a 0) (tokSrc r f.b 0) with
      | (w, .ok t) => { w := w.dst r.i f.d 0 [BitVec.ofNat 32 t] }
      | (w, .error c) => Eff.allFault w es c
    | _ => es.foldl (fun (e : Eff) l => match e.w.merge a (tokSrc r f.a l) (tokSrc r f.b l) with
      | (w, .ok t) => { e with w := w.dst r.i f.d l [BitVec.ofNat 32 t] }
      | (w, .error c) => { e with w := w, faults := e.faults ++ [{ lane := l, cause := c }] }) { w := w }

/-- A DST of 0x000 in an entry that accepts it beside registers stands for none (17 R412). -/
def noDst (f : Alu) : Bool := f.d = .v 0

/-- TKWAIT (17 R413). -/
def execTkwait (f : Alu) : State → Out1 :=
  onceOp f.g fun r es w =>
    let a := (w.group r.i.gid).asid
    let vs := es.map fun l => (l, (r.word f.a l).toNat, w.tokView a (r.word f.a l).toNat)
    let bad : List LFault := (vs.filter fun v => v.2.2 = .illegal).map fun v =>
      { lane := v.1, cause := Cause.illegalOperand }
    match vs.find? fun v => v.2.2 = .waiting with
    | some v =>
      { w := w, faults := bad
        parks := (vs.filter fun u => u.2.2 ≠ .illegal).map fun u => (u.1, .token v.2.1) }
    | none =>
      let w := if noDst f then w
        else (vs.filter fun v => v.2.2 ≠ .illegal).foldl (fun w v =>
          w.dst r.i f.d v.1 [wordOfBool (v.2.2 = .failed)]) w
      { w := w, faults := bad }

end Sys2Proof.Machine
end

