-- ==== Sys2Proof/Machine/Elements.lean ====
section
/-! DEFINITION. Elements of tensors, read and written by lanes and by engines through dense, aperture
and key-value descriptors (02 R29, R49, R50, 10 R266, 12 R307, 15 R375, R376, R385). -/

namespace Sys2Proof.Machine

/-- An aperture-view descriptor is valid (15 R385). -/
def W.tdApr (w : W) (d : Td) : Bool :=
  let c := w.aprCtl (tdF d 128 6)
  tdCommon d && tdType d = 7 && tdDims d && tdAligned d && tdPackOk d
    && tdHadOk d && tdScm d = 0 && tdF d 134 50 = 0 && !fmtMx (tdFmt d)
    && match aprXf c with
      | 2 => tdFmt d = 1
      | 3 => tdFmt d = (if aprParm c = 1 then 1 else 3)
      | 4 => (tdCont d).unit = (if aprParm c = 1 then 4 else 2)
      | _ => true

/-- Whether a descriptor serves where the spec asks for a dense one: dense, aperture view, or
KV-paged. -/
def W.tdTensor (w : W) (d : Td) : Bool := tdDense d || tdKv d || w.tdApr d

/-- How a read of an element ends. -/
inductive ERes where
  | ok (v : Fv) (code : Nat) (fl : BitVec 5)
  | nonres (va : Nat)
  | wait (wk : Wake)
  | bad (cause va : Nat)
  deriving DecidableEq, Repr

/-- A read of bytes for an element. -/
def W.eBytes (w : W) (x : AccCtx) (t : Except (Nat × Nat) Tgt) (n : Nat) : W × Except ERes (List Byte) :=
  match t with
  | .error (c, a) => (w, .error (.bad c a))
  | .ok t => match w.laneRead { x with rp := true } t n with
    | (w, .ok bs false) => (w, .ok bs)
    | (w, .ok _ true) => (w, .error (.nonres (match t with | .va a => a | _ => 0)))
    | (w, .wait k) => (w, .error (.wait k))
    | (w, .bad c a) => (w, .error (.bad c a))

/-- The place of an element's unit. -/
def W.eTarget (w : W) (g : Nat) (d : Td) (ix : List Nat) (write : Bool) : Except (Nat × Nat) Tgt :=
  let a := tdAddr d ix
  if tdType d = 7 then
    w.target g .apert 0 (tdF d 128 6 * 2 ^ 56 + a % 2 ^ 56) (tdCont d).unit write
  else checkVa a (tdCont d).unit

/-- The entry and header of a logical page: as resolved before, else as the operation resolves it now,
with the pages resolved from then on (15 R376). -/
def W.kvOpen (w : W) (g : Nat) (d : Td) (res : List (Nat × KvRes)) (n : Nat) :
    W × MRes (List (Nat × KvRes) × KvRes) :=
  match aget res n with
  | some r => (w, .ok (res, r))
  | none =>
    let a := (w.group g).asid
    let w := w.acquireAt g .sys
    match w.kvResolve a d n with
    | (w, .ok e) =>
      if e = 2 ^ 63 then (w, .ok (aset res n { entry := e, hdr := none }, { entry := e, hdr := none }))
      else match w.kvHead a (bits e 16 40 * 65536) with
        | (w, .ok h) => (w, .ok (aset res n { entry := e, hdr := some h }, { entry := e, hdr := some h }))
        | (w, .bad c v) => (w, .bad c v)
        | (w, .nonres v) => (w, .nonres v)
    | (w, .bad c v) => (w, .bad c v)
    | (w, .nonres v) => (w, .nonres v)

/-- Reads an element inside SIZE: its value with its scale, and its own bits, with the flags of the
conversion where a page gives no raw bits (15 R376, drawing `r`); pages resolved earlier are used again.
A raw read of an MX element reads no block scale (12 R307) and gives no value. -/
def W.eRead (w : W) (x : AccCtx) (d : Td) (res : List (Nat × KvRes)) (ix : List Nat) (r : Nat := 0)
    (raw : Bool := false) : W × List (Nat × KvRes) × ERes :=
  let a := (w.group x.g).asid
  if tdType d = 1 then
    let (n, e) := kvPlace d ix
    match w.kvOpen x.g d res n with
    | (w, .bad c v) => (w, res, .bad c v)
    | (w, .nonres v) => (w, res, .nonres v)
    | (w, .ok (res, { hdr := none, .. })) =>
      (w, res, if tdClamp d then .ok .zero 0 0 else .bad Cause.tdBounds (tdBase d + 8 * n))
    | (w, .ok (res, { entry := ent, hdr := some h })) =>
      let page := bits ent 16 40 * 65536
      if raw && h.fmt = tdFmt d && h.scale0 = 0x3F800000 then
        match w.read3 a (page + 256 + e) 1 (w.needU a) with
        | (w, .ok bs) => (w, res, .ok .zero (leNat bs) 0)
        | (w, .bad c v) => (w, res, .bad c v)
        | (w, .nonres v) => (w, res, .nonres v)
      else match w.kvRead a ent e h (w.tsc x.g) with
        | (w, .ok v) =>
          let c := (fmtOf (tdFmt d)).conv (tdRnd d) r v
          (w, res, .ok v c.code c.flags)
        | (w, .bad c v) => (w, res, .bad c v)
        | (w, .nonres v) => (w, res, .nonres v)
  else
    match w.eBytes x (w.eTarget x.g d ix false) (tdCont d).unit with
    | (w, .error e) => (w, res, e)
    | (w, .ok bs) =>
      let code := (tdCont d).get (ix.headD 0) bs
      if !fmtMx (tdFmt d) then (w, res, .ok (tdValue d code) code 0)
      else if raw then (w, res, .ok .zero code 0)
      else
        match w.eBytes x (checkVa (tdScaleAddr d ix) 1) 1 with
        | (w, .error e) => (w, res, e)
        | (w, .ok sb) =>
          let s := scaleVal (leNat sb)
          (w, res, if s.isNone && w.tsc x.g then .bad Cause.scaleInvalid (tdScaleAddr d ix)
            else .ok (scaled (tdFormat d) code s) code 0)

/-- Writes the code of an element inside SIZE into its unit; the other elements of the unit keep what
this access reads (10 R266). -/
def W.eWrite (w : W) (x : AccCtx) (op l : Nat) (d : Td) (ix : List Nat) (code : Nat) : W × LaneAcc :=
  match w.eTarget x.g d ix true with
  | .error (c, a) => (w, .bad c a)
  | .ok t =>
    match tdCont d with
    | .bytes n => w.laneWrite x op l t (leBytes n (code % 256 ^ n))
    | cont =>
      match w.laneRead x t cont.unit with
      | (w, .ok bs false) => w.laneWrite x op l t (cont.put (ix.headD 0) code bs)
      | r => r

/-- The byte address and the code that a value takes in an element of a page, in the format the page is
written in (15 R376); none where the write is dropped. -/
def W.kvEncode (w : W) (g : Nat) (d : Td) (res : List (Nat × KvRes)) (ix : List Nat) (r : Nat) (v : Fv) :
    W × List (Nat × KvRes) × MRes (Option (Nat × Cv)) :=
  let (n, e) := kvPlace d ix
  match w.kvOpen g d res n with
  | (w, .bad c v) => (w, res, .bad c v)
  | (w, .nonres v) => (w, res, .nonres v)
  | (w, .ok (res, { hdr := none, .. })) =>
    (w, res, if tdClamp d then .ok none else .bad Cause.tdBounds (tdBase d + 8 * n))
  | (w, .ok (res, { entry := ent, hdr := some h })) =>
    let page := bits ent 16 40 * 65536
    if h.fmt ≠ tdFmt d || h.sealed_ then (w, res, .bad Cause.kvSealedWrite page)
    else
      let q := divAny v (fp32.dec h.scale0)
      let c := (fmtOf (tdFmt d)).conv (tdRnd d) r q.1
      (w, res, .ok (some (page + 256 + e, { c with flags := c.flags ||| q.2 })))

/-- Writes the byte of an element of a page. -/
def W.kvPut (w : W) (g : Nat) (x : Option (Nat × Cv)) : W × MRes (BitVec 5) :=
  let a := (w.group g).asid
  match x with
  | none => (w, .ok 0)
  | some (at_, c) => match w.write3va a at_ (leBytes 1 c.code) (w.needU a) with
    | (w, .ok ()) => (w, .ok c.flags)
    | (w, .bad c v) => (w, .bad c v)
    | (w, .nonres v) => (w, .nonres v)

/-- Writes a value into an element of a page (15 R376). -/
def W.kvWrite (w : W) (g : Nat) (d : Td) (res : List (Nat × KvRes)) (ix : List Nat) (r : Nat) (v : Fv) :
    W × List (Nat × KvRes) × MRes (BitVec 5) :=
  match w.kvEncode g d res ix r v with
  | (w, res, .ok x) =>
    let (w, y) := w.kvPut g x
    (w, res, y)
  | (w, res, .bad c v) => (w, res, .bad c v)
  | (w, res, .nonres v) => (w, res, .nonres v)

end Sys2Proof.Machine
end

