-- ==== Sys2Proof/Machine/Suspend.lean ====
section
/-! DEFINITION. Suspended matrix operations as other instructions meet them: a WAITC, a later matrix
instruction or the final EXIT raises them at its own lanes (13 R346). -/

namespace Sys2Proof.Machine

/-- The matrix operation that an operation is. -/
def OpKind.mx? : OpKind → Option Mx
  | .mx m => some m
  | _ => none

/-- Whether the operation is an MXVEC, which is raised at its own lanes (13 R340). -/
def Mx.isVec (m : Mx) : Bool :=
  match m.kind with
  | .vec _ => true
  | _ => false

/-- The suspended operations of a group that have not been raised, oldest first. -/
def W.suspended (w : W) (g : Nat) : List (Nat × Op × Mx) :=
  w.c.eng.ops.filterMap fun e => match e.2.kind.mx? with
    | some m => if e.2.gid = g && m.susp.isSome && !m.raised && !m.isVec then some (e.1, e.2, m)
      else none
    | none => none

def W.setOp (w : W) (id : Nat) (o : Op) : W := { w with c.eng.ops := aset w.c.eng.ops id o }

/-- The lanes fault with the operation's cause and address and with REPLAY: on resume the operation
goes on from its progress index, then the lanes go on at their PC. -/
def W.raiseSusp (w : W) (i : Issue) (es : List Nat) (e : Nat × Op × Mx) : W :=
  match e.2.2.susp with
  | none => w
  | some (c, a) =>
    let pc := w.faultPc i (es.map fun l => { lane := l, cause := c })
    let w := w.setOp e.1 { e.2.1 with kind := .mx { e.2.2 with raised := true } }
    (w.takeFault i.gid i.frag es c a 0 pc e.2.1.iaddr true).shed i.gid i.frag

end Sys2Proof.Machine
end

