-- ==== Sys2Proof/Machine/MemInstr.lean ====
section
/-! DEFINITION. Loads, stores, tensor elements, gather and scatter, compress-store, hints, residency
requests, fences, cache maintenance, counter waits and the descriptor table (10 R260–R275,
R280–R282). -/

namespace Sys2Proof.Machine

/-! ## LD, ST, LDU, USTO (10 R262–R265) -/

def ldSize : LdSz → Nat
  | .u8 | .s8 => 1
  | .u16 | .s16 => 2
  | .b32 => 4
  | .b64 => 8
  | .b128 => 16
def ldRegs (s : LdSz) : Nat := (ldSize s + 3) / 4
def stSize : StSz → Nat
  | .b8 => 1 | .b16 => 2 | .b32 => 4 | .b64 => 8 | .b128 => 16

/-- The low bytes of a run of registers. -/
def Rd.bytes (r : Rd) (o : Opnd) (n l : Nat) : List Byte :=
  (((List.range ((n + 3) / 4)).map fun k => leBytes 4 (r.run o k l).toNat).flatten).take n

/-- The location that alignment is judged by. -/
def tgtAddr : Tgt → Nat
  | .va a | .konst a | .sp a | .mb a | .ap _ a | .rem _ a => a
  | .none_ => 0

/-- What accesses of an instruction are made with. -/
def accCtx (i : Issue) (es : List Nat) (f : MemF) (rp : Rp) (atomic : Bool := false) : AccCtx :=
  { g := i.gid, pc := i.pc, scope := f.scope, ord := f.ord, rp := (rpOf rp).isSome, atomic := atomic
    again := i.again, es := es }

/-- Writes a residency predicate in lanes. -/
def W.putRp (w : W) (g : Nat) (rp : Rp) (ps : List (Nat × Bool)) : W :=
  match rpOf rp with
  | some p => ps.foldl (fun w e => w.writeP g e.1 p e.2) w
  | none => w

/-- The effects of ORD before an access, and after one that reads (11 R286, R289, R297). -/
def W.before (w : W) (g : Nat) (o : Order) : W := if o = .str then w.drainAll g else w
def W.after (w : W) (g : Nat) (o : Order) (sc : Scope) : W :=
  if o = .acq || o = .str then w.acquireAt g sc else w

/-- The scope that an access is performed at: a mailbox's is the system whatever SCOPE names (09 R234). -/
def accScope (f : MemF) : Scope := if f.space = .mailbox then .sys else f.scope

/-- The slots that the lanes of a load read in the scratchpad. -/
def spSlots (ts : List Tgt) (n : Nat) : List Nat :=
  (ts.map fun t => match t with
    | .sp o => slotsOf o n
    | _ => []).flatten

/-- The remote requests of a load, or of an atomic, one for each lane that passes the checks. One that
acquires opens no window: its lanes go on when its replies have returned (DEDUCED, log entry 38). -/
def remLoads (w : W) (i : Issue) (es : List Nat) (cls : OpClass) (lah n : Nat) (rp : Rp) (d : Opnd)
    (sz : LdSz) (scope : Scope) (ord : Order) (ea : Nat → Nat) (mk : Nat → RemReq) (regs : Nat) (strict : Nat → Bool) :
    Eff :=
  let g := i.gid
  let a := (w.group g).asid
  let chk := es.map fun l => (l,
    match w.remCheck a (bits (ea l) 54 10) [] false with
    | some c => some c
    | none => if strict l then some Cause.misalignedStrict else none)
  let faults : List LFault := chk.filterMap fun e => e.2.map fun c =>
    { lane := e.1, cause := c, addr := ea e.1 }
  let good := (chk.filter fun e => e.2.isNone).map Prod.fst
  if es.isEmpty then { w := w }
  else
    let (w, op) := w.newOp { gid := g, cls := cls, iaddr := i.pc, kind := .remote, scope := scope
                             done := good.isEmpty }
    if good.isEmpty then { w := w, faults := faults }
    else
    let acq := ord = .acq || ord = .str
    let w := w.openPend i op (if acq then 0 else lah) good (runV d regs) (runS d regs) (rpOf rp)
    let w := good.foldl (fun w l =>
      let q := mk l
      w.remIssue
        { req := { q with dst := bits (ea l) 54 10, job := w.podJob a, va := bits (ea l) 0 54, len := n }
          gid := g, asid := a, lane := l, op := op, pend := none, rp := rpOf rp, dst := 0, ext := sz
          scope := scope, acq := acq, tok := none, sent := none, iaddr := i.pc }) w
    { w := w, faults := faults }

/-- An empty request. -/
def noReq (op : RemOp) : RemReq :=
  { src := 0, dst := 0, job := 0, id := 0, op := op, va := 0, len := 0, data := [], swp := [], toks := [],
    port := 0 }

/-- A load that every lane faulted at its access counts as any other (09 R255); one that only waits was
not issued. -/
def W.countLd (w : W) (g : Nat) (i : Issue) (fs : List LFault) : W :=
  if fs.isEmpty then w
  else (w.newOp { gid := g, cls := .ld, iaddr := i.pc, kind := .load, done := true }).1

/-- The body of LD (10 R264). -/
def ldBody (m : LdM) (f : MemF) (i : Issue) (es : List Nat) (w0 : W) : Eff :=
  let g := i.gid
  let n := ldSize m.sz
  let rd : Rd := { w := w0, i := i }
  let cls := if f.space = .remote then OpClass.co else .ld
  if w0.countFull g cls then Eff.allFault w0 es Cause.counterOverflow
  else if f.space = .remote then
    remLoads (if f.ord = .str then w0.releaseAt g f.scope else w0) i es cls f.x.toNat n m.rp f.d m.sz
      f.scope f.ord (rd.ea f) (fun _ => noReq .load) (ldRegs m.sz) (fun l => strictBad f (rd.ea f l) n)
  else
    let x := accCtx i es f m.rp
    let tg := fun l => w0.target g f.space f.tdi.toNat (rd.ea f l) n false
    let (w, rs) := accEach (w0.before g f.ord) es fun w l =>
      match tg l with
      | .error (c, a) => (w, .bad c a)
      | .ok t =>
        if strictBad f (tgtAddr t) n then (w, .bad Cause.misalignedStrict (rd.ea f l))
        else w.laneRead x t n
    let done := accDone rs
    let w := w.countReads (w.group g).team (spSlots (done.filterMap fun e => (tg e.1).toOption) n)
    let w := w.after g f.ord (accScope f)
    if done.isEmpty then { w := w.countLd g i (accFaults rs), faults := accFaults rs, parks := accWaits rs }
    else
      let (w, op) := w.newOp { gid := g, cls := .ld, iaddr := i.pc, kind := .load, done := true }
      let w := w.openPend i op f.x.toNat (done.map Prod.fst) (runV f.d (ldRegs m.sz)) [] (rpOf m.rp)
      let w := w.giveLanes op (done.map fun e => (e.1, ldWords m.sz (padTo n e.2.1)))
        (done.map fun e => (e.1, e.2.2))
      { w := w, faults := accFaults rs, parks := accWaits rs }

def execLd (m : LdM) (f : MemF) : State → Out1 := run f.g (ldBody m f)

/-- The end of a store's issue: an operation with nothing left in the queue is done, also where every
lane faulted at its access; one that only waits was not issued (09 R255). -/
def W.stEnd (w : W) (g op : Nat) (any : Bool) : W :=
  if !any then
    match aget w.c.eng.ops op with
    | some o => { w.modGroup g fun x => { x with issued := aset x.issued o.cls o.no } with
                  c.eng.ops := adel w.c.eng.ops op }
    | none => w
  else if (w.sq g).any fun q => q.op = op then w
  else w.modOp op fun o => { o with done := true }

/-- The tokens that a store carries, and the one it returns (03 R71). -/
def depToks (r : Rd) (f : MemF) (l : Nat) : List Nat :=
  match f.dep with
  | .none => []
  | .one => [(r.run f.d 0 l).toNat]
  | .two => [(r.run f.d 0 l).toNat, (r.run f.d 1 l).toNat]

/-- A store in the remote space (03 R71, 17 R403–R409). -/
def remStore (rp : Rp) (n : Nat) (f : MemF) (i : Issue) (es : List Nat) (w0 : W) : Eff :=
  let g := i.gid
  let a := (w0.group g).asid
  let rd : Rd := { w := w0, i := i }
  let uni := match f.d with
    | .s _ => true
    | _ => false
  let chk := es.map fun l => (l,
    match w0.remCheck a (bits (rd.ea f l) 54 10) (depToks rd f l) f.tok with
    | some c => some c
    | none => if strictBad f (rd.ea f l) n then some Cause.misalignedStrict else none)
  let faults : List LFault := chk.filterMap fun e => e.2.map fun c =>
    { lane := e.1, cause := c, addr := rd.ea f e.1 }
  let good := (chk.filter fun e => e.2.isNone).map Prod.fst
  -- DEDUCED: a merge token stands for the tokens of the lanes that passed the checks; of one lane the token
  -- itself is returned (log entry 38)
  let mergeFull := f.tok && uni && 1 < good.length && w0.tokFull w0.pkg
  if mergeFull then Eff.allFault w0 es Cause.tokenTableFull
  else if good.isEmpty then { w := w0, faults := faults }
  else
    let w := if f.ord = .rel || f.ord = .str then w0.releaseAt g f.scope else w0
    let (w, op) := w.newOp { gid := g, cls := .co, iaddr := i.pc, kind := .remote, scope := f.scope }
    let w := if (rpOf rp).isSome then w.openPend i op f.x.toNat good [] [] (rpOf rp) else w
    -- the returned tokens are allocated in lane order before any store is sent
    let (w, toks) := good.foldl (fun (r : W × List (Nat × Option (Nat × Nat))) l =>
      if f.tok then
        let (w, k) := r.1.newTok (bits (rd.ea f l) 54 10) a []
        (w, r.2 ++ [(l, some k)])
      else (r.1, r.2 ++ [(l, none)])) (w, [])
    let w := if !f.tok then w
      else if uni then
        match toks.filterMap Prod.snd with
        | [k] => w.dst i f.d 0 [BitVec.ofNat 32 (tokOf k)]
        | ks =>
          let (w, k) := w.newTok w.pkg a ks
          w.dst i f.d 0 [BitVec.ofNat 32 (tokOf k)]
      else toks.foldl (fun w e => match e.2 with
        | some k => w.dst i f.d e.1 [BitVec.ofNat 32 (tokOf k)]
        | none => w) w
    let w := toks.foldl (fun w e =>
      let q := noReq .store
      w.remIssue
        { req := { q with dst := bits (rd.ea f e.1) 54 10, job := w.podJob a, va := bits (rd.ea f e.1) 0 54,
                          len := n, data := rd.bytes f.c n e.1, toks := depToks rd f e.1 }
          gid := g, asid := a, lane := e.1, op := op, pend := none, rp := rpOf rp, dst := 0, ext := .b32
          scope := f.scope, tok := e.2, sent := none, iaddr := i.pc }) w
    { w := w, faults := faults }

/-- The body of ST (10 R264). -/
def stBody (m : StM) (f : MemF) (i : Issue) (es : List Nat) (w0 : W) : Eff :=
  let g := i.gid
  let n := stSize m.sz
  let rd : Rd := { w := w0, i := i }
  let cls := if f.space = .remote then OpClass.co else .st
  if w0.countFull g cls then Eff.allFault w0 es Cause.counterOverflow
  else if f.space = .remote then remStore m.rp n f i es w0
  else
    let x := accCtx i es f m.rp
    let (w, op) := (w0.before g f.ord).newOp
      { gid := g, cls := .st, iaddr := i.pc, kind := .store, scope := f.scope }
    let (w, rs) := accEach w es fun w l =>
      match w0.target g f.space f.tdi.toNat (rd.ea f l) n true with
      | .error (c, a) => (w, .bad c a)
      | .ok t =>
        if strictBad f (tgtAddr t) n then (w, .bad Cause.misalignedStrict (rd.ea f l))
        else w.laneWrite x op l t (rd.bytes f.c n l)
    let done := accDone rs
    let w := if f.ord = .str then w.drainAll g else w
    let w := (w.stEnd g op (!done.isEmpty || !(accFaults rs).isEmpty)).putRp g m.rp
      (done.map fun e => (e.1, e.2.2))
    { w := w, faults := accFaults rs, parks := accWaits rs }

def execSt (m : StM) (f : MemF) : State → Out1 := run f.g (stBody m f)

/-- LDU (10 R265). -/
def execLdu (m : LdM) (f : MemF) : State → Out1 :=
  onceOp f.g fun rd es w0 =>
    let i := rd.i
    let g := i.gid
    let n := ldSize m.sz
    if w0.countFull g .ld then Eff.allFault w0 es Cause.counterOverflow
    else match w0.target g f.space f.tdi.toNat (rd.ea f 0) n false with
      | .error (c, a) => Eff.allFault w0 es c a
      | .ok t =>
        if strictBad f (tgtAddr t) n then Eff.allFault w0 es Cause.misalignedStrict (rd.ea f 0)
        else match (w0.before g f.ord).laneRead (accCtx i es f m.rp) t n with
          | (w, .bad c a) =>
            let e := Eff.allFault w es c a
            { e with w := w.countLd g i e.faults }
          | (w, .wait k) => { w := w, parks := es.map fun l => (l, k) }
          | (w, .ok bs nr) =>
            let w := w.countReads (w.group g).team (spSlots [t] n)
            let w := w.after g f.ord (accScope f)
            let (w, op) := w.newOp { gid := g, cls := .ld, iaddr := i.pc, kind := .load, done := true }
            let w := w.openPend i op f.x.toNat es [] (runS f.d (ldRegs m.sz)) (rpOf m.rp)
            { w := w.giveLanes op [(0, ldWords m.sz (padTo n bs))] (es.map fun l => (l, nr)) }

/-- USTO (10 R265). -/
def execUsto (m : StM) (f : MemF) : State → Out1 :=
  onceOp f.g fun rd es w0 =>
    let i := rd.i
    let g := i.gid
    let n := stSize m.sz
    if w0.countFull g .st then Eff.allFault w0 es Cause.counterOverflow
    else match w0.target g f.space f.tdi.toNat (rd.ea f 0) n true with
      | .error (c, a) => Eff.allFault w0 es c a
      | .ok t =>
        if strictBad f (tgtAddr t) n then Eff.allFault w0 es Cause.misalignedStrict (rd.ea f 0)
        else
          let (w, op) := (w0.before g f.ord).newOp
            { gid := g, cls := .st, iaddr := i.pc, kind := .store, scope := f.scope }
          match w.laneWrite (accCtx i es f m.rp) op 0 t (rd.bytes f.c n 0) with
          | (w, .bad c a) => Eff.allFault (w.stEnd g op true) es c a
          | (w, .wait k) => { w := w.stEnd g op false, parks := es.map fun l => (l, k) }
          | (w, .ok _ nr) =>
            let w := if f.ord = .str then w.drainAll g else w
            { w := (w.stEnd g op true).putRp g m.rp (es.map fun l => (l, nr)) }

/-! ## LDT, STT (10 R266) -/

/-- The coordinates that a lane names. -/
def Rd.coords (r : Rd) (o : Opnd) (n l : Nat) : List Nat :=
  (List.range n).map fun k => (r.run o k l).toNat

/-- One lane's element of LDT: the FP32 word, its flags, and whether the page was not resident. -/
inductive LdtRes where
  | ok (x : Word) (fl : BitVec 5) (nr : Bool)
  | wait (wk : Wake)
  | bad (cause addr : Nat)
  deriving DecidableEq, Repr

/-- Reads one element as FP32 in rne. -/
def W.ldtLane (w : W) (x : AccCtx) (d : Td) (ix : List Nat) (trap : Bool) : W × LdtRes :=
  if !tdInside d ix then
    (w, if tdClamp d then .ok 0 0 false else .bad Cause.tdBounds (tdAddr d ix))
  else match w.eRead x d [] ix with
    | (w, _, .nonres v) => (w, if x.rp then .ok 0 0 true else .bad Cause.pageNotPresent v)
    | (w, _, .wait k) => (w, .wait k)
    | (w, _, .bad c v) => (w, .bad c v)
    | (w, _, .ok v _ _) =>
      let c := writeWide fp32 (w.ftz x.g) .rne 0 v
      match if trap then trapCause (w.fpctl x.g) c.flags else none with
      | some k => (w.orFlags x.g c.flags, .bad k 0)
      | none => (w, .ok (BitVec.ofNat 32 c.code) c.flags false)

/-- LDT. -/
def execLdt (m : Rp) (f : MemF) : State → Out1 :=
  run f.g fun i es w0 =>
    let g := i.gid
    let d := w0.td (w0.group g).asid f.tdi.toNat
    let rd : Rd := { w := w0, i := i }
    if w0.countFull g .ld then Eff.allFault w0 es Cause.counterOverflow
    else if !w0.tdTensor d then Eff.allFault w0 es Cause.tdInvalid
    else if !w0.runIn g f.a (tdNdim d) then Eff.allFault w0 es Cause.illegalOperand
    else
      let x := accCtx i es f m
      let unit := (tdCont d).unit
      let (w, rs) := es.foldl (fun (r : W × List (Nat × LdtRes)) l =>
        let ix := rd.coords f.a (tdNdim d) l
        let (w, a) := if tdInside d ix && strictBad f (tdAddr d ix) unit then
            (r.1, LdtRes.bad Cause.misalignedStrict (tdAddr d ix))
          else r.1.ldtLane x d ix true
        (w, r.2 ++ [(l, a)])) (w0.before g f.ord, [])
      let w := w.after g f.ord f.scope
      let done := rs.filterMap fun r => match r.2 with
        | .ok v fl nr => some (r.1, v, fl, nr)
        | _ => none
      let faults : List LFault := rs.filterMap fun r => match r.2 with
        | .bad c a => some { lane := r.1, cause := c, addr := a }
        | _ => none
      let waits := rs.filterMap fun r => match r.2 with
        | .wait k => some (r.1, k)
        | _ => none
      let w := w.orFlags g (done.foldl (fun x e => x ||| e.2.2.1) 0)
      if done.isEmpty then { w := w.countLd g i faults, faults := faults, parks := waits }
      else
        let (w, op) := w.newOp { gid := g, cls := .ld, iaddr := i.pc, kind := .load, done := true }
        let w := w.openPend i op f.x.toNat (done.map Prod.fst) (runV f.d 1) [] (rpOf m)
        let w := w.giveLanes op (done.map fun e => (e.1, [e.2.1])) (done.map fun e => (e.1, e.2.2.2))
        { w := w, faults := faults, parks := waits }

/-- Stores one FP32 word as an element: its flags come with the result; `trap` lets conditions trap. -/
def W.sttLane (w : W) (x : AccCtx) (op l : Nat) (d : Td) (ix : List Nat) (v : Word) (r : Nat)
    (trap : Bool) : W × LaneAcc × BitVec 5 :=
  if !tdInside d ix then
    (w, if tdClamp d then .ok [] false else .bad Cause.tdBounds (tdAddr d ix), 0)
  else
    let fv := readWide fp32 (w.ftz x.g) v.toNat
    let stop := fun (fl : BitVec 5) => if trap then trapCause (w.fpctl x.g) fl else none
    let gone := fun (v : Nat) => if x.rp then LaneAcc.ok [] true else .bad Cause.pageNotPresent v
    if tdType d = 1 then
      match w.kvEncode x.g d [] ix r fv with
      | (w, _, .nonres v) => (w, gone v, 0)
      | (w, _, .bad c v) => (w, .bad c v, 0)
      | (w, _, .ok y) => match y.bind fun e => (stop e.2.flags).map fun k => (k, e.2.flags) with
        | some (k, fl) => (w.orFlags x.g fl, .bad k 0, 0)
        | none => match w.kvPut x.g y with
          | (w, .ok fl) => (w, .ok [] false, fl)
          | (w, .nonres v) => (w, gone v, 0)
          | (w, .bad c v) => (w, .bad c v, 0)
    else
      let c := tdEncode d r fv
      match stop c.flags with
      | some k => (w.orFlags x.g c.flags, .bad k 0, 0)
      | none =>
        let (w, a) := w.eWrite x op l d ix c.code
        (w, a, c.flags)

/-- Lanes stored element by element, in ascending order. -/
def sttEach (w : W) (xs : List (Nat × List Nat × Word × Nat)) (k : W → Nat → List Nat → Word → Nat →
    W × LaneAcc × BitVec 5) : W × List (Nat × LaneAcc) × BitVec 5 :=
  xs.foldl (fun (r : W × List (Nat × LaneAcc) × BitVec 5) e =>
    let (w, a, fl) := k r.1 e.1 e.2.1 e.2.2.1 e.2.2.2
    (w, r.2.1 ++ [(e.1, a)], r.2.2 ||| fl)) (w, [], 0)

/-- Whether a format can be the destination of a conversion element by element. -/
def convTarget (fmt : Nat) : Bool := !fmtMx fmt && fmt ≠ 0x0C

/-- STT. -/
def execStt (m : Rp) (f : MemF) : State → Out1 :=
  run f.g fun i es w0 =>
    let g := i.gid
    let d := w0.td (w0.group g).asid f.tdi.toNat
    let rd : Rd := { w := w0, i := i }
    if w0.countFull g .st then Eff.allFault w0 es Cause.counterOverflow
    else if !w0.tdTensor d then Eff.allFault w0 es Cause.tdInvalid
    else if !w0.runIn g f.a (tdNdim d) then Eff.allFault w0 es Cause.illegalOperand
    else if !convTarget (tdFmt d) then Eff.allFault w0 es Cause.formatInvalid
    else
      let x := accCtx i es f m
      let unit := (tdCont d).unit
      let (w, op) := (w0.before g f.ord).newOp
        { gid := g, cls := .st, iaddr := i.pc, kind := .store, scope := f.scope }
      let (w, rs, fl) := sttEach w
        (es.map fun l => (l, rd.coords f.a (tdNdim d) l, rd.word f.c l, w0.draw g l (4 * l)))
        fun w l ix v r =>
          if tdInside d ix && strictBad f (tdAddr d ix) unit then
            (w, .bad Cause.misalignedStrict (tdAddr d ix), 0)
          else w.sttLane x op l d ix v r true
      let done := accDone rs
      let w := w.orFlags g fl
      let w := if tdRnd d = .sr then done.foldl (fun w e => w.bumpSeq g e.1) w else w
      let w := if f.ord = .str then w.drainAll g else w
      let w := (w.stEnd g op (!done.isEmpty || !(accFaults rs).isEmpty)).putRp g m
        (done.map fun e => (e.1, e.2.2))
      { w := w, faults := accFaults rs, parks := accWaits rs }

/-! ## GATH, SCAT (10 R267, R268) -/

/-- GATH: each lane reads its elements, in ascending order and all of them when it issues; a lane that
faults leaves, and its registers are unwritten. The progress index has so passed every executing lane
before anything can stop the operation (10 R268; log entry 17). -/
def execGath (m : GathM) (f : MemF) : State → Out1 :=
  run f.g <| popBody [f.a] fun rd es w0 =>
    let i := rd.i
    let g := i.gid
    let n := m.n1.toNat + 1
    let d := w0.td (w0.group g).asid f.tdi.toNat
    if w0.countFull g .ga then Eff.allFault w0 es Cause.counterOverflow
    else if !w0.tdTensor d || tdNdim d ≠ 2 then Eff.allFault w0 es Cause.tdInvalid
    else
      let x := accCtx i es f m.rp
      let lane := fun (w : W) (l : Nat) =>
        (List.range n).foldl (fun (r : W × Option (Nat × Nat) × List Word × BitVec 5 × Bool) j =>
          match r with
          | (w, some e, xs, fl, nr) => (w, some e, xs, fl, nr)
          | (w, none, xs, fl, nr) =>
            let ix := [(rd.word f.a l).toNat + j, (rd.word f.b l).toNat]
            let (w, res) := if tdInside d ix && strictBad f (tdAddr d ix) (tdCont d).unit then
                (w, LdtRes.bad Cause.misalignedStrict (tdAddr d ix))
              else w.ldtLane x d ix false
            match res with
            | .ok v fl2 nr2 => (w, none, xs ++ [v], fl ||| fl2, nr || nr2)
            | .bad c a => (w, some (c, a), xs, fl, nr)
            | .wait _ => (w, none, xs ++ [0], fl, nr)) (w, none, [], 0, false)
      let (w, outs) := es.foldl (fun (r : W × List (Nat × Option (Nat × Nat) × List Word × BitVec 5 × Bool)) l =>
        let (w, e, xs, fl, nr) := lane r.1 l
        (w, r.2 ++ [(l, e, xs, fl, nr)])) ((w0.before g f.ord).after g f.ord f.scope, [])
      let faults : List LFault := outs.filterMap fun o => o.2.1.map fun e =>
        { lane := o.1, cause := e.1, addr := e.2 }
      let good := outs.filter fun o => o.2.1.isNone
      let fl := good.foldl (fun x o => x ||| o.2.2.2.1) 0#5
      let (w, op) := w.newOp
        { gid := g, cls := .ga, iaddr := i.pc, kind := .gath es.length, done := true, scope := f.scope,
          flags := fl }
      if good.isEmpty then { w := w, faults := faults }
      else
        let w := w.openPend i op f.x.toNat (good.map Prod.fst) (runV f.d n) [] (rpOf m.rp)
        let w := w.giveLanes op (good.map fun o => (o.1, o.2.2.1)) (good.map fun o => (o.1, o.2.2.2.2))
        { w := w, faults := faults }

/-- SCAT: lanes write their elements in ascending order; the writes are performed by retirement. DEDUCED:
every element of a lane draws with k = lane × 4, as it is treated by 10 R266 (log entry 17). -/
def execScat (m : GathM) (f : MemF) : State → Out1 :=
  run f.g <| popBody [f.a] fun rd es w0 =>
    let i := rd.i
    let g := i.gid
    let n := m.n1.toNat + 1
    let d := w0.td (w0.group g).asid f.tdi.toNat
    if w0.countFull g .ga then Eff.allFault w0 es Cause.counterOverflow
    else if !w0.tdTensor d || tdNdim d ≠ 2 then Eff.allFault w0 es Cause.tdInvalid
    else if !convTarget (tdFmt d) then Eff.allFault w0 es Cause.formatInvalid
    else
      let x := accCtx i es f m.rp
      let w := if f.ord = .rel || f.ord = .str then w0.releaseAt g f.scope else w0
      let (w, op) := w.newOp { gid := g, cls := .ga, iaddr := i.pc, kind := .scat es.length, scope := f.scope }
      let (w, rs, fl) := es.foldl (fun (r : W × List (Nat × LaneAcc) × BitVec 5) l =>
        let start := r.1
        let out := (List.range n).foldl (fun (q : W × LaneAcc × BitVec 5) j =>
          match q with
          | (w, .ok _ nr, fl) =>
            let ix := [(rd.word f.a l).toNat + j, (rd.word f.b l).toNat]
            if tdInside d ix && strictBad f (tdAddr d ix) (tdCont d).unit then
              (w, .bad Cause.misalignedStrict (tdAddr d ix), fl)
            else
              let (w, a, fl2) := w.sttLane x op l d ix (rd.run f.c j l) (w0.draw g l (4 * l)) false
              match a with
              | .ok _ nr2 => (w, .ok [] (nr || nr2), fl ||| fl2)
              | a => (w, a, fl)
          | q => q) (r.1, LaneAcc.ok [] false, 0#5)
        match out with
        | (w, .ok bs nr, fl2) => (w, r.2.1 ++ [(l, .ok bs nr)], r.2.2 ||| fl2)
        | (_, a, _) => (start, r.2.1 ++ [(l, a)], r.2.2)) (w, [], 0#5)
      let done := accDone rs
      let w := if tdRnd d = .sr then done.foldl (fun w e => w.bumpSeq g e.1) w else w
      let w := w.modOp op fun o => { o with flags := fl }
      let w := (w.stEnd g op (!done.isEmpty || !(accFaults rs).isEmpty)).putRp g m.rp
        (done.map fun e => (e.1, e.2.2))
      { w := w, faults := accFaults rs, parks := accWaits rs }

/-! ## CSTORE (10 R269) -/

/-- CSTORE: the data of the chosen lanes at consecutive addresses up to the first element on a page that
is not resident. -/
def execCstore (m : CstM) (f : MemF) : State → Out1 :=
  run f.g fun i es w0 =>
    let g := i.gid
    let a := (w0.group g).asid
    let n := if m.wid = .b64 then 8 else 4
    let rd : Rd := { w := w0, i := i }
    if w0.countFull g .st then Eff.allFault w0 es Cause.counterOverflow
    else
      let x := accCtx i es f m.rp
      let cohere := fun (w : W) (sp : Nat × Nat) (v : Nat) (tenter skipped : Bool) =>
        match w.cohere x sp v n true tenter with
        | (w, some r) => (w, r)
        | (w, none) => (w, LaneAcc.ok [] skipped)
      let ks := es.filter fun l => rd.word f.b l ≠ 0
      let base := (rd.pair f.a 0 + f.ofs.signExtend 64).toNat
      let (w, chk) := accEach (w0.before g f.ord) (List.range ks.length) fun w k =>
        let ea := (base + n * k) % 2 ^ 64
        match w0.target g f.space f.tdi.toNat ea n true with
        | .error (c, v) => (w, .bad c v)
        | .ok t =>
          if strictBad f (tgtAddr t) n then (w, .bad Cause.misalignedStrict ea)
          else match t with
            | .va v => match w.prep a v n x.rp with
              | (w, .ok skip) => cohere w (0, a) v true !skip.isEmpty
              | (w, .nonres v) => (w, .bad Cause.pageNotPresent v)
              | (w, .bad c v) => (w, .bad c v)
            | .ap k o => cohere w (1, k) o false false
            | .sp o => match w.spGate g (w.group g).team o n es with
              | (w, some r) => (w, r)
              | (w, none) => (w, .ok [] false)
            | _ => (w, .ok [] false)
      match accFaults chk, accWaits chk with
      | e :: _, _ => Eff.allFault w es e.cause e.addr
      | [], k :: _ => { w := w, parks := es.map fun l => (l, k.2) }
      | [], [] =>
        let mcount := match (accDone chk).find? fun e => e.2.2 with
          | some e => e.1
          | none => ks.length
        let (w, op) := w.newOp { gid := g, cls := .st, iaddr := i.pc, kind := .store, scope := f.scope }
        let checked := w
        let (w, rs) := accEach w (List.range mcount) fun w k =>
          match w0.target g f.space f.tdi.toNat ((base + n * k) % 2 ^ 64) n true with
          | .error (c, v) => (w, .bad c v)
          | .ok t => w.laneWrite { x with again := true } op (ks.getD k 0) t (rd.bytes f.c n (ks.getD k 0))
        match accFaults rs with
        | e :: _ => Eff.allFault (({ w with c.eng.sq := checked.c.eng.sq }).stEnd g op true) es e.cause e.addr
        | [] =>
          let w := if f.ord = .str then w.drainAll g else w
          let w := (w.stEnd g op true).dst i f.d 0 [BitVec.ofNat 32 mcount]
          let left := ks.drop mcount
          { w := w.putRp g m.rp (es.map fun l => (l, left.contains l)) }

/-! ## PREF, RESREQ, RESQ (10 R270–R272) -/

/-- PREF: a hint; what it brings into a cache changes no value (10 R270). -/
def execPref (m : PrefM) (f : MemF) : State → Out1 :=
  run f.g fun i es w0 =>
    let rd : Rd := { w := w0, i := i }
    let gr := w0.group i.gid
    { w := es.foldl (fun w l =>
        let ea := rd.ea f l
        if 2 ^ 56 ≤ ea then w.hintDrop gr.asid
        else
          let go := fun (w : W) => match m.lvl with
            | .l1 => w.fetch1 gr.core gr.asid ea
            | .l2 => w.fetch2 gr.asid ea
            | .l3 => match w.xlate gr.asid ea .read (w.needU gr.asid) with
              | (w, .ok p) => (w.reach3 gr.asid (p.pa ea) (p.tier = 1), .ok ())
              | (w, .bad c v) => (w, .bad c v)
              | (w, .nonres v) => (w, .nonres v)
          let reps := w.c.sys.reps
          let (w, r) := match go w with
            | (w, .ok ()) => if m.wr then w.upgrade2 gr.asid ea else (w, .ok ())
            | r => r
          match r with
          | .ok () => w
          | .bad c _ =>
            let w := { w with c.sys.reps := reps }
            if c = Cause.memPoison || c = Cause.memUncorrectable then w else w.hintDrop gr.asid
          | .nonres _ => w.hintDrop gr.asid) w0 }

/-- RESREQ: one residency request for each lane, or one (10 R271). -/
def execResreq (f : MemF) : State → Out1 :=
  run f.g fun i es w0 =>
    let rd : Rd := { w := w0, i := i }
    let gr := w0.group i.gid
    let one := fun (w : W) (l : Nat) =>
      let ea := rd.ea f l
      if 2 ^ 56 ≤ ea then (w, LaneAcc.bad Cause.addressNoncanonical ea)
      else match w.request gr.core gr.asid ea with
        | (w, .ok st) => (w, .ok (leBytes 4 st) false)
        | (w, .bad c v) => (w, .bad c v)
        | (w, .nonres v) => (w, .bad Cause.pageNotPresent v)
    match f.d with
    | .s _ => match one w0 0 with
      | (w, .ok bs _) => { w := (w.lateResult i f.x.toNat es f.d 1 [(0, wordsOf 1 bs)] none []) }
      | (w, .bad c v) => Eff.allFault w es c v
      | (w, .wait _) => { w := w }
    | _ =>
      let (w, rs) := accEach w0 es one
      let done := accDone rs
      let w := if done.isEmpty then w else
        w.lateResult i f.x.toNat (done.map Prod.fst) f.d 1 (done.map fun e => (e.1, wordsOf 1 e.2.1)) none []
      { w := w, faults := accFaults rs }

/-- Whether the filter of a core holds the page of an address (10 R272). -/
def W.inFilter (w : W) (core a va : Nat) : Bool :=
  va < 2 ^ 56 && ((aget w.c.cch.filter core).getD []).contains (a, va / 65536)

/-- RESQ (10 R272). -/
def execResq (f : Alu) : State → Out1 :=
  let v := fun (r : Rd) (l : Nat) =>
    wordOfBool (r.w.inFilter (r.w.group r.i.gid).core (r.w.group r.i.gid).asid (r.pair f.a l).toNat)
  match f.d with
  | .s _ => onceOp f.g fun r _ w => { w := w.dst r.i f.d 0 [v r 0] }
  | _ => lane1 f v

/-! ## FENCE, CFLUSH, CINV (10 R274, R275) -/

/-- The group's last remote operation that has not retired. -/
def W.lastRemote (w : W) (g : Nat) : Option (Nat × Op) :=
  (w.c.eng.ops.filter fun e => e.2.gid = g && e.2.kind = .remote).getLast?

/-- FENCE: a release performs the group's stores and writes back, and waits for its remote accesses; an
acquire invalidates (10 R274). -/
def execFence (f : MemF) : State → Out1 :=
  onceOp f.g fun r es w =>
    let g := r.i.gid
    let t := (w.group g).team
    let rel := f.ord = .rel || f.ord = .str
    let acq := f.ord = .acq || f.ord = .str
    let w := if rel then w.releaseAt g f.scope else w
    let w := if acq then w.acquireAt g f.scope else w
    let watch := w.tenterOn (w.group g).asid && 2 ≤ scopeLevel f.scope
    let w := if watch && acq then w.clkJoin 0 t (w.clkVec 1 t) else w
    let w := if watch && rel then
        let (w, v) := w.clkRelease t
        w.clkJoin 2 t v
      else w
    match (if rel then w.lastRemote g else none) with
    | none => { w := w }
    | some (id, o) =>
      let w := w.openPend r.i id 0 es [] [] none (fence := true)
      { w := if o.done then w.giveResult id fun p => p else w }

/-- The L1 lines of a line of a context, in every core, are invalidated. -/
def W.dropAll1 (w : W) (a ln : Nat) : W :=
  { w with c.cch.l1 := w.c.cch.l1.filter fun e => e.1.2 ≠ (a, ln) }

/-- CFLUSH: the dirty sectors of the line below the level of SCOPE are written back, from every core that
holds them (10 R275). -/
def execCflush (m : Bool) (f : MemF) : State → Out1 :=
  run f.g fun i es w0 =>
    let g := i.gid
    let gr := w0.group g
    let rd : Rd := { w := w0, i := i }
    if w0.countFull g .st then Eff.allFault w0 es Cause.counterOverflow
    else
      let bad := es.filter fun l => 2 ^ 56 ≤ rd.ea f l
      let good := es.filter fun l => rd.ea f l < 2 ^ 56
      let w := good.foldl (fun w l =>
        let ln := rd.ea f l / 128
        let lv := scopeLevel f.scope
        let w := if 2 ≤ lv then w.gather1 gr.asid ln else w
        let w := if 3 ≤ lv then w.flush2 gr.asid ln else w
        let w := if m && 2 ≤ lv then w.dropAll1 gr.asid ln else w
        if m && 3 ≤ lv then w.evict2 gr.asid ln else w) (w0.drainAll g)
      let w := (w.newOp { gid := g, cls := .st, iaddr := i.pc, kind := .store, done := true,
                          scope := f.scope }).1
      { w := w, faults := bad.map fun l =>
          { lane := l, cause := Cause.addressNoncanonical, addr := rd.ea f l } }

/-- CINV: the clean sectors of the line in the core's L1 are invalidated at .cl and wider (10 R275). -/
def execCinv (f : MemF) : State → Out1 :=
  run f.g fun i es w0 =>
    let gr := w0.group i.gid
    let rd : Rd := { w := w0, i := i }
    let bad := es.filter fun l => 2 ^ 56 ≤ rd.ea f l
    let good := es.filter fun l => rd.ea f l < 2 ^ 56
    let w := if scopeLevel f.scope < 2 then w0
      else good.foldl (fun w l =>
        let k := (gr.core, gr.asid, rd.ea f l / 128)
        match aget w.c.cch.l1 k with
        | none => w
        | some x =>
          let sv := (List.range 4).foldl (fun m s =>
            if bits x.wr (32 * s) 32 ≠ 0 && x.sv.testBit s then m + 2 ^ s else m) 0
          if x.wr = 0 then { w with c.cch.l1 := adel w.c.cch.l1 k }
          else { w with c.cch.l1 := aset w.c.cch.l1 k { x with sv := sv } }) w0
    { w := w, faults := bad.map fun l =>
        { lane := l, cause := Cause.addressNoncanonical, addr := rd.ea f l } }

/-! ## WAITC (10 R280, R281) -/

/-- Faults recorded with operations of a class that all but the `n` most recent cover. -/
def W.covered (w : W) (g : Nat) (c : OpClass) (n : Nat) : List Late :=
  let total := w.total g c
  (w.group g).deferred.filter fun d => d.cls = some c && d.no + n < total

/-- WAITC. -/
def execWaitc (m : OpClass) (f : Alu) : State → Out1 :=
  onceOp f.g fun r es w =>
    let g := r.i.gid
    let n := (r.b f 0).toNat
    let total := w.total g m
    let susp := if m = .mx then (w.suspended g).find? fun e => e.2.1.no + n < total else none
    if 63 < n then Eff.allFault w es Cause.illegalOperand
    else if let some e := susp then { w := w.raiseSusp r.i es e, leaves := true }
    else if n < w.count g m then { w := w, park := some (.counter n m) }
    else match w.covered g m n with
      | [] => { w := w }
      | d :: ds =>
        let all := d :: ds
        let w := w.modGroup g fun x =>
          { x with deferred := x.deferred.filter fun e => !all.contains e }
        let low := (minBy (fun (e : Late) => e.no) all).getD d
        Eff.allFault w es low.cause low.addr

/-! ## TDSET, TDGET (10 R282) -/

/-- TDSET. -/
def execTdset (f : MemF) : State → Out1 :=
  onceOp f.g fun r _ w =>
    let g := r.i.gid
    let a := (w.group g).asid
    let w := if f.ord = .rel then w.releaseAt g f.scope else w
    let x := (List.range 16).foldl (fun (x : Nat) k => x + (r.run f.c k 0).toNat * 2 ^ (32 * k)) 0
    { w := { w with c.sys.td := aset w.c.sys.td (a, f.tdi.toNat) (BitVec.ofNat 512 x) } }

/-- TDGET. -/
def execTdget (f : MemF) : State → Out1 :=
  onceOp f.g fun r es w =>
    let g := r.i.gid
    let d := w.td (w.group g).asid f.tdi.toNat
    let w := if f.ord = .acq then w.acquireAt g f.scope else w
    let xs := (List.range 16).map fun k => BitVec.ofNat 32 (tdF d (32 * k) 32)
    { w := w.lateResult r.i f.x.toNat es f.d 16 [(0, xs)] none [] }

/-! ## Events of the store queue and of the caches (09 R237, R239, 11 R286) -/

/-- STORE_QUEUE_DRAIN: the oldest store of a group's queue is performed. -/
def execStoreQueueDrain (group : Nat) (s : State) : Out1 := step1 (fun w => w.drainOne group) s

/-- LINE_EVICTION: dirty sectors are written to the next level and the line leaves (09 R239). -/
def execLineEviction (l2 : Bool) (core asid line : Nat) (s : State) : Out1 :=
  step1 (fun w =>
    if l2 then w.evict2 asid line
    else (w.flush1 core asid line).drop1 core asid line) s

/-- UPGRADE_ANSWER: level 3 gives a line of a core the write permission, or refuses it (09 R237). -/
def execUpgradeAnswer (core asid line : Nat) (s : State) : Out1 :=
  step1 (fun w => match aget w.c.cch.l1 (core, asid, line) with
    | none => w
    | some l => match w.upgrade2 asid (line * 128) with
      | (w, .ok ()) =>
        { w with c.cch.l1 := aset w.c.cch.l1 (core, asid, line) { l with pw := true } }
      | (w, _) => w) s

end Sys2Proof.Machine
end

