-- ==== Sys2Proof/Machine/Atomics.lean ====
section
/-! DEFINITION. Atomics in every space, and the staging of contributions in deterministic grids
(10 R276–R279, 16 R398, R399). -/

namespace Sys2Proof.Machine

/-- One lane's step: the new bytes for the old ones, none when nothing is written. -/
abbrev AStep := List Byte → Option (List Byte)

/-- Whether a page lies in the second tier (09 R256). -/
def W.secondTier (w : W) (a va : Nat) : Bool :=
  match w.findPage a va with
  | (_, .ok p) => p.tier = 1
  | _ => false

/-- Bytes with those at the offsets named taken from `fs`. -/
def mixIn (is : List Nat) (fs bs : List Byte) : List Byte :=
  if is.isEmpty then bs else bs.zipIdx.map fun e => if is.contains e.2 then fs.getD e.2 e.1 else e.1

/-- A step on bytes some of which hold free values, before it and after it (11 R295). -/
def mixStep (is : List Nat) (fs : List Byte) (k : AStep) : AStep := fun old =>
  match k (mixIn is fs old) with
  | some new => some (mixIn is fs new)
  | none => if is.isEmpty then none else some (mixIn is fs old)

/-- What an atomic that meets a page that is not resident gives (09 R245). -/
def AccCtx.away (x : AccCtx) (n v : Nat) : LaneAcc :=
  if x.rp then .ok (List.replicate n 0) true else .bad Cause.pageNotPresent v

/-- One atomic step of a lane outside the remote space (10 R277, R279); a mailbox's is performed at system
scope (09 R234). -/
def W.atomLane (w : W) (x : AccCtx) (t : Tgt) (n : Nat) (k : AStep) : W × LaneAcc :=
  let gr := w.group x.g
  let unsup := fun (w : W) (a : Nat) => (w, LaneAcc.bad Cause.atomicUnsupported a)
  match t with
  | .konst a => unsup w a
  | .va a =>
    if a % n ≠ 0 then (w, .bad Cause.misalignedAtomic a)
    else if n = 16 && w.secondTier gr.asid a then unsup w a
    else match w.prep gr.asid a n with
      | (w, .bad c v) => (w, .bad c v)
      | (w, .nonres v) => (w, x.away n v)
      | (w, .ok (v :: _)) => (w, x.away n v)
      | (w, .ok []) => match w.cohere x (0, gr.asid) a n true with
        | (w, some r) => (w, r)
        | (w, none) =>
          let (w, fs, is) := w.meet x (0, gr.asid) a true (List.replicate n 0)
          let w := if x.rel then w.releaseAt x.g x.scope else w
          let w := if is.isEmpty then w else w.freeQueued a gr.asid is fs
          let (w, r) := w.rmw gr.core gr.asid x.scope a n (mixStep is fs k)
          match r with
          | .ok old => (w.tenterClock x.g a true true x.ord x.scope, .ok (mixIn is fs old) false)
          | .nonres v => (w, x.away n v)
          | .bad c v => (w, .bad c v)
  | .sp o =>
    if o % n ≠ 0 then (w, .bad Cause.misalignedAtomic o)
    else match w.spGate x.g gr.team o n x.es with
      | (w, some r) => (w, r)
      | (w, none) =>
        let old := w.spBytes gr.team o n
        match k old with
        | some new => (w.spStore gr.team o new, .ok old false)
        | none => (w, .ok old false)
  | .mb a =>
    if a % n ≠ 0 then (w, .bad Cause.misalignedAtomic a)
    else if n = 16 then unsup w a
    else match w.cohere x (0, gr.asid) a n true false with
      | (w, some r) => (w, r)
      | (w, none) =>
        let w := if x.rel then w.releaseAt x.g .sys else w
        match w.read3 gr.asid a n (w.needU gr.asid) with
        | (w, .nonres v) => (w, x.away n v)
        | (w, .bad c v) => (w, .bad c v)
        | (w, .ok old) =>
          let (w', fs, is) := w.meet x (0, gr.asid) a true (List.replicate n 0)
          match w'.write3va gr.asid a ((mixStep is fs k old).getD old) (w.needU gr.asid) with
          | (w, .ok ()) => (w, .ok (mixIn is fs old) false)
          | (w', .nonres v) => ({ w' with c.cch.strong := w.c.cch.strong }, x.away n v)
          | (w', .bad c v) => ({ w' with c.cch.strong := w.c.cch.strong }, .bad c v)
  | .ap m o =>
    if aprXf (w.aprCtl m) ≠ 1 then unsup w o
    else if o % n ≠ 0 then (w, .bad Cause.misalignedAtomic o)
    else match w.cohere x (1, m) o n true false with
      | (w, some r) => (w, r)
      | (w, none) =>
        let w := if x.rel then w.releaseAt x.g x.scope else w
        match w.aprRead m o n with
        | (w, .ok old) =>
          let (w, fs, is) := w.meet x (1, m) o true (List.replicate n 0)
          (match mixStep is fs k old with
            | some new => w.aprWrite gr.asid m o new
            | none => w, .ok (mixIn is fs old) false)
        | (w, .nonres v) => (w, .bad Cause.pageNotPresent v)
        | (w, .bad c v) => (w, .bad c v)
  | .rem _ _ => (w, .ok [] false)
  | .none_ => (w, .ok (List.replicate n 0) false)

/-- What an atomic instruction does in each lane. -/
structure AtomI where
  rp : Rp
  n : Nat
  /-- whether the old value is returned, and the registers it takes -/
  ret : Bool
  sz : LdSz
  /-- the step of a lane, and its request in the remote space -/
  step : Rd → Nat → AStep
  req : Rd → Nat → RemReq

/-- The body of an atomic (10 R277): every earlier store of the group is performed first (11 R286). -/
def atomBody (m : AtomI) (f : MemF) (i : Issue) (es : List Nat) (w0 : W) : Eff :=
  let g := i.gid
  let rd : Rd := { w := w0, i := i }
  let cls := if f.space = .remote then OpClass.co else if m.ret then .ld else .st
  if w0.countFull g cls then Eff.allFault w0 es Cause.counterOverflow
  else if f.space = .remote then
    let w := if f.ord = .rel || f.ord = .str then w0.releaseAt g f.scope else w0
    let sup := es.filter fun _ => m.n ≠ 16
    let e := remLoads w i (sup.filter fun l => rd.ea f l % m.n = 0) .co (if m.ret then f.x.toNat else 0)
      m.n m.rp f.d m.sz f.scope f.ord (rd.ea f) (m.req rd) (if m.ret then (m.n + 3) / 4 else 0) (fun _ => false)
    let bad : List LFault :=
      (es.filter fun _ => m.n = 16).map (fun l =>
        { lane := l, cause := Cause.atomicUnsupported, addr := rd.ea f l }) ++
      (sup.filter fun l => rd.ea f l % m.n ≠ 0).map fun l =>
        { lane := l, cause := Cause.misalignedAtomic, addr := rd.ea f l }
    { e with faults := bad ++ e.faults }
  else
    let x := accCtx i es f m.rp true
    -- an atomic through an aperture that is not identity is not supported, whatever it may write (R279)
    let wr := fun l => f.space ≠ .apert || aprXf (w0.aprCtl (bits (rd.ea f l) 56 6)) = 1
    let (w, rs) := accEach (w0.drainAll g) es fun w l =>
      match w0.target g f.space f.tdi.toNat (rd.ea f l) m.n (wr l) with
      | .error (c, a) =>
        (w, .bad (if f.space = .uconst then Cause.atomicUnsupported else c) a)
      | .ok t => w.atomLane x t m.n (m.step rd l)
    let done := accDone rs
    let w := w.after g f.ord (accScope f)
    if done.isEmpty && (accFaults rs).isEmpty then { w := w, parks := accWaits rs }
    else
      let (w, op) := w.newOp
        { gid := g, cls := cls, iaddr := i.pc, kind := if m.ret then .load else .store, done := true
          scope := f.scope }
      let w := if m.ret && !done.isEmpty then
          (w.openPend i op f.x.toNat (done.map Prod.fst) (runV f.d ((m.n + 3) / 4)) [] (rpOf m.rp)).giveLanes
            op (done.map fun e => (e.1, wordsOf ((m.n + 3) / 4) e.2.1)) (done.map fun e => (e.1, e.2.2))
        else w.putRp g m.rp (done.map fun e => (e.1, e.2.2))
      { w := w, faults := accFaults rs, parks := accWaits rs }

/-- The load size of an atomic's returned value. -/
def atomSz (n : Nat) : LdSz := if n = 16 then .b128 else if n = 8 then .b64 else .b32

/-- ATOM and ARED as steps. -/
def atomI (m : AtomM) (f : MemF) (ret : Bool) : AtomI :=
  let n := atomW m.ty
  { rp := m.rp, n := n, ret := ret, sz := atomSz n
    step := fun r l old => some (leBytes n (atomNew m.op m.ty (leNat old) (leNat (r.bytes f.c n l))))
    req := fun r l => { noReq (.atom m.op m.ty) with data := r.bytes f.c n l } }

def execAtom (m : AtomM) (f : MemF) : State → Out1 := run f.g (atomBody (atomI m f true) f)
def execAred (m : AtomM) (f : MemF) : State → Out1 := run f.g (atomBody (atomI m f false) f)

/-- The width of ACAS. -/
def casW : CasT → Nat
  | .b32 => 4 | .b64 => 8 | .b128 => 16

/-- The new value of ACAS: the run above the compare value. -/
def Rd.swp (r : Rd) (o : Opnd) (n l : Nat) : List Byte :=
  ((List.range (n / 4)).map fun k => leBytes 4 (r.run o (n / 4 + k) l).toNat).flatten

/-- ACAS. -/
def execAcas (m : CasM) (f : MemF) : State → Out1 :=
  let n := casW m.ty
  run f.g (atomBody
    { rp := m.rp, n := n, ret := true, sz := atomSz n
      step := fun r l old => if old = r.bytes f.c n l then some (r.swp f.c n l) else none
      req := fun r l => { noReq .cas with data := r.bytes f.c n l, swp := r.swp f.c n l } } f)

/-- AFADD. -/
def execAfadd (m : AfaddM) (f : MemF) : State → Out1 :=
  run f.g (atomBody
    { rp := m.rp, n := 4, ret := true, sz := .b32
      step := fun r l old => some (leBytes 4 (faddNew m.ty (leNat old) (r.word f.c l).toNat))
      req := fun r l => { noReq (.fadd m.ty) with data := r.bytes f.c 4 l } } f)

/-- The (sum, comp) pair in 8 bytes after one addition (10 R278, 02 R44). -/
def pairAdd (x : Word) (old : List Byte) : List Byte :=
  let p := neumaier (BitVec.ofNat 32 (fieldLE old 0 4), BitVec.ofNat 32 (fieldLE old 4 4)) x
  leBytes 4 p.1.toNat ++ leBytes 4 p.2.toNat

/-- Whether the pool of a context holds one more staged contribution (16 R399). -/
def W.stageRoom (w : W) (a : Nat) : Bool :=
  let used := ((w.poolUse a).map Prod.snd).sum
  let n := (w.c.syn.staged.map fun e => (e.2.filter fun x => x.asid = a).length).sum
  used + ((n + 1) * 16 + 63) / 64 * 64 + leatReserved ≤ fld (w.srReg a .leatsize) 0 40

/-- Stages a contribution of a team; without room CONT_OVERFLOW is raised once, and it waits in its
engine (16 R398, R399). -/
def W.stage (w : W) (g : Nat) (x : Staged) : W :=
  let gr := w.group g
  let w := if w.stageRoom gr.asid || (w.core gr.core).overflow then w
    else (w.modCore gr.core fun k => { k with overflow := true }).reportCtx gr.asid Cause.contOverflow 2 0
  { w with c.syn.staged := aset w.c.syn.staged gr.grid ((aget w.c.syn.staged gr.grid).getD [] ++ [x]) }

/-- AFADDC: in a deterministic grid a contribution to the global or descriptor-relative space is staged
(16 R398); otherwise it is one atomic step. -/
def execAfaddc (m : Rp) (f : MemF) : State → Out1 :=
  run f.g fun i es w0 =>
    let g := i.gid
    let gr := w0.group g
    let rd : Rd := { w := w0, i := i }
    let k : AtomI :=
      { rp := m, n := 8, ret := false, sz := .b64, step := fun r l old => some (pairAdd (r.word f.c l) old)
        req := fun _ _ => noReq .load }
    if !(w0.grid gr.grid).det || f.space = .scratch then atomBody k f i es w0
    else if w0.countFull g .st then Eff.allFault w0 es Cause.counterOverflow
    else
      let rp := (rpOf m).isSome
      let (w, rs) := accEach (w0.drainAll g) es fun w l =>
        match w0.target g f.space f.tdi.toNat (rd.ea f l) 8 true with
        | .error (c, a) => (w, .bad c a)
        | .ok (.va a) =>
          if a % 8 ≠ 0 then (w, .bad Cause.misalignedAtomic a)
          else match w.prep gr.asid a 8 with
            | (w, .bad c v) => (w, .bad c v)
            | (w, .nonres v) => (w, if rp then .ok [] true else .bad Cause.pageNotPresent v)
            | (w, .ok (v :: _)) => (w, if rp then .ok [] true else .bad Cause.pageNotPresent v)
            | (w, .ok []) =>
              (w.stage g { asid := gr.asid, tlin := (w.team gr.team).tlin, va := a, x := rd.word f.c l,
                           scope := f.scope }, .ok [] false)
        | .ok _ => (w, .ok [] false)
      let done := accDone rs
      let w := (w.newOp { gid := g, cls := .st, iaddr := i.pc, kind := .store, done := true,
                          scope := f.scope }).1
      { w := w.putRp g m (done.map fun e => (e.1, e.2.2)), faults := accFaults rs, parks := accWaits rs }

/-! ## Application (16 R398, 11 R303) -/

/-- One contribution is added to its pair at the home slice. -/
def W.applyOne (w : W) (core : Nat) (x : Staged) : W :=
  (w.rmw core x.asid x.scope x.va 8 fun old => some (pairAdd x.x old)).1

/-- The teams of a grid that are over: those it no longer places or runs, itself or through the team
that withdrew them. -/
def W.teamOver (w : W) (n tlin : Nat) : Bool :=
  let gr := w.grid n
  (gr.shut || gr.placed.contains tlin || gr.withdrawn.contains tlin || gr.discarded.contains tlin)
    && w.c.slu.teams.all fun e => e.2.grid ≠ n || (e.2.tlin ≠ tlin && !e.2.took.contains tlin)

/-- The contributions of the team whose turn it is, by target and then by pattern; the turn goes on. -/
def W.applyTurn (w : W) (n : Nat) : W :=
  let t := (aget w.c.syn.applied n).getD 0
  if (w.grid n).count ≤ t || !w.teamOver n t then w
  else
    let all := (aget w.c.syn.staged n).getD []
    let mine := all.filter fun x => x.tlin = t
    let order := sortBy (fun (x : Staged) => x.va * 2 ^ 32 + x.x.toNat) mine
    let w := order.foldl (fun w x => w.applyOne 0 x) w
    { w with c.syn.staged := aset w.c.syn.staged n (all.filter fun x => x.tlin ≠ t)
             c.syn.applied := aset w.c.syn.applied n (t + 1) }

/-- STAGED_CONTRIBUTION_APPLY: the contributions of the next team in linear order are applied. -/
def execStagedContributionApply (grid : Nat) (s : State) : Out1 := step1 (fun w => w.applyTurn grid) s

/-- BEDSTONE_CONTRIBUTION: one contribution reaches its channel's home slice (02 R44, 11 R303). -/
def execBedstoneContribution (asid va : Nat) (x : Word) (s : State) : Out1 :=
  step1 (fun w => w.applyOne 0
    { asid := asid, tlin := 0, va := va, x := x, scope := .pkg }) s

end Sys2Proof.Machine
end

