-- ==== Sys2Proof/Machine/Approx.lean ====
section
/-! DEFINITION. The approximate functions: an enclosure of the exact value by series in fixed point,
far narrower than any bound of the spec, and a result that is a free value of the part inside that
bound (08 R213–R215, R225, R228; log entry 3). -/

namespace Sys2Proof.Machine

/-! ## Fixed point of 320 fraction bits -/

/-- The fraction bits. -/
def fxP : Nat := 320
/-- 1. -/
def fxOne : Nat := 2 ^ fxP
/-- floor(π · 2^320). -/
def fxPi : Nat := 6710401180212168915155840974220003240804194089427148950727106424351713218671805380099500388914039
/-- floor(ln 2 · 2^320). -/
def fxLn2 : Nat := 1480553391661173448385607439722553250922680800745876974795605978609098082859138712941075737848984

/-- The magnitude of a number in fixed point. -/
def Num.fx (a : Num) : Nat := (a.quot (-320)).1
/-- The number of a fixed-point value. -/
def numFx (x : Int) : Num := { m := x, e := -320 }

/-- 1 − x/d(1) · (1 − x/d(2) · (…)), with `n` terms. -/
def serAlt (d : Nat → Nat) (x : Nat) : Nat → Nat → Nat
  | 0, _ => fxOne
  | n + 1, j => fxOne - x * serAlt d x n (j + 1) / fxOne / d j
/-- 1 + x/d(1) · (1 + x/d(2) · (…)), with `n` terms. -/
def serSum (d : Nat → Nat) (x : Nat) : Nat → Nat → Nat
  | 0, _ => fxOne
  | n + 1, j => fxOne + x * serSum d x n (j + 1) / fxOne / d j
/-- 1 + x/3 + x²/5 + …, with `n` terms. -/
def serAtanh (x : Nat) : Nat → Nat → Nat
  | 0, _ => 0
  | n + 1, j => fxOne / (2 * j + 1) + x * serAtanh x n (j + 1) / fxOne

/-- sin r for a number of magnitude at most 1. -/
def sinNum (r : Num) : Num :=
  r.mul (numFx (serAlt (fun k => 2 * k * (2 * k + 1)) (r.mul r).fx 40 1))
/-- cos r, likewise. -/
def cosNum (r : Num) : Num := numFx (serAlt (fun k => (2 * k - 1) * (2 * k)) (r.mul r).fx 40 1)
/-- 2^q for a fixed-point exponent. -/
def exp2Fx (q : Int) : Num :=
  let n := q / 2 ^ 320
  let x := (q % 2 ^ 320).toNat * fxLn2 / fxOne
  (numFx (serSum id x 80 1)).mul (.pow n)
/-- e^t for a number of magnitude below 2^20. -/
def expNum (t : Num) : Num :=
  let q := ((t.mul (numFx fxOne)).mul (.pow 320)).floor * 2 ^ 320 / fxLn2
  exp2Fx q
/-- log2 of a number m · 2^e that is above 0. -/
def log2Num (b : Num) : Num :=
  let m := b.m.natAbs
  let l := Nat.log2 m
  let z := (m - 2 ^ l) * fxOne / (m + 2 ^ l)
  let ln := 2 * z * serAtanh (z * z / fxOne) 100 0 / fxOne
  (Num.ofInt (b.e + l)).add (numFx (ln * fxOne / fxLn2 : Nat))

/-- floor of the square root of n, from bit k down. -/
def isqrt (n : Nat) : Nat → Nat → Nat
  | 0, a => if (a + 1) * (a + 1) ≤ n then a + 1 else a
  | k + 1, a =>
    let b := a + 2 ^ (k + 1)
    isqrt n k (if b * b ≤ n then b else a)

/-- The square root of a number that is not negative, exact, or with a last place that lies strictly
between the neighbours of 300 or more bits. -/
def sqrtNum (x : Num) : Num × Bool :=
  if x.isZero then (Num.zero, true)
  else
    let e := if x.e % 2 = 0 then x.e else x.e - 1
    let m := if x.e % 2 = 0 then x.m.natAbs else 2 * x.m.natAbs
    let k := 320 + Nat.log2 x.d
    let n := m * 2 ^ (2 * k) / x.d
    let rest := m * 2 ^ (2 * k) % x.d
    let s := isqrt n (Nat.log2 n / 2 + 1) 0
    if rest = 0 && s * s = n then ({ m := s, e := e / 2 - k }, true)
    else ({ m := 2 * s + 1, e := e / 2 - k - 1 }, false)

/-! ## A result inside a bound (08 R213) -/

/-- ulp(y) of a number that is not zero. -/
def ulpOf (y : Num) : Num := .pow (max y.log2 (-126) - 23)

/-- Whether a finite FP32 code lies within a distance of a number and has its sign. A number that stands
for an irrational one is closer to it than any code comes to the bound. -/
def nearCode (c : Nat) (y dist : Num) : Bool :=
  match fp32.dec c with
  | .num n v => n = (y.m < 0) && ((v.sub y).abs).le dist
  | _ => false

/-- The flags of an inexact result, flushed under FTZ. -/
def inexactOut (ftz : Bool) (c : Nat) : Cv :=
  let mag := c % 2 ^ 31
  if mag < 2 ^ 23 then
    { code := if ftz then c - mag else c, flags := flagNX ||| flagUF }
  else { code := c, flags := flagNX }

/-- An approximate result: exact when the value is representable, infinite when it overflows, and else
the part's choice where it lies within the bound of `ulps`, or the nearest value. -/
def approxOut (cand : Word) (ftz : Bool) (ulps : Nat) (y : Num) (exact : Bool) : Cv :=
  if exact then writeWide fp32 ftz .rne 0 (Fv.ofNum y)
  else
    let c := fp32.conv .rne 0 (Fv.ofNum y)
    if c.flags.getLsbD 2 then c
    else
      let dist := (ulpOf y).mul (.ofInt ulps)
      inexactOut ftz (if nearCode cand.toNat y dist then cand.toNat else c.code)

/-! ## The functions (08 R213, R214) -/

inductive Tfn where
  | rcp | rsq | exp2 | log2 | sin | cos | sinpi | cospi | tanh
  deriving DecidableEq, Repr

/-- The number of a function with FTZ, by which the part's choice is named. -/
def Tfn.key (t : Tfn) (ftz : Bool) : Nat :=
  2 * (match t with
    | .rcp => 0 | .rsq => 1 | .exp2 => 2 | .log2 => 3 | .sin => 4
    | .cos => 5 | .sinpi => 6 | .cospi => 7 | .tanh => 8) + if ftz then 1 else 0

/-- The quadrant and the rest of an angle: b = quadrant · π/2 + rest. -/
def reduceAngle (b : Num) : Int × Num :=
  if b.abs.lt (.ofInt 1) then (0, b)
  else
    let x := b.fx
    let k := (4 * x + fxPi) / (2 * fxPi)
    let r : Int := ((2 * x : Nat) : Int) - (k * fxPi : Nat)
    let r : Num := { m := r, e := -321 }
    if b.m < 0 then (-(k : Int), r.neg) else (k, r)

/-- The quadrant and the rest of a number of half turns: b = quadrant / 2 + rest. -/
def reduceTurn (b : Num) : Int × Num :=
  let k := ((b.mul (.ofInt 2)).add (.pow (-1))).floor
  (k % 4, b.sub { m := k, e := -1 })

/-- The sine of an angle of a quadrant and a rest. -/
def sinQuad (k : Int) (r : Num) : Num :=
  match (k % 4).toNat with
  | 0 => sinNum r
  | 1 => cosNum r
  | 2 => (sinNum r).neg
  | _ => (cosNum r).neg

/-- tanh b. -/
def tanhNum (b : Num) : Num :=
  let a := b.abs
  let y := if (Num.ofInt 40).lt a then (Num.ofInt 1).sub (.pow (-110))
    else if a.lt (.pow (-3)) then
      let x := a.mul (.ofInt 2)
      let m := x.mul (numFx (serSum (fun j => j + 1) x.fx 80 1))
      m.div (m.add (.ofInt 2))
    else
      let e := expNum (a.mul (.ofInt 2))
      (e.sub (.ofInt 1)).div (e.add (.ofInt 1))
  if b.m < 0 then y.neg else y

/-- A number that is an integer. -/
def Num.isInt (a : Num) : Bool := (Num.ofInt a.floor).eq a

/-- The exact value of a function at a finite operand that R214 does not list, and whether it is
representable; the bound is 2 ulp for sin, cos and tanh, else 1. -/
def Tfn.value (t : Tfn) (b : Num) : Num × Bool :=
  match t with
  | .rcp =>
    let y := (Num.ofInt 1).div b
    (y, (fp32.conv .rne 0 (Fv.ofNum y)).flags = 0)
  | .rsq =>
    let y := sqrtNum ((Num.ofInt 1).div b)
    (y.1, y.2 && (fp32.conv .rne 0 (Fv.ofNum y.1)).flags = 0)
  | .exp2 =>
    if (Num.ofInt 200).lt b then (.pow 200, false)
    else if b.lt (.ofInt (-200)) then (.pow (-200), false)
    else if b.isInt then (.pow b.floor, -149 ≤ b.floor && b.floor ≤ 127)
    else (exp2Fx ((b.mul (.pow 320)).floor), false)
  | .log2 =>
    let m := b.m.natAbs
    (log2Num b, m = 2 ^ Nat.log2 m)
  | .sin => let q := reduceAngle b; (sinQuad q.1 q.2, false)
  | .cos => let q := reduceAngle b; (sinQuad (q.1 + 1) q.2, false)
  | .sinpi =>
    let q := reduceTurn b
    (sinQuad q.1 (q.2.mul (numFx fxPi)), q.2.isZero)
  | .cospi =>
    let q := reduceTurn b
    (sinQuad (q.1 + 1) (q.2.mul (numFx fxPi)), q.2.isZero)
  | .tanh => (tanhNum b, false)

def Tfn.ulps : Tfn → Nat
  | .sin | .cos | .tanh => 2
  | _ => 1

/-- An FP32 code with flags. -/
def cvOf (c : Nat) (fl : BitVec 5 := 0) : Cv := { code := c, flags := fl }
/-- A zero, and an infinity, of a sign. -/
def zeroOf (n : Bool) : Nat := if n then 0x80000000 else 0
def infOf (n : Bool) : Nat := if n then 0xFF800000 else 0x7F800000
/-- The default NaN of an invalid operation. -/
def invalid32 : Cv := cvOf 0x7FC00000 flagNV

/-- The operands of R214; none for the others. -/
def Tfn.special (t : Tfn) (v : Fv) : Option Cv :=
  let one := 0x3F800000
  match v with
  | .nan n p s => some (cvOf (fp32.nanCode n p) (flagIf s flagNV))
  | .inf n => some (match t with
    | .rcp => cvOf (zeroOf n)
    | .rsq => if n then invalid32 else cvOf 0
    | .exp2 => cvOf (if n then 0 else infOf false)
    | .log2 => if n then invalid32 else cvOf (infOf false)
    | .tanh => cvOf (if n then 0xBF800000 else one)
    | _ => invalid32)
  | .num n x =>
    if x.isZero then some (match t with
      | .rcp | .rsq => cvOf (infOf n) flagDZ
      | .exp2 | .cos | .cospi => cvOf one
      | .log2 => cvOf (infOf true) flagDZ
      | .sin | .sinpi | .tanh => cvOf (zeroOf n))
    else match t with
      | .rsq | .log2 => if n then some invalid32 else none
      | .sinpi => if x.isInt then some (cvOf (zeroOf n)) else none
      | .cospi => if (x.sub (.pow (-1))).isInt then some (cvOf 0) else none
      | _ => none

/-- A function of one FP32 operand (08 R213, R214). -/
def Tfn.eval (t : Tfn) (ftz : Bool) (x : Word) : Cv :=
  let v := readWide fp32 ftz x.toNat
  match t.special v with
  | some c => c
  | none =>
    let y := t.value v.val
    approxOut (Config.approx (t.key ftz) x) ftz t.ulps y.1 y.2

/-- e^(−a·b) (08 R225). -/
def expnOut (ftz : Bool) (xa xb : Word) : Cv :=
  let a := readWide fp32 ftz xa.toNat
  let b := readWide fp32 ftz xb.toNat
  match firstNan [a, b] with
  | some v => cvOf (fp32.conv .rne 0 v).code (snanFlag [a, b])
  | none => match mulFv a b with
    | none => invalid32
    | some (.inf n) => cvOf (if n then infOf false else 0)
    | some p =>
      let t := p.val.neg
      let lim : Num := .ofInt 300
      let t := if lim.lt t then lim else if t.lt lim.neg then lim.neg else t
      let cand := BitVec.ofNat 32 (Config.choice 2 (xa.toNat * 2 ^ 32 + xb.toNat + if ftz then 2 ^ 64 else 0))
      approxOut cand ftz 2 (if t.isZero then .ofInt 1 else expNum t) t.isZero

/-! ## The reflectance of a conductor (08 R228) -/

/-- fs and fp of the exact formulas; none where they are 0/0. -/
def fresnel (e k c : Num) : Option (Num × Num) :=
  let c2 := c.mul c
  let s := (Num.ofInt 1).sub c2
  let e2 := e.mul e
  let k2 := k.mul k
  let t0 := (e2.sub k2).sub s
  let m := (sqrtNum ((t0.mul t0).add ((e2.mul k2).mul (.ofInt 4)))).1
  let h := (m.add t0).mul (.pow (-1))
  let u := if h.lt Num.zero then Num.zero else (sqrtNum h).1
  let x := (u.mul c).mul (.ofInt 2)
  let d1 := (m.add x).add c2
  let s2 := s.mul s
  let mc := c2.mul m
  let xs := x.mul s
  let d2 := (mc.add xs).add s2
  if d1.isZero || d2.isZero then none
  else
    let fs := ((m.sub x).add c2).div d1
    some (fs, fs.mul (((mc.sub xs).add s2).div d2))

/-- A reflectance: the part's choice when it lies in [0, 1] within 2^−20 of the exact value, else the
nearest value. -/
def reflOut (cand : Word) (ftz : Bool) (y : Num) : Cv :=
  let ok := match fp32.dec cand.toNat with
    | .num n v => !n && v.le (.ofInt 1) && ((v.sub y).abs).le (.pow (-20))
    | _ => false
  let y := if y.lt Num.zero then Num.zero else if (Num.ofInt 1).lt y then .ofInt 1 else y
  inexactOut ftz (if ok then cand.toNat else (fp32.conv .rne 0 (Fv.ofNum y)).code)

/-- A reflectance that the formulas leave open: some value of [0, 1] (log entry 3). -/
def reflOpen (cand : Word) (ftz : Bool) : Cv :=
  match fp32.dec cand.toNat with
  | .num n v => inexactOut ftz (if !n && v.le (.ofInt 1) then cand.toNat else 0)
  | _ => inexactOut ftz 0

/-- fs, fp and their mean of one wavelength. -/
def fresOut (ftz : Bool) (xe xk xc : Word) : Cv × Cv × Cv :=
  let e := readWide fp32 ftz xe.toNat
  let k := readWide fp32 ftz xk.toNat
  let c := readWide fp32 ftz xc.toNat
  let all := fun (v : Cv) => (v, v, v)
  let below := fun (v : Fv) => v.neg && !v.isZero
  if e.isNan || k.isNan || c.isNan then all (cvOf 0x7FC00000 (snanFlag [e, k, c]))
  else if below e || below k then all invalid32
  else if e.isInf || k.isInf then all (cvOf 0x3F800000)
  else
    let one := Num.ofInt 1
    let co := if c.neg then Num.zero else if c.isInf || one.lt c.val then one else c.val
    let ev := e.val
    let kv := k.val
    let s := one.sub (co.mul co)
    let key := (xe.toNat * 2 ^ 32 + xk.toNat) * 2 ^ 32 + xc.toNat + if ftz then 2 ^ 96 else 0
    let cand := fun j => BitVec.ofNat 32 (Config.choice (3 + j) key)
    if co.isZero && kv.isZero && ev.eq one then
      (reflOpen (cand 0) ftz, reflOpen (cand 1) ftz, reflOpen (cand 2) ftz)
    else if co.isZero ||
        ((ev.isZero || kv.isZero) && ((ev.mul ev).sub (kv.mul kv)).le s) then all (cvOf 0x3F800000)
    else if kv.isZero && ev.eq one then all (cvOf 0)
    else match fresnel ev kv co with
      | none => all (cvOf 0x3F800000)
      | some (fs, fp) =>
        (reflOut (cand 0) ftz fs, reflOut (cand 1) ftz fp,
          reflOut (cand 2) ftz ((fs.add fp).mul (.pow (-1))))

end Sys2Proof.Machine
end

