-- ==== Sys2Proof/Machine/Integer.lean ====
section
/-! DEFINITION. The integer and predicate instructions: arithmetic, logic, shifts, bit fields, byte
permutation, selection, comparison, conversion, moves and truth tables (07 R181–R191). -/

namespace Sys2Proof.Machine

/-! ## The functions (07 R184–R190) -/

/-- A word extended by a type (07 R184). -/
def extBy (t : Sgn) (x : Word) : Int :=
  match t with
  | .s32 => x.toInt
  | .u32 => x.toNat

/-- An integer truncated to a word, and to a pair. -/
def word32 (x : Int) : Word := BitVec.ofInt 32 x
def word64 (x : Int) : Dword := BitVec.ofInt 64 x

/-- Bits [63:32] of the product (MULH). -/
def mulHigh (m : MulhM) (a b : Word) : Word :=
  let p : Int := match m with
    | .s32 => a.toInt * b.toInt
    | .u32 => (a.toNat * b.toNat : Nat)
    | .su => a.toInt * b.toNat
  hi32 (word64 p)

/-- The product of two words and a pair added (MADW). -/
def madWide (t : Sgn) (a b : Word) (c : Dword) : Dword := word64 (extBy t a * extBy t b) + c

/-- The address of LEA. -/
def leaOf (m : LeaM) (a : Dword) (b : Word) : Dword := a + word64 (extBy m.ext b * 2 ^ m.sh.toNat)

/-- The smaller of two words (IMIN). -/
def minBySgn (t : Sgn) (a b : Word) : Word := if extBy t a ≤ extBy t b then a else b
/-- The larger of two words (IMAX). -/
def maxBySgn (t : Sgn) (a b : Word) : Word := if extBy t b ≤ extBy t a then a else b

/-- |b| (IABS). -/
def absWord (sat : Bool) (b : Word) : Word :=
  if b = 0x80000000 then (if sat then 0x7FFFFFFF else b) else if b.toInt < 0 then -b else b

/-- An integer clamped to a range. -/
def clampTo (lo hi x : Int) : Int := max lo (min hi x)

/-- The saturated sum or difference (ADDS). -/
def addSat (m : AddsM) (a b : Word) : Word :=
  let x := if m.sub then extBy m.ty a - extBy m.ty b else extBy m.ty a + extBy m.ty b
  match m.ty with
  | .s32 => word32 (clampTo (-2147483648) 2147483647 x)
  | .u32 => word32 (clampTo 0 4294967295 x)

/-- The shifts by the whole value of b. -/
def shlWord (a b : Word) : Word := if 32 ≤ b.toNat then 0 else a <<< b.toNat
def shrWord (a b : Word) : Word := if 32 ≤ b.toNat then 0 else a >>> b.toNat
def sarWord (a b : Word) : Word := a.sshiftRight (min b.toNat 31)
def rotWord (d : Dir) (a b : Word) : Word :=
  match d with
  | .l => a.rotateLeft (b.toNat % 32)
  | .r => a.rotateRight (b.toNat % 32)

/-- The funnel shift (FNL). -/
def funnel (m : FnlM) (a b c : Word) : Word :=
  let x := dword a b
  let k := if m.clamp then min c.toNat 32 else c.toNat % 32
  match m.dir with
  | .r => lo32 (x >>> k)
  | .l => hi32 (x <<< k)

/-- The field length of a control word. -/
def fieldLen (b : Word) : Nat := min (bits b.toNat 8 8) 32
/-- The field position of a control word. -/
def fieldPos (b : Word) : Nat := bits b.toNat 0 8

/-- The field of a word (BFE). -/
def bitExtract (t : Sgn) (a b : Word) : Word :=
  let len := fieldLen b
  let f : Nat := (Int.toNat ((extBy t a / 2 ^ fieldPos b) % 2 ^ len))
  if len = 0 then 0
  else match t with
    | .u32 => BitVec.ofNat 32 f
    | .s32 => if f.testBit (len - 1) then word32 ((f : Int) - 2 ^ len) else BitVec.ofNat 32 f

/-- A word with a field replaced (BFI). -/
def bitInsert (a b c : Word) : Word :=
  let m := BitVec.ofNat 32 ((2 ^ fieldLen b - 1) * 2 ^ fieldPos b)
  (a &&& ~~~m) ||| (BitVec.ofNat 32 (c.toNat * 2 ^ fieldPos b) &&& m)

/-- The bits of a number below `n` that are set. -/
def popCount (n x : Nat) : Nat := ((List.range n).filter fun i => x.testBit i).length

/-- The zeros above the highest bit set, of `n` bits. -/
def leadZeros (n x : Nat) : Nat := if x = 0 then n else n - 1 - Nat.log2 x

/-- The zeros below the lowest bit set, of `n` bits. -/
def trailZeros (n x : Nat) : Nat := ((List.range n).find? fun i => x.testBit i).getD n

/-- The low `n` bits of a number in the other order. -/
def revBits (n x : Nat) : Nat :=
  (List.range n).foldl (fun y i => if x.testBit i then y + 2 ^ (n - 1 - i) else y) 0

/-- One byte of PERM. -/
def permByte (x : Nat) (n : Nat) : Nat :=
  let y := bits x (8 * (n % 8)) 8
  if n.testBit 3 then (if y.testBit 7 then 0xFF else 0) else y

/-- The permutation of the bytes of two words (PERM). -/
def permWord (a b c : Word) : Word :=
  let x := (dword a b).toNat
  BitVec.ofNat 32 (((List.range 4).map fun k => permByte x (bits c.toNat (4 * k) 4) * 256 ^ k).sum)

/-- The result of a compare (ICMP, UCMP). -/
def cmpWord (m : CmpM) (a b : Word) : Word :=
  if ccHolds m.cc a b then (if m.m then 0xFFFFFFFF else 1) else 0

/-- The width in bits of an integer type, and whether it is signed (07 R189). -/
def itWidth : IType → Nat
  | .u8 | .s8 => 8
  | .u16 | .s16 => 16
  | .u32 | .s32 => 32
def itSigned : IType → Bool
  | .s8 | .s16 | .s32 => true
  | _ => false

/-- The low bits of an integer read as a type. -/
def readAs (t : IType) (x : Int) : Int :=
  let n := x % 2 ^ itWidth t
  if itSigned t && 2 ^ (itWidth t - 1) ≤ n then n - 2 ^ itWidth t else n

/-- The conversion between integer types (ICVT). -/
def icvtWord (m : IcvtM) (b : Word) : Word :=
  let x := readAs m.st b.toNat
  let lo : Int := if itSigned m.dt then -(2 ^ (itWidth m.dt - 1)) else 0
  let hi : Int := if itSigned m.dt then 2 ^ (itWidth m.dt - 1) - 1 else 2 ^ itWidth m.dt - 1
  word32 (if m.sat then clampTo lo hi x else readAs m.dt x)

/-- One bit of a three-input truth table (07 R190). -/
def lutBit (t : BitVec 8) (a b c : Bool) : Bool :=
  t.getLsbD ((if a then 4 else 0) + (if b then 2 else 0) + (if c then 1 else 0))

/-- The result of PLOP on bits 0. -/
def plopWord (t : BitVec 8) (a b c : Word) : Word :=
  wordOfBool (lutBit t (a.getLsbD 0) (b.getLsbD 0) (c.getLsbD 0))

/-! ## Arithmetic (07 R184) -/

def execAdd (f : Alu) : State → Out1 := lane1 f fun r l => r.word f.a l + r.b f l
def execSub (f : Alu) : State → Out1 := lane1 f fun r l => r.word f.a l - r.b f l
def execMul (f : Alu) : State → Out1 := lane1 f fun r l => r.word f.a l * r.b f l
def execMulh (m : MulhM) (f : Alu) : State → Out1 :=
  lane1 f fun r l => mulHigh m (r.word f.a l) (r.b f l)
def execMad (f : Alu) : State → Out1 :=
  lane1 f fun r l => r.word f.a l * r.b f l + r.word f.c l
def execMadw (m : Sgn) (f : Alu) : State → Out1 :=
  lane2 f fun r l => madWide m (r.word f.a l) (r.b f l) (r.pair f.c l)
def execAdd64 (f : Alu) : State → Out1 := lane2 f fun r l => r.pair f.a l + r.bPair f l
def execSub64 (f : Alu) : State → Out1 := lane2 f fun r l => r.pair f.a l - r.bPair f l
def execMad64 (f : Alu) : State → Out1 :=
  lane2 f fun r l => r.pair f.a l * r.bPair f l + r.pair f.c l
def execLea (m : LeaM) (f : Alu) : State → Out1 :=
  lane2 f fun r l => leaOf m (r.pair f.a l) (r.b f l)
def execImin (m : Sgn) (f : Alu) : State → Out1 :=
  lane1 f fun r l => minBySgn m (r.word f.a l) (r.b f l)
def execImax (m : Sgn) (f : Alu) : State → Out1 :=
  lane1 f fun r l => maxBySgn m (r.word f.a l) (r.b f l)
def execIabs (m : Bool) (f : Alu) : State → Out1 := lane1 f fun r l => absWord m (r.b f l)
def execAdds (m : AddsM) (f : Alu) : State → Out1 :=
  lane1 f fun r l => addSat m (r.word f.a l) (r.b f l)

/-! ## Logic, shifts, fields, counts, bytes (07 R185–R187) -/

def execAnd (f : Alu) : State → Out1 := lane1 f fun r l => r.word f.a l &&& r.b f l
def execOr (f : Alu) : State → Out1 := lane1 f fun r l => r.word f.a l ||| r.b f l
def execXor (f : Alu) : State → Out1 := lane1 f fun r l => r.word f.a l ^^^ r.b f l
def execAndn (f : Alu) : State → Out1 := lane1 f fun r l => r.word f.a l &&& ~~~(r.b f l)
def execShl (f : Alu) : State → Out1 := lane1 f fun r l => shlWord (r.word f.a l) (r.b f l)
def execShr (f : Alu) : State → Out1 := lane1 f fun r l => shrWord (r.word f.a l) (r.b f l)
def execSar (f : Alu) : State → Out1 := lane1 f fun r l => sarWord (r.word f.a l) (r.b f l)
def execRot (m : Dir) (f : Alu) : State → Out1 :=
  lane1 f fun r l => rotWord m (r.word f.a l) (r.b f l)
def execFnl (m : FnlM) (f : Alu) : State → Out1 :=
  lane1 f fun r l => funnel m (r.word f.a l) (r.b f l) (r.word f.c l)
def execBfe (m : Sgn) (f : Alu) : State → Out1 :=
  lane1 f fun r l => bitExtract m (r.word f.a l) (r.b f l)
def execBfi (f : Alu) : State → Out1 :=
  lane1 f fun r l => bitInsert (r.word f.a l) (r.b f l) (r.word f.c l)

/-- The operand of a counting instruction, and its width. -/
def wideB (m : Wid) (f : Alu) (r : Rd) (l : Nat) : Nat :=
  match m with
  | .b32 => (r.b f l).toNat
  | .b64 => (r.bPair f l).toNat
def widBits : Wid → Nat
  | .b32 => 32
  | .b64 => 64

def execPopc (m : Wid) (f : Alu) : State → Out1 :=
  lane1 f fun r l => BitVec.ofNat 32 (popCount (widBits m) (wideB m f r l))
def execClz (m : Wid) (f : Alu) : State → Out1 :=
  lane1 f fun r l => BitVec.ofNat 32 (leadZeros (widBits m) (wideB m f r l))
def execCtz (m : Wid) (f : Alu) : State → Out1 :=
  lane1 f fun r l => BitVec.ofNat 32 (trailZeros (widBits m) (wideB m f r l))
def execBrev (m : Wid) (f : Alu) : State → Out1 :=
  laneOp f fun r l =>
    let x : Dword := BitVec.ofNat 64 (revBits (widBits m) (wideB m f r l))
    { vals := match m with
        | .b32 => [lo32 x]
        | .b64 => [lo32 x, hi32 x] }

/-- PERM reads IMM in the place of SRCC. -/
def execPerm (f : Alu) : State → Out1 :=
  run f.g (laneBody (if f.imm.isSome then [f.a, f.b] else [f.a, f.b, f.c]) f.d fun r l =>
    { vals := [permWord (r.word f.a l) (r.word f.b l) (r.cImm f l)] })

/-! ## Selection, comparison, conversion, moves (07 R188, R189) -/

def execSel (f : Alu) : State → Out1 :=
  lane1 f fun r l => if r.word f.c l ≠ 0 then r.word f.a l else r.b f l
def execIcmp (m : CmpM) (f : Alu) : State → Out1 :=
  lane1 f fun r l => cmpWord m (r.word f.a l) (r.b f l)
def execIcvt (m : IcvtM) (f : Alu) : State → Out1 := lane1 f fun r l => icvtWord m (r.b f l)
def execMov (f : Alu) : State → Out1 := lane1 f fun r l => r.b f l
def execMovi (f : Alu) : State → Out1 := lane1 f fun r l => r.b f l

/-! ## Predicates (07 R190, R191) -/

def execPlop (m : BitVec 8) (f : Alu) : State → Out1 :=
  lane1 f fun r l => plopWord m (r.word f.a l) (r.b f l) (r.word f.c l)

/-- The predicates of a lane as a word; bit 7 is p7. -/
def predWord (w : W) (g l : Nat) : Word :=
  BitVec.ofNat 32 (laneMask ((List.range 8).filter fun p => w.readP g l p))

/-- Writes the predicates that a mask selects. -/
def W.unpackP (w : W) (g l : Nat) (a mask : Word) : W :=
  (List.range 7).foldl (fun w p =>
    if mask.getLsbD p then w.writeP g l p (a.getLsbD p) else w) w

def execPmov (m : PmovM) (f : Alu) : State → Out1 :=
  match m with
  | .pack => lane1 f fun r l => predWord r.w r.i.gid l
  | .unpack => laneOpW f (fun i w l xs => w.unpackP i.gid l (xs.headD 0) (xs.getD 1 0)) fun r l =>
      { vals := [r.word f.a l, r.b f l] }

end Sys2Proof.Machine
end

