-- ==== Sys2Proof/Machine/Float.lean ====
section
/-! DEFINITION. The floating-point instructions: arithmetic, comparison, the approximate functions,
conversions, packing, packed halves and dot products (08 R203–R221). -/

namespace Sys2Proof.Machine

/-! ## Shapes -/

/-- FTZ as an issue reads it. -/
def Rd.ftz (r : Rd) : Bool := r.w.ftz r.i.gid

/-- An FP32 source as it is read. -/
def Rd.f32 (r : Rd) (x : Word) : Fv := readWide fp32 r.ftz x.toNat

/-- The random bits of a part of a lane's result (08 R206). -/
def Rd.rnd (r : Rd) (l part : Nat) : Nat := r.w.draw r.i.gid l (l * 4 + part)

/-- The words of conversions, with the union of their conditions (08 R205). -/
def cvOut (r : Rd) (rm : Rnd) (cs : List Cv) : LOut :=
  fpOut r (cs.map fun c => BitVec.ofNat 32 c.code) (cs.foldl (fun x c => x ||| c.flags) 0)
    (rm = .sr)

/-- An instruction of one FP32 result with a rounding mode. -/
def fOp (f : Alu) (rm : Rnd) (k : Rd → Nat → Cv) : State → Out1 :=
  laneOp f fun r l => cvOut r rm [k r l]

/-! ## The functions (08 R208–R212) -/

/-- a − b: the sign of a NaN is kept (02 R25). -/
def negArg (v : Fv) : Fv := if v.isNan then v else v.flip

/-- a / b. -/
def divWide (ftz : Bool) (rm : Rnd) (r : Nat) (a b : Fv) : Cv :=
  let n := xor a.neg b.neg
  match firstNan [a, b] with
  | some v => { code := (fp32.conv rm r v).code, flags := snanFlag [a, b] }
  | none =>
    if (a.isInf && b.isInf) || (a.isZero && b.isZero) then invalid32
    else if a.isInf then cvOf (infOf n)
    else if b.isInf || a.isZero then cvOf (zeroOf n)
    else if b.isZero then cvOf (infOf n) flagDZ
    else writeWide fp32 ftz rm r (.num n (a.val.div b.val))

/-- √b. -/
def sqrtWide (ftz : Bool) (rm : Rnd) (r : Nat) (b : Fv) : Cv :=
  match b with
  | .nan n p s => cvOf (fp32.nanCode n p) (flagIf s flagNV)
  | .inf n => if n then invalid32 else cvOf (infOf false)
  | .num n x =>
    if x.isZero then cvOf (zeroOf n)
    else if n then invalid32
    else writeWide fp32 ftz rm r (.num false (sqrtNum x).1)

/-- a · 2^n; beyond 2^1000 every result rounds alike. -/
def ldexpWide (ftz : Bool) (rm : Rnd) (r : Nat) (a : Fv) (n : Int) : Cv :=
  match a with
  | .nan m p s => cvOf (fp32.nanCode m p) (flagIf s flagNV)
  | .inf m => cvOf (infOf m)
  | .num m x =>
    if x.isZero then cvOf (zeroOf m)
    else writeWide fp32 ftz rm r (.num m (x.mul (.pow (clampTo (-1000) 1000 n))))

/-- b rounded to an integral value. -/
def rintWide (rm : Rnd) (r : Nat) (b : Fv) : Cv :=
  match b with
  | .nan m p s => cvOf (fp32.nanCode m p) (flagIf s flagNV)
  | .inf m => cvOf (infOf m)
  | .num m x =>
    let (q, frac, more) := x.quot 0
    let k : Int := if roundUp rm m r q frac more then q + 1 else q
    cvOf (fp32.conv .rne 0 (.num m (.ofInt (if m then -k else k)))).code

/-- b − floor(b) (08 R209). -/
def fracWide (ftz : Bool) (b : Fv) : Cv :=
  match b with
  | .nan m p s => cvOf (fp32.nanCode m p) (flagIf s flagNV)
  | .inf _ => invalid32
  | .num _ x =>
    let f := x.sub (.ofInt x.floor)
    let c := writeWide fp32 ftz .rne 0 (Fv.ofNum f)
    if c.code = 0x3F800000 then cvOf 0x3F7FFFFF flagNX else c

/-- Whether a value lies below another; neither is a NaN. -/
def fvLt (a b : Fv) : Bool :=
  match a, b with
  | .inf n, .inf m => n && !m
  | .inf n, _ => n
  | _, .inf m => !m
  | a, b => a.val.lt b.val
/-- Whether two values are equal; neither is a NaN. -/
def fvEq (a b : Fv) : Bool :=
  match a, b with
  | .inf n, .inf m => n = m
  | .inf _, _ => false
  | _, .inf _ => false
  | a, b => a.val.eq b.val

/-- The lesser or the greater of two values, −0 below +0 (08 R210). -/
def minMaxWide (big nanMode : Bool) (a b : Fv) : Cv :=
  let fl := snanFlag [a, b]
  let out := fun (v : Fv) => { code := (fp32.conv .rne 0 v).code, flags := fl : Cv }
  match firstNan [a, b] with
  | some v =>
    if nanMode then out v
    else if a.isNan && b.isNan then out .dnan
    else out (if a.isNan then b else a)
  | none =>
    let below := fvLt a b || (fvEq a b && a.neg)
    out (if xor big below then a else b)

/-- Whether a compare holds (08 R211), and its condition. -/
def fcmpHolds (cc : Fcc) (a b : Fv) : Bool × BitVec 5 :=
  let uno := a.isNan || b.isNan
  let lt := !uno && fvLt a b
  let eq := !uno && fvEq a b
  let gt := !uno && fvLt b a
  match cc with
  | .eq => (eq, snanFlag [a, b])
  | .ne => (!eq, snanFlag [a, b])
  | .lt => (lt, flagIf uno flagNV)
  | .le => (lt || eq, flagIf uno flagNV)
  | .gt => (gt, flagIf uno flagNV)
  | .ge => (gt || eq, flagIf uno flagNV)
  | .ord => (!uno, snanFlag [a, b])
  | .uno => (uno, snanFlag [a, b])

/-- The class of a code (08 R212). -/
def classBit (x : Word) : Nat :=
  match fp32.dec x.toNat with
  | .nan _ _ s => if s then 8 else 9
  | .inf n => if n then 0 else 7
  | .num n v =>
    if v.isZero then (if n then 3 else 4)
    else if v.abs.lt (.pow (-126)) then (if n then 2 else 5)
    else if n then 1 else 6

/-! ## Basic arithmetic (08 R208–R212) -/

def execFadd (m : Rnd) (f : Alu) : State → Out1 :=
  fOp f m fun r l =>
    addWide fp32 r.ftz m (r.rnd l 0) (r.f32 (r.word f.a l)) (r.f32 (r.b f l))
def execFsub (m : Rnd) (f : Alu) : State → Out1 :=
  fOp f m fun r l =>
    addWide fp32 r.ftz m (r.rnd l 0) (r.f32 (r.word f.a l)) (negArg (r.f32 (r.b f l)))
def execFmul (m : Rnd) (f : Alu) : State → Out1 :=
  fOp f m fun r l =>
    mulWide fp32 r.ftz m (r.rnd l 0) (r.f32 (r.word f.a l)) (r.f32 (r.b f l))
def execFfma (m : Rnd) (f : Alu) : State → Out1 :=
  fOp f m fun r l =>
    fmaWide fp32 r.ftz m (r.rnd l 0) (r.f32 (r.word f.a l)) (r.f32 (r.b f l))
      (r.f32 (r.word f.c l))
def execFdiv (m : Rnd) (f : Alu) : State → Out1 :=
  fOp f m fun r l => divWide r.ftz m (r.rnd l 0) (r.f32 (r.word f.a l)) (r.f32 (r.b f l))
def execFsqrt (m : Rnd) (f : Alu) : State → Out1 :=
  fOp f m fun r l => sqrtWide r.ftz m (r.rnd l 0) (r.f32 (r.b f l))
def execFldexp (m : Rnd) (f : Alu) : State → Out1 :=
  fOp f m fun r l => ldexpWide r.ftz m (r.rnd l 0) (r.f32 (r.word f.a l)) (r.b f l).toInt
def execFrint (m : Rnd) (f : Alu) : State → Out1 :=
  fOp f m fun r l => rintWide m (r.rnd l 0) (r.f32 (r.b f l))
def execFfrac (f : Alu) : State → Out1 := fOp f .rne fun r l => fracWide r.ftz (r.f32 (r.b f l))
def execFmin (m : Bool) (f : Alu) : State → Out1 :=
  fOp f .rne fun r l => minMaxWide false m (r.f32 (r.word f.a l)) (r.f32 (r.b f l))
def execFmax (m : Bool) (f : Alu) : State → Out1 :=
  fOp f .rne fun r l => minMaxWide true m (r.f32 (r.word f.a l)) (r.f32 (r.b f l))
def execFcmp (m : FcmpM) (f : Alu) : State → Out1 :=
  laneOp f fun r l =>
    let c := fcmpHolds m.cc (r.f32 (r.word f.a l)) (r.f32 (r.b f l))
    fpOut r [if c.1 then (if m.m then 0xFFFFFFFF else 1) else 0] c.2
def execFclass (f : Alu) : State → Out1 :=
  lane1 f fun r l => BitVec.ofNat 32 (2 ^ classBit (r.b f l))

/-! ## Approximate functions (08 R213–R215) -/

/-- An instruction of one approximate function. -/
def tOp (t : Tfn) (f : Alu) : State → Out1 := fOp f .rne fun r l => t.eval r.ftz (r.b f l)

def execFrcp (f : Alu) : State → Out1 := tOp .rcp f
def execFrsq (f : Alu) : State → Out1 := tOp .rsq f
def execFexp2 (f : Alu) : State → Out1 := tOp .exp2 f
def execFlog2 (f : Alu) : State → Out1 := tOp .log2 f
def execFsin (f : Alu) : State → Out1 := tOp .sin f
def execFcos (f : Alu) : State → Out1 := tOp .cos f
def execFsinpi (f : Alu) : State → Out1 := tOp .sinpi f
def execFcospi (f : Alu) : State → Out1 := tOp .cospi f
def execFtanh (f : Alu) : State → Out1 := tOp .tanh f
def execFsincos (f : Alu) : State → Out1 :=
  laneOp f fun r l =>
    cvOut r .rne [Tfn.sin.eval r.ftz (r.b f l), Tfn.cos.eval r.ftz (r.b f l)]

/-! ## Conversions (08 R216–R219) -/

/-- The format of a type of FCVT, for the integers those of 32 bits. -/
def CvtT.fmt : CvtT → Fmt
  | .f32 => fp32
  | .f16 => fp16
  | .bf16 => bf16
  | .s32 => { s := true, e := 0, m := 31, bias := 0, nan := .none, int := true }
  | .u32 => { s := false, e := 0, m := 32, bias := 0, nan := .none, int := true }

/-- A conversion of FCVT: with `sat` an overflow gives the largest finite value. -/
def cvtOf (m : FcvtM) (ftz : Bool) (r : Nat) (b : Word) : Cv :=
  let f := CvtT.fmt m.dt
  let v := readWide (CvtT.fmt m.st) ftz b.toNat
  let c := writeWide f ftz m.rm r v
  if m.sat && c.flags.getLsbD 2 then { c with code := f.signed v.neg f.maxMag } else c

def execFcvt (m : FcvtM) (f : Alu) : State → Out1 :=
  fOp f m.rm fun r l => cvtOf m r.ftz (r.rnd l 0) (r.b f l)

/-- The format of FPACK and FUNPK: a parametric one takes its bias and NAN flag from b (08 R217). -/
def packFmt (code : BitVec 8) (b : Word) : Fmt :=
  fmtOf code.toNat (b.extractLsb' 0 8).toInt (b.getLsbD 8)

/-- The bits between the elements of a packed word. -/
def packStep (code : BitVec 8) : Nat := 32 / packN code

/-- The mode that FPACK holds in MOD[2:0]. -/
def packRnd (f : Alu) : Rnd :=
  match f.x.toNat % 8 with
  | 1 => .rz
  | 2 => .ru
  | 3 => .rd
  | 4 => .sr
  | _ => .rne

/-- The packed word of conversions. -/
def packWords (step : Nat) (cs : List Cv) : Cv :=
  { code := (cs.zipIdx.map fun e => e.1.code * 2 ^ (step * e.2)).sum
    flags := cs.foldl (fun x c => x ||| c.flags) 0 }

def execFpack (m : BitVec 8) (f : Alu) : State → Out1 :=
  fOp f (packRnd f) fun r l =>
    let fmt := packFmt m (r.b f l)
    packWords (packStep m) ((List.range (packN m)).map fun j =>
      writeWide fmt r.ftz (packRnd f) (r.rnd l j) (r.f32 (r.run f.a j l)))

def execFunpk (m : BitVec 8) (f : Alu) : State → Out1 :=
  laneOp f fun r l =>
    let fmt := packFmt m (r.b f l)
    let n := packStep m
    cvOut r .rne ((List.range (packN m)).map fun j =>
      writeWide fp32 r.ftz .rne 0
        (readWide fmt r.ftz (bits (r.word f.a l).toNat (n * j) n % 2 ^ fmt.width)))

def execFsrnd (m : BitVec 8) (f : Alu) : State → Out1 :=
  laneOp f fun r l =>
    let fmt := fmtOf m.toNat
    let c := writeWide fmt r.ftz .sr (r.b f l).toNat (r.f32 (r.word f.a l))
    fpOut r [BitVec.ofNat 32 (fp32.conv .rne 0 (fmt.dec c.code)).code] c.flags

/-! ## Packed halves (08 R220) -/

/-- Two halves, each on its own. -/
def halvesOp (f : Alu) (m : Rnd) (fmt : Fmt) (k : Bool → Nat → Fv → Fv → Fv → Cv) : State → Out1 :=
  fOp f m fun r l =>
    let part := fun (x : Word) h => readWide fmt r.ftz (bits x.toNat (16 * h) 16)
    packWords 16 ((List.range 2).map fun h =>
      k r.ftz (r.rnd l h) (part (r.word f.a l) h) (part (r.b f l) h) (part (r.word f.c l) h))

def execHadd2 (m : Rnd) (f : Alu) : State → Out1 :=
  halvesOp f m fp16 fun z r a b _ => addWide fp16 z m r a b
def execHmul2 (m : Rnd) (f : Alu) : State → Out1 :=
  halvesOp f m fp16 fun z r a b _ => mulWide fp16 z m r a b
def execHfma2 (m : Rnd) (f : Alu) : State → Out1 :=
  halvesOp f m fp16 fun z r a b c => fmaWide fp16 z m r a b c
def execBfma2 (m : Rnd) (f : Alu) : State → Out1 :=
  halvesOp f m bf16 fun z r a b c => fmaWide bf16 z m r a b c

/-! ## Dot products (08 R221) -/

/-- The exact sum of products and of other terms, rounded once; any NaN and every invalid case give
the default NaN. -/
def dotWide (ftz : Bool) (rm : Rnd) (r : Nat) (ps : List (Fv × Fv)) (cs : List Fv) : Cv :=
  let ins := (ps.map fun p => [p.1, p.2]).flatten ++ cs
  let prods := ps.map fun p => if p.1.isNan || p.2.isNan then some Fv.dnan else mulFv p.1 p.2
  let nv := snanFlag ins ||| flagIf (prods.any Option.isNone) flagNV
  if ins.any Fv.isNan || prods.any Option.isNone then cvOf 0x7FC00000 nv
  else
    let ts := prods.filterMap id ++ cs
    let infs := ts.filter Fv.isInf
    match infs with
    | i :: rest => if rest.all fun j => j = i then cvOf (infOf i.neg) else invalid32
    | [] =>
      let s := ts.foldl (fun (s : Num) x => s.add x.val) Num.zero
      let zneg := match ts with
        | t :: rest =>
          if t.isZero && rest.all (fun u => u.isZero && u.neg = t.neg) then t.neg else rm = .rd
        | [] => false
      writeWide fp32 ftz rm r (Fv.ofNum s zneg)

def execFdot2 (m : Fdot2M) (f : Alu) : State → Out1 :=
  fOp f m.rm fun r l =>
    let fmt := if m.bf then bf16 else fp16
    let part := fun (x : Word) j => readWide fmt r.ftz (bits x.toNat (16 * j) 16)
    dotWide r.ftz m.rm (r.rnd l 0)
      ((List.range 2).map fun j => (part (r.word f.a l) j, part (r.b f l) j))
      [r.f32 (r.word f.c l)]

def execFdot4 (m : Fdot4M) (f : Alu) : State → Out1 :=
  fOp f m.rm fun r l =>
    let part := fun (five : Bool) (x : Word) j =>
      (if five then e5m2 else e4m3).dec (bits x.toNat (8 * j) 8)
    dotWide r.ftz m.rm (r.rnd l 0)
      ((List.range 4).map fun j => (part m.a5 (r.word f.a l) j, part m.b5 (r.b f l) j))
      [r.f32 (r.word f.c l)]

end Sys2Proof.Machine
end

