-- ==== Sys2Proof/Machine/Tags.lean ====
section
/-! DEFINITION. The tag operations of the scratchpad and the ends of fills and write-backs (09 R248–R252,
10 R273). -/

namespace Sys2Proof.Machine

/-- The lowest VALID slot of an allocation whose tag is that of an address; all ones when none is. -/
def W.lookup (w : W) (t va : Nat) : Word :=
  let slots := List.range (w.spbytes t / 4096)
  match slots.find? fun s => (w.tag t s).state = 2 && (w.tag t s).tag = bits va 12 44 with
  | some s => BitVec.ofNat 32 s
  | none => 0xFFFFFFFF

/-- SPLOOK (10 R273). -/
def execSplook (f : Alu) : State → Out1 :=
  oncePop f fun r es w =>
    let t := (w.group r.i.gid).team
    let at_ := fun l => (r.pair f.a l + (r.b f l).signExtend 64).toNat
    match f.d with
    | .s _ =>
      if 2 ^ 56 ≤ at_ 0 then Eff.allFault w es Cause.addressNoncanonical (at_ 0)
      else { w := w.dst r.i f.d 0 [w.lookup t (at_ 0)] }
    | _ =>
      match es.find? fun l => 2 ^ 56 ≤ at_ l with
      | some l => Eff.allFault w es Cause.addressNoncanonical (at_ l)
      | none => { w := es.foldl (fun v l => v.dst r.i f.d l [w.lookup t (at_ l)]) w }

/-- The checks that the tag operations share; the slot. -/
def W.slotCheck (w : W) (t slot : Nat) : Option Nat :=
  if w.spbytes t / 4096 ≤ slot then some Cause.scratchBounds
  else if (w.tag t slot).win then some Cause.windowConflict
  else none

/-- SPTAG (10 R273, 09 R250). -/
def execSptag (f : Alu) : State → Out1 :=
  oncePop f fun r es w0 =>
    let w := w0.drainAll r.i.gid
    let t := (w.group r.i.gid).team
    let slot := (r.bOnce f).toNat
    let va := (r.pair f.a 0).toNat
    match w.slotCheck t slot with
    | some c => Eff.allFault w es c
    | none =>
      if 2 ^ 56 ≤ va then Eff.allFault w es Cause.addressNoncanonical va
      else
        let x := w.tag t slot
        if x.state = 1 || x.state = 3 then Eff.allFault w es Cause.scratchSlotState
        else { w := w.setTag t slot { x with tag := bits va 12 44, dirty := false, rcnt := 0, state := 2 } }

/-- Enters a range in the scoreboard of a core; the wait when all 64 entries are in use (09 R254). -/
def W.rangeFull (w : W) (c : Nat) : Option Wake :=
  match w.coreRanges c with
  | r :: rest => if 64 ≤ rest.length + 1 then some (.range r.start r.stop) else none
  | [] => none
def W.addRange (w : W) (t start stop op : Nat) : W :=
  { w with c.spd.ranges := w.c.spd.ranges ++ [{ team := t, start := start, stop := stop, op := op }] }

/-- SPFILL (10 R273): the block is read as relaxed loads of the group when it issues. -/
def execSpfill (f : Alu) : State → Out1 :=
  oncePop f fun r es w1 =>
    let g := r.i.gid
    let w0 := w1.drainAll g
    let gr := w0.group g
    let t := gr.team
    let slot := (r.bOnce f).toNat
    let va := (r.pair f.a 0).toNat
    let cnt := (r.word f.c 0).toNat
    match w0.slotCheck t slot with
    | some c => Eff.allFault w0 es c
    | none =>
      if 2 ^ 56 ≤ va then Eff.allFault w0 es Cause.addressNoncanonical va
      else if 255 < cnt then Eff.allFault w0 es Cause.illegalOperand
      else
        let x := w0.tag t slot
        if x.state = 1 || x.state = 3 then Eff.allFault w0 es Cause.scratchSlotState
        else if w0.countFull g .tc then Eff.allFault w0 es Cause.counterOverflow
        else match w0.rangeFull gr.core with
          | some k => { w := w0, park := some k }
          | none =>
            let at_ := va / 4096 * 4096
            let (w, res) := w0.load gr.core gr.asid .tm at_ 4096
            let (data, fault) : List Byte × Option (Nat × Nat) := match res with
              | .ok (bs, false) => (w.overlay g false at_ bs, none)
              | .ok (_, true) => ([], some (Cause.pageNotPresent, at_))
              | .nonres v => ([], some (Cause.pageNotPresent, v))
              | .bad c v => ([], some (c, v))
            let (w, op) := w.newOp { gid := g, cls := .tc, iaddr := r.i.pc, fault := fault
                                     kind := .fill t slot cnt (bits va 12 44) data }
            let w := w.addRange t (4096 * slot) (4096 * slot + 4096) op
            { w := w.setTag t slot { x with tag := bits va 12 44, dirty := false, rcnt := 0, state := 1 } }

/-- SPEVICT (10 R273). -/
def execSpevict (f : Alu) : State → Out1 :=
  oncePop f fun r es w0 =>
    let g := r.i.gid
    let w := w0.drainAll g
    let gr := w.group g
    let t := gr.team
    let slot := (r.bOnce f).toNat
    match w.slotCheck t slot with
    | some c => Eff.allFault w es c
    | none =>
      let x := w.tag t slot
      if x.state = 1 then Eff.allFault w es Cause.scratchSlotState
      else if w.countFull g .tc then Eff.allFault w es Cause.counterOverflow
      else
        match w.rangeFull gr.core with
        | some k => { w := w, park := some k }
        | none =>
          let back := x.state = 2 && x.dirty
          let (w, op) := w.newOp { gid := g, cls := .tc, iaddr := r.i.pc, scope := .pkg
                                   kind := .evict t slot x.tag, done := !back }
          let w := w.addRange t (4096 * slot) (4096 * slot + 4096) op
          { w := if back then w.setTag t slot { x with state := 3 }
              else if x.state = 2 then w.setTag t slot { x with state := 0, rcnt := 0 }
              else w }

/-- SLOT_FILL_COMPLETE: the block's bytes are written and the slot is VALID with its count; or, with a
fault, INVALID (09 R250–R252). -/
def execSlotFillComplete (op : Nat) (s : State) : Out1 :=
  step1 (fun w => match aget w.c.eng.ops op with
    | some { kind := .fill t slot rcnt tag data, fault := fault, done := false, .. } =>
      let x := w.tag t slot
      let w := match fault with
        | none => (w.spRaw t (4096 * slot) data).setTag t slot
            { x with rcnt := rcnt, tag := tag, dirty := false, state := 2 }
        | some _ => w.setTag t slot { x with state := 0, dirty := false, rcnt := 0 }
      w.modOp op fun o => { o with done := true }
    | _ => w) s

/-- SLOT_WRITEBACK_COMPLETE: the block is written as relaxed stores at .pkg, and the slot is INVALID; a
write-back that faults loses the bytes (09 R250, 10 R273). -/
def execSlotWritebackComplete (op : Nat) (s : State) : Out1 :=
  step1 (fun w => match aget w.c.eng.ops op with
    | some { kind := .evict t slot tag, done := false, .. } =>
      let tm := w.team t
      let va := tag * 4096
      let data := w.spBytes t (4096 * slot) 4096
      let (w, fault) : W × Option (Nat × Nat) := match w.prep tm.asid va 4096 with
        | (w, .ok []) => (w.store tm.core tm.asid .pkg va data [], none)
        | (w, .ok (v :: _)) => (w, some (Cause.pageNotPresent, v))
        | (w, .nonres v) => (w, some (Cause.pageNotPresent, v))
        | (w, .bad c v) => (w, some (c, v))
      let x := w.tag t slot
      let w := w.setTag t slot { x with state := 0, dirty := false, rcnt := 0 }
      w.modOp op fun o => { o with done := true, fault := fault }
    | _ => w) s

/-- READ_COUNT_EXHAUSTED: a slot whose read count reached 0 becomes INVALID without a write-back
(09 R252). -/
def execReadCountExhausted (core slot : Nat) (s : State) : Out1 :=
  step1 (fun w => match w.c.slu.teams.find? fun e =>
      e.2.core = core && e.2.slot0 ≤ slot && slot < e.2.slot0 + e.2.slots with
    | some (t, tm) => w.setTag t (slot - tm.slot0) (w.tag t (slot - tm.slot0))
    | none => w) s

end Sys2Proof.Machine
end

