-- ==== Sys2Proof/Machine/HoistOps.lean ====
section
/-! DEFINITION. The Hoist: segments of tile copies, their conversion, skip and replay, windows and
multicast, and the instructions over them (12 R305–R316). -/

namespace Sys2Proof.Machine

/-! ## A copy's layout (12 R305, R306) -/

def Hoist.cont (h : Hoist) : Cont := spCont h.desc h.fmto
def Hoist.raw (h : Hoist) : Bool := h.fmto = 0 || h.fmto = tdFmt h.desc
def Hoist.e0 (h : Hoist) : Nat := h.extents.headD 0
def Hoist.stride (h : Hoist) : Nat := pitchOf h.cont h.e0 h.pitch
def Hoist.segs (h : Hoist) : List Nat := tileChunks h.cont h.extents h.pitch h.off
/-- The scratchpad's format. -/
def Hoist.spFmt (h : Hoist) : Fmt :=
  fmtOf (if h.fmto = 0 then tdFmt h.desc else h.fmto) (tdBias h.desc) (tdNan h.desc)

/-- The coordinates above dimension 0 of a row. -/
def rowCoords : List Nat → Nat → List Nat
  | [], _ => []
  | e :: es, r => r % max 1 e :: rowCoords es (r / max 1 e)

/-- How many elements a unit of the scratchpad holds. -/
def Cont.per : Cont → Nat
  | .bytes _ => 1
  | .nibble => 2
  | .pack6 => 4

/-- The units of a segment: row, unit, and the unit's byte offset from the copy's base. -/
def Hoist.units (h : Hoist) (seg : Nat) : List (Nat × Nat × Nat) :=
  let c := h.cont
  ((List.range (tileRows h.extents)).map fun r =>
    ((List.range ((h.e0 + c.per - 1) / c.per)).map fun u =>
      (r, u, h.off + r * h.stride + c.unit * u)).filter fun x =>
        x.2.2 < 512 * (seg + 1) && 512 * seg < x.2.2 + c.unit).flatten

/-- The elements of a unit with their coordinates in the tensor and their linear index in the tile. -/
def Hoist.elems (h : Hoist) (r u : Nat) : List (Nat × List Nat × Nat) :=
  let hi := rowCoords (h.extents.drop 1) r
  (((List.range h.cont.per).map fun j => h.cont.per * u + j).filter fun j => j < h.e0).map fun j =>
    (j, (h.origin.zip (j :: hi)).map fun p => p.1 + p.2, r * h.e0 + j)

/-- The byte offset of the copy's origin in a team's allocation. -/
def W.hoistBase (w : W) (h : Hoist) (t : Nat) : Nat :=
  match h.win with
  | some n => match w.win t n with
    | some x => x.slot0 * 4096
    | none => 0
  | none => 0

/-- How a segment ends. -/
inductive SegRes where
  | ok (fl : BitVec 5)
  | skip (va : Nat)
  | bad (cause va : Nat)
  deriving DecidableEq, Repr

/-- The teams that a copy into the scratchpad writes. -/
def Hoist.dests (h : Hoist) : List Nat := if h.teams.isEmpty then [h.team] else h.teams

/-- A segment in progress: the package, the pages resolved, and what stopped it. -/
structure SegRd where
  w : W
  res : List (Nat × KvRes)
  err : Option SegRes := none

/-- The code that an element takes in the scratchpad, with its flags (12 R307, 15 R376). -/
def hoistIn (x : AccCtx) (h : Hoist) (q : SegRd) (ix : List Nat) (k : Nat) : SegRd × Nat × BitVec 5 :=
  if q.err.isSome || !tdInside h.desc ix then (q, 0, 0)
  else
    let r := drawOf h.seed.toNat h.seq.toNat k
    match q.w.eRead x h.desc q.res ix r h.raw with
    | (w, res, .nonres v) => ({ w := w, res := res, err := some (.skip v) }, 0, 0)
    | (w, res, .wait _) => ({ w := w, res := res, err := some (.skip 0) }, 0, 0)
    | (w, res, .bad c v) => ({ w := w, res := res, err := some (.bad c v) }, 0, 0)
    | (w, res, .ok v code fl) =>
      let q : SegRd := { w := w, res := res }
      if h.raw then (q, code, fl)
      else
        let c := h.spFmt.conv (tdRnd h.desc) r v
        (q, c.code, c.flags)

/-- One segment into the scratchpad: with the pages resolved and how it ends. -/
def W.segIn (w0 : W) (g : Nat) (h : Hoist) (seg : Nat) : W × List (Nat × KvRes) × SegRes :=
  let x : AccCtx := { g := g, pc := 0, scope := h.scope, ord := .rlx, rp := true, again := true }
  let c := h.cont
  let t0 := h.dests.headD 0
  let (q, ws, fl) := (h.units seg).foldl
    (fun (p : SegRd × List (Nat × List Byte) × BitVec 5) u =>
      if p.1.err.isSome then p
      else
        let (q, bs, fl) := (h.elems u.1 u.2.1).foldl (fun (r : SegRd × List Byte × BitVec 5) e =>
          let (q, code, fl) := hoistIn x h r.1 e.2.1 e.2.2
          (q, c.put e.1 code r.2.1, r.2.2 ||| fl))
          (p.1, p.1.w.spBytes t0 (p.1.w.hoistBase h t0 + u.2.2) c.unit, p.2.2)
        (q, p.2.1 ++ [(u.2.2, bs)], fl)) ({ w := w0, res := h.resolved }, [], 0)
  match q.err with
  | some e => (q.w, q.res, e)
  | none =>
    let w := h.dests.foldl (fun w t =>
      ws.foldl (fun w e =>
        (e.2.zipIdx.filter fun b => 512 * seg ≤ e.1 + b.2 && e.1 + b.2 < 512 * (seg + 1)).foldl
          (fun w b => w.spRaw t (w.hoistBase h t + e.1 + b.2) [b.1]) w) w) q.w
    (w, q.res, .ok fl)

/-- Bytes written by an engine at its scope; all of a range or none (11 R296, R297). -/
def W.engineStore (w : W) (core a : Nat) (sc : Scope) (va : Nat) (bs : List Byte) : W × SegRes :=
  match w.prep a va bs.length with
  | (w, .ok []) => (w.store core a sc va bs [], .ok 0)
  | (w, .ok (v :: _)) => (w, .skip v)
  | (w, .nonres v) => (w, .skip v)
  | (w, .bad c v) => (w, .bad c v)

/-- Writes an element's code for an engine. -/
def W.engineElem (w : W) (g core a : Nat) (sc : Scope) (d : Td) (ix : List Nat) (code : Nat) :
    W × SegRes :=
  match w.eTarget g d ix true with
  | .error (c, v) => (w, .bad c v)
  | .ok t =>
    let x : AccCtx := { g := g, pc := 0, scope := sc, ord := .rlx, rp := true, again := true }
    let put := fun (w : W) (bs : List Byte) => match t with
      | .va v => w.engineStore core a sc v bs
      | .ap n o => (w.aprWrite a n o bs, .ok 0)
      | _ => (w, .ok 0)
    match tdCont d with
    | .bytes n => put w (leBytes n (code % 256 ^ n))
    | cont => match w.laneRead x t cont.unit with
      | (w, .ok bs false) => put w (cont.put (ix.headD 0) code bs)
      | (w, .ok _ true) => (w, .skip (tgtAddr t))
      | (w, .bad c v) => (w, .bad c v)
      | (w, .wait _) => (w, .skip 0)

/-- One segment out of the scratchpad. -/
def W.segOut (w0 : W) (g : Nat) (h : Hoist) (seg : Nat) : W × List (Nat × KvRes) × SegRes :=
  let c := h.cont
  (h.units seg).foldl (fun (q : W × List (Nat × KvRes) × SegRes) u =>
    match q with
    | (w, res, .ok fl) =>
      let bs := w.spBytes h.team (w.hoistBase h h.team + u.2.2) c.unit
      (h.elems u.1 u.2.1).foldl (fun (r : W × List (Nat × KvRes) × SegRes) e =>
        match r with
        | (w, res, .ok fl) =>
          if !tdInside h.desc e.2.1 then (w, res, .ok fl)
          else
            let code := c.get e.1 bs
            let rnd := drawOf h.seed.toNat h.seq.toNat e.2.2
            let v := h.spFmt.dec code
            if tdType h.desc = 1 then
              match w.kvWrite g h.desc res e.2.1 rnd v with
              | (w, res, .ok fl2) => (w, res, .ok (fl ||| fl2))
              | (w, res, .nonres v) => (w, res, .skip v)
              | (w, res, .bad c v) => (w, res, .bad c v)
            else
              let cv : Cv := if h.raw then { code := code, flags := 0 } else tdEncode h.desc rnd v
              match w.engineElem g h.core h.asid h.scope h.desc e.2.1 cv.code with
              | (w, .ok _) => (w, res, .ok (fl ||| cv.flags))
              | (w, z) => (w, res, z)
        | r => r) (w, res, .ok fl)
    | q => q) (w0, h.resolved, .ok 0)

/-! ## The progress of a copy (12 R305, R308, R314) -/

/-- LIM of SR.FIXLIM in ac (12 R309). -/
def W.fixLim (w : W) (a : Nat) : Nat := max 1 (fld (w.srReg a .fixlim) 0 32) * acPerUs

def W.fixups (w : W) (c : Nat) : List Fixup := (aget w.c.spd.fixups c).getD []
def W.setFixups (w : W) (c : Nat) (l : List Fixup) : W :=
  { w with c.spd.fixups := aset w.c.spd.fixups c l }

/-- The windows that a copy fills. -/
def W.setChunk (w : W) (h : Hoist) (seg : Nat) : W :=
  match h.win with
  | none => w
  | some n => h.dests.foldl (fun w t => match w.win t n with
    | some x =>
      let x := { x with bits := x.bits ||| 2 ^ seg }
      let full := (List.range x.chunks).all x.bit
      w.setWin t n { x with state := if full then 2 else x.state }
    | none => w) w

/-- The mark of a WINCLR's wait, above the 128 chunks. -/
def clrMark : Nat := 2 ^ 128

/-- Lanes that wait for a failed chunk take its fault; a WINCLR's do not (12 R314, R315). -/
def W.failChunk (w : W) (h : Hoist) (seg cause va : Nat) : W :=
  match h.win with
  | none => w
  | some n => h.dests.foldl (fun w t => match w.win t n with
    | none => w
    | some x =>
      let w := w.setWin t n { x with failed := x.failed ++ [(seg, cause, va)] }
      (w.c.thr.frags.filter fun e => (w.group e.2.gid).team = t).foldl (fun w e =>
        match e.2.wake, e.2.place with
        | .chunk m mask, .ctx _ => if m = n && mask = 0 then w else w
        | .chunk m mask, _ =>
          if m = n && mask.testBit seg && !mask.testBit 128 then
            let ls := w.fragLanes e.2.gid e.1
            let pc := (w.lane e.2.gid (ls.headD 0)).pc
            (w.takeFault e.2.gid e.1 ls cause va 0 pc pc false).dropEmpty e.2.gid e.1
          else w
        | _, _ => w) w) w

/-- A copy whose segments have all ended is done, with the fault of its lowest failed one. DEDUCED:
SCALE_INVALID met by a conversion is recorded so too and raised where the operation is waited for, for
the copy has been issued by then; 02 R40 calls it precise at the issuing instruction (log entry 16). -/
def W.hoistEnd (w : W) (id : Nat) (h : Hoist) : W :=
  if h.segs.all fun s => h.done.contains s || h.failed.any fun f => f.1 = s then
    let low := minBy (fun (f : Nat × Nat × Nat) => f.1) h.failed
    let w := w.modOp id fun o => { o with done := true, fault := match low with
      | some f => some f.2
      | none => o.fault }
    -- a receiver's entry clears when its part has ended (12 R312), others at retirement (09 R254)
    if h.teams.isEmpty then w else w.dropRanges id
  else w

/-- A segment fails: its chunk's lanes take the fault. -/
def W.hoistFail (w : W) (id : Nat) (h : Hoist) (seg cause va : Nat) : W :=
  let h := { h with failed := h.failed ++ [(seg, cause, va)], inPlace := none }
  let w := w.modOp id fun o => { o with kind := .hoist h }
  let w := w.setFixups h.core ((w.fixups h.core).filter fun e => !(e.op = id && e.seg = seg))
  (w.failChunk h seg cause va).hoistEnd id h

/-- A segment meets a page that is not resident: it asks for the page and enters the fix-up list, or is
retried in place where the list is full. The time runs from when it first met this page (12 R308). -/
def W.hoistSkip (w : W) (id : Nat) (h : Hoist) (seg va : Nat) : W :=
  let w := (w.request h.core h.asid va).1
  let put := fun (w : W) (x : Option Stuck) =>
    w.modOp id fun o => { o with kind := .hoist { h with inPlace := x } }
  let since := fun (va0 t0 : Nat) => if va0 / 65536 = va / 65536 then t0 else w.ac
  if (w.fixups h.core).any fun e => e.op = id && e.seg = seg then
    put (w.setFixups h.core ((w.fixups h.core).map fun e =>
      if e.op = id && e.seg = seg then { e with va := va, since := since e.va e.since } else e)) none
  else if (w.fixups h.core).length < 256 then
    put (w.setFixups h.core (w.fixups h.core ++
      [{ op := id, seg := seg, va := va, asid := h.asid, since := match h.inPlace with
          | some x => since x.va x.since
          | none => w.ac }])) none
  else put w (some { seg := seg, va := va, since := match h.inPlace with
    | some x => since x.va x.since
    | none => w.ac })

/-- A segment is tried: it completes, it is skipped with a request for its page, or it fails. -/
def W.hoistTry (w : W) (id : Nat) (o : Op) (h : Hoist) (seg : Nat) : W :=
  if !h.segs.contains seg || h.done.contains seg || h.failed.any (fun f => f.1 = seg)
      || h.inPlace.any (fun x => x.seg ≠ seg) then w
  else
    match if h.g2s then w.segIn o.gid h seg else w.segOut o.gid h seg with
    | (w, res, .ok fl) =>
      let h := { h with done := h.done ++ [seg], resolved := res, inPlace := none }
      let w := w.modOp id fun o => { o with kind := .hoist h, flags := o.flags ||| fl }
      let w := (w.setChunk h seg).setFixups h.core
        ((w.fixups h.core).filter fun e => !(e.op = id && e.seg = seg))
      w.hoistEnd id h
    | (_, res, .skip va) => w.hoistSkip id { h with resolved := res } seg va
    | (_, res, .bad c va) => w.hoistFail id { h with resolved := res } seg c va

/-- HOIST_SEGMENT_COMPLETE: one segment that is not in the fix-up list is tried (12 R305, R308). -/
def execHoistSegmentComplete (op seg : Nat) (s : State) : Out1 :=
  step1 (fun w => match aget w.c.eng.ops op with
    | some o => match o.kind with
      | .hoist h =>
        if o.done || (w.team h.team).st = .saved ||
          ((w.fixups h.core).any fun e => e.op = op && e.seg = seg) then w
        else w.hoistTry op o h seg
      | _ => w
    | none => w) s

/-- The fix-up entries of a core that may be replayed: of operations whose other segments have ended, in
ascending segment order. -/
def W.replayable (w : W) (core : Nat) : List Fixup :=
  sortBy Fixup.seg ((w.fixups core).filter fun e => match aget w.c.eng.ops e.op with
    | some o => match o.kind with
      | .hoist h => h.segs.all fun s => h.done.contains s || (h.failed.any fun f => f.1 = s)
          || (w.fixups core).any fun x => x.op = e.op && x.seg = s
      | _ => false
    | none => false)

/-- FIXUP_REPLAY: the entries of a core are tried again, in ascending segment order (12 R308). -/
def execFixupReplay (core : Nat) (s : State) : Out1 :=
  step1 (fun w => (w.replayable core).foldl (fun w e => match aget w.c.eng.ops e.op with
    | some o => match o.kind with
      | .hoist h => w.hoistTry e.op o h e.seg
      | _ => w
    | none => w) w) s

/-- FIXUP_UNRESOLVED: a segment still not resident LIM µs after it first met the page fails
(12 R308). -/
def execFixupUnresolved (op seg : Nat) (s : State) : Out1 :=
  step1 (fun w => match aget w.c.eng.ops op with
    | some o => match o.kind with
      | .hoist h =>
        let listed := ((w.fixups h.core).find? fun e => e.op = op && e.seg = seg).map fun e => (e.va, e.since)
        let stuck := (h.inPlace.filter fun x => x.seg = seg).map fun x => (x.va, x.since)
        match listed.orElse fun _ => stuck with
        | some (va, t0) =>
          if (w.team h.team).st ≠ .saved && t0 + w.fixLim h.asid ≤ w.ac then
            w.hoistFail op h seg Cause.fixupUnresolved va
          else w
        | none => w
      | _ => w
    | none => w) s

/-! ## Checks at issue (12 R306, R307, R311) -/

/-- Checks 1, 2 and 3 of R311; `runs` says that the runs of origin and extents lie within the uniform
budget (12 R310). -/
def W.tileCheck (w : W) (d : Td) (runs : Bool) (fmto : Nat) (org ext : List Nat) (off pitch : Nat) :
    Option Nat :=
  let c := spCont d fmto
  if !w.tdTensor d then some Cause.tdInvalid
  else if !runs then some Cause.illegalOperand
  else if ext.any (fun e => e = 0) || (pitch ≠ 0 && (pitch % 4 ≠ 0 || pitch < c.row (ext.headD 0)))
      || off % 4 ≠ 0 then some Cause.illegalOperand
  else if !tdClamp d && (org.zip ext).zipIdx.any (fun e => tdSize d e.2 < e.1.1 + e.1.2) then
    some Cause.tdBounds
  else none

/-- Check 6 of R311: what R307 asks of the formats and of a raw PACK6 tile. -/
def tileFormat (g2s : Bool) (d : Td) (fmto : Nat) (org ext : List Nat) : Option Nat :=
  let raw := fmto = 0 || fmto = tdFmt d
  if raw && tdPack6 d && (org.headD 0 % 4 ≠ 0 || ext.headD 0 % 4 ≠ 0) then some Cause.illegalOperand
  else if !raw && (!convTarget (if g2s then fmto else tdFmt d) || fmtMx fmto) then
    some Cause.formatInvalid
  else none

/-- The slots that a tile's rows touch. -/
def tileSlots (c : Cont) (ext : List Nat) (pitch off : Nat) : List Nat :=
  let p := pitchOf c (ext.headD 0) pitch
  uniq ((List.range (tileRows ext)).map fun r => slotsOf (off + r * p) (c.row (ext.headD 0))).flatten

/-- A copy enters the Hoist: ORD is honoured, and a conversion under sr counts for each lane. -/
def W.hoistStart (w : W) (i : Issue) (es : List Nat) (f : EngF) (h : Hoist) : W × Nat :=
  let g := i.gid
  let l0 := es.headD 0
  let w := w.drainAll g
  let w := if f.ord = .rel || f.ord = .str then w.releaseAt g f.scope else w
  let w := if f.ord = .acq || f.ord = .str then w.acquireAt g f.scope else w
  let h := { h with seed := BitVec.ofNat 64 (w.seed g l0), seq := (w.lane g l0).seq }
  let w := if tdRnd h.desc = .sr && (!h.raw || tdType h.desc = 1) then es.foldl (fun w l => w.bumpSeq g l) w else w
  w.newOp { gid := g, cls := .tc, iaddr := i.pc, kind := .hoist h, scope := f.scope }

/-- Words of a run of uniform registers. -/
def Rd.nats (r : Rd) (o : Opnd) (n : Nat) : List Nat :=
  (List.range n).map fun k => (r.run o k 0).toNat

/-- TCOPY (12 R311). -/
def execTcopy (m : CopyDir) (f : EngF) : State → Out1 :=
  onceOp f.g fun r es w =>
    let g := r.i.gid
    let gr := w.group g
    let t := gr.team
    let d := w.td gr.asid f.tdi.toNat
    let n := tdNdim d
    let fmto := f.fmto.toNat
    let org := r.nats f.a n
    let ext := r.nats f.b n
    let off := (r.run f.c 0 0).toNat
    let pitch := (r.run f.c 1 0).toNat
    let g2s := m = .g2s
    match w.tileCheck d (w.runIn g f.a n && w.runIn g f.b n) fmto org ext off pitch with
    | some c => Eff.allFault w es c
    | none =>
      let c := spCont d fmto
      let stop := off + tileBytes c ext pitch
      if w.spbytes t < stop then Eff.allFault w es Cause.scratchBounds
      else if (tileSlots c ext pitch off).any fun s => (w.tag t s).win then
        Eff.allFault w es Cause.windowConflict
      else match tileFormat g2s d fmto org ext, w.rangeHit t off (stop - off) with
        | some c, _ => Eff.allFault w es c
        | none, some e => { w := w, park := some (.range e.start e.stop) }
        | none, none =>
          if w.countFull g .tc then Eff.allFault w es Cause.counterOverflow
          else match if g2s then w.rangeFull gr.core else none with
            | some k => { w := w, park := some k }
            | none =>
              let h : Hoist :=
                { g2s := g2s, core := gr.core, asid := gr.asid, team := t, desc := d, fmto := fmto
                  origin := org, extents := ext, off := off, pitch := pitch, scope := f.scope
                  ord := f.ord, seed := 0, seq := 0, win := none, teams := [], done := [], failed := []
                  resolved := [] }
              let (w, id) := w.hoistStart r.i es f h
              { w := if g2s then w.addRange t off stop id else w }

/-! ## Multicast (12 R312) -/

/-- The team of a rank in the cluster of a team, when it is placed. -/
def W.clusterTeam (w : W) (t rank : Nat) : Option Nat :=
  let tm := w.team t
  let cl := (w.grid tm.grid).cluster
  (w.c.slu.teams.find? fun e => e.2.grid = tm.grid && e.2.tlin = tm.tlin / cl * cl + rank).map Prod.fst

/-- TCOPYM. -/
def execTcopym (f : EngF) : State → Out1 :=
  onceOp f.g fun r es w =>
    let g := r.i.gid
    let gr := w.group g
    let t := gr.team
    let d := w.td gr.asid f.tdi.toNat
    let n := tdNdim d
    let fmto := f.fmto.toNat
    let org := r.nats f.a n
    let ext := r.nats f.b n
    let pitch := (r.run f.c 0 0).toNat
    let win := f.win.toNat
    let cl := (w.grid gr.grid).cluster
    let ranks := maskLanes f.eimm.toNat 16
    let c := spCont d fmto
    match w.tileCheck d (w.runIn g f.a n && w.runIn g f.b n) fmto org ext 0 pitch with
    | some c => Eff.allFault w es c
    | none =>
      let teams := ranks.filterMap (w.clusterTeam t)
      let okWin := fun u => match w.win u win with
        | some x => !x.touch && x.state = 0 && tileBytes c ext pitch ≤ x.slots * 4096
        | none => false
      if cl < 2 || ranks.isEmpty || 12 < ranks.length || ranks.any (fun k => cl ≤ k)
        || teams.length ≠ ranks.length || !teams.all okWin then
        Eff.allFault w es Cause.multicastTargetInvalid
      else if let some c := tileFormat true d fmto org ext then Eff.allFault w es c
      else if w.countFull g .tc then Eff.allFault w es Cause.counterOverflow
      else match teams.findSome? fun u => w.rangeFull (w.team u).core with
        | some k => { w := w, park := some k }
        | none =>
          let h : Hoist :=
            { g2s := true, core := gr.core, asid := gr.asid, team := t, desc := d, fmto := fmto
              origin := org, extents := ext, off := 0, pitch := pitch, scope := f.scope, ord := f.ord
              seed := 0, seq := 0, win := some win, teams := teams, done := [], failed := []
              resolved := [] }
          let (w, id) := w.hoistStart r.i es f h
          let used := tileChunks c ext pitch 0
          { w := teams.foldl (fun w u => match w.win u win with
              | none => w
              | some x =>
                let free := (List.range x.chunks).filter fun k => !used.contains k
                let w := w.setWin u win { x with
                  state := 1, op := some id, bits := free.foldl (fun b k => b ||| 2 ^ k) 0, failed := [] }
                w.addRange u (x.slot0 * 4096) ((x.slot0 + x.slots) * 4096) id) w }

/-! ## Windows (12 R313–R316) -/

/-- WINDEF. -/
def execWindef (m : WinKind) (f : EngF) : State → Out1 :=
  onceOp f.g fun r es w0 =>
    let g := r.i.gid
    let w := w0.drainAll g
    let gr := w.group g
    let t := gr.team
    let touch := m = .touch
    let n := f.win.toNat
    let d := if touch then w.td gr.asid f.tdi.toNat else 0
    let nd := tdNdim d
    let org := if touch then r.nats f.a nd else []
    let ext := if touch then r.nats f.b nd else []
    let s0 := (r.run f.c 0 0).toNat
    let cnt := (r.run f.c 1 0).toNat
    let pitch := (r.run f.c 2 0).toNat
    let slots := (List.range cnt).map fun k => s0 + k
    if (w.grid gr.grid).nwin ≤ n || (w.win t n).isSome then Eff.allFault w es Cause.windowConflict
    else if cnt = 0 || 16 < cnt then Eff.allFault w es Cause.illegalOperand
    else if w.spbytes t / 4096 < s0 + cnt then Eff.allFault w es Cause.scratchBounds
    else if slots.any fun s => (w.tag t s).win || (w.tag t s).state ≠ 0
        || (w.rangeHit t (4096 * s) 4096).isSome then Eff.allFault w es Cause.windowConflict
    else match if touch then
        (w.tileCheck d (w.runIn g f.a nd && w.runIn g f.b nd) f.fmto.toNat org ext 0 pitch).orElse fun _ => tileFormat true d f.fmto.toNat org ext
      else none with
      | some c => Eff.allFault w es c
      | none =>
        if touch && 4096 * cnt < tileBytes (spCont d f.fmto.toNat) ext pitch then
          Eff.allFault w es Cause.scratchBounds
        else if !touch && pitch ≠ 0 then Eff.allFault w es Cause.illegalOperand
        else
          let w := slots.foldl (fun w s => w.setTag t s { w.tag t s with win := true }) w
          { w := w.setWin t n
              { slot0 := s0, slots := cnt, touch := touch, desc := d, tdi := f.tdi.toNat
                fmto := f.fmto.toNat, origin := org.map (BitVec.ofNat 32)
                extents := ext.map (BitVec.ofNat 32), pitch := pitch, scope := f.scope, ord := f.ord } }

/-- Whether the copy of a window has not ended. -/
def W.filling (w : W) (x : Window) : Bool :=
  x.state = 1 && match x.op with
    | some id => match aget w.c.eng.ops id with
      | some o => !o.done
      | none => false
    | none => false

/-- WINCLR. -/
def execWincLr (m : BitVec 5) (f : Alu) : State → Out1 :=
  onceOp f.g fun r _ w =>
    let t := (w.group r.i.gid).team
    match w.win t m.toNat with
    | none => { w := w }
    | some x =>
      if w.filling x then { w := w, park := some (.chunk m.toNat (clrMark + 2 ^ 128 - 1)) }
      else
        let w := ((List.range x.slots).map fun k => x.slot0 + k).foldl (fun w s =>
          w.setTag t s { w.tag t s with win := false, state := 0, rcnt := 0 }) w
        { w := { w with c.spd.wins := adel w.c.spd.wins (t, m.toNat) } }

/-- The chunks that a mask selects (12 R316). -/
def chunkMask (r : Rd) (m : CbM) (f : Alu) (l : Nat) : Nat :=
  if m.quad then (List.range 4).foldl (fun x j => x + (r.run f.b j l).toNat * 2 ^ (32 * j)) 0
  else (r.b f l).toNat * 2 ^ (32 * m.k.toNat)

def Window.has (x : Window) (mask : Nat) : Bool := (maskLanes mask 128).all x.bit

/-- CBTEST: each lane of a v or p destination by its own value of the mask. -/
def execCbtest (m : CbM) (f : Alu) : State → Out1 :=
  oncePop f fun r es w =>
    match w.win (w.group r.i.gid).team m.win.toNat with
    | none => Eff.allFault w es Cause.windowConflict
    | some x =>
      let got := fun l => [wordOfBool (x.has (chunkMask r m f l))]
      match f.d with
      | .s _ => { w := w.dst r.i f.d 0 (got (r.onceLane f.b)) }
      | _ => { w := es.foldl (fun w l => w.dst r.i f.d l (got l)) w }

/-- CBWAIT. -/
def execCbwait (m : CbM) (f : Alu) : State → Out1 :=
  oncePop f fun r es w =>
    let g := r.i.gid
    let t := (w.group g).team
    let n := m.win.toNat
    match w.win t n with
    | none => Eff.allFault w es Cause.windowConflict
    | some x =>
      let mask := chunkMask r m f (r.onceLane f.b)
      if x.has mask then { w := w }
      else match (maskLanes mask 128).findSome? x.failedAt with
        | some (c, v) => Eff.allFault w es c v
        | none =>
          let start := x.state = 0 && x.touch
          if start && w.countFull g .tc then Eff.allFault w es Cause.counterOverflow
          else
            let w := if start then w.startWindow g t n x es else w
            { w := w, parks := es.map fun l => (l, .chunk n mask) }

end Sys2Proof.Machine
end

