-- ==== Sys2Proof/Machine/Coll.lean ====
section
/-! DEFINITION. Collectives among packages: communicators, joining, the fixed tree, completion and failure
(17 R418–R422). -/

namespace Sys2Proof.Machine

/-- An entry of the communicator table (17 R418). -/
structure Comm where
  p : Nat
  rank : Nat
  asid : Nat
  rsvd : Nat
  list : Nat
  deriving DecidableEq, Repr

def W.comm (w : W) (c : Nat) : Comm :=
  let bs := w.bytes (fld (w.blk .commBase 0) 8 44 * 256 + 16 * c) 16
  { p := fieldLE bs 0 2, rank := fieldLE bs 2 2, asid := fieldLE bs 4 2, rsvd := fieldLE bs 6 2
    list := fieldLE bs 8 8 }

/-- The packages of a communicator in rank order. -/
def W.commPkgs (w : W) (x : Comm) : List Nat :=
  (List.range x.p).map fun r => leNat (w.bytes (x.list + 2 * r) 2)

def collReduces (m : CollM) : Bool :=
  match m.op with
  | .allgat | .bcast => false
  | _ => true

/-- The buffer's descriptor with the effective format. -/
def collDesc (d : Td) (fmt : Nat) : Td := BitVec.ofNat 512 (d.toNat - tdFmt d * 256 + fmt * 256)

/-- The elements that the operation writes in the buffer of a rank (17 R420). -/
def Coll.writes (k : Coll) : List Nat :=
  let n := tdSize k.desc 0
  match k.m.op with
  | .redsc => (List.range (n / k.p)).map fun i => k.rank * (n / k.p) + i
  | .red => if k.rank = k.root then List.range n else []
  | _ => List.range n

/-! ## The fixed tree (17 R421) -/

/-- One combine of two values that are no NaN, in FP32. -/
def collCombine (m : CollComb) (a b : Fv) : Fv × BitVec 5 :=
  let c := match m with
    | .add => addWide fp32 false .rne 0 a b
    | .min => minMaxWide false false a b
    | .max => minMaxWide true false a b
  (fp32.dec c.code, c.flags)

/-- One level of the tree: neighbours combine, from the lowest rank. -/
def collLevel (m : CollComb) : List Fv → List Fv × BitVec 5
  | a :: b :: rest =>
    let (x, fl) := collCombine m a b
    let (xs, fl2) := collLevel m rest
    (x :: xs, fl ||| fl2)
  | xs => (xs, 0)

/-- The levels up to one value; a NaN that a sum of infinities made stays the default NaN. -/
def collTree (m : CollComb) : Nat → List Fv → Fv × BitVec 5
  | 0, xs => (xs.headD .zero, 0)
  | n + 1, xs =>
    match xs with
    | [] => (.zero, 0)
    | [x] => (x, 0)
    | xs =>
      let (ys, fl) := collLevel m xs
      let (r, fl2) := collTree m n ys
      (r, fl ||| fl2)

/-- One reduced element from the ranks' codes. -/
def collReduce (m : CollComb) (f : Fmt) (codes : List Nat) : Nat × BitVec 5 :=
  let xs := codes.map f.dec
  let (v, fl) := match firstNan xs with
    | some x => (x, snanFlag xs)
    | none => collTree m xs.length xs
  let c := f.conv .rne 0 v
  (c.code, fl ||| c.flags)

/-! ## The engine -/

def W.colls (w : W) (c : Nat) : List Coll := (aget w.c.fab.colls c).getD []
def W.setColls (w : W) (c : Nat) (l : List Coll) : W :=
  { w with c.fab.colls := aset w.c.fab.colls c l }

/-- What an own rank tells the others. -/
def Coll.part (k : Coll) (failed : Bool) (elems : List Nat) : CollPart :=
  { rank := k.rank, op := k.m.op, comb := k.m.comb, fmt := BitVec.ofNat 8 k.fmt
    n := tdSize k.desc 0, root := k.root, failed := failed, elems := elems }

def W.sendPart (w : W) (c : Nat) (p : CollPart) : W :=
  { w with c.fab.outbox := w.c.fab.outbox ++ [.part c p] }

/-- Writes codes into the buffer at the operation's scope; the first failure. -/
def W.collWrite (w : W) (k : Coll) (xs : List (Nat × Nat)) : W × SegRes :=
  let gr := w.group k.gid
  xs.foldl (fun (r : W × SegRes) e =>
    match r with
    | (w, .ok _) => w.engineElem k.gid gr.core k.asid k.f.scope k.desc [e.1] e.2
    | r => r) (w, .ok 0)

/-- The elements that the operation writes hold undefined values (17 R422); those that cannot be written
keep what they hold. -/
def W.collSpoil (w : W) (k : Coll) : W :=
  let gr := w.group k.gid
  (k.writes.foldl (fun w i =>
    (w.engineElem k.gid gr.core k.asid k.f.scope k.desc [i] (w.freeWord i).toNat).1) w).bumpFresh

/-- The operation at the head of a communicator ends. -/
def W.collEnd (w : W) (c : Nat) (k : Coll) (fl : BitVec 5) (fault : Option (Nat × Nat)) : W :=
  (w.setColls c ((w.colls c).drop 1)).modOp k.op fun x =>
    { x with done := true, flags := fl, fault := fault }

/-- The operation fails of itself: its rank counts as one that failed. -/
def W.collFail (w : W) (c : Nat) (k : Coll) (fault : Nat × Nat) : W :=
  ((w.collSpoil k).sendPart c (k.part true [])).collEnd c k 0 (some fault)

/-- A wait on a page that is not resident, LIM µs at most. -/
def W.collWait (w : W) (c : Nat) (k : Coll) (va : Nat) : W :=
  let t0 := k.since.getD w.ac
  if t0 + w.fixLim k.asid ≤ w.ac then w.collFail c k (Cause.fixupUnresolved, va)
  else
    let w := (w.request 0xFFFF k.asid va).1
    w.setColls c ({ k with since := some t0 } :: (w.colls c).drop 1)

/-- The head of a communicator reads its buffer and joins the others with it. -/
def W.collRead (w : W) (c : Nat) : W :=
  match w.colls c with
  | [] => w
  | k :: rest =>
    if k.elems.isSome then w
    else
      let x : AccCtx :=
        { g := k.gid, pc := 0, scope := k.f.scope, ord := .rlx, rp := true, again := true }
      let (w, res) := (List.range (tdSize k.desc 0)).foldl
        (fun (q : W × Except ERes (List Nat)) i => match q with
          | (w, .error e) => (w, .error e)
          | (w, .ok xs) => match w.eRead x k.desc [] [i] with
            | (w, _, .ok _ code _) => (w, .ok (xs ++ [code]))
            | (w, _, e) => (w, .error e)) (w, .ok [])
      match res with
      | .ok xs =>
        (w.setColls c ({ k with elems := some xs, since := none } :: rest)).sendPart c (k.part false xs)
      | .error (.bad cs v) => w.collFail c k (cs, v)
      | .error (.nonres v) => w.collWait c k v
      | .error _ => w

/-- What a collective gives each element of a rank's buffer, from the codes of all ranks. -/
def Coll.result (k : Coll) (all : Nat → List Nat) : List (Nat × Nat) × BitVec 5 :=
  let n := tdSize k.desc 0
  let f := fmtOf k.fmt
  let red := fun i => collReduce k.m.comb f ((List.range k.p).map fun r => (all r).getD i 0)
  match k.m.op with
  | .bcast => (k.writes.map fun i => (i, (all k.root).getD i 0), 0)
  | .allgat => (k.writes.map fun i => (i, (all (i / max 1 (n / k.p))).getD i 0), 0)
  | _ =>
    let flags := (List.range n).foldl (fun (x : BitVec 5) i => x ||| (red i).2) 0
    (k.writes.map fun i => (i, (red i).1), flags)

/-- COLL_COMPLETE: the parts of all other ranks have come for the oldest collective of a communicator. -/
def W.collComplete (w : W) (c : Nat) (parts : List CollPart) : W :=
  let w := w.collRead c
  match w.colls c with
  | [] => w
  | k :: _ => match k.elems with
    | none => w
    | some own =>
      let others := (List.range k.p).filter fun r => r ≠ k.rank
      let mine := k.part false own
      let part := fun r => parts.find? fun p => p.rank = r
      if others.any fun r => (part r).isNone then w
      else
        let ps := others.filterMap part
        let agrees := fun (p : CollPart) => p.op = mine.op && p.comb = mine.comb && p.fmt = mine.fmt
          && p.n = mine.n && p.root = mine.root
        if ps.any fun p => !p.failed && !agrees p then
          w.collEnd c k 0 (some (Cause.collectiveMismatch, 0))
        else if ps.any fun p => p.failed then
          (w.collSpoil k).collEnd c k 0 (some (Cause.fabricUnreachable, 0))
        else
          let all := fun r => if r = k.rank then own else ((part r).map fun p => p.elems).getD []
          let (xs, fl) := k.result all
          match w.collWrite k xs with
          | (w, .ok _) => w.collEnd c k fl none
          | (_, .skip v) => w.collWait c k v
          | (w, .bad cs v) => w.collFail c k (cs, v)

/-- The next collective of a communicator begins when it comes to the head. -/
def execCollComplete (comm : Nat) (parts : List CollPart) (s : State) : Out1 :=
  step1 (fun w => (w.collComplete comm parts).collRead comm) s

/-- COLL_JOIN_TIMEOUT: a member has not joined within TMO µs, or cannot be reached (17 R422). -/
def execCollJoinTimeout (comm : Nat) (s : State) : Out1 :=
  step1 (fun w => match w.colls comm with
    | [] => w
    | k :: _ =>
      if k.at_ + w.tmoAc ≤ w.ac || k.members.any (fun p => !w.reaches p) then
        ((w.collSpoil k).collEnd comm k 0 (some (Cause.fabricUnreachable, 0))).collRead comm
      else w) s

/-- COLL (17 R419, R420). -/
def execColl (m : CollM) (f : EngF) : State → Out1 :=
  onceOp f.g fun r es w =>
    let g := r.i.gid
    let gr := w.group g
    let d := w.td gr.asid f.tdi.toNat
    let fmto := f.fmto.toNat
    let fmt := if fmto = 0 then tdFmt d else fmto
    let c := f.eimm.toNat % 256
    let root := bits f.eimm.toNat 16 10
    let e := w.comm c
    let n := tdSize d 0
    let split := m.op = .redsc || m.op = .allgat
    if (if collReduces m then 3 < fmto else fmtMx fmto) then Eff.allFault w es Cause.formatInvalid
    else if !w.tdTensor d || tdNdim d ≠ 1 || tdScm d ≠ 0 || tdHad d ≠ 0 || tdClamp d then
      Eff.allFault w es Cause.tdInvalid
    else if collReduces m && !(1 ≤ fmt && fmt ≤ 3) then Eff.allFault w es Cause.formatInvalid
    else if e.p < 2 || 1024 < e.p || e.p ≤ e.rank || e.rsvd ≠ 0 || e.asid ≠ gr.asid || e.p ≤ root
      || (split && n % e.p ≠ 0) then Eff.allFault w es Cause.illegalOperand
    else if w.countFull g .co then Eff.allFault w es Cause.counterOverflow
    else
      let w := w.drainAll g
      let w := if f.ord = .rel then w.releaseAt g f.scope else w
      let (w, id) := w.newOp { gid := g, cls := .co, iaddr := r.i.pc, kind := .coll, scope := f.scope }
      let k : Coll :=
        { op := id, gid := g, asid := gr.asid, m := m, f := f, desc := collDesc d fmt, fmt := fmt
          p := e.p, rank := e.rank, root := root, at_ := w.ac, members := w.commPkgs e }
      let first := (w.colls c).isEmpty
      let w := w.setColls c (w.colls c ++ [k])
      { w := if first then w.collRead c else w }

end Sys2Proof.Machine
end

