-- ==== Sys2Proof/Machine/Fetch.lean ====
section
/-! DEFINITION. The front half of an issue: fetch, readiness, the choice of a slot, the decode checks
and the latching of the instruction (03 R62, R63, R93, 06 R138–R151). -/

namespace Sys2Proof.Machine

/-! ## What issues next (06 R149, R150) -/

/-- The lanes of a fragment whose issue count has reached 2,048, with the highest first. -/
def W.overdue (w : W) (g f : Nat) : Option Nat :=
  let ls := (w.runLanes g f).filter fun l => 2048 ≤ (w.lane g l).count
  minBy (fun l => (2 ^ 32 - (w.lane g l).count) * 2 ^ 64 + (w.lane g l).pc) ls

/-- The issue PC of a fragment: the lowest PC of its runnable lanes, or that of an overdue lane. -/
def W.issuePc (w : W) (g f : Nat) : Option Nat :=
  match w.overdue g f with
  | some l => some (w.lane g l).pc
  | none => (minBy id ((w.runLanes g f).map fun l => (w.lane g l).pc))

/-- The issue of a fragment with its active set; a replayed instruction comes first (06 R164). -/
def W.nextIssue (w : W) (f : Nat) : Option Issue :=
  let x := w.frag f
  let g := x.gid
  let run := w.runLanes g f
  let pcl : Option (Nat × List Nat × Bool) := match x.replay with
    | some (a, _) => if run.isEmpty then none else some (a, run, true)
    | none => match w.issuePc g f with
      | some pc => some (pc, run.filter fun l => (w.lane g l).pc = pc, false)
      | none => none
  match pcl with
  | none => none
  | some (pc, ls, rep) =>
    let all := (w.allLanes g).filter fun l =>
      (w.lane g l).st == .live || (w.lane g l).st == .held
    let conv := all.all fun l => ls.contains l
    some { core := (w.group g).core, gid := g, frag := f, lanes := ls
           idle := if conv then w.idleLanes g else [], conv := conv, pc := pc, replay := rep, again := x.skip = some pc }

/-! ## Fetch and decode (03 R61–R63, 06 R138, R139) -/

/-- What stands at an address for a group: no block yet, a failing check, or an instruction. -/
inductive Peek where
  | absent
  | bad (cause : Nat)
  | ok (i : Instr) (len : Nat)
  deriving DecidableEq, Repr

/-- The cause of each decode check (03 R63). -/
def decCause : DecErr → Nat
  | .reservedLength => Cause.reservedLength
  | .fetchStraddle => Cause.fetchStraddle
  | .illegalOpcode => Cause.illegalOpcode
  | .privilegedOp => Cause.privilegedOp
  | .reservedField => Cause.reservedField
  | .illegalOperand => Cause.illegalOperand
  | .short => Cause.fetchStraddle

/-- Checks 2 to 7 of 03 R63 on the bytes of a block from an offset, and the check of the formats that
the instruction names (02 R23, 18 R426). -/
def checkBytes (priv : Bool) (vb ub ofs : Nat) (block : List Byte) : Peek :=
  match block.drop ofs with
  | [] => .bad Cause.fetchStraddle
  | b :: bs =>
    match lenBytes b with
    | none => .bad Cause.reservedLength
    | some l =>
      if 32 < ofs + l then .bad Cause.fetchStraddle
      else match decode priv vb ub (b :: bs) with
        | .error e => .bad (decCause e)
        | .ok (i, n) => if fmtOk i then .ok i n else .bad Cause.formatInvalid

/-- What a group fetches at an address. -/
def W.peek (w : W) (c g pc : Nat) : Peek :=
  let gr := w.group g
  if pc % 4 ≠ 0 || 2 ^ 50 ≤ pc then .bad Cause.instrFetchFault
  else match aget (w.core c).icache (gr.asid, pc / 32 * 32) with
    | none => .absent
    | some blk => checkBytes (w.ctx gr.asid).priv gr.vb gr.ub (pc % 32) blk

/-! ## Readiness (06 R141, R147) -/

/-- Whether the window of a pending result ends before an instruction. -/
def Pend.ends (p : Pend) (endIt : Bool) : Bool :=
  match p.left with
  | some (_ + 1) => endIt
  | _ => true

/-- The results whose windows end before the next instruction and which have not landed. -/
def W.waitsFor (w : W) (f : Nat) (endIt : Bool) : List (Nat × Pend) :=
  w.c.thr.pends.filter fun e => e.2.frag = f && !e.2.landed && e.2.ends endIt

/-- Whether a fragment is held for the overflow latch (06 R161). -/
def W.latchHolds (w : W) (f : Nat) : Bool := !(w.frag f).hold.isEmpty

/-- What a fragment in a context is ready to issue (06 R141). -/
def W.ready (w : W) (f : Nat) : Option (Issue × Peek) :=
  let x := w.frag f
  match x.place, w.nextIssue f with
  | .ctx _, some i =>
    if w.ac < x.notBefore || w.latchHolds f then none
    else match w.peek i.core i.gid i.pc with
      | .absent => none
      | .bad c => if (w.waitsFor f true).isEmpty then some (i, .bad c) else none
      | .ok ins len =>
        if (w.waitsFor f (endsWindow ins)).isEmpty then some ({ i with len := len }, .ok ins len)
        else none
  | _, _ => none

/-! ## The issue itself -/

/-- The issuing lanes fault at the decode checks: one record of the active lanes (18 R427). -/
def W.issueFault (w : W) (i : Issue) (cause : Nat) : W :=
  (w.takeFault i.gid i.frag i.lanes cause i.pc 0 (w.faultPc i (i.lanes.map fun l =>
    { lane := l, cause := cause })) i.pc i.replay).shed i.gid i.frag

/-- The windows of a fragment go on by one instruction, or end (06 R145). -/
def W.stepWindows (w : W) (i : Issue) (endIt : Bool) : W :=
  { w with c.thr.pends := w.c.thr.pends.filterMap fun (e : Nat × Pend) =>
      if e.2.frag ≠ i.frag then some e
      else match e.2.left, endIt with
        | some (n + 1), false => some (e.1, { e.2 with left := some n, later := true })
        | _, _ => if e.2.landed then none else some (e.1, { e.2 with left := none, later := true }) }

/-- The counts of 06 R149: a lane that executes starts again, another has waited one issue more. -/
def W.stepCounts (w : W) (i : Issue) (g : Guard) : W :=
  let es := w.execLanes i g
  (w.runLanes i.gid i.frag).foldl (fun w l =>
    w.modLane i.gid l fun x => { x with count := if es.contains l then 0 else x.count + 1 }) w

/-- Whether the first instruction of a spawned or task group declares more than the team's budgets
(05 R128, R135). -/
def overBudget (gr : Group) (ins : Instr) : Bool :=
  gr.entry && match ins with
    | .nopEntry f => gr.vb < f.a.code || gr.ub < f.b.code
    | _ => false

/-- Issues what a fragment is ready for: a decode check, the yield meter or the entry's declaration
may fault it (03 R63, R93, 05 R128); otherwise the instruction is latched for its meaning. -/
def W.issueReady (w : W) (i : Issue) (p : Peek) : W :=
  let x := w.frag i.frag
  let gr := w.group i.gid
  match p with
  | .absent => w
  | .bad c => w.issueFault i c
  | .ok ins _ =>
    if fld (w.blk .ylimit 0) 0 64 < x.meter + weight ins then w.issueFault i Cause.yieldLimit
    else if overBudget gr ins then w.issueFault i Cause.budgetExceeded
    else
      let w := w.stepCounts i (insnGuard ins)
      let w := w.stepWindows i (endsWindow ins)
      let w := w.modFrag i.frag fun x =>
        { x with meter := if checkPoint ins then 0 else x.meter + weight ins
                 issued := w.ac, boost := false, replay := none, skip := none }
      let w := w.modGroup i.gid fun x =>
        { x with entry := false, perf.issues := x.perf.issues + 1 }
      { w with c.mdl.cur := i, c.mdl.dec := some ins
               c.mc.work := abump w.c.mc.work (gr.grid, i.core / 144) 1 }

/-! ## The occupancy of a slot (06 R144, 07 R183, 08 R207) -/

/-- Whether a reduction is one of FP32 values. -/
def redF32 : RedOp → Bool
  | .addF | .minF | .maxF => true
  | _ => false

/-- The ac for which an issue occupies its slot; `u` is 2 where the packed width exceeds 32. -/
def occupancy (u : Nat) : Instr → Nat
  | .madw _ _ => 2
  | .mad64 _ => 4
  | .gred m _ => if redF32 m then 2 else 1
  | .gscan m _ => if redF32 m.op then 2 else 1
  | .fadd _ _ | .fsub _ _ | .fmul _ _ | .ffma _ _ | .fmin _ _ | .fmax _ _ | .fcmp _ _ | .fclass _
  | .frint _ _ | .ffrac _ | .fldexp _ _ | .fcvt _ _ | .fsrnd _ _ | .fpack _ _ | .funpk _ _
  | .hfma2 _ _ | .hadd2 _ _ | .hmul2 _ _ | .bfma2 _ _ | .fdot2 _ _ | .fdot4 _ _
  | .frcp _ | .frsq _ | .fexp2 _ | .flog2 _ => u
  | .fsin _ | .fcos _ | .fsinpi _ | .fcospi _ | .ftanh _ | .fsincos _ => 2 * u
  | .fdiv _ _ | .fsqrt _ _ => 4 * u
  | .wmov _ _ | .wadd _ | .wmul _ | .wfma _ | .wmin _ _ | .wmax _ _ | .wlam _ | .wcvt _ _
  | .wsum _ | .wdot _ => 16 * u
  | .wrcp _ | .wexpn _ | .wlerp _ => 32 * u
  | .wfres _ _ => 64 * u
  | .smuel m _ => (if m then 64 else 128) * u
  | _ => 1

/-- Whether a slot can take another issue in this ac. -/
def W.slotFree (w : W) (c s : Nat) : Bool := ((aget (w.core c).busy s).getD 0) ≤ w.ac

/-- A slot is busy for the occupancy of an issue. -/
def W.keepBusy (w : W) (c s n : Nat) : W :=
  if n ≤ 1 then w else w.modCore c fun k => { k with busy := aset k.busy s (w.ac + n) }

/-! ## The choice of a slot (06 R142, R143) -/

/-- The fragments in the contexts of a slot, with their contexts. -/
def W.slotFrags (w : W) (c s : Nat) : List (Nat × Nat) :=
  (w.coreFrags c).filterMap fun e => match e.2.place with
    | .ctx k => if k / 16 = s then some (e.1, k) else none
    | _ => none

/-- The age of a fragment in a context: the ac at which its group first took one, then the lower
context (06 R142). -/
def W.age (w : W) (f : Nat) : Nat :=
  let x := w.frag f
  (w.group x.gid).born.getD 0 * 64 + match x.place with
    | .ctx k => k
    | _ => 0

/-- The ready fragments of a slot in the order of choice: boosted first, then the oldest. A busy slot
has none but those packed into the issue that goes on. -/
def W.candidates (w : W) (c s : Nat) : List Nat :=
  let free := w.slotFree c s
  let fs := ((w.slotFrags c s).map Prod.fst).filter fun f =>
    (free || w.c.mdl.pack.contains f) && (w.ready f).isSome
  sortBy (fun f => (if (w.frag f).boost then 0 else 2 ^ 80) + w.age f) fs

/-- Whether a fragment can be packed into the issue of another (06 R143). -/
def W.packs (w : W) (f f2 : Nat) : Bool :=
  match w.ready f, w.ready f2 with
  | some (i, .ok _ _), some (j, .ok _ _) =>
    i.pc = j.pc && (w.group i.gid).asid = (w.group j.gid).asid && !i.replay && !j.replay
  | _, _ => false

/-- The width of the group of a fragment. -/
def W.fragWidth (w : W) (f : Nat) : Nat := (w.group (w.frag f).gid).width

/-- The fragments packed into the issue of `f`, in age order, while the widths fit in 64 lanes. -/
def W.packed (w : W) (f : Nat) (others : List Nat) : List Nat :=
  let width := w.fragWidth
  ((sortBy w.age others).foldl (fun (acc : List Nat × Nat) x =>
    if w.packs f x && acc.2 + width x ≤ 64 then (acc.1 ++ [x], acc.2 + width x) else acc)
    ([], width f)).1

/-- SLOT_ISSUE: the slot issues the fragment it chooses, or the next one packed with it. Ready
fragments that are not chosen count an ac (18 R437). -/
def W.slotIssue (w : W) (c s : Nat) : W :=
  let cand := w.candidates c s
  match cand.filter fun f => w.c.mdl.pack.contains f with
  | f :: _ =>
    let w := { w with c.mdl.pack := w.c.mdl.pack.filter fun x => x ≠ f }
    match w.ready f with
    | some (i, p) => w.issueReady i p
    | none => w
  | [] => match cand with
    | [] => w
    | f :: rest =>
      let pk := w.packed f rest
      let w := { w with c.mdl.pack := pk }
      let w := (rest.filter fun x => !pk.contains x).foldl (fun w x =>
        w.modGroup (w.frag x).gid fun k => { k with perf.passed := k.perf.passed + 1 }) w
      match w.ready f with
      | some (i, p) =>
        let wide := 32 < ((f :: pk).map w.fragWidth).sum
        let n := match p with
          | .ok ins _ => occupancy (if wide then 2 else 1) ins
          | _ => 1
        (w.keepBusy c s n).issueReady i p
      | none => w

/-- SLOT_ISSUE as a step of the package. -/
def execSlotIssue (core slot : Nat) (s : State) : Out1 := step1 (fun w => w.slotIssue core slot) s

/-- FRAGMENT_BOOST: a ready fragment that has gone 1,024 ac without issuing is boosted (06 R142). -/
def execFragmentBoost (core ctx : Nat) (s : State) : Out1 :=
  step1 (fun w => match w.inCtx core ctx with
    | some f =>
      if (w.ready f).isSome && (w.frag f).issued + 1024 ≤ w.ac then
        w.modFrag f fun x => { x with boost := true }
      else w
    | none => w) s

/-- ISSUE_COUNT_SWITCH: the next issue of the fragment takes the PC of the lane that has waited
longest (06 R149). -/
def execIssueCountSwitch (core ctx : Nat) (s : State) : Out1 :=
  step1 (fun w => match w.inCtx core ctx with
    | some f => match w.overdue (w.frag f).gid f, w.ready f with
      | some _, some (i, p) => w.issueReady i p
      | _, _ => w
    | none => w) s

/-- The fragments in contexts of a core and ASID whose next instruction lies in a block. -/
def W.blockUsers (w : W) (c a blk : Nat) : List Issue :=
  (w.coreFrags c).filterMap fun e => match e.2.place with
    | .ctx _ => match w.nextIssue e.1 with
      | some i => if (w.group i.gid).asid = a && i.pc / 32 * 32 = blk then some i else none
      | none => none
    | _ => none

/-- The bytes of a block of code as the fetch reads them: translation with execute permission, then
memory (03 R63 check 1, 06 R138). -/
def W.fetchBlock (w : W) (a blk : Nat) : W × MRes (List Byte) :=
  match w.xlate a blk .exec (w.needU a) with
  | (w, .bad c v) => (w, .bad c v)
  | (w, .nonres v) => (w, .bad Cause.pageNotPresent v)
  | (w, .ok p) =>
    match w.meetSectors (p.pa blk) 32 with
    | (w, some c) => (w, .bad c blk)
    | (w, none) => match w.plain3 p.key (p.pa blk) 32 with
      | some bs => (w, .ok bs)
      | none => (w, .bad Cause.keyRevoked blk)

/-- A block enters the instruction cache; another leaves one that is full (01 R12). -/
def Core.intoCache (k : Core) (n : Nat) (b : Nat × Nat) (bs : List Byte) : AMap (Nat × Nat) (List Byte) :=
  let m := k.icache
  let rest := if m.length < Config.icacheBlocks then m
    else m.eraseIdx (Config.choice 46 n % m.length)
  aset rest b bs

/-- FETCH_BLOCK_ARRIVAL: the block enters the instruction cache, or the lanes that wait for it fault
(03 R63 check 1, 06 R138). -/
def execFetchBlockArrival (core asid block : Nat) (s : State) : Out1 :=
  step1 (fun w =>
    let blk := block / 32 * 32
    if (aget (w.core core).icache (asid, blk)).isSome then w
    else match w.fetchBlock asid blk with
      | (w, .ok bs) => w.modCore core fun k => { k with icache := k.intoCache w.c.mdl.fresh (asid, blk) bs }
      | (w, .bad c _) => (w.blockUsers core asid blk).foldl (fun w i =>
          (w.issueFault i c)) w
      | (w, .nonres _) => w) s

/-- Whether an operation is the oldest of its group and class (09 R255). -/
def W.oldest (w : W) (id : Nat) (o : Op) : Bool :=
  w.c.eng.ops.all fun e => !(e.2.gid = o.gid && e.2.cls = o.cls && e.1 < id)

/-- An operation leaves its counter; a fault recorded with it stays with the group until a WAITC
raises it (10 R281). -/
def W.dropOp (w : W) (id : Nat) (o : Op) : W :=
  let w := { w with c.eng.ops := adel w.c.eng.ops id }.orFlags o.gid o.flags
  match o.fault with
  | none => w
  | some (c, a) =>
    let d : Late := { cause := c, addr := a, iaddr := o.iaddr, cls := some o.cls, no := o.no }
    w.modGroup o.gid fun x => { x with deferred := x.deferred ++ [d] }

/-- An operation that has ended retires in the order of its class, and its results land (06 R146, R153,
09 R255); a result that no counter counts lands alone. -/
def W.retire (w : W) (id : Nat) : W :=
  if w.c.thr.pends.any fun e => e.2.op = id && !e.2.ready then w
  else match aget w.c.eng.ops id with
    | none => w.land id
    | some o => if o.done && w.oldest id o then ((w.dropOp id o).dropRanges id).land id else w

/-- RESULT_LANDING: the result of an operation lands in registers or records. -/
def execResultLanding (id : Nat) (s : State) : Out1 := step1 (fun w => w.retire id) s

/-- ENGINE_OPERATION_RETIRE: the oldest operation of a counter that has ended leaves it. -/
def execEngineOperationRetire (op : Nat) (s : State) : Out1 := step1 (fun w => W.retire w op) s

/-- LOOKAHEAD_HOLD_EXPIRY: 24 ac after their instruction issued, the lanes of a window that has ended
park with class RESULT when the result has not landed (06 R147). -/
def execLookaheadHoldExpiry (core ctx : Nat) (s : State) : Out1 :=
  step1 (fun w => match w.inCtx core ctx with
    | none => w
    | some f =>
      let g := (w.frag f).gid
      let endIt := match w.nextIssue f with
        | some i => match w.peek i.core i.gid i.pc with
          | .ok ins _ => endsWindow ins
          | _ => true
        | none => true
      match (w.waitsFor f endIt).find? fun e => e.2.at_ + 24 ≤ w.ac with
      | none => w
      | some e =>
        let ls := e.2.lanes.filter fun l => (w.lane g l).frag = f
        let pcs := uniq (ls.map fun l => (w.lane g l).pc)
        (pcs.foldl (fun w pc =>
          w.leave g f (ls.filter fun l => (w.lane g l).pc = pc) .result {}) w).shed g f) s

end Sys2Proof.Machine
end

