-- ==== Sys2Proof/Machine/Control.lean ====
section
/-! DEFINITION. The control instructions: branches, calls and returns, meeting points, the end of lanes,
yields, the live watermark (03 R77, R90, 06 R165–R180). -/

namespace Sys2Proof.Machine

/-! ## Transfers (06 R170–R175) -/

/-- The fault of a target (06 R170). -/
def targetFault (t : Dword) : Option Nat :=
  if t.toNat % 4 ≠ 0 || 2 ^ 50 ≤ t.toNat then some Cause.instrFetchFault
  else if t.toNat % 32 = 28 then some Cause.fetchStraddle
  else none

/-- The target of an offset (03 R68). -/
def offTarget (i : Issue) (f : Alu) : Dword :=
  BitVec.ofNat 64 i.pc + 4 * ((f.imm.getD 0).signExtend 64)

/-- A lane at a new PC; its fragment issues again 2 ac later (06 R138). -/
def W.goTo (w : W) (i : Issue) (l : Nat) (t : Dword) : W :=
  (w.modLane i.gid l fun x => { x with pc := t.toNat }).modFrag i.frag fun x =>
    { x with notBefore := w.ac + 2 }

/-- What a lane of a transfer does: go on, or go to a target after its check. -/
def toTarget (t : Dword) (more : List Word := []) : LOut :=
  match targetFault t with
  | some c => { fault := some (c, t.toNat) }
  | none => { vals := lo32 t :: hi32 t :: more }

/-- The writes of a transfer: the target. -/
def goWrite (i : Issue) (w : W) (l : Nat) (xs : List Word) : W :=
  match xs with
  | a :: b :: _ => w.goTo i l (dword a b)
  | _ => w

def execNop (f : Alu) : State → Out1 := nopOp f.g
def execNopEntry (f : Alu) : State → Out1 := nopOp f.g

def execBra (f : Alu) : State → Out1 :=
  run f.g (laneBodyW [] none goWrite fun r _ => toTarget (offTarget r.i f))

def execBrc (m : Cc) (f : Alu) : State → Out1 :=
  run f.g (laneBodyW [f.a, f.b] none goWrite fun r l =>
    if ccHolds m (r.word f.a l) (r.word f.b l) then toTarget (offTarget r.i f) else {})

def execBrx (f : Alu) : State → Out1 :=
  run f.g (laneBodyW [] none goWrite fun r l => toTarget (r.pair f.a l))

/-- The call depth of a lane at its limit. -/
def depthFault : LOut := { fault := some (Cause.callDepth, 0) }

/-- A lane's depth changed. -/
def W.setDepth (w : W) (i : Issue) (l : Nat) (h : Nat → Nat) : W :=
  w.modLane i.gid l fun x => { x with depth := h x.depth }

/-- CALL (06 R173). -/
def execCall (f : Alu) : State → Out1 :=
  let wr := fun (i : Issue) (w : W) (l : Nat) (xs : List Word) =>
    let ra : Dword := BitVec.ofNat 64 (nextPc i.pc i.len)
    goWrite i ((w.dst i f.d l [lo32 ra, hi32 ra]).setDepth i l (· + 1)) l xs
  run f.g (laneBodyW [] none wr fun r l =>
    let t := toTarget (offTarget r.i f)
    if t.fault.isSome then t
    else if (r.w.lane r.i.gid l).depth = 255 then depthFault else t)

/-- What the first instruction at a target declares: its counts, 256 and 192 when it is no NOP.entry,
nothing when it cannot be read (03 R90). A NOP.entry that fails the decode checks declares what an
instruction that is none does (DEDUCED, log entry 15). -/
def W.declares (w : W) (i : Issue) (t : Nat) : W × Option (Nat × Nat) :=
  let a := (w.group i.gid).asid
  let blk := t / 32 * 32
  let (w, got) := match aget (w.core i.core).icache (a, blk) with
    | some bs => (w, some bs)
    | none => match w.fetchBlock a blk with
      | (w, .ok bs) => (w, some bs)
      | (w, _) => (w, none)
  match got with
  | none => (w, none)
  | some bs => match checkBytes true 256 192 (t % 32) bs with
    | .ok (.nopEntry g) _ => (w, some (g.a.code, g.b.code))
    | _ => (w, some (256, 192))

/-- CALLX (06 R175, 03 R90). -/
def execCallx (f : Alu) : State → Out1 :=
  run f.g fun i es w0 =>
    let rd : Rd := { w := w0, i := i, es := es }
    let good := (es.map fun l => rd.pair f.a l).filter fun t => (targetFault t).isNone
    let (w1, ds) := (uniq good).foldl
      (fun (p : W × List (Dword × Option (Nat × Nat))) t =>
        let (w, d) := p.1.declares i t.toNat
        (w, p.2 ++ [(t, d)])) (w0, [])
    let gr := w0.group i.gid
    let below : Dword → Bool := fun t => match aget ds t with
      | some (some (n, m)) => gr.vb < n || gr.ub < m
      | _ => false
    let ra := nextPc i.pc i.len
    let rw : Dword := BitVec.ofNat 64 ra
    let wr := fun (i : Issue) (w : W) (l : Nat) (xs : List Word) =>
      let m : Dword := BitVec.ofNat 64 (w.lane i.gid l).meet
      let w := w.dst i f.d l [lo32 rw, hi32 rw, lo32 m, hi32 m]
      let w := w.modLane i.gid l fun x => { x with meet := ra, depth := x.depth + 1 }
      goWrite i w l xs
    laneBodyW [] none wr (fun r l =>
      let t := r.pair f.a l
      let o := toTarget t
      if o.fault.isSome then o
      else if below t then { fault := some (Cause.budgetExceeded, t.toNat) }
      else if (r.w.lane r.i.gid l).depth = 255 then depthFault
      else o) i es w1

/-- RET (06 R174). -/
def execRet (f : Alu) : State → Out1 :=
  run f.g (laneBodyW [] none (fun i w l xs => goWrite i (w.setDepth i l (· - 1)) l xs) fun r l =>
    if (r.w.lane r.i.gid l).depth = 0 then depthFault else toTarget (r.pair f.a l))

/-! ## Meeting points (06 R165–R168, R176, R177) -/

/-- MEET. -/
def execMeet (f : Alu) : State → Out1 :=
  run f.g (laneBodyW [] none (fun i w l xs =>
      (w.dst i f.d l xs).modLane i.gid l fun x =>
        { x with meet := (offTarget i f).toNat % 2 ^ 56 }) fun r l =>
    let m : Dword := BitVec.ofNat 64 (r.w.lane r.i.gid l).meet
    { vals := [lo32 m, hi32 m] })

/-- The idle lanes that JOINF makes: every lane of the group that has exited (06 R167). -/
def W.makeIdle (w : W) (g : Nat) : W :=
  (w.allLanes g).foldl (fun w l =>
    if (w.lane g l).st == .exited then w.modLane g l fun x => { x with st := .idle } else w) w

/-- The release of a meeting set into the context of the issue (06 R166, R177). -/
def W.releaseSet (w : W) (i : Issue) (a : Opnd) (fin : Bool) : W :=
  let set := w.meetingSet i.gid i.pc
  let w := (w.absorb i.gid i.frag set).unhold i.gid set
  let rd : Rd := { w := w, i := i }
  let vals := set.map fun l => (l, (rd.pair a l).toNat % 2 ^ 56 / 4 * 4)
  let w := vals.foldl (fun w e => w.modLane i.gid e.1 fun x =>
    { x with meet := e.2, pc := nextPc i.pc i.len }) w
  if fin then w.makeIdle i.gid else w

/-- A JOIN of executing lanes: those without a meeting point fault, those with another pass, the rest
are held, and go on when the whole set is there. -/
def joinBody (a : Opnd) (fin : Bool) (i : Issue) (es : List Nat) (w0 : W) : Eff :=
  let bad := es.filter fun l => (w0.lane i.gid l).meet = 0
  let here := es.filter fun l => (w0.lane i.gid l).meet = i.pc
  let w := here.foldl (fun w l => w.modLane i.gid l fun x => { x with st := .held, pc := i.pc }) w0
  let w := if !here.isEmpty && w.meetingFull i.gid i.pc then w.releaseSet i a fin else w
  let faults : List LFault := bad.map fun l => { lane := l, cause := Cause.badMeeting }
  { w := if faults.isEmpty then w.shed i.gid i.frag else w, faults := faults, leaves := true }

def execJoin (f : Alu) : State → Out1 := run f.g (joinBody f.a false)
def execJoinf (f : Alu) : State → Out1 := run f.g (joinBody f.a true)

/-! ## EXIT (06 R178, 10 R281, 13 R346) -/

/-- The end of a group's last lanes: while operations are outstanding, what a later recorded fault
needs is kept. -/
def W.lastExit (w : W) (i : Issue) (es : List Nat) : W :=
  if w.c.eng.ops.any fun e => e.2.gid = i.gid then
    let w := w.modGroup i.gid fun x => { x with fin := es, finPc := i.pc, finFrag := i.frag }
    { w with c.thr.frags := adel w.c.thr.frags i.frag }
  else w.dropFrag i.frag

/-- EXIT. -/
def exitBody (i : Issue) (es : List Nat) (w0 : W) : Eff :=
  let g := i.gid
  let last := (w0.allLanes g).all fun l =>
    es.contains l || (w0.lane g l).st == .exited || (w0.lane g l).st == .idle
  let susp := w0.suspended g
  match last, (w0.group g).deferred, susp with
  | true, d :: ds, _ =>
    Eff.allFault (w0.modGroup g fun x => { x with deferred := ds }) es d.cause d.addr
  | true, [], e :: _ => { w := w0.raiseSusp i es e, leaves := true }
  | _, _, _ =>
    let w := w0.exitLanes g es
    { w := if last then w.lastExit i es
        else if (w.fragLanes g i.frag).isEmpty then w.dropFrag i.frag
        else w.shed g i.frag
      leaves := true }

def execExit (f : Alu) : State → Out1 := run f.g exitBody

/-! ## YIELD, SETLIVE (06 R179, R180) -/

/-- Whether a core has work that waits for a context. -/
def W.otherWork (w : W) (c : Nat) : Bool :=
  (w.fifoHead c).isSome || ((w.core c).unstarted.any fun e => w.teamRuns e.1) ||
    ((w.core c).spawns.any fun r => w.teamRuns r.team) || (w.ripeGroup c).isSome

/-- YIELD. -/
def execYield (f : Alu) : State → Out1 :=
  run f.g fun i _ w =>
    let t := (w.group i.gid).team
    if (w.team t).st == .stopping then { w := w.writePre i.gid i.frag, leaves := true }
    else if w.otherWork i.core && (w.freeCtx i.core).isNone then
      { w := w.writeOut i.gid i.frag id, leaves := true }
    else { w := w }

/-- SETLIVE. -/
def execSetlive (f : Alu) : State → Out1 :=
  onceOp f.g fun r es w =>
    let x := (r.b f 0).toNat
    let gr := w.group r.i.gid
    let lv := bits x 0 9
    let ls := bits x 16 8
    if gr.vb < lv || gr.ub < ls then Eff.allFault w es Cause.illegalOperand
    else { w := w.modFrag r.i.frag fun y => { y with lv := lv, ls := ls } }

end Sys2Proof.Machine
end

