-- ==== Sys2Proof/Machine/Matrix.lean ====
section
/-! DEFINITION. The matrix engines: tiles and slots, the matrix instructions, their steps, suspension and
replay (13 R327–R347). -/

namespace Sys2Proof.Machine

/-! ## Tiles and slots of teams (13 R327, R330–R332) -/

def W.mtx (w : W) (h : Matrix → Matrix) : W := { w with c.eng.mx := h w.c.eng.mx }

/-- The allocation that stands for a team's tile or slot of a logical name. -/
def W.tileOf (w : W) (t n : Nat) : Option Nat := aget w.c.eng.mx.tiles (t, n)
def W.slotOf (w : W) (t n : Nat) : Option Nat := aget w.c.eng.mx.slots (t, n)

/-- The held masks of a team. -/
def W.heldTiles (w : W) (t : Nat) : Nat :=
  laneMask ((List.range 8).filter fun n => (w.tileOf t n).isSome)
def W.heldSlots (w : W) (t : Nat) : Nat :=
  laneMask ((List.range 8).filter fun n => (w.slotOf t n).isSome)

/-- The tiles, and the slots, that an operation works on. -/
def Mx.tilesOf (m : Mx) : List Nat :=
  m.tile.toList ++ match m.kind with
    | .zero ts => ts
    | _ => []
def Mx.slotsOf (m : Mx) : List Nat := m.slot.toList

/-- The matrix operations outstanding, in the order of their issue. -/
def W.mxOps (w : W) : List (Nat × Op × Mx) :=
  w.c.eng.ops.filterMap fun e => (e.2.kind.mx?).map fun m => (e.1, e.2, m)

/-- Whether an outstanding operation works on an allocation. -/
def W.mxUses (w : W) (slot : Bool) (id : Nat) : Bool :=
  w.mxOps.any fun e => (if slot then e.2.2.slotsOf else e.2.2.tilesOf).contains id

/-- Whether a team stands on a core: its tiles and slots take that core's. -/
def W.teamOn (w : W) (c t : Nat) : Bool := (w.team t).core = c && (w.team t).st ≠ .saved

/-- The free physical tiles and slots of a core (13 R331, R347). -/
def W.freeTiles (w : W) (c : Nat) : Nat :=
  8 - (w.c.eng.mx.tiles.filter fun e => w.teamOn c e.1.1).length -
    (w.c.eng.mx.freeing.filter fun e => e.1 = c && !e.2.1 && w.mxUses false e.2.2).length
def W.freeSlots (w : W) (c : Nat) : Nat :=
  8 - (w.c.eng.mx.slots.filter fun e => w.teamOn c e.1.1).length -
    (w.c.eng.mx.freeing.filter fun e => e.1 = c && e.2.1 && w.mxUses true e.2.2).length

def W.mxTile (w : W) (t n : Nat) : W :=
  let (w, id) := w.newId
  w.mtx fun x => { x with tiles := aset x.tiles (t, n) id }
def W.mxSlot (w : W) (t n : Nat) : W :=
  let (w, id) := w.newId
  w.mtx fun x => { x with slots := aset x.slots (t, n) id, ws := aset x.ws id {} }

/-- A name is released; its allocation stays until no operation works on it. -/
def W.dropTile (w : W) (t n : Nat) : W :=
  match w.tileOf t n with
  | none => w
  | some id => w.mtx fun x =>
    { x with tiles := adel x.tiles (t, n), freeing := x.freeing ++ [((w.team t).core, false, id)] }
def W.dropSlot (w : W) (t n : Nat) : W :=
  match w.slotOf t n with
  | none => w
  | some id => w.mtx fun x =>
    { x with slots := adel x.slots (t, n), freeing := x.freeing ++ [((w.team t).core, true, id)] }

/-- What no operation works on any more is gone. -/
def W.mxPurge (w : W) : W :=
  let gone := w.c.eng.mx.freeing.filter fun e => !w.mxUses e.2.1 e.2.2
  w.mtx fun x =>
    { x with
      freeing := x.freeing.filter fun e => !gone.contains e
      acc := x.acc.filter fun e => !(gone.any fun f => !f.2.1 && f.2.2 = e.1.1)
      ws := x.ws.filter fun e => !(gone.any fun f => f.2.1 && f.2.2 = e.1) }

/-- A team's tiles and slots are freed at its exit (13 R347). -/
def W.mxRelease (w : W) (t : Nat) : W :=
  let w := (List.range 8).foldl (fun w n => (w.dropTile t n).dropSlot t n) w
  w.mxPurge

def W.acc (w : W) (id m n : Nat) : Word := (aget w.c.eng.mx.acc (id, m, n)).getD 0
def W.setAcc (w : W) (id : Nat) (xs : List ((Nat × Nat) × Word)) : W :=
  w.mtx fun x =>
    { x with acc := (x.acc.filter fun e => !(e.1.1 = id && xs.any fun y => y.1 = e.1.2)) ++
        (xs.filter fun y => y.2 ≠ 0).map fun y => ((id, y.1.1, y.1.2), y.2) }
def W.ws (w : W) (id : Nat) : WSlot := (aget w.c.eng.mx.ws id).getD {}
def W.setWs (w : W) (id : Nat) (s : WSlot) : W := w.mtx fun x => { x with ws := aset x.ws id s }
def W.zeroTile (w : W) (id : Nat) : W :=
  w.mtx fun x => { x with acc := x.acc.filter fun e => e.1.1 ≠ id }

/-! ## The frame of a matrix instruction (13 R328, R346) -/

/-- The operation that a replayed instruction continues. -/
def W.replayed (w : W) (i : Issue) : Option (Nat × Op × Mx) :=
  if i.replay then
    w.mxOps.find? fun e => e.2.1.gid = i.gid && e.2.1.iaddr = i.pc && e.2.2.susp.isSome && e.2.2.raised
  else none

/-- The window of an MXVEC opens for its lanes. -/
def W.vecPend (w : W) (i : Issue) (id lah : Nat) (lanes : List Nat) (d : Opnd) (n : Nat) : W :=
  w.openPend i id lah lanes (runV d n) [] none

/-- Every matrix instruction but MXPROG: convergence, the suspended operation that it raises first, and
the operation that it continues when it is replayed. -/
def mxRun (g : Guard) (again : W → Issue → List Nat → Nat × Op × Mx → W)
    (k : Rd → List Nat → W → Eff) : State → Out1 :=
  onceOp g fun r es w =>
    match w.replayed r.i with
    | some e =>
      let m := { e.2.2 with susp := none, raised := false }
      { w := again (w.setOp e.1 { e.2.1 with kind := .mx m }) r.i es e }
    | none =>
      if !r.i.conv then Eff.allFault w es Cause.illegalConvergence
      else match w.suspended r.i.gid with
        | e :: _ => { w := w.raiseSusp r.i es e, leaves := true }
        | [] => k r es w

def noAgain (w : W) (_ : Issue) (_ : List Nat) (_ : Nat × Op × Mx) : W := w

/-! ## MXALLOC, MXFREE, MXZERO, MXPROG (13 R330–R332) -/

/-- MXALLOC. -/
def execMxalloc (f : Alu) : State → Out1 :=
  mxRun f.g noAgain fun r es w =>
    let t := (w.group r.i.gid).team
    let c := (w.group r.i.gid).core
    let b := (r.word f.b 0).toNat
    let ts := maskLanes (bits b 0 8) 8
    let ss := maskLanes (bits b 8 8) 8
    if (ts.any fun n => (w.tileOf t n).isSome) || ss.any fun n => (w.slotOf t n).isSome then
      Eff.allFault w es Cause.matrixState
    else if ts.length ≤ w.freeTiles c && ss.length ≤ w.freeSlots c then
      let w := ts.foldl (fun w n => w.mxTile t n) w
      let w := ss.foldl (fun w n => w.mxSlot t n) w
      { w := w.dst r.i f.d 0 [1] }
    else { w := w.dst r.i f.d 0 [0] }

/-- MXFREE. -/
def execMxfree (f : Alu) : State → Out1 :=
  mxRun f.g noAgain fun r es w =>
    let t := (w.group r.i.gid).team
    let b := (r.word f.b 0).toNat
    let ts := maskLanes (bits b 0 8) 8
    let ss := maskLanes (bits b 8 8) 8
    if (ts.any fun n => (w.tileOf t n).isNone) || ss.any fun n => (w.slotOf t n).isNone then
      Eff.allFault w es Cause.matrixState
    else
      let w := ts.foldl (fun w n => w.dropTile t n) w
      let w := ss.foldl (fun w n => w.dropSlot t n) w
      { w := w.mxPurge }

/-- MXZERO: at once, or in engine order behind the operations on its tiles; it is not counted, so that
its entry belongs to no group. -/
def execMxzero (f : Alu) : State → Out1 :=
  mxRun f.g noAgain fun r es w =>
    let gr := w.group r.i.gid
    let names := maskLanes (bits (r.word f.b 0).toNat 0 8) 8
    let ids := names.filterMap fun n => w.tileOf gr.team n
    if ids.length ≠ names.length then Eff.allFault w es Cause.matrixState
    else if !(ids.any fun x => w.mxUses false x) then { w := ids.foldl (fun w x => w.zeroTile x) w }
    else
      let (w, id) := w.newId
      let m : Mx :=
        { kind := .zero ids, team := gr.team, core := gr.core, asid := gr.asid
          f := { g := .always, x := 0, d := .v 0, a := .v 0, b := .v 0, c := .v 0, kb := 0, fmta := 0
                 fmtb := 0, tda := 0, tdb := 0, acc := 0, spa := .glob, rnd := .rne, arr := .arr0
                 scope := .th, ord := .rlx } }
      { w := w.setOp id { gid := 0, cls := .mx, iaddr := r.i.pc, kind := .mx m } }

/-- The major opcode of an operation. -/
def MxKind.opc : MxKind → Nat
  | .mma _ => 0xE3 | .vec _ => 0xE4 | .ldw _ => 0xE5 | .lda => 0xE6 | .st => 0xE7 | .had _ => 0xE8
  | .qnt => 0xE9 | .zero _ => 0xE2

/-- MXPROG. -/
def execMxprog (m : ProgM) (f : Alu) : State → Out1 :=
  onceOp f.g fun r es w =>
    let gr := w.group r.i.gid
    if !r.i.conv then Eff.allFault w es Cause.illegalConvergence
    else match m with
      | .held =>
        let x := w.heldTiles gr.team + w.heldSlots gr.team * 2 ^ 8 + w.freeTiles gr.core * 2 ^ 16
          + w.freeSlots gr.core * 2 ^ 20
        { w := w.dst r.i f.d 0 [BitVec.ofNat 32 x] }
      | .susp => match w.mxOps.find? fun e => e.2.1.gid = r.i.gid && e.2.2.susp.isSome with
        | none => { w := w.dst r.i f.d 0 [0, 0, 0] }
        | some e =>
          let (c, a) := e.2.2.susp.getD (0, 0)
          let x := 2 ^ 31 + c % 128 * 2 ^ 24 + e.2.2.prog % 4096 * 2 ^ 12 + e.2.2.kind.opc
          { w := w.dst r.i f.d 0 [BitVec.ofNat 32 x, BitVec.ofNat 32 a, BitVec.ofNat 32 (a / 2 ^ 32)] }

/-! ## Checks at issue (13 R333, R336) -/

/-- The formats of matrix operands. -/
def mxFmt (c : Nat) : Bool := (2 ≤ c && c ≤ 0x0B) || fmtMx c || 0x80 ≤ c

/-- The format an operand is used in: the instruction's, or the descriptor's. -/
def mxEff (fmt : Nat) (d : Td) : Nat := if fmt = 0 then tdFmt d else fmt

/-- Whether an operand is converted: into another format, or through a Hadamard transform. -/
def mxConvs (fmt : Nat) (d : Td) : Bool := mxEff fmt d ≠ tdFmt d || tdHad d ≠ 0

/-- One operand of a matrix instruction: its descriptor, the register of its origin, its origin, its
extents along dimensions 0 and 1, and whether it lies in the scratchpad and takes a transform. -/
structure MxOpnd where
  d : Td
  o : Opnd
  org : List Nat
  e0 : Nat
  e1 : Nat
  sp : Bool
  had : Bool
  deriving DecidableEq, Repr

def MxOpnd.ext (x : MxOpnd) : List Nat := [x.e0, x.e1] ++ List.replicate (tdNdim x.d - 2) 1

def mxOpnd (r : Rd) (w : W) (td : BitVec 10) (o : Opnd) (e0 e1 : Nat) (sp had : Bool) : MxOpnd :=
  let d := w.td (w.group r.i.gid).asid td.toNat
  { d := d, o := o, org := r.nats o (tdNdim d), e0 := e0, e1 := e1, sp := sp, had := had }

/-- Check 2. -/
def W.mxTd (w : W) (x : MxOpnd) : Bool := w.tdTensor x.d && 2 ≤ tdNdim x.d

/-- Check 5: the run of the origin, and the alignment of a transform. -/
def W.mxRunOk (w : W) (g : Nat) (x : MxOpnd) : Bool :=
  let inBudget := match x.o with
    | .s n => n.val + tdNdim x.d ≤ (w.group g).ub
    | _ => false
  let b := tdHadB x.d
  inBudget && (!x.had || b = 0 ||
    (x.org.getD (tdHdim x.d) 0 % b = 0 && x.ext.getD (tdHdim x.d) 0 % b = 0))

/-- Check 6. -/
def MxOpnd.inSize (x : MxOpnd) : Bool :=
  tdClamp x.d || (x.org.zip x.ext).zipIdx.all fun e => e.1.1 + e.1.2 ≤ tdSize x.d e.2

/-- Check 7: the bytes of the elements that exist. -/
def MxOpnd.inScratch (x : MxOpnd) (top : Nat) : Bool :=
  let lo := x.org
  let hi := (x.org.zip x.ext).zipIdx.map fun e => min (e.1.1 + e.1.2) (tdSize x.d e.2) - 1
  if (lo.zip hi).any fun e => e.2 < e.1 then true
  else
    let base := fun (ix : List Nat) => tdAddrInt x.d ix
    let pick := fun (big : Bool) => (lo.zip hi).zipIdx.map fun e =>
      if e.2 = 0 then (if big then e.1.2 else e.1.1)
      else if (0 ≤ tdStr x.d e.2) == big then e.1.2 else e.1.1
    0 ≤ base (pick false) && base (pick true) + (tdCont x.d).unit ≤ top

/-- Checks 2 to 8 in order, with the instruction's own checks of formats and limits between them. -/
def W.mxCheck (w : W) (g : Nat) (xs : List MxOpnd) (fmts : Bool) (orient : Bool) (lim : Bool) :
    Option Nat :=
  let top := w.spbytes (w.group g).team
  if xs.any fun x => !w.mxTd x then some Cause.tdInvalid
  else if !fmts then some Cause.formatInvalid
  else if !orient then some Cause.matrixFormat
  else if (xs.any fun x => !w.mxRunOk g x) || !lim then some Cause.illegalOperand
  else if xs.any fun x => !x.inSize then some Cause.tdBounds
  else if xs.any fun x => x.sp && !x.inScratch top then some Cause.scratchBounds
  else if w.countFull g .mx then some Cause.counterOverflow
  else none

/-- An operation enters the engine: ORD is honoured, and a draw counts for every lane. -/
def W.mxStart (w : W) (i : Issue) (es : List Nat) (m : Mx) (sr : Bool) : W × Nat :=
  let g := i.gid
  let gr := w.group g
  let l0 := es.headD 0
  let f := m.f
  let w := w.drainAll g
  let w := if f.ord = .rel || f.ord = .str then w.releaseAt g f.scope else w
  let w := if f.ord = .acq || f.ord = .str then w.acquireAt g f.scope else w
  let m := { m with
    team := gr.team, core := gr.core, asid := gr.asid
    seed := BitVec.ofNat 64 (w.seed g l0), seq := (w.lane g l0).seq }
  let w := if sr then es.foldl (fun w l => w.bumpSeq g l) w else w
  w.newOp { gid := g, cls := .mx, iaddr := i.pc, kind := .mx m, scope := f.scope }

def isScratch (f : MatF) : Bool := f.spa = .scratch

/-! ## The instructions (13 R334, R339–R343) -/

/-- MXMMA. -/
def execMxmma (m : MmaM) (f : MatF) : State → Out1 :=
  mxRun f.g noAgain fun r es w =>
    let g := r.i.gid
    let t := (w.group g).team
    let k := 32 * f.kb.toNat
    let a := mxOpnd r w f.tda f.a k 128 (isScratch f) true
    let b := if m.t then mxOpnd r w f.tdb f.b k 128 false true
      else mxOpnd r w f.tdb f.b 128 k false true
    let slot := w.slotOf t m.slot.toNat
    match w.tileOf t f.acc.toNat with
    | none => Eff.allFault w es Cause.matrixState
    | some tile =>
      if m.ws && slot.isNone then Eff.allFault w es Cause.matrixState
      else
        let xs := if m.ws then [a] else [a, b]
        let fmts := mxFmt (mxEff f.fmta.toNat a.d) && (m.ws || mxFmt (mxEff f.fmtb.toNat b.d))
        match w.mxCheck g xs fmts (m.ws || m.t || !fmtMx (tdFmt b.d)) true with
        | some c => Eff.allFault w es c
        | none =>
          let srA := (mxConvs f.fmta.toNat a.d || tdType a.d = 1) && tdRnd a.d = .sr
          let srB := !m.ws && (mxConvs f.fmtb.toNat b.d || tdType b.d = 1) && tdRnd b.d = .sr
          let x : Mx :=
            { kind := .mma m, team := 0, core := 0, asid := 0, f := f, da := a.d, db := b.d
              oa := a.org, ob := b.org, tile := some tile, slot := if m.ws then slot else none }
          { w := (w.mxStart r.i es x (srA || srB)).1 }

/-- MXLDW. -/
def execMxldw (m : LdwM) (f : MatF) : State → Out1 :=
  mxRun f.g noAgain fun r es w =>
    let g := r.i.gid
    let k := 32 * f.kb.toNat
    let b := if m.t then mxOpnd r w f.tdb f.a k 128 (isScratch f) true
      else mxOpnd r w f.tdb f.a 128 k (isScratch f) true
    let eff := mxEff f.fmtb.toNat b.d
    match w.slotOf (w.group g).team m.slot.toNat with
    | none => Eff.allFault w es Cause.matrixState
    | some slot =>
      let width := (fmtOf eff).width
      match w.mxCheck g [b] (mxFmt eff)
          (m.t || !fmtMx (tdFmt b.d)) (f.kb.toNat ≤ min 128 (256 / max 1 width)) with
      | some c => Eff.allFault w es c
      | none =>
        let conv := mxConvs f.fmtb.toNat b.d
        let x : Mx :=
          { kind := .ldw m, team := 0, core := 0, asid := 0, f := f, db := b.d, ob := b.org
            slot := some slot }
        let (w, _) := w.mxStart r.i es x ((conv || tdType b.d = 1) && tdRnd b.d = .sr)
        -- earlier operations still read the panels it holds; the first step empties it
        { w := w.setWs slot { w.ws slot with state := 1 } }

/-- MXLDA, MXST and MXQNT. -/
def mxTile (kind : MxKind) (had : Bool) (fmts : Nat → Bool) (sr : Td → Bool) (f : MatF) : State → Out1 :=
  mxRun f.g noAgain fun r es w =>
    let g := r.i.gid
    let a := mxOpnd r w f.tda f.a 128 128 (isScratch f) had
    match w.tileOf (w.group g).team f.acc.toNat with
    | none => Eff.allFault w es Cause.matrixState
    | some tile =>
      match w.mxCheck g [a] (fmts (tdFmt a.d)) true (kind ≠ .qnt || a.org.headD 0 % 32 = 0) with
      | some c => Eff.allFault w es c
      | none =>
        let x : Mx :=
          { kind := kind, team := 0, core := 0, asid := 0, f := f, da := a.d, oa := a.org
            tile := some tile }
        { w := (w.mxStart r.i es x (sr a.d)).1 }

def srTd (d : Td) : Bool := tdRnd d = .sr

def execMxlda (f : MatF) : State → Out1 :=
  mxTile .lda false (fun c => c = 1 || mxFmt c) (fun _ => false) f
def execMxst (f : MatF) : State → Out1 :=
  mxTile .st true (fun c => c = 1 || (mxFmt c && !fmtMx c)) srTd f
def execMxqnt (f : MatF) : State → Out1 := mxTile .qnt true fmtMx srTd f

/-- MXHAD. -/
def execMxhad (m : HadM) (f : MatF) : State → Out1 :=
  mxRun f.g noAgain fun r es w =>
    match w.tileOf (w.group r.i.gid).team f.acc.toNat with
    | none => Eff.allFault w es Cause.matrixState
    | some tile =>
      match w.mxCheck r.i.gid [] true true true with
      | some c => Eff.allFault w es c
      | none =>
        let x : Mx := { kind := .had m, team := 0, core := 0, asid := 0, f := f, tile := some tile }
        { w := (w.mxStart r.i es x false).1 }

/-! ## Values (13 R335, R339, R340) -/

/-- Values converted into a format: their codes with the block's scale, and the flags. -/
def mxCodes (fmt : Nat) (bias : Int) (nan : Bool) (rm : Rnd) (rs : List Nat) (vs : List Fv) :
    List (Nat × Nat) × BitVec 5 :=
  if fmtMx fmt then
    let (sc, cs) := mxConv fmt rm rs vs
    (cs.map fun c => (c.code, sc), cs.foldl (fun x c => x ||| c.flags) 0)
  else
    let cs := vs.zipIdx.map fun e => (fmtOf fmt bias nan).conv rm (rs.getD e.2 0) e.1
    (cs.map fun c => (c.code, 0x7F), cs.foldl (fun x c => x ||| c.flags) 0)

/-- The value of a code with its block scale and its tensor's. -/
def mxVal (fmt : Nat) (bias : Int) (nan : Bool) (ts : Nat) (p : Nat × Nat) : Fv :=
  let f := fmtOf fmt bias nan
  let v := if fmtMx fmt then scaled f p.1 (scaleVal p.2) else f.dec p.1
  if ts = 0x3F800000 then v else mulAny v (fp32.dec ts)

/-- The random bits of the elements of a run. -/
def Mx.draws (m : Mx) (ks : List Nat) : List Nat := ks.map fun k => drawOf m.seed.toNat m.seq.toNat k

/-- MXVEC: the rows are read and converted at issue (13 R340). DEDUCED: it is a vector instruction to 02
R37, so that FTZ applies to its FP32 rows (log entry 11). -/
def execMxvec (m : VecM) (f : MatF) : State → Out1 :=
  mxRun f.g
    (fun w i _ e => w.vecPend i e.1 f.x.toNat e.2.2.lanes f.d m.n.count)
    fun r es w =>
      let g := r.i.gid
      let kb := f.kb.toNat
      let fmt := f.fmta.toNat
      match w.slotOf (w.group g).team m.slot.toNat with
      | none => Eff.allFault w es Cause.matrixState
      | some slot =>
        match w.mxCheck g [] (mxFmt fmt) true true with
        | some c => Eff.allFault w es c
        | none =>
          let row := fun l => (List.range kb).map fun b =>
            let ks := (List.range 32).map fun j => 32 * b + j
            let vs := ks.map fun k => readWide fp32 (w.ftz g) (r.run f.a k l).toNat
            mxCodes fmt 0 false f.rnd (ks.map fun k => w.draw g l (l * (32 * kb) + k)) vs
          let rows := es.map fun l => (l, row l)
          let fl := rows.foldl (fun (x : BitVec 5) e => e.2.foldl (fun x c => x ||| c.2) x) 0
          let accs := es.map fun l => (l, (List.range m.n.count).map fun n =>
            if m.acc then r.run f.d n l else 0)
          let x : Mx :=
            { kind := .vec m, team := 0, core := 0, asid := 0, f := f, slot := some slot, lanes := es
              rows := rows.map fun e => (e.1, (e.2.map Prod.fst).flatten), accs := accs }
          let (w, id) := w.mxStart r.i es x (f.rnd = .sr)
          let w := w.modOp id fun o => { o with flags := fl }
          { w := w.vecPend r.i id f.x.toNat es f.d m.n.count }

/-! ## Reads of a step (13 R335, R339, R345) -/

/-- A read in progress: the package, the pages resolved, and what stopped it. -/
structure MxRd where
  w : W
  res : List (Nat × KvRes)
  /-- those of B -/
  resB : List (Nat × KvRes) := []
  err : Option ERes := none

/-- The read of a step of an operation. -/
def Mx.rd (m : Mx) (w : W) : MxRd := { w := w, res := m.resolved, resB := m.resolvedB }
/-- The operation with the pages resolved so far. -/
def MxRd.keep (q : MxRd) (m : Mx) : Mx := { m with resolved := q.res, resolvedB := q.resB }

/-- One element with its scale: value, code and block scale, and the flags of a raw read that converts
with the draw `r` (15 R376). With SPA = 001 the elements lie in the scratchpad; the block scales are at
the virtual address SBASE all the same (02 R46, R49, 13 R334). -/
def mxElem (x : AccCtx) (sp : Bool) (d : Td) (which : Nat) (q : MxRd) (ix : List Nat) (r : Nat := 0) :
    MxRd × (Fv × Nat × Nat × BitVec 5) :=
  let none_ := (Fv.zero, 0, 0x7F, 0#5)
  if q.err.isSome || !tdInside d ix then (q, none_)
  else
    let stop := fun (w : W) (e : ERes) => ({ q with w := w, err := some e }, none_)
    if sp || fmtMx (tdFmt d) then
      let place := if sp then Except.ok (Tgt.sp (tdAddr d ix)) else q.w.eTarget x.g d ix false
      match q.w.eBytes x place (tdCont d).unit with
      | (w, .error e) => stop w e
      | (w, .ok bs) =>
        let code := (tdCont d).get (ix.headD 0) bs
        if fmtMx (tdFmt d) then
          match w.eBytes x (checkVa (tdScaleAddr d ix) 1) 1 with
          | (w, .error e) => stop w e
          | (w, .ok sb) =>
            let s := scaleVal (leNat sb)
            if s.isNone && w.tsc x.g then stop w (.bad Cause.scaleInvalid (tdScaleAddr d ix))
            else ({ q with w := w }, (scaled (tdFormat d) code s, code, leNat sb, 0))
        else ({ q with w := w }, (tdValue d code, code, 0x7F, 0))
    else
      let (w, res, e) := q.w.eRead x d (if which = 0 then q.res else q.resB) ix r
      let q := if which = 0 then { q with w := w, res := res } else { q with w := w, resB := res }
      match e with
      | .ok v code fl => (q, (v, code, 0x7F, fl))
      | e => ({ q with err := some e }, none_)

/-- One element after the descriptor's transform (02 R41). -/
def mxElemH (x : AccCtx) (sp : Bool) (d : Td) (which : Nat) (q : MxRd) (ix : List Nat) (r : Nat) :
    MxRd × (Fv × Nat × Nat × BitVec 5) :=
  let b := tdHadB d
  if b = 0 then mxElem x sp d which q ix r
  else
    let h := tdHdim d
    let i := ix.getD h 0
    let (q, vs) := (List.range b).foldl (fun (p : MxRd × List Fv) j =>
      let (q, e) := mxElem x sp d which p.1 (ix.set h (i / b * b + j))
      (q, p.2 ++ [e.1])) (q, [])
    (q, ((hadamard vs).getD (i % b) .zero, 0, 0x7F, 0))

/-- A run of 32 elements along K in the format of the operand. -/
def mxRow (x : AccCtx) (sp : Bool) (d : Td) (which fmt : Nat) (ks : List Nat) (m : Mx) (q : MxRd)
    (ixs : List (List Nat)) : MxRd × List (Nat × Nat) × BitVec 5 :=
  let (q, es) := (ixs.zip (m.draws ks)).foldl (fun (p : MxRd × List (Fv × Nat × Nat × BitVec 5)) e =>
    let (q, y) := mxElemH x sp d which p.1 e.1 e.2
    (q, p.2 ++ [y])) (q, [])
  if mxConvs fmt d then
    let (cs, fl) := mxCodes (mxEff fmt d) (tdBias d) (tdNan d) (tdRnd d) (m.draws ks)
      (es.map fun e => e.1)
    (q, cs, fl)
  else (q, es.map fun e => (e.2.1, e.2.2.1), es.foldl (fun (f : BitVec 5) e => f ||| e.2.2.2) 0)

/-- What the scale of a tensor read raw is, for the values of its codes. -/
def mxTscale (fmt : Nat) (d : Td) : Nat :=
  if !mxConvs fmt d && tdScm d = 2 then tdF d 128 32 else 0x3F800000

/-- Rows of an operand for one K-step: 128 of them, `row` giving the coordinates and counts. -/
def mxRows (x : AccCtx) (sp : Bool) (d : Td) (which fmt : Nat) (m : Mx) (q : MxRd)
    (row : Nat → Nat → List Nat × Nat) : MxRd × List (List Fv) × BitVec 5 :=
  (List.range 128).foldl (fun (p : MxRd × List (List Fv) × BitVec 5) i =>
    let cs := (List.range 32).map (row i)
    let (q, codes, fl) := mxRow x sp d which fmt (cs.map Prod.snd) m p.1 (cs.map Prod.fst)
    let vs := codes.map (mxVal (mxEff fmt d) (tdBias d) (tdNan d) (mxTscale fmt d))
    (q, p.2.1 ++ [vs], p.2.2 ||| fl)) (q, [], 0)

/-- The coordinates of an element `k` along one dimension and `x` along the other from an origin. -/
def mxIx (org : List Nat) (dk dx k x : Nat) : List Nat :=
  (org.set dk (org.getD dk 0 + k)).set dx (org.getD dx 0 + x)

/-- A column of a panel of a slot. -/
def WSlot.col (s : WSlot) (kb n : Nat) : List Fv :=
  (List.range 32).map fun j =>
    let code := (aget s.elems (kb, j, n)).getD 0
    let sc := (aget s.scales (32 * kb + j, n)).getD 0x7F
    mxVal s.fmt (sfield s.bias 8) s.nan s.tscale (code, sc)

/-- Whether a block scale of a panel is NaN in the first `n` columns. -/
def WSlot.nanScale (s : WSlot) (kb n : Nat) : Bool :=
  fmtMx s.fmt && s.scales.any fun e => e.1.1 / 32 = kb && e.1.2 < n && e.2 = 0xFF

/-- Whether a slot holds the panels that an operation reads (13 R339, R340): a slot that a later MXLDW is
to load still holds those of the earlier one. -/
def WSlot.short (s : WSlot) (kb : Nat) : Bool := s.state = 0 || s.kb < kb

/-! ## Steps (13 R337–R346) -/

/-- How a step ends: with the package after it and its flags, or as a read or write stopped it; with the
operation, which keeps the pages it resolved. -/
inductive MxStep where
  | done (w : W) (m : Mx) (fl : BitVec 5)
  | stop (w : W) (m : Mx) (e : ERes)

/-- A step that reads panel `p` of its slot is stopped: the slot is short (13 R339, R340), an
uncorrectable error makes it INVALID (13 R341), or a block scale is NaN under TSC (13 R344). -/
def W.slotStop (w : W) (g : Nat) (m : Mx) (p n : Nat) : Option MxStep :=
  let id := m.slot.getD 0
  let s := w.ws id
  if s.short m.f.kb.toNat then some (.stop w m (.bad Cause.matrixState 0))
  else if s.bad then
    some (.stop (w.setWs id { s with state := 0, kb := 0 }) m (.bad Cause.weightBufferCorrupt 0))
  else if w.tsc g && s.nanScale p n then some (.stop w m (.bad Cause.scaleInvalid 0))
  else none

/-- A K-step of MXMMA. -/
def W.stepMma (w : W) (o : Op) (m : Mx) (k : MmaM) (x : AccCtx) : MxStep :=
  let p := m.prog
  let kb := m.f.kb.toNat
  let tile := m.tile.getD 0
  let slot := w.ws (m.slot.getD 0)
  match if k.ws then w.slotStop o.gid m p 128 else none with
  | some z => z
  | none =>
    let (q, a, fa) := mxRows x (isScratch m.f) m.da 0 m.f.fmta.toNat m (m.rd w)
      fun i j => (mxIx m.oa 0 1 (32 * p + j) i, 32 * kb * i + 32 * p + j)
    let (q, b, fb) : MxRd × List (List Fv) × BitVec 5 :=
      if k.ws then (q, (List.range 128).map fun n => slot.col p n, 0)
      else mxRows x false m.db 1 m.f.fmtb.toNat m q fun n j =>
        (if k.t then mxIx m.ob 0 1 (32 * p + j) n else mxIx m.ob 1 0 (32 * p + j) n,
          2 ^ 31 + 128 * (32 * p + j) + n)
    match q.err with
    | some e => .stop q.w (q.keep m) e
    | none =>
      let ftz := q.w.ftz o.gid
      let outs := (a.zipIdx.map fun ra => b.zipIdx.map fun cb =>
        ((ra.2, cb.2), blockSum ftz (q.w.acc tile ra.2 cb.2) (ra.1.zip cb.1))).flatten
      let fl := outs.foldl (fun (f : BitVec 5) e => f ||| e.2.2) (fa ||| fb)
      .done (q.w.setAcc tile (outs.map fun e => (e.1, e.2.1))) (q.keep m) fl

/-- A K-step of MXVEC. -/
def W.stepVec (w : W) (o : Op) (m : Mx) (k : VecM) : MxStep :=
  let p := m.prog
  let slot := w.ws (m.slot.getD 0)
  match w.slotStop o.gid m p k.n.count with
  | some z => z
  | none =>
    let ftz := w.ftz o.gid
    let cols := (List.range k.n.count).map fun n => slot.col p n
    let outs := m.accs.map fun e =>
      let row := (((aget m.rows e.1).getD []).drop (32 * p)).take 32
      let vs := row.map (mxVal m.f.fmta.toNat 0 false 0x3F800000)
      (e.1, (e.2.zip cols).map fun c => blockSum ftz c.1 (vs.zip c.2))
    let fl := outs.foldl (fun (f : BitVec 5) e => e.2.foldl (fun f x => f ||| x.2) f) 0
    .done w { m with accs := outs.map fun e => (e.1, e.2.map Prod.fst) } fl

/-- A step of MXLDW: one panel of the slot, which the first step empties (13 R337, R341). -/
def W.stepLdw (w0 : W) (m : Mx) (k : LdwM) (x : AccCtx) : MxStep :=
  let p := m.prog
  let id := m.slot.getD 0
  let fmt := m.f.fmtb.toNat
  let w := if p ≠ 0 then w0
    else w0.setWs id { state := 1, fmt := mxEff fmt m.db, bias := tdF m.db 16 8, nan := tdNan m.db
                       tscale := mxTscale fmt m.db, bad := (w0.ws id).bad }
  let (q, cols, fl) := (List.range 128).foldl
    (fun (r : MxRd × List (List (Nat × Nat)) × BitVec 5) n =>
      let cs := (List.range 32).map fun j =>
        (if k.t then mxIx m.ob 0 1 (32 * p + j) n else mxIx m.ob 1 0 (32 * p + j) n,
          128 * (32 * p + j) + n)
      let (q, codes, fl) := mxRow x (isScratch m.f) m.db 1 m.f.fmtb.toNat (cs.map Prod.snd) m r.1
        (cs.map Prod.fst)
      (q, r.2.1 ++ [codes], r.2.2 ||| fl)) (m.rd w, [], 0)
  match q.err with
  | some e => .stop q.w (q.keep m) e
  | none =>
    let all := (cols.zipIdx.map fun c => c.1.zipIdx.map fun e => ((e.2, c.2), e.1)).flatten
    let s := q.w.ws id
    let s := { s with
      elems := s.elems ++ (all.filter fun e => e.2.1 ≠ 0).map fun e => ((p, e.1.1, e.1.2), e.2.1)
      scales := s.scales ++
        (all.filter fun e => e.2.2 ≠ 0x7F).map fun e => ((32 * p + e.1.1, e.1.2), e.2.2) }
    .done (q.w.setWs id s) (q.keep m) fl

/-- A step of MXLDA: 32 rows. -/
def W.stepLda (w : W) (o : Op) (m : Mx) (x : AccCtx) : MxStep :=
  let d := m.da
  let rows := (List.range 32).map fun i => 32 * m.prog + i
  let ixs := (rows.map fun r => (List.range 128).map fun n => (r, n)).flatten
  let ftz := w.ftz o.gid
  let (q, outs, fl) := ixs.foldl (fun (p : MxRd × List ((Nat × Nat) × Word) × BitVec 5) e =>
    let (q, v) := mxElem x (isScratch m.f) d 0 p.1 (mxIx m.oa 1 0 e.1 e.2)
    let c := writeWide fp32 ftz .rne 0 v.1
    (q, p.2.1 ++ [(e, BitVec.ofNat 32 c.code)], p.2.2 ||| c.flags)) (m.rd w, [], 0)
  match q.err with
  | some e => .stop q.w (q.keep m) e
  | none => .done (q.w.setAcc (m.tile.getD 0) outs) (q.keep m) fl

/-- Writes bytes of a team's scratchpad as an access of the group would. -/
def W.mxSpPut (w : W) (g t a : Nat) (bs : List Byte) : W × Option ERes :=
  match w.spGate g t a bs.length [] with
  | (w, some (.wait k)) => (w, some (.wait k))
  | (w, some (.bad c v)) => (w, some (.bad c v))
  | (w, _) => (w.spStore t a bs, none)

/-- Writes one code at its place. -/
def W.mxPut (w : W) (o : Op) (m : Mx) (x : AccCtx) (d : Td) (ix : List Nat) (code : Nat) :
    W × Option ERes :=
  if isScratch m.f then
    let a := tdAddr d ix
    match w.eBytes x (.ok (.sp a)) (tdCont d).unit with
    | (w, .error e) => (w, some e)
    | (w, .ok old) => w.mxSpPut o.gid m.team a ((tdCont d).put (ix.headD 0) code old)
  else match w.engineElem o.gid m.core m.asid m.f.scope d ix code with
    | (w, .ok _) => (w, none)
    | (w, .skip v) => (w, some (.nonres v))
    | (w, .bad c v) => (w, some (.bad c v))

/-- An element of a tile as the descriptor's transform gives it. -/
def W.tileVal (w : W) (id : Nat) (d : Td) (r n : Nat) : Fv :=
  let at_ := fun (r n : Nat) => fp32.dec (w.acc id r n).toNat
  let b := tdHadB d
  if b = 0 then at_ r n
  else if tdHdim d = 0 then
    (hadamard ((List.range b).map fun j => at_ r (n / b * b + j))).getD (n % b) .zero
  else (hadamard ((List.range b).map fun j => at_ (r / b * b + j) n)).getD (r % b) .zero

/-- A step of MXST: 32 rows. -/
def W.stepSt (w : W) (o : Op) (m : Mx) (x : AccCtx) : MxStep :=
  let d := m.da
  let id := m.tile.getD 0
  let ixs := ((List.range 32).map fun i => (List.range 128).map fun n => (32 * m.prog + i, n)).flatten
  let (w1, res, fl, err) := ixs.foldl (fun (p : W × List (Nat × KvRes) × BitVec 5 × Option ERes) e =>
    let (w, res, fl, err) := p
    let ix := mxIx m.oa 1 0 e.1 e.2
    if err.isSome || !tdInside d ix then p
    else
      let r := drawOf m.seed.toNat m.seq.toNat (128 * e.1 + e.2)
      let v := w.tileVal id d e.1 e.2
      if tdType d = 1 then match w.kvWrite o.gid d res ix r v with
        | (w, res, .ok f) => (w, res, fl ||| f, none)
        | (w, res, .nonres a) => (w, res, fl, some (.nonres a))
        | (w, res, .bad c a) => (w, res, fl, some (.bad c a))
      else
        let cv := tdEncode d r v
        let (w, e) := w.mxPut o m x d ix cv.code
        (w, res, fl ||| cv.flags, e)) (w, m.resolved, 0, none)
  match err with
  | some e => .stop w { m with resolved := res } e
  | none => .done w1 { m with resolved := res } fl

/-- A step of MXQNT: 32 rows, each in blocks of 32 with their scales (02 R30). -/
def W.stepQnt (w : W) (o : Op) (m : Mx) (x : AccCtx) : MxStep :=
  let d := m.da
  let id := m.tile.getD 0
  let blocks := ((List.range 32).map fun i => (List.range 4).map fun b => (32 * m.prog + i, b)).flatten
  let (w1, fl, err) := blocks.foldl (fun (p : W × BitVec 5 × Option ERes) e =>
    let ns := (List.range 32).map fun j => 32 * e.2 + j
    let ix := fun n => mxIx m.oa 1 0 e.1 n
    let vs := ns.map fun n => if tdInside d (ix n) then p.1.tileVal id d e.1 n else .zero
    let (sc, cs) := mxConv (tdFmt d) (tdRnd d) (m.draws (ns.map fun n => 128 * e.1 + n)) vs
    let live := (ns.zip cs).filter fun y => tdInside d (ix y.1)
    let (w, err) := live.foldl (fun (q : W × Option ERes) y =>
      if q.2.isSome then q else q.1.mxPut o m x d (ix y.1) y.2.code) (p.1, p.2.2)
    let (w, err) :=
      if err.isSome || live.isEmpty then (w, err)
      else
        let a := tdScaleAddr d (ix (32 * e.2))
        match checkVa a 1 with
          | .error (c, v) => (w, some (ERes.bad c v))
          | .ok _ => match w.engineStore m.core m.asid m.f.scope a (leBytes 1 sc) with
            | (w, .ok _) => (w, none)
            | (w, .skip v) => (w, some (.nonres v))
            | (w, .bad c v) => (w, some (.bad c v))
    (w, (live.foldl (fun (f : BitVec 5) y => f ||| y.2.flags) p.2.1), err)) (w, 0, none)
  match err with
  | some e => .stop w m e
  | none => .done w1 m fl

def HadB.size : HadB → Nat
  | .b16 => 16 | .b32 => 32 | .b64 => 64

/-- A step of MXHAD: the runs that end in these 32 rows. -/
def W.stepHad (w : W) (o : Op) (m : Mx) (k : HadM) : MxStep :=
  let id := m.tile.getD 0
  let b := HadB.size k.b
  let lo := 32 * m.prog
  let ftz := w.ftz o.gid
  let runs : List (List (Nat × Nat)) :=
    if k.m then
      let starts := (List.range (128 / b)).filter fun i => lo < b * i + b && b * i + b ≤ lo + 32
      (starts.map fun i => (List.range 128).map fun n => (List.range b).map fun j => (b * i + j, n)).flatten
    else ((List.range 32).map fun i => (List.range (128 / b)).map fun c =>
      (List.range b).map fun j => (lo + i, b * c + j)).flatten
  let outs := (runs.map fun run =>
    run.zip ((hadamard (run.map fun e => readWide fp32 ftz (w.acc id e.1 e.2).toNat)).map fun v =>
      writeWide fp32 ftz .rne 0 v)).flatten
  .done (w.setAcc id (outs.map fun e => (e.1, BitVec.ofNat 32 e.2.code))) m
    (outs.foldl (fun (f : BitVec 5) e => f ||| e.2.flags) 0)

/-- The steps of an operation. -/
def Mx.steps (m : Mx) : Nat :=
  match m.kind with
  | .mma _ | .vec _ | .ldw _ => m.f.kb.toNat
  | .zero _ => 1
  | _ => 4

/-- Whether an operation is the first of those outstanding on each of its tiles and slots (13 R337). -/
def W.mxFirst (w : W) (id : Nat) (m : Mx) : Bool :=
  w.mxOps.all fun e => id ≤ e.1 ||
    !((m.tilesOf.any fun t => e.2.2.tilesOf.contains t) ||
      m.slotsOf.any fun s => e.2.2.slotsOf.contains s)

/-- Whether an operation may go on: not suspended, its team on its core, and for an MXVEC none of its
lanes displaced (13 R346, R347). -/
def W.mxGoes (w : W) (id : Nat) (o : Op) (m : Mx) : Bool :=
  let placed := match (w.team m.team).st with
    | .resident | .stopping => true
    | _ => false
  let shown := !m.isVec || m.lanes.all fun l =>
    let f := w.frag (w.lane o.gid l).frag
    !(f.disp && (match f.place with | .ctx _ => false | _ => true))
  !o.done && m.susp.isNone && placed && shown && w.mxFirst id m

/-- An operation stops at the boundary of its step (13 R340, R341, R346). -/
def W.mxSuspend (w : W) (id : Nat) (o : Op) (m : Mx) (c v : Nat) : W :=
  let w := match m.kind with
    | .ldw _ => w.setWs (m.slot.getD 0) { w.ws (m.slot.getD 0) with state := 0, kb := 0 }
    | _ => w
  let w := w.setOp id { o with kind := .mx { m with susp := some (c, v), since := none, raised := m.isVec } }
  if m.isVec then
    let w := { w with c.thr.pends := w.c.thr.pends.filter fun e => e.2.op ≠ id }
    w.lateFault o.gid m.lanes c v o.iaddr true
  else w

/-- The step is done; the last one ends the operation. -/
def W.mxNext (w : W) (id : Nat) (o : Op) (m : Mx) (fl : BitVec 5) : W :=
  let m := { m with prog := m.prog + 1, since := none }
  let o := { o with kind := .mx m, flags := o.flags ||| fl }
  if m.prog < m.steps then w.setOp id o
  else
    let w := w.setOp id { o with done := true }
    match m.kind with
    | .ldw _ => w.setWs (m.slot.getD 0)
        { w.ws (m.slot.getD 0) with state := 2, kb := m.f.kb.toNat, bad := false }
    | .vec _ => w.giveLanes id m.accs []
    | _ => w

/-- MATRIX_K_STEP: one step of an operation, whole or not at all (13 R338). -/
def W.mxStep (w : W) (id : Nat) : W :=
  match aget w.c.eng.ops id with
  | none => w
  | some o => match o.kind.mx? with
    | none => w
    | some m =>
      if !w.mxGoes id o m then w
      else
        let x : AccCtx :=
          { g := o.gid, pc := o.iaddr, scope := m.f.scope, ord := .rlx, rp := true, again := true }
        let res := match m.kind with
          | .mma k => w.stepMma o m k x
          | .vec k => w.stepVec o m k
          | .ldw k => w.stepLdw m k x
          | .lda => w.stepLda o m x
          | .st => w.stepSt o m x
          | .had k => w.stepHad o m k
          | .qnt => w.stepQnt o m x
          | .zero ts => .done (ts.foldl (fun w t => w.zeroTile t) w) m 0
        match res with
        | .done w m fl => match m.kind with
          | .zero _ => { w with c.eng.ops := adel w.c.eng.ops id }
          | _ => w.mxNext id o m fl
        | .stop w m (.bad c v) => w.mxSuspend id o m c v
        | .stop w m (.nonres v) =>
          let t0 := m.since.getD w.ac
          if t0 + w.fixLim m.asid ≤ w.ac then w.mxSuspend id o m Cause.fixupUnresolved v
          else ((w.request m.core m.asid v).1).setOp id { o with kind := .mx { m with since := some t0 } }
        | .stop w m _ => w.setOp id { o with kind := .mx m }

def execMatrixKStep (op : Nat) (s : State) : Out1 := step1 (fun w => w.mxStep op) s

end Sys2Proof.Machine
end

