-- ==== Sys2Proof/Machine/Events.lean ====
section
/-! DEFINITION. Event counters and what waits for them; the launch record and its checks (03 R89,
04 R94, R101–R106, R114, R486). -/

namespace Sys2Proof.Machine

/-! ## Event counters (04 R104, R105) -/

/-- An addition to an event counter: the count saturates, the failure bit stays. -/
def evAdd (old add : Dword) : Dword :=
  let n := min (bits old.toNat 0 63 + bits add.toNat 0 63) (2 ^ 63 - 1)
  BitVec.ofNat 64 (n + if old.getLsbD 63 || add.getLsbD 63 then 2 ^ 63 else 0)

/-- Whether a wait is failed, and whether it is met. -/
def evFailed (x : Dword) : Bool := x.getLsbD 63
def evMet (thresh : Nat) (x : Dword) : Bool := !evFailed x && bits thresh 0 63 ≤ bits x.toNat 0 63

/-- The eight bytes of a counter. -/
def evBytes (x : Dword) : List Byte := leBytes 8 x.toNat
def evOf (bs : List Byte) : Dword := BitVec.ofNat 64 (leNat bs)

/-- Whether the counter of a parked EVWAIT is met or failed; a counter that cannot be read wakes the
record too, and the instruction takes the fault (04 R114). -/
def W.eventDue (w : W) (f : Nat) : W × Bool :=
  match (w.frag f).wake with
  | .event thr a =>
    let gr := w.group (w.frag f).gid
    match w.load gr.core gr.asid .pkg a 8 with
    | (w, .ok (bs, false)) => (w, evFailed (evOf bs) || evMet thr (evOf bs))
    | (w, _) => (w, true)
  | _ => (w, false)

/-- Whether a fragment is a record that waits, with no result still to land (06 R153). -/
def W.waits (w : W) (f : Nat) : Bool :=
  match (w.frag f).place with
  | .parked => !w.pending f
  | .saved none => !w.pending f && !(w.frag f).pre
  | _ => false

/-- Tests one EVENT record. -/
def W.testEvent (w : W) (f : Nat) : W :=
  if w.waits f then
    match w.eventDue f with
    | (w, true) => w.wake f
    | (w, false) => w
  else w

/-- After an addition every EVENT record is tested (04 R114), and the Sluice will test every head's
waits (04 R105). -/
def W.eventsMoved (w : W) : W :=
  let w := (w.c.thr.frags.map Prod.fst).foldl (fun w f => w.testEvent f) w
  let qs := w.c.slu.queues.map Prod.fst ++ w.c.slu.trigs.map (fun e => 1024 + e.1) ++
    (w.c.slu.grids.filter fun e => !e.2.started).map fun e => 2048 + e.1
  { w with c.slu.retest := qs }

/-- A read of system software at .sys in a context: the context's L2 lines there are written back and
given up first (09 R239). -/
def W.sysRead (w : W) (a va n : Nat) : W × MRes (List Byte) :=
  let w := (lineParts va n).foldl (fun w p => w.evict2 a (p.1 / 128)) w
  w.read3 a va n false

/-- One addition by the Sluice or the reporter of faults: a single-copy atomic update at .sys, which
needs the permission to write (04 R104, R486). -/
def W.evAdd3 (w : W) (a va : Nat) (add : Dword) : W × MRes Dword :=
  match w.xlate a va .write false with
  | (w, .bad c v) => (w, .bad c v)
  | (w, .nonres v) => (w, .nonres v)
  | (w, .ok pg) =>
    match ((w.granted pg).snoop (pg.pa va) none).meetSectors (pg.pa va) 8 with
    | (w, some c) => (w, .bad (errCause (pg.tier = 1) c) va)
    | (w, none) =>
      match w.plain3 pg.key (pg.pa va) 8 with
      | none => (w, .bad Cause.keyRevoked va)
      | some bs =>
        ((w.put3 a pg.key (pg.pa va) (evBytes (evAdd (evOf bs) add)) (pg.tier = 1)).eventsMoved, .ok (evOf bs))

/-! ## Launch records (04 R101) -/

/-- A field of a launch record, or of a kernel handle. -/
abbrev recU (r : List Byte) (ofs len : Nat) : Nat := fieldLE r ofs len

/-- Whether bytes of a record are 0. -/
def zeroIn (r : List Byte) (ofs len : Nat) : Bool := ((r.drop ofs).take len).all fun b => b = 0

/-- The waits in use: address and threshold; and the signals in use: address and addend. -/
def recWaits (r : List Byte) : List (Nat × Nat) :=
  (List.range (min (recU r 41 1) 4)).map fun i => (recU r (88 + 16 * i) 8, recU r (96 + 16 * i) 8)
def recSigs (r : List Byte) : List (Nat × Nat) :=
  (List.range (min (recU r 42 1) 2)).map fun i => (recU r (152 + 16 * i) 8, recU r (160 + 16 * i) 8)
def recKhnd (r : List Byte) : Nat := recU r 0 8
def recDone (r : List Byte) : Nat := recU r 184 8
def recTag (r : List Byte) : Nat := recU r 192 8
def recTeams (r : List Byte) : Nat := recU r 8 4 * recU r 12 4 * recU r 16 4
def recThreads (r : List Byte) : Nat := recU r 20 2 * recU r 22 2 * recU r 24 2

/-- The limits of 04 R101 and the reserved fields. -/
def recLimits (r : List Byte) : Bool :=
  let cl := recU r 31 1
  1 ≤ recTeams r && recTeams r ≤ 2 ^ 40 && 1 ≤ recThreads r && recThreads r ≤ 1024
    && recU r 30 1 ≤ 3 && cl ≤ 16 && (cl ≤ 1 || recTeams r % cl = 0)
    && bits (recU r 32 4) 3 29 = 0 && recU r 36 4 % 4096 = 0 && recU r 36 4 ≤ 1048576
    && recU r 40 1 ≤ 32 && recU r 41 1 ≤ 4 && recU r 42 1 ≤ 2 && recU r 43 1 = 0
    && zeroIn r (88 + 16 * recU r 41 1) (64 - 16 * recU r 41 1)
    && zeroIn r (152 + 16 * recU r 42 1) (32 - 16 * recU r 42 1)
    && (recWaits r).all (fun e => e.1 % 8 = 0) && (recSigs r).all (fun e => e.1 % 8 = 0)
    && recDone r % 32 = 0 && zeroIn r 200 56

/-- The kernel handle's checks: accepted, of the context, its reserved fields 0, and the budgets,
width and team size of 03 R89. -/
def handleOk (a : Nat) (r h : List Byte) : Bool :=
  recU h 22 2 = 1 && recU h 8 2 = a && bits (recU h 18 2) 3 13 = 0 && zeroIn h 28 36
    && recU h 10 2 ≤ recU r 26 2 && recU r 26 2 ≤ 256
    && recU h 12 2 ≤ recU r 28 2 && recU r 28 2 ≤ 192
    && recU r 30 1 = bits (recU h 18 2) 1 2
    && (recU h 20 2 = 0 || recU h 20 2 = recThreads r)

/-- How the check of a record ends (04 R102, R486). -/
inductive RecChk where
  | ok (hnd : List Byte)
  | invalid
  /-- a page it names is not resident: requests were made -/
  | hold
  deriving DecidableEq, Repr

/-- The addresses that the Sluice reads (`false`) and writes (`true`) for a record. -/
def recAddrs (r : List Byte) : List (Nat × Nat × Bool) :=
  (recKhnd r, 64, false) :: (recWaits r).map (fun e => (e.1, 8, false)) ++
    (recSigs r).map (fun e => (e.1, 8, true)) ++
    if recDone r = 0 then [] else [(recDone r, 32, true)]

/-- The residency request of the Sluice (04 R486). -/
def W.sluiceRequest (w : W) (a va : Nat) : W := (w.request 0xFFFF a va).1

/-- The check of a record of a context (04 R102, R486, 03 R89, 06 R160). -/
def W.recCheck (w : W) (a : Nat) (r : List Byte) : W × RecChk :=
  if !recLimits r || (aget w.c.sys.ctxs a).isNone || fld (w.srReg a .leatsize) 0 40 < leatReserved then
    (w, .invalid)
  else
    let (w, res) := (recAddrs r).foldl (fun (p : W × List (Option Nat × Bool)) e =>
      let one := fun (x : W × MRes Unit) => match x with
        | (w, .ok ()) => (w, p.2)
        | (w, .bad _ _) => (w, p.2 ++ [(none, true)])
        | (w, .nonres v) => (w, p.2 ++ [(some v, false)])
      if 2 ^ 56 < e.1 + e.2.1 then (p.1, p.2 ++ [(none, true)])
      else if e.2.2 then one (p.1.check3 a e.1 e.2.1 false)
      else match p.1.read3 a e.1 e.2.1 false with
        | (w, .ok _) => one (w, .ok ())
        | (w, .bad c v) => one (w, .bad c v)
        | (w, .nonres v) => one (w, .nonres v)) (w, [])
    if res.any Prod.snd then (w, .invalid)
    else if !res.isEmpty then
      ((res.filterMap Prod.fst).foldl (fun w v => w.sluiceRequest a v) w, .hold)
    else match w.read3 a (recKhnd r) 64 false with
      | (w, .ok h) => if handleOk a r h then (w, .ok h) else (w, .invalid)
      | (w, _) => (w, .invalid)

/-- How the waits of a record stand (04 R105). -/
inductive WaitSt where
  | met
  | unmet
  | failed
  deriving DecidableEq, Repr

/-- The Sluice tests the waits of a record, with acquire at .sys; a wait on a page that is not resident
counts as unmet and the page is requested (04 R105, R486). The waits `seen` were found met before and
are not tested again; the result has those found met now too. -/
def W.waitState (w : W) (a : Nat) (r : List Byte) (seen : List Nat) : W × WaitSt × List Nat :=
  let n := (recWaits r).length
  let p := ((recWaits r).zipIdx.filter fun e => !seen.contains e.2).foldl
    (fun (p : W × Bool × List Nat) e =>
      match p.1.sysRead a e.1.1 8 with
      | (w, .ok bs) =>
        let x := evOf bs
        if evFailed x then (w, true, p.2.2)
        else (w, p.2.1, if evMet e.1.2 x then p.2.2 ++ [e.2] else p.2.2)
      | (w, .nonres v) => (w.sluiceRequest a v, p.2)
      | (w, .bad _ _) => (w, p.2)) (w, false, seen)
  (p.1, if p.2.1 then .failed else if p.2.2.length = n then .met else .unmet, p.2.2)

/-! ## Retirement's writes (04 R106, R486) -/

/-- An S record for a write at retirement that is not performed (04 R486). -/
def W.lostWrite (w : W) (a va : Nat) : W :=
  w.reportSys { cause := Cause.launchInvalid, kind := 2, asid := a, addr := va }

end Sys2Proof.Machine
end

