-- ==== Sys2Proof/Machine/Reports.lean ====
section
/-! DEFINITION. The report rings, traps, and the return from a fault (18 R427–R434). -/

namespace Sys2Proof.Machine

/-- The PTP count in ns: an adjustment and the ac since reset, 17 of which last 20 ns (01 R13, 17 R424). -/
def W.ptpNow (w : W) : Nat := (w.c.fab.ptp.count + w.ac * 20 / 17) % 2 ^ 64

/-! ## The rings (18 R427–R429) -/

/-- The 64 bytes of a report. -/
def reportBytes (x : Report) (recva time : Nat) : List Byte :=
  leBytes 1 x.cause ++ leBytes 1 x.kind ++ leBytes 2 x.asid ++ leBytes 2 x.core ++ leBytes 2 x.detail
    ++ leBytes 8 recva ++ leBytes 8 x.addr ++ leBytes 8 x.pc ++ leBytes 8 x.lanes
    ++ leBytes 8 (x.gindex % 1024 * 2 ^ 40 + x.tlin % 2 ^ 40) ++ leBytes 4 (x.grid % 2 ^ 24)
    ++ leBytes 4 0 ++ leBytes 8 time

/-- Writes a report into its ring and advances TAIL; false when the ring cannot take it. -/
def W.append (w : W) (r : Ring) (bs : List Byte) : W × Bool :=
  let b := w.ringBase r
  let p := w.ringPtr r
  let slot := 64 * (fld p 32 32 % 2 ^ (fld b 0 4 + 6))
  let bump := fun (w : W) => w.setRingPtr r (setFld p 32 32 (fld p 32 32 + 1))
  match r with
  | .sys => (bump (w.put3 0 0 (fld b 12 40 * 4096 + slot) bs), true)
  | .ctx a => match w.write3va a (fld b 12 44 * 4096 + slot) bs false with
    | (w, .ok ()) => (bump w, true)
    | (w, _) => (w, false)

/-- The first report that waits for a ring, and the others. -/
def nextReport (r : Ring) : List (Ring × Report) → Option (Report × List (Ring × Report))
  | [] => none
  | e :: es => if e.1 = r then some (e.2, es) else (nextReport r es).map fun x => (x.1, e :: x.2)

/-- Whether the record of a report stands in its pool space with all its results. -/
def W.recReady (w : W) (x : Report) : Bool :=
  match x.frag with
  | none => true
  | some f => match aget w.c.thr.frags f with
    | none => true
    | some y => y.pool.isSome && !w.pending f

/-- Whether a report can be written now. -/
def W.canReport (w : W) (r : Ring) : Bool :=
  match nextReport r w.c.sys.reps with
  | none => false
  | some (x, _) => !w.ringFull r && w.recReady x

/-- The record of a report awaits its resume from now (18 R429). -/
def W.awaits (w : W) (x : Report) : W :=
  match x.frag with
  | some f => if (aget w.c.thr.frags f).isSome then w.modFrag f fun y => { y with fr.rep := .awaiting } else w
  | none => w

/-- The event counter of a fault ring rises by 1; a copy of the report goes to the system ring when it
cannot (18 R427, R429). -/
def W.faultEvent (w : W) (a : Nat) (x : Report) : W :=
  let ev := fld (w.srReg a .fltev) 3 53 * 8
  if ev = 0 then w
  else match w.evAdd3 a ev 1 with
    | (w, .ok _) => w
    | (w, _) => w.reportSys { x with frag := none }

/-- A report of which the record no longer exists is not made. -/
def W.reportGone (w : W) (x : Report) : Bool :=
  match x.frag with
  | some f => (aget w.c.thr.frags f).isNone
  | none => false

/-- The oldest report of a ring is written. -/
def W.makeReport (w : W) (r : Ring) : W :=
  if !w.canReport r then w
  else match nextReport r w.c.sys.reps with
    | none => w
    | some (x, rest) =>
      let w := { w with c.sys.reps := rest }
      if w.reportGone x then w
      else
        let (w, va) := match x.frag with
          | some f => if (w.frag f).fr.bytes.isEmpty then w.writeRecord f else (w, w.recVa f)
          | none => (w, some 0)
        match va with
        | none => w
        | some va =>
          match w.append r (reportBytes x va w.ptpNow), r with
          | (w, true), .ctx a =>
            let w := w.awaits x
            if x.frag.isSome then w.faultEvent a x else w
          | (w, true), .sys => w.awaits x
          | (w, false), .ctx _ => w.report .sys x
          | (w, false), .sys => (w.ringLost .sys).awaits x

/-- FAULT_REPORT. -/
def execFaultReport (ring : Ring) (s : State) : Out1 := step1 (fun w => w.makeReport ring) s

/-! ## Traps (18 R433) -/

/-- A trap of the executing lanes. -/
def trapBody (f : Alu) (kind : Nat) (i : Issue) (es : List Nat) (w : W) : Eff :=
  let word := ({ w := w, i := i, es := es : Rd }.b f 0).toNat
  let pc := if i.replay then (w.lane i.gid (es.headD 0)).pc else nextPc i.pc i.len
  { w := (w.takeFault i.gid i.frag es Cause.swTrap word kind pc i.pc i.replay).shed i.gid i.frag
    leaves := true }

def execTrap (f : Alu) : State → Out1 := run f.g (trapBody f 0)
def execSvc (f : Alu) : State → Out1 := run f.g (trapBody f 1)
def execBrk (f : Alu) : State → Out1 := run f.g fun _ es w => Eff.allFault w es Cause.breakpoint

/-! ## ERET (18 R434) -/

inductive EretKind where
  | res
  | skip
  | step
  deriving DecidableEq, Repr

/-- The FAULT record at a VA that awaits its resume: of the issuing context first. -/
def W.awaitingAt (w : W) (a va : Nat) : Option Nat :=
  let fs := w.c.thr.frags.filter fun e =>
    e.2.isFault && e.2.fr.rep = .awaiting && w.recVa e.1 = some va
  match fs.find? fun e => (w.group e.2.gid).asid = a with
  | some e => some e.1
  | none => (fs.head?).map Prod.fst

/-- The length of the instruction at an address, from its first 4 bytes, as the record's context
reads it (18 R434). -/
def W.lengthAt (w : W) (a pc : Nat) : W × Option Nat :=
  if 2 ^ 56 < pc + 4 then (w, none)
  else match w.xlate a pc .exec (w.needU a) with
    | (w, .ok p) => match w.meetSectors (p.pa pc) 4 with
      | (w, some _) => (w, none)
      | (w, none) => match w.plain3 p.key (p.pa pc) 4 with
        | some (b :: _) => (w, lenBytes b)
        | _ => (w, none)
    | (w, _) => (w, none)

/-- What an ERET does with the record it has found, and d. -/
def W.eretRecord (w : W) (k : EretKind) (f : Nat) : W × Nat :=
  let x := w.frag f
  let gr := w.group x.gid
  let a := gr.asid
  let va := (w.recVa f).getD 0
  match w.read3 a va x.fr.bytes.length false with
  | (w, .ok bs) =>
    if fixedFields bs ≠ fixedFields x.fr.bytes then (w.corrupt gr.team va, 2)
    else
      match k, x.wake with
      | .skip, .fault iaddr false _ =>
        match w.lengthAt a iaddr with
        | (w, none) => (w, 3)
        | (w, some n) =>
          let w := w.readRecord f bs
          let w := w.setPcs x.gid (w.fragLanes x.gid f) (nextPc iaddr n)
          (w.resume f, 0)
      | .skip, .fault iaddr true c =>
        let w := (w.readRecord f bs).modFrag f fun y => { y with wake := .fault iaddr false c }
        (w.resume f, 0)
      | .step, _ => (((w.readRecord f bs).modFrag f fun y => { y with step := true }).resume f, 0)
      | _, _ => ((w.readRecord f bs).resume f, 0)
  | (w, _) => (w.corrupt gr.team va, 2)

/-- ERET. -/
def eret (k : EretKind) (f : Alu) : State → Out1 :=
  onceOp f.g fun r _ w =>
    let i := r.i
    let w := w.releaseAt i.gid .sys
    let (w, d) := match w.awaitingAt (w.group i.gid).asid (r.pair f.a 0).toNat with
      | none => (w, 1)
      | some rec => w.eretRecord k rec
    { w := if f.d = .v 0 then w else w.dst i f.d 0 [BitVec.ofNat 32 d] }

def execEretRes (f : Alu) : State → Out1 := eret .res f
def execEretSkip (f : Alu) : State → Out1 := eret .skip f
def execEretStep (f : Alu) : State → Out1 := eret .step f

end Sys2Proof.Machine
end

