-- ==== Sys2Proof/Machine/SysRegs.lean ====
section
/-! DEFINITION. The registers that RDSR and WRSR reach, with what a write of each does; the system
instructions that read counts and remove translations (02 R38, 04 R97, R107, 05 R126, 06 R159, 08 R223,
09 R234, R257, 12 R309, 15 R368–R372, R377, R380, 16 R400, 17 R402, R414, R418, R424, R425,
18 R431–R442, 19 R454, R455, R458). -/

namespace Sys2Proof.Machine

/-! ## Names (18 R436) -/

/-- A register by its ID, with the count of its instances. -/
def regOf (id : Nat) : Option (Reg × Nat) :=
  match id with
  | 0x000 => some (.config, 1)
  | 0x001 => some (.ctx, 1)
  | 0x002 => some (.core, 1)
  | 0x003 => some (.fpflags, 1)
  | 0x004 => some (.fpctl, 1)
  | 0x005 => some (.srseed, 1)
  | 0x006 => some (.wlrange, 1)
  | 0x007 => some (.ttbase, 1)
  | 0x008 => some (.mbbase, 1)
  | 0x009 => some (.resqbase, 1)
  | 0x00A => some (.resqptr, 1)
  | 0x00B => some (.hintdrop, 1)
  | 0x00C => some (.leatbase, 1)
  | 0x00D => some (.leatsize, 1)
  | 0x00E => some (.leatuse, 1)
  | 0x00F => some (.fixlim, 1)
  | 0x010 => some (.podjob, 1)
  | 0x011 => some (.wdog, 1)
  | 0x012 => some (.fltring, 1)
  | 0x013 => some (.fltptr, 1)
  | 0x014 => some (.fltev, 1)
  | 0x015 => some (.savebase, 1)
  | 0x016 => some (.savesize, 1)
  | 0x100 => some (.qtbase, 1)
  | 0x101 => some (.ylimit, 1)
  | 0x102 => some (.preempt, 1)
  | 0x103 => some (.tgather, 1)
  | 0x104 => some (.edefault, 1)
  | 0x105 => some (.trgtime, 64)
  | 0x106 => some (.trgper, 64)
  | 0x107 => some (.trgrec, 64)
  | 0x108 => some (.trgctl, 64)
  | 0x109 => some (.cmd, 1)
  | 0x10A => some (.cmdarg, 1)
  | 0x110 => some (.tierLogbase, 2)
  | 0x111 => some (.tierLogctl, 2)
  | 0x120 => some (.memcCfg, 16)
  | 0x121 => some (.memcSpare, 16)
  | 0x122 => some (.boltCtl, 16)
  | 0x123 => some (.boltScan, 16)
  | 0x130 => some (.keycmd, 1)
  | 0x131 => some (.keydata, 8)
  | 0x140 => some (.aprPa, 64)
  | 0x141 => some (.aprSize, 64)
  | 0x142 => some (.aprSide, 64)
  | 0x143 => some (.aprCtl, 64)
  | 0x150 => some (.tenterCtl, 1)
  | 0x151 => some (.tenterLog, 1)
  | 0x152 => some (.tenterPtr, 1)
  | 0x160 => some (.fabricId, 1)
  | 0x161 => some (.fabricReach, 16)
  | 0x162 => some (.fabricTkexp, 1)
  | 0x163 => some (.fabricTimeout, 1)
  | 0x164 => some (.fabricTkclr, 1)
  | 0x170 => some (.pxqRing, 256)
  | 0x171 => some (.pxqCtl, 256)
  | 0x172 => some (.pxqPtr, 256)
  | 0x180 => some (.commBase, 1)
  | 0x181 => some (.ptpStatus, 1)
  | 0x182 => some (.ptpCfg, 1)
  | 0x190 => some (.errring, 1)
  | 0x191 => some (.errptr, 1)
  | 0x1A0 => some (.fantailCredit, 1)
  | 0x1A1 => some (.fantailPlan, 1)
  | 0x1A2 => some (.monCtl, 16)
  | 0x1A3 => some (.monBase, 16)
  | 0x1A4 => some (.lifepa, 1)
  | 0x1B0 => some (.hwinBase, 256)
  | 0x1B1 => some (.hwinLen, 256)
  | 0x1B2 => some (.hwinCtl, 256)
  | _ => none

/-- The registers of a context; the others are block registers. -/
def Reg.isSr : Reg → Bool
  | .config | .ctx | .core | .fpflags | .fpctl | .srseed | .wlrange | .ttbase | .mbbase | .resqbase
  | .resqptr | .hintdrop | .leatbase | .leatsize | .leatuse | .fixlim | .podjob | .wdog | .fltring
  | .fltptr | .fltev | .savebase | .savesize => true
  | _ => false

/-- What an unprivileged context may read and write. -/
def Reg.anyRead (r : Reg) : Bool := r.isSr || r = .ptpStatus || r = .ptpCfg
def Reg.anyWrite (r : Reg) : Bool := r = .fpflags || r = .hintdrop || r = .core

/-! ## Fields -/

/-- The bits of a value from `hi` down to `lo`, in their places. -/
def keep (x : Dword) (hi lo : Nat) : Dword := x &&& BitVec.ofNat 64 (2 ^ (hi + 1) - 2 ^ lo)

/-- The register with HEAD replaced; TAIL is read-only. -/
def headOnly (old x : Dword) : Dword := setFld old 0 32 (fld x 0 32)

/-- How a write of a register ends: performed, or the cause of its fault. -/
abbrev Wr := Except Nat W

/-- A write whose nonzero reserved bits fault, else with the value stored. -/
def wrResv (x : Dword) (hi lo : Nat) (k : Wr) : Wr :=
  if keep x hi lo ≠ 0 then .error Cause.reservedField else k

/-! ## Registers with rules of their own -/

/-- SR.FPFLAGS of a group (02 R38, 08 R205). -/
def W.wrFpflags (w : W) (g : Nat) (x : Dword) : W :=
  w.modGroup g fun y => { y with flags := x.setWidth 5 }

/-- SR.WLRANGE (08 R223). -/
def W.wrWlrange (w : W) (a : Nat) (x : Dword) : Wr :=
  let mag := fun (v : Nat) => v % 2 ^ 31
  let lo := fld x 0 32
  let hi := fld x 32 32
  let fin := fun (v : Nat) => mag v < 0x7F800000
  if fin lo && fin hi && (lo < 2 ^ 31 || mag lo = 0) && hi < 2 ^ 31 && mag lo < mag hi then
    .ok (w.setSrReg a .wlrange x)
  else .error Cause.illegalOperand

/-- SR.LEATSIZE (06 R159). -/
def W.wrLeatsize (w : W) (a : Nat) (x : Dword) : Wr :=
  let n := fld x 0 40
  if n % 65536 ≠ 0 || n < leatReserved + w.leatUse a then .error Cause.illegalOperand
  else .ok (w.setSrReg a .leatsize (keep x 39 0))

/-- SR.HINTDROP: any write sets 0 (09 R234). -/
def W.clrHintdrop (w : W) (a : Nat) : W := w.setSrReg a .hintdrop 0

/-- Any write of a ring's base sets LOST to 0 (18 R431). -/
def W.clrLost (w : W) (r : Ring) : W := w.setRingBase r (setFld (w.ringBase r) 4 8 0)

/-- TENTER.CTL: DROP becomes 0 (16 R400). -/
def W.wrTenter (w : W) (x : Dword) : Wr :=
  wrResv x 31 2 (.ok (w.setBlk .tenterCtl 0 (keep x 63 48 ||| keep x 1 0)))
def W.clrDrop (w : W) : W := w.setBlk .tenterCtl 0 (setFld (w.blk .tenterCtl 0) 32 16 0)

/-- FABRIC.TKCLR frees the FAILED entries of an ASID (17 R402, R408). -/
def W.tkClear (w : W) (a : Nat) : W :=
  { w with c.fab.toks := w.c.fab.toks.filter fun e => !(e.2.asid = a && e.2.st == .failed) }

/-- FANTAIL.CREDIT (19 R453, R454): the account, and what it held back is tested again. -/
def W.credit (w : W) (x : Dword) : Wr :=
  let a := fld x 48 16
  wrResv x 47 40 <|
    if (aget w.c.sys.ctxs a).isNone then .error Cause.illegalOperand
    else
      let w := w.modCtx a fun y =>
        { y with account := min (y.account + fld x 0 40) (2 ^ 40 - 1), dry := false }
      .ok { w with
        c.slu.queues := w.c.slu.queues.map fun e => (e.1, { e.2 with starved := false })
        c.slu.trigs := w.c.slu.trigs.map fun e => (e.1, { e.2 with starved := false })
        c.slu.grids := w.c.slu.grids.map fun e => (e.1, { e.2 with starved := false }) }

/-- The instances of each source of a monitor; source 3 is the module's (19 R455). Which form the part
has is fixed. -/
def monCount (src : Nat) : Nat :=
  match src with
  | 0 => 10 | 1 => 10 | 2 => 16
  | 3 => if Config.choice 3 0 % 2 = 1 then 1 else 0
  | 4 => 8 | 5 => 1 | 6 => 8 | 7 => 18
  | _ => 0

/-- The capture of a monitor is cleared (19 R455). -/
def W.monClear (w : W) (n : Nat) : W := { w with c.mc.mons := adel w.c.mc.mons n }

/-- MON.CTL (19 R455). -/
def W.wrMon (w : W) (n : Nat) (x : Dword) : Wr :=
  if monCount (fld x 58 6) ≤ fld x 52 6 then .error Cause.illegalOperand
  else
    let w := w.setBlk .monCtl n (keep x 63 15 ||| keep x 0 0)
    .ok (if x.getLsbD 1 then w.monClear n else w)

def W.stack (w : W) (n : Nat) : Stack := (aget w.c.mc.stks n).getD {}
def W.setStack (w : W) (n : Nat) (x : Stack) : W := { w with c.mc.stks := aset w.c.mc.stks n x }

/-- A ratio is written: the controller is BUSY until it reopens (15 R368). -/
def W.ratio (w : W) (n r : Nat) : W := w.setStack n { w.stack n with ratio := r % 4, busy := true }

/-- The commands of MEMC.SPARE (15 R368). -/
inductive SpareCmd where
  | bank
  | channel
  deriving DecidableEq, Repr

def W.spare (w : W) (n : Nat) (c : SpareCmd) (pch bank : Nat) : Wr :=
  let s := w.stack n
  if s.state ≠ 0 || (c == .channel && s.spc = 0) then .error Cause.illegalOperand
  else .ok (w.setStack n
    { s with state := (match c with | .bank => 1 | .channel => 2), pch := pch % 64
             bank := bank % 32, bound := 0 })

/-- MEMC.SPARE. -/
def W.wrSpare (w : W) (n : Nat) (x : Dword) : Wr :=
  let pch := fld x 14 6
  let bank := fld x 9 5
  match fld x 22 2 with
  | 0 => .ok (if (w.stack n).state = 0 then w.setStack n { w.stack n with pch := pch, bank := bank }
      else w)
  | 1 => w.spare n .bank pch bank
  | 2 => w.spare n .channel pch bank
  | _ => .error Cause.reservedField

def W.rdSpare (w : W) (n : Nat) : Dword :=
  let s := w.stack n
  BitVec.ofNat 64 (s.bound % 2 ^ 32 * 2 ^ 32 + s.spc * 2 ^ 24 + s.state * 2 ^ 20 + s.pch * 2 ^ 14
    + s.bank * 2 ^ 9)

/-- A load of a key: KEYDATA under KID, and then cleared (15 R371). -/
def W.keyLoad (w : W) (kid : Nat) : Wr :=
  if kid = 0 || !w.c.mc.purging.isEmpty || (aget w.c.mc.keys kid).isSome then .error Cause.illegalOperand
  else
    let k : Nat := (List.range 8).foldl (fun n i => n + (w.blk .keydata i).toNat * 2 ^ (64 * i)) 0
    let w := { w with c.mc.keys := aset w.c.mc.keys kid (BitVec.ofNat 512 k) }
    .ok ((List.range 8).foldl (fun w i => w.setBlk .keydata i 0) w)

/-- A destroy: the lines under KID are invalidated without write-back, and level 3 refuses it from now
(15 R372). -/
def W.keyDestroy (w : W) (kid : Nat) : Wr :=
  if kid = 0 || !w.c.mc.purging.isEmpty then .error Cause.illegalOperand
  else .ok { w with
    c.cch.l1 := w.c.cch.l1.filter fun e => e.2.key ≠ kid
    c.cch.l2 := w.c.cch.l2.filter fun e => e.2.key ≠ kid
    c.cch.dir := w.c.cch.dir.filter fun e => match aget w.c.cch.l2 e.2 with
      | some l => l.key ≠ kid
      | none => true
    c.mc.purging := [kid] }

/-- MSC.KEYCMD. -/
def W.wrKeycmd (w : W) (x : Dword) : Wr :=
  let kid := fld x 0 8
  let named := fun (w : W) => w.setBlk .keycmd 0 (BitVec.ofNat 64 kid)
  match fld x 8 2 with
  | 0 => .ok (named w)
  | 1 => (w.keyLoad kid).map named
  | 2 => (w.keyDestroy kid).map named
  | _ => .error Cause.reservedField

/-- The registers of an aperture: no write while it is enabled (15 R380). -/
def W.wrApr (w : W) (r : Reg) (n : Nat) (x : Dword) : Wr :=
  if (w.blk .aprCtl n).getLsbD 0 then .error Cause.illegalOperand
  else match r with
    | .aprPa => .ok (w.setBlk r n (keep x 51 12))
    | .aprSize => .ok (w.setBlk r n (keep x 55 12))
    | .aprSide => .ok (w.setBlk r n (keep x 51 7))
    | .aprCtl => .ok (w.setBlk r n (keep x 63 38 ||| keep x 31 16 ||| keep x 11 8 ||| keep x 3 0))
    | _ => .ok w

/-- Whether a host window would be enabled against its rules (04 R97). -/
def W.hwinBad (w : W) (n : Nat) (ctl : Dword) : Bool :=
  let len := fld (w.blk .hwinLen n) 0 40
  let base := fld (w.blk .hwinBase n) 0 56
  let lim := if ctl.getLsbD 1 then 2 ^ 52 else 2 ^ 56
  len = 0 || len % 4096 ≠ 0 || lim < base + len || (List.range 256).any fun k =>
    k ≠ n && (w.blk .hwinCtl k).getLsbD 0 && fld (w.blk .hwinCtl k) 32 32 = fld ctl 32 32

/-- The registers of a host window (04 R97). -/
def W.wrHwin (w : W) (r : Reg) (n : Nat) (x : Dword) : Wr :=
  let en := (w.blk .hwinCtl n).getLsbD 0
  let clears := r = .hwinCtl && !x.getLsbD 0
  if en && !clears then .error Cause.illegalOperand
  else match r with
    | .hwinBase => .ok (w.setBlk r n (keep x 55 12))
    | .hwinLen => .ok (w.setBlk r n (keep x 39 0))
    | .hwinCtl =>
      let v := keep x 63 12 ||| keep x 5 0
      if x.getLsbD 0 && w.hwinBad n v then .error Cause.illegalOperand else .ok (w.setBlk r n v)
    | _ => .ok w

/-- The clock loses lock; PTP_LOSS is reported once for the loss (17 R424, 04 R108). -/
def W.ptpUnlock (w : W) : W :=
  let was := w.c.fab.ptp.lock
  let w := { w with c.fab.ptp.lock := false, c.fab.ptp.good := 0 }
  if was then
    let w := w.reportSys { cause := Cause.ptpLoss, kind := 2 }
    { w with c.slu.lossTold := true }
  else w

/-- PTP.CFG: a write drops lock, and the master is chosen anew (17 R425). -/
def W.wrPtpCfg (w : W) (x : Dword) : Wr :=
  wrResv x 63 16 <|
    if 128 ≤ fld x 8 8 then .error Cause.illegalOperand
    else
      let w := (w.setBlk .ptpCfg 0 (keep x 15 8 ||| keep x 3 1)).ptpUnlock
      .ok { w with c.fab.ptp := { w.c.fab.ptp with
        master := none, sync := none, t12 := none, delayReq := none } }

/-- PTP.STATUS: EN alone is written; a clock that is not enabled follows no master (17 R424). -/
def W.wrPtpStatus (w : W) (x : Dword) : W :=
  let w := w.setBlk .ptpStatus 0 (keep x 0 0)
  if x.getLsbD 0 then w else w.ptpUnlock

def W.rdPtpStatus (w : W) : Dword :=
  let p := w.c.fab.ptp
  BitVec.ofNat 64 ((BitVec.ofInt 32 p.ofs).toNat * 2 ^ 32 + (if p.lock then 2 else 0)
    + fld (w.blk .ptpStatus 0) 0 1)

/-- SLUICE.CMD: a nonzero OP starts a command (18 R442). -/
def W.wrCmd (w : W) (x : Dword) : Wr :=
  let op := fld x 0 3
  if w.c.slu.cmd.isSome then .error Cause.illegalOperand
  else if 4 < op then .error Cause.reservedField
  else
    let arg := w.blk .cmdarg 0
    let w := w.setBlk .cmd 0 (keep x 63 48 ||| keep x 2 0)
    let c : Cmd := { op := op, asid := fld x 48 16, grid := fld arg 0 24, team := fld arg 24 40 }
    .ok (if op = 0 then w else { w with c.slu.cmd := some c })

/-- A trigger register is written: its occurrence is copied anew (04 R107, R108). -/
def W.wrTrg (w : W) (r : Reg) (n : Nat) (x : Dword) : W :=
  let w := w.setBlk r n x
  { w with c.slu.trigs := adel w.c.slu.trigs n }

/-! ## Reading -/

/-- SR.CTX of a context (18 R431). -/
def W.rdCtx (w : W) (a : Nat) : Dword :=
  let x := w.ctx a
  BitVec.ofNat 64 (a % 65536 * 2 ^ 48 + x.gen % 256 * 2 ^ 40 + (if x.dbg then 2 else 0)
    + if x.priv then 1 else 0)

/-- SR.CORE of the reading fragment (18 R431). -/
def W.rdCore (w : W) (i : Issue) : Dword :=
  BitVec.ofNat 64 (i.core % 2048 + match (w.frag i.frag).place with
    | .ctx k => k % 64 * 2048
    | _ => 0)

/-- A register of a context as RDSR reads it. -/
def W.rdSr (w : W) (i : Issue) (a : Nat) (r : Reg) : Dword :=
  match r with
  | .config => w.boot.config
  | .ctx => w.rdCtx a
  | .core => w.rdCore i
  | .fpflags => (w.group i.gid).flags.setWidth 64
  | .leatuse => BitVec.ofNat 64 (w.leatUse a % 2 ^ 40)
  | r => w.srReg a r

/-- A block register as RDSR reads it. -/
def W.rdBlk (w : W) (r : Reg) (n : Nat) : Dword :=
  match r with
  | .cmd => w.blk .cmd 0 ||| (if w.c.slu.cmd.isSome then BitVec.ofNat 64 (2 ^ 47) else 0)
  | .memcCfg => BitVec.ofNat 64 ((w.stack n).ratio + if (w.stack n).busy then 128 else 0)
  | .memcSpare => w.rdSpare n
  | .keycmd => w.blk .keycmd 0 ||| (if w.c.mc.purging.isEmpty then 0 else BitVec.ofNat 64 (2 ^ 31))
  | .keydata => 0
  | .fabricTkclr => 0
  | .fantailCredit => 0
  | .ptpStatus => w.rdPtpStatus
  | r => w.blk r n

/-! ## Writing -/

/-- A write of a register of a context. -/
def W.wrSr (w : W) (i : Issue) (a : Nat) (r : Reg) (x : Dword) : Wr :=
  let put := fun (v : Dword) => (Except.ok (w.setSrReg a r v) : Wr)
  match r with
  | .config | .core | .leatuse => .ok w
  | .ctx => wrResv x 39 2 (.ok (w.modCtx a fun y => { y with dbg := x.getLsbD 1 }))
  | .fpflags => .ok (w.wrFpflags i.gid x)
  | .fpctl => wrResv x 63 8 (put (keep x 7 1))
  | .wlrange => w.wrWlrange a x
  | .ttbase => wrResv x 63 52 (put (keep x 51 20))
  | .mbbase => put (keep x 55 16)
  | .resqbase => put (keep x 55 12 ||| keep x 3 0)
  | .resqptr => put (headOnly (w.srReg a .resqptr) x)
  | .hintdrop => .ok (w.clrHintdrop a)
  | .leatbase => wrResv x 63 56 (put (keep x 55 16))
  | .leatsize => w.wrLeatsize a x
  | .fixlim => wrResv x 63 32 (put (keep x 31 0))
  | .podjob => put (keep x 16 0)
  | .wdog => put (keep x 31 0)
  | .fltring => put (keep x 55 12 ||| keep x 3 0)
  | .fltptr => put (headOnly (w.srReg a .fltptr) x)
  | .fltev => put (keep x 55 3)
  | .savebase => put (keep x 55 16)
  | .savesize => put (keep x 39 0)
  | _ => put x

/-- A write of a block register. -/
def W.wrBlk (w : W) (r : Reg) (n : Nat) (x : Dword) : Wr :=
  let put := fun (v : Dword) => (Except.ok (w.setBlk r n v) : Wr)
  match r with
  | .preempt => put (keep x 39 0)
  | .tgather => put (keep x 15 0)
  | .edefault => put (keep x 31 0)
  | .trgtime => .ok (w.wrTrg r n x)
  | .trgper => .ok (w.wrTrg r n (keep x 39 0))
  | .trgrec => .ok (w.wrTrg r n (keep x 55 8))
  | .trgctl => .ok (w.wrTrg r n (keep x 63 32 ||| keep x 10 0))
  | .cmd => w.wrCmd x
  | .tierLogbase => put (keep x 51 12 ||| keep x 8 0)
  | .tierLogctl => put (headOnly (w.blk r n) x)
  | .memcCfg => wrResv x 63 8 (.ok (w.ratio n (fld x 0 2)))
  | .memcSpare => w.wrSpare n x
  | .boltCtl => put (keep x 63 32 ||| keep x 0 0)
  | .boltScan => put (keep x 51 0)
  | .keycmd => w.wrKeycmd x
  | .aprPa | .aprSize | .aprSide | .aprCtl => w.wrApr r n x
  | .tenterCtl => w.wrTenter x
  | .tenterLog => put (keep x 51 12 ||| keep x 3 0)
  | .tenterPtr => put (headOnly (w.blk r n) x)
  | .fabricId => wrResv x 63 11 (put (keep x 10 0))
  | .fabricTkexp | .fabricTimeout => put (keep x 31 0)
  | .fabricTkclr => .ok (w.tkClear (fld x 0 16))
  | .pxqRing => put (keep x 55 6)
  | .pxqCtl => put (keep x 63 48 ||| keep x 7 4 ||| keep (w.blk r n) 3 3 ||| keep x 0 0)
  | .pxqPtr => .ok w
  | .commBase => put (keep x 63 8)
  | .ptpStatus => .ok (w.wrPtpStatus x)
  | .ptpCfg => w.wrPtpCfg x
  | .errring => put (keep x 51 12 ||| keep x 3 0)
  | .errptr => put (headOnly (w.blk r n) x)
  | .fantailCredit => w.credit x
  | .fantailPlan => put (keep x 15 0)
  | .monCtl => w.wrMon n x
  | .monBase => put (keep x 51 6)
  | .lifepa => put (keep x 51 12)
  | .hwinBase | .hwinLen | .hwinCtl => w.wrHwin r n x
  | _ => put x

/-! ## RDSR and WRSR (18 R435) -/

/-- The register, its instance and the context that an instruction reaches, or its fault. -/
def W.sysTarget (w : W) (f : Alu) (r : Rd) (write : Bool) : Except Nat (Reg × Nat × Nat) :=
  let b := (r.b f 0).toNat
  let own := (w.group r.i.gid).asid
  let other := b.testBit 31
  match regOf (bits b 8 12) with
  | none => .error Cause.illegalOperand
  | some (reg, cnt) =>
    if bits b 20 11 ≠ 0 || cnt ≤ bits b 0 8 then .error Cause.illegalOperand
    else if !(w.ctx own).priv && !(if write then reg.anyWrite else reg.anyRead) then
      .error Cause.privilegedOp
    else if !other then .ok (reg, bits b 0 8, own)
    else
      let a := (r.word f.c 0).toNat % 65536
      if !reg.isSr || f.c = .v 0 || (aget w.c.sys.ctxs a).isNone then .error Cause.illegalOperand
      else .ok (reg, bits b 0 8, a)

def execRdsr (f : Alu) : State → Out1 :=
  onceOp f.g fun r es w =>
    match w.sysTarget f r false with
    | .error c => Eff.allFault w es c
    | .ok (reg, n, a) =>
      let x := if reg.isSr then w.rdSr r.i a reg else w.rdBlk reg n
      { w := w.dst r.i f.d 0 [lo32 x, hi32 x] }

def execWrsr (f : Alu) : State → Out1 :=
  onceOp f.g fun r es w =>
    match w.sysTarget f r true with
    | .error c => Eff.allFault w es c
    | .ok (reg, n, a) =>
      let x := r.pair f.a 0
      match if reg.isSr then w.wrSr r.i a reg x else w.wrBlk reg n x with
      | .error c => Eff.allFault w es c
      | .ok w => { w := w }

/-! ## The writes as steps of the package -/

/-- A write that its rule refuses changes nothing. -/
def trying (f : W → Wr) (s : State) : Out1 :=
  step1 (fun w => match f w with
    | .ok w => w
    | .error _ => w) s

def execHostWindowWrite (n reg : Nat) (value : Dword) (s : State) : Out1 :=
  trying (fun w => match reg with
    | 0 => if n < 256 then w.wrHwin .hwinBase n value else .ok w
    | 1 => if n < 256 then w.wrHwin .hwinLen n value else .ok w
    | 2 => if n < 256 then w.wrHwin .hwinCtl n value else .ok w
    | _ => .ok w) s

def execApertureCtlWrite (reg n : Nat) (value : Dword) (s : State) : Out1 :=
  trying (fun w => if 64 ≤ n then .ok w else match reg with
    | 0 => w.wrApr .aprPa n value
    | 1 => w.wrApr .aprSize n value
    | 2 => w.wrApr .aprSide n value
    | 3 => w.wrApr .aprCtl n value
    | _ => .ok w) s

/-- The write of a context that exists. -/
def forCtx (a : Nat) (f : W → Wr) (s : State) : Out1 :=
  trying (fun w => if (aget w.c.sys.ctxs a).isSome then f w else .ok w) s

def execSrLeatsizeWrite (asid : Nat) (value : Dword) (s : State) : Out1 :=
  forCtx asid (fun w => w.wrLeatsize asid value) s
def execSrWlrangeWrite (asid : Nat) (value : Dword) (s : State) : Out1 :=
  forCtx asid (fun w => w.wrWlrange asid value) s
def execSrFpflagsWrite (group : Nat) (value : Dword) (s : State) : Out1 :=
  step1 (fun w => if (aget w.c.thr.groups group).isSome then w.wrFpflags group value else w) s
def execSrHintdropClear (asid : Nat) (s : State) : Out1 :=
  forCtx asid (fun w => .ok (w.clrHintdrop asid)) s
def execFaultRingLostClear (ring : Ring) (s : State) : Out1 := step1 (fun w => w.clrLost ring) s
def execTenterDropClear (s : State) : Out1 := step1 (fun w => w.clrDrop) s
def execFabricTkclr (asid : Nat) (s : State) : Out1 := step1 (fun w => w.tkClear asid) s
def execFantailCredit (value : Dword) (s : State) : Out1 := trying (fun w => w.credit value) s
def execMonitorClear (n : Nat) (s : State) : Out1 := step1 (fun w => w.monClear n) s
def execPtpCfgWrite (value : Dword) (s : State) : Out1 := trying (fun w => w.wrPtpCfg value) s
def execRatioChange (stack : Nat) (ratio : BitVec 2) (s : State) : Out1 :=
  step1 (fun w => if stack < 16 then w.ratio stack ratio.toNat else w) s
def execSpareBank (stack pch bank : Nat) (s : State) : Out1 :=
  trying (fun w => if stack < 16 then w.spare stack .bank pch bank else .ok w) s
def execRetireChannel (stack pch : Nat) (s : State) : Out1 :=
  trying (fun w => if stack < 16 then w.spare stack .channel pch 0 else .ok w) s
def execKeyLoad (kid : Nat) (s : State) : Out1 :=
  trying (fun w => if kid < 256 then w.keyLoad kid else .ok w) s
def execKeyDestroy (kid : Nat) (s : State) : Out1 :=
  trying (fun w => if kid < 256 then w.keyDestroy kid else .ok w) s

/-- The firmware's sparing of a bank whose corrected errors passed 64 in an hour (19 R459). -/
def execAutoSparing (stack pch bank : Nat) (s : State) : Out1 :=
  trying (fun w => if stack < 16 then w.spare stack .bank pch bank else .ok w) s

/-! ## TIME, ENERGY, PERFRD (18 R437) -/

def execTime (m : TimeM) (f : Alu) : State → Out1 :=
  onceOp f.g fun r es w =>
    let x : Dword := BitVec.ofNat 64 (match m with
      | .ptp => w.ptpNow
      | .ac => w.ac)
    { w := w.dstAll r.i f.d es [lo32 x, hi32 x] }

def execEnergy (m : EnergyM) (f : Alu) : State → Out1 :=
  onceOp f.g fun r es w =>
    let gr := w.group r.i.gid
    let x : Dword := BitVec.ofNat 64 (match m with
      | .ctx => (w.ctx gr.asid).account
      | .grid => (w.grid gr.grid).used)
    { w := w.dstAll r.i f.d es [lo32 x, hi32 x] }

/-- A counter by its number. -/
def W.perf (w : W) (i : Issue) (n : Nat) : Option Nat :=
  let gr := w.group i.gid
  match n with
  | 0 => some gr.perf.issues
  | 1 => some gr.perf.records
  | 2 => some gr.perf.disps
  | 3 => some gr.perf.faults
  | 4 => some ((aget (w.core i.core).l1miss gr.asid).getD 0)
  | 5 => some ((aget w.c.cch.l2miss gr.asid).getD 0)
  | 6 => some ((aget w.c.cch.walks gr.asid).getD 0)
  | 7 => some gr.perf.passed
  | _ => none

def execPerfrd (f : Alu) : State → Out1 :=
  onceOp f.g fun r es w =>
    match w.perf r.i (r.b f 0).toNat with
    | none => Eff.allFault w es Cause.illegalOperand
    | some n =>
      let x : Dword := BitVec.ofNat 64 n
      { w := w.dstAll r.i f.d es [lo32 x, hi32 x] }

/-! ## TLBINV (18 R438) -/

/-- TLBINV of a range of a context: stores that were accepted by the old entries are performed first
(09 R244, R258). -/
def W.tlbInv (w : W) (a : Nat) (inRange : Nat → Nat → Bool) : W := (w.drainCtx a).invalidate a inRange

def execTlbinvVa (f : MemF) : State → Out1 :=
  onceOp f.g fun r es w =>
    let count := (r.word f.c 0).toNat
    if count = 0 then Eff.allFault w es Cause.illegalOperand
    else
      let lo := (r.pair f.a 0).toNat / 65536 * 65536
      let hi := lo + 65536 * count
      let a := (r.word f.b 0).toNat % 65536
      { w := (w.releaseAt r.i.gid .sys).tlbInv a fun x n => x < hi && lo < x + n }

def execTlbinvAsid (f : MemF) : State → Out1 :=
  onceOp f.g fun r _ w =>
    { w := (w.releaseAt r.i.gid .sys).tlbInv ((r.word f.b 0).toNat % 65536) fun _ _ => true }

def execTlbinvAll (f : MemF) : State → Out1 :=
  onceOp f.g fun r _ w =>
    let w := w.releaseAt r.i.gid .sys
    let asids := uniq (w.c.sys.ctxs.map Prod.fst)
    { w := asids.foldl (fun w a => w.tlbInv a fun _ _ => true) w }

end Sys2Proof.Machine
end

