-- ==== Sys2Proof/Machine/MemCtl.lean ====
section
/-! DEFINITION. What the memory controllers do of themselves: ratio changes, sparing, retirement of
channels, the purge of keys, and the Bolter (15 R368–R379). -/

namespace Sys2Proof.Machine

/-! ## Ratios, spares, channels, keys -/

/-- RATIO_CHANGE_COMPLETE: the controller reopens. -/
def execRatioChangeComplete (stack : Nat) (s : State) : Out1 :=
  step1 (fun w => w.setStack stack { w.stack stack with busy := false }) s

/-- The uncorrectable sectors that a copy met are poisoned in the spare; which sectors a bank holds is
the part's (15 R369). -/
def W.copyPoison (w : W) (stack pch bank : Nat) : W :=
  let met := fun (sec : Nat) =>
    Config.choice 5 (((sec * 16 + stack) * 64 + pch) * 32 + bank) % 2 = 1
  let bad := w.c.cch.badEcc.filter met
  { w with c.cch.badEcc := w.c.cch.badEcc.filter fun x => !met x
           c.cch.poison := w.c.cch.poison ++ bad }

/-- BANK_COPY_COMPLETE: the spare replaces the bank. -/
def W.bankDone (w : W) (n : Nat) : W :=
  let s := w.stack n
  if s.state ≠ 1 then w
  else (w.copyPoison n s.pch s.bank).setStack n
    { s with state := 0, spared := s.spared ++ [(s.pch, s.bank)] }

/-- The lifetime record counts spared banks and retired pseudo-channels by stack (19 R458). -/
def lifeCount (b : Boot) (n banks chans : Nat) : Boot :=
  let x := (aget b.stks n).getD (0, 0)
  { b with stks := aset b.stks n (x.1 + banks, x.2 + chans) }

def execBankCopyComplete (stack : Nat) (s : State) : Out1 :=
  let b := if (s.toW.stack stack).state = 1 then lifeCount s.boot stack 1 0 else s.boot
  .next { s.act (fun w => w.bankDone stack) with boot := b }

/-- CHANNEL_SWAP: the copy is done, and ingress closes. -/
def execChannelSwap (stack : Nat) (s : State) : Out1 :=
  step1 (fun w =>
    let x := w.stack stack
    if x.state = 2 then w.setStack stack { x with state := 3, closed := true } else w) s

/-- CHANNEL_RETIRED: the map has swapped, ingress reopens, and the retirement is reported. -/
def W.channelDone (w : W) (n : Nat) : W :=
  let s := w.stack n
  if s.state ≠ 3 then w
  else
    let w := w.setStack n
      { s with state := 0, closed := false, spc := s.spc - 1, retired := s.retired ++ [s.pch] }
    w.reportSys { cause := Cause.channelRetired, kind := 2 }

def execChannelRetired (stack : Nat) (s : State) : Out1 :=
  let b := if (s.toW.stack stack).state = 3 then lifeCount s.boot stack 0 1 else s.boot
  .next { s.act (fun w => w.channelDone stack) with boot := b }

/-- KEY_PURGE_COMPLETE: the key is erased (15 R372). -/
def execKeyPurgeComplete (s : State) : Out1 :=
  step1 (fun w =>
    { w with c.mc.keys := w.c.mc.keys.filter fun e => !w.c.mc.purging.contains e.1
             c.mc.purging := [] }) s

/-! ## The Bolter (15 R377–R379) -/

/-- A scan entry. -/
structure ScanE where
  btva : Nat
  nent : Nat
  asid : Nat
  free : Nat
  recl : Nat
  deriving DecidableEq, Repr

def W.scanEntry (w : W) (stack k : Nat) : ScanE :=
  let bs := w.bytes (fld (w.blk .boltScan stack) 8 44 * 256 + 32 * k) 32
  { btva := fieldLE bs 0 8, nent := fieldLE bs 8 4, asid := fieldLE bs 12 2
    free := fieldLE bs 16 8, recl := fieldLE bs 24 8 }

/-- A ring of pages as its header says: HEAD, TAIL, log2 of its entries. -/
def ringHdr (bs : List Byte) : Nat × Nat × Nat := (fieldLE bs 0 4, fieldLE bs 4 4, fieldLE bs 8 1)

/-- The codes of a page's elements in MXFP4, block by block, and their scales (02 R30). -/
def mxPage (fmt : Nat) (codes : List Byte) : List Nat × List Nat :=
  (List.range 1920).foldl (fun (p : List Nat × List Nat) k =>
    let vs := ((codes.drop (32 * k)).take 32).map fun c => (fmtOf fmt).dec c.toNat
    let (sc, cs) := mxConv 0x14 .rne [] vs
    (p.1 ++ cs.map Cv.code, p.2 ++ [sc])) ([], [])

/-- Two codes of 4 bits to a byte, the even element low (02 R33). -/
def nibbles : List Nat → List Byte
  | a :: b :: r => BitVec.ofNat 8 (a % 16 + 16 * (b % 16)) :: nibbles r
  | _ => []

/-- The bytes of half a pair page. -/
def mxHalf (fmt : Nat) (codes : List Byte) : List Byte :=
  let (cs, ss) := mxPage fmt codes
  nibbles cs ++ ss.map fun x => BitVec.ofNat 8 x

/-- A pair page from the headers and elements of two pages (15 R374, R378). -/
def pairPage (h0 h1 : KvHdr) (e0 e1 : List Byte) : List Byte :=
  leBytes 1 0x14 ++ leBytes 1 3 ++ leBytes 2 0 ++ leBytes 4 (max h0.gen h1.gen + 1)
    ++ leBytes 4 h0.scale0 ++ leBytes 4 h1.scale0 ++ leBytes 8 (min h0.sealt h1.sealt) ++ leBytes 8 0
    ++ List.replicate 224 0 ++ mxHalf h0.fmt e0 ++ mxHalf h1.fmt e1

/-- How a visit ends: with nothing done, or abandoned with a cause. -/
inductive BoltEnd where
  | skip
  | bad (cause addr : Nat)
  deriving DecidableEq, Repr

/-- A read of the Bolter, as system software. -/
def W.boltRead (w : W) (a va n : Nat) : W × Except BoltEnd (List Byte) :=
  if 2 ^ 56 < va + n then (w, .error (.bad Cause.addressNoncanonical va))
  else match w.sysRead a va n with
    | (w, .ok bs) => (w, .ok bs)
    | (w, .bad c v) => (w, .error (.bad c v))
    | (w, .nonres _) => (w, .error .skip)

/-- A page of a valid entry, with its header; none is read for an entry that is not. -/
def W.boltPage (w : W) (a ent : Nat) : W × Except BoltEnd (Nat × KvHdr) :=
  if ent % 65536 ≠ 1 || bits ent 56 8 ≠ 0 then (w, .error .skip)
  else
    let page := bits ent 16 40 * 65536
    match w.boltRead a page 256 with
    | (w, .error e) => (w, .error e)
    | (w, .ok bs) => match kvHeader bs with
      | none => (w, .error (.bad Cause.formatInvalid page))
      | some h => (w, .ok (page, h))

/-- Whether a page is sealed, FP8 and old enough. -/
def boltDue (now age : Nat) (h : KvHdr) : Bool :=
  h.sealed_ && h.fmt ≠ 0x14 && age * 1000000 + h.sealt ≤ now

/-- One pair of a scan entry: read, converted, and swung. -/
def W.boltPair (w : W) (stack : Nat) (e : ScanE) (j : Nat) : W × Except BoltEnd Unit :=
  let a := e.asid
  let age := fld (w.blk .boltCtl stack) 32 32
  let at_ := e.btva + 16 * j
  match w.boltRead a at_ 16 with
  | (w, .error x) => (w, .error x)
  | (w, .ok bs) =>
    match w.boltPage a (fieldLE bs 0 8) with
    | (w, .error x) => (w, .error x)
    | (w, .ok (p0, h0)) => match w.boltPage a (fieldLE bs 8 8) with
      | (w, .error x) => (w, .error x)
      | (w, .ok (p1, h1)) =>
        if !(boltDue w.ptpNow age h0 && boltDue w.ptpNow age h1) then (w, .error .skip)
        else match w.boltRead a e.free 16 with
          | (w, .error x) => (w, .error x)
          | (w, .ok fb) =>
            let (hd, tl, lg) := ringHdr fb
            if hd = tl || 16 < lg then (w, .error .skip)
            else match w.boltRead a (e.free + 16 + 8 * (hd % 2 ^ lg)) 8 with
              | (w, .error x) => (w, .error x)
              | (w, .ok pb) =>
                let f := leNat pb
                match w.boltRead a (p0 + 256) 61440 with
                | (w, .error x) => (w, .error x)
                | (w, .ok e0) => match w.boltRead a (p1 + 256) 61440 with
                  | (w, .error x) => (w, .error x)
                  | (w, .ok e1) =>
                    if f % 65536 ≠ 0 || 2 ^ 56 ≤ f then
                      (w, .error (.bad Cause.addressNoncanonical f))
                    else
                      let go := fun (r : W × MRes Unit) (k : W → W × Except BoltEnd Unit) =>
                        match r with
                        | (w, .ok ()) => k w
                        | (w, .bad c v) => (w, .error (.bad c v))
                        | (w, .nonres _) => (w, .error .skip)
                      go (w.check3 a at_ 16 false) fun w =>
                      go (w.check3 a e.free 4 false) fun w =>
                      go (w.write3va a f (pairPage h0 h1 e0 e1) false) fun w =>
                      go (w.write3va a e.free (leBytes 4 (hd + 1)) false) fun w =>
                      go (w.write3va a at_ (leBytes 8 (f + 1) ++ leBytes 8 (f + 3)) false) fun w =>
                        ({ w with c.mc.recl := w.c.mc.recl ++
                            [{ stack := stack, asid := a, ring := e.recl, page := p0, other := p1 },
                             { stack := stack, asid := a, ring := e.recl, page := p1, other := p0 }] },
                         .ok ())

/-- The Bolter goes on to the next pair, or to the first of the next entry. -/
def W.boltNext (w : W) (n : Nat) (e : ScanE) : W :=
  let s := w.stack n
  let cnt := fld (w.blk .boltScan n) 0 8
  if s.pair + 1 < e.nent / 2 then w.setStack n { s with pair := s.pair + 1 }
  else w.setStack n { s with pair := 0, scan := (s.scan + 1) % max 1 cnt }

/-- BOLTER_PAIR_VISIT. -/
def W.boltVisit (w : W) (n : Nat) : W :=
  let cnt := fld (w.blk .boltScan n) 0 8
  if !(w.blk .boltCtl n).getLsbD 0 || cnt = 0 then w
  else
    let s := w.stack n
    let e := w.scanEntry n (s.scan % cnt)
    let w := w.boltNext n e
    if e.nent / 2 ≤ s.pair || (aget w.c.sys.ctxs e.asid).isNone || (w.ctx e.asid).dead then w
    else match w.boltPair n e s.pair with
      | (w, .ok ()) => w
      | (w, .error .skip) => w
      | (w, .error (.bad c v)) =>
        w.reportSys { cause := c, kind := 2, asid := e.asid, addr := v }

def execBolterPairVisit (stack : Nat) (s : State) : Out1 := step1 (fun w => w.boltVisit stack) s

/-- The pages whose resolutions operations hold, by context (15 R376, 12 R306, 13 R336). -/
def W.heldPages (w : W) : List (Nat × Nat) :=
  let page := fun (v : Nat) => bits v 16 40 * 65536
  w.c.eng.ops.flatMap fun e => match e.2.kind with
    | .hoist h => h.resolved.map fun r => (h.asid, page r.2.entry)
    | .mx m => (m.resolved ++ m.resolvedB).map fun r => (m.asid, page r.2.entry)
    | _ => []

/-- BOLTER_RECLAIM: the first old page of a stack that no operation holds any more is appended to its
ring, unless the ring is full. -/
def W.boltReclaim (w : W) (stack : Nat) : W :=
  match w.c.mc.recl.find? fun r => r.stack = stack with
  | none => w
  | some r =>
    let held := w.heldPages
    if held.contains (r.asid, r.page) || held.contains (r.asid, r.other) then w
    else
      let drop := fun (w : W) => { w with c.mc.recl := w.c.mc.recl.erase r }
      match w.boltRead r.asid r.ring 16 with
      | (w, .ok bs) =>
        let (hd, tl, lg) := ringHdr bs
        if 16 < lg then drop w
        else if 2 ^ lg ≤ (tl + 2 ^ 32 - hd) % 2 ^ 32 then w
        else match w.write3va r.asid (r.ring + 16 + 8 * (tl % 2 ^ lg)) (leBytes 8 r.page) false with
          | (w, .ok ()) => match w.write3va r.asid (r.ring + 4) (leBytes 4 (tl + 1)) false with
            | (w, .ok ()) => drop w
            | (w, .bad c v) => drop (w.reportSys { cause := c, kind := 2, asid := r.asid, addr := v })
            | (w, .nonres _) => w
          | (w, .bad c v) => drop (w.reportSys { cause := c, kind := 2, asid := r.asid, addr := v })
          | (w, .nonres _) => w
      | (w, .error .skip) => w
      | (w, .error (.bad c v)) => drop (w.reportSys { cause := c, kind := 2, asid := r.asid, addr := v })

def execBolterReclaim (stack : Nat) (s : State) : Out1 := step1 (fun w => w.boltReclaim stack) s

end Sys2Proof.Machine
end

