-- ==== Sys2Proof/Machine/Place.lean ====
section
/-! DEFINITION. The placement of teams: what a core has free, which team is placed next and where, the
restoring of saved teams, and the filling of contexts (05 R115–R121, R125, 18 R443–R445). -/

namespace Sys2Proof.Machine

/-! ## What a core has free (05 R115) -/

/-- Whether a core works: excluded units are those that the last boot excluded, not those lost since
(01 R21, 18 R450). Unit kind 0 is a core. -/
def W.works (w : W) (c : Nat) : Bool :=
  decide (c < Config.cores) && (!w.boot.excluded.contains (0, c) || (w.core c).closed)

/-- The working cores of a core cluster. -/
def W.clusterWorks (w : W) (cc : Nat) : Nat :=
  ((List.range 16).filter fun j => w.works (16 * cc + j)).length

/-- Whether a core takes placements (18 R450, 19 R457). -/
def W.takes (w : W) (c : Nat) : Bool :=
  w.works c && !(w.core c).closed && !w.c.mc.hot.contains (dieOf c)

/-- The teams that hold resources of a core. -/
def W.teamsOn (w : W) (c : Nat) : List (Nat × Team) :=
  w.c.slu.teams.filter fun e => e.2.core = c && e.2.st ≠ .saved

/-- The windows held on a core (05 R115). -/
def W.windowsUsed (w : W) (c : Nat) : Nat := ((w.teamsOn c).map fun e => e.2.nwin).sum

/-- The lowest place of `n` consecutive free slots of a core's scratchpad (09 R248). -/
def W.slotPlace (w : W) (c n : Nat) : Option Nat :=
  let used := (w.teamsOn c).map fun e => (e.2.slot0, e.2.slots)
  let starts := 0 :: used.map fun u => u.1 + u.2
  minBy id (starts.filter fun o =>
    decide (o + n ≤ 256) && used.all fun u => u.2 = 0 || o + n ≤ u.1 || u.1 + u.2 ≤ o)

/-- Whether a core has the scratchpad, the windows, a context and its registers for one more team of a
grid, beside `extra` restored ones whose records have not taken theirs (05 R115). -/
def W.roomFor (w : W) (n c extra : Nat) : Bool :=
  let gr := w.grid n
  w.takes c && (w.slotPlace c (gr.spbytes / 4096)).isSome
    && w.windowsUsed c + gr.nwin ≤ Config.windows
    && (w.freeCtx c).isSome && (w.busyCtx c).length + extra < 64
    && w.rfUsed c + (extra + 1) * shareOf gr.vb gr.ub gr.width ≤ Config.regFile
    && (w.freeLid c).isSome

/-- Whether a team of a grid fits on a core, with a free context that no other work of the core takes
(05 R115, R117). -/
def W.fits (w : W) (n c : Nat) : Bool := w.roomFor n c 0 && (w.fill c).isNone

/-- The groups of a team. -/
def W.teamGroups (w : W) (t : Nat) : List (Nat × Group) :=
  w.c.thr.groups.filter fun e => e.2.team = t

/-- Whether a restorable team fits on a core beside `extra` restored with it (13 R347, 18 R445); its
tasks and spawn records find room there too (05 R127, R132). -/
def W.restoreFits (w : W) (t c extra : Nat) : Bool :=
  w.roomFor (w.team t).grid c extra
    && (w.core c).tasks.length + (w.team t).sTasks.length ≤ 4096
    && (w.core c).spawns.length + (w.team t).sSpawn.length ≤ 64
    && (w.c.eng.mx.tiles.filter fun e => e.1.1 = t).length ≤ w.freeTiles c
    && (w.c.eng.mx.slots.filter fun e => e.1.1 = t).length ≤ w.freeSlots c
    && ((w.c.thr.groups.filter fun e => e.2.core = c).length + (w.teamGroups t).length
        ≤ Config.groupsPerCore)

/-! ## Placing a team (05 R115, R116) -/

/-- A team is placed on a core: its resources are reserved, its group 0 starts, its other groups wait. -/
def W.placeTeam (w : W) (n tlin c : Nat) : W :=
  let gr := w.grid n
  match w.slotPlace c (gr.spbytes / 4096), w.freeCtx c with
  | some s0, some k =>
    let (w, t) := w.newId
    let w := w.setTeam t
      { grid := n, asid := gr.asid, tlin := tlin, core := c, slot0 := s0, slots := gr.spbytes / 4096
        nwin := gr.nwin, at_ := t, gidx := List.range gr.groups }
    let w := w.setGrid n
      { gr with placed := gr.placed ++ [tlin], turn := t }
    let rest := (List.range gr.groups).drop 1
    let w := w.modCore c fun x => { x with unstarted := x.unstarted ++ rest.map fun g => (t, g) }
    w.startGroup k (launchStart w t 0)
  | _, _ => w

/-! ## Restoring a team (05 R125, 06 R163, 18 R444, R445) -/

/-- The VA of a save block. -/
def blockBytes : Nat := 3145728
def W.blockVa (w : W) (a k : Nat) : Nat := fld (w.srReg a .savebase) 0 56 + blockBytes * k

/-- Whether a save block's pages translate and hold no uncorrectable sector. -/
def W.blockSound (w : W) (a k : Nat) (acc : Acc) : W × Bool :=
  let va := w.blockVa a k
  (List.range 48).foldl (fun (p : W × Bool) i =>
    if !p.2 then p
    else match p.1.xlate a (va + 65536 * i) acc false with
      | (w, .ok pg) =>
        let lo := pg.pa (va + 65536 * i) / 32
        (w, (w.c.cch.poison ++ w.c.cch.badEcc).all fun s => s < lo || lo + 2048 ≤ s)
      | (w, _) => (w, false)) (w, true)

/-- A task record as it is saved with its team (05 R132). -/
def Task.bytes (t : Task) : List Byte :=
  leBytes 8 t.entry ++ leBytes 4 (setFld (BitVec.ofNat 64 t.flags) 16 8 t.waits).toNat
    ++ leBytes 4 t.succ ++ ((List.range 8).map fun k => leBytes 4 (t.args.getD k 0).toNat).flatten

/-- Where a save block holds the task records: the part's own format (18 R444, log entry 28). -/
def W.taskVa (w : W) (tm : Team) : Nat :=
  w.blockVa tm.asid (tm.block.getD 0) + Config.choice 47 0 % 46081 * 64

/-- The task records of a team are written to its save block (05 R132). -/
def W.putTasks (w : W) (tm : Team) : W × Bool :=
  match w.write3va tm.asid (w.taskVa tm) (tm.sTasks.map Task.bytes).flatten false with
  | (w, .ok _) => (w, true)
  | (w, _) => (w, false)

/-- Whether a save block still holds the task records that were written (18 R445). -/
def W.tasksSound (w : W) (tm : Team) : W × Bool :=
  let bs := (tm.sTasks.map Task.bytes).flatten
  match w.read3 tm.asid (w.taskVa tm) bs.length false with
  | (w, .ok x) => (w, x = bs)
  | (w, _) => (w, false)

/-- The records of a saved team in the order in which they enter the resume FIFO: those woken, in the
order of their wakes, then those written by the pre-emption, by group and lowest lane (06 R163). -/
def W.restoreOrder (w : W) (t : Nat) : List Nat :=
  let fs := w.c.thr.frags.filter fun e => (w.group e.2.gid).team = t
  let woken := fs.filterMap fun e => match e.2.place with
    | .saved (some k) => some (e.1, k)
    | _ => none
  let pre := (fs.filter fun e => e.2.pre && e.2.place = .saved none && e.2.wake = .ready).map fun e =>
    let gi := match (w.group e.2.gid).kind with
      | .task _ => 2 ^ 33
      | _ => (w.group e.2.gid).gindex
    (e.1, (gi * 2 ^ 20 + e.2.gid) * 64 + (w.fragLanes e.2.gid e.1).headD 0)
  (sortBy Prod.snd woken).map Prod.fst ++ (sortBy Prod.snd pre).map Prod.fst

/-- The groups of a restored team take the core, with free core-local identities. -/
def W.rehome (w : W) (t c : Nat) : W :=
  (w.teamGroups t).foldl (fun w e =>
    let lid := (w.freeLid c).getD 0
    w.modGroup e.1 fun x => { x with core := c, lid := lid }) w

/-- The engine that an operation names moves with its team (12 R326, 13 R347, 14 R367). -/
def OpKind.moveTo (c : Nat) : OpKind → OpKind
  | .hoist h => .hoist { h with core := c }
  | .mx m => .mx { m with core := c }
  | .tx t => .tx { t with core := c }
  | k => k

def W.rehomeOps (w : W) (t c : Nat) : W :=
  let mine := fun (o : Op) => (w.group o.gid).team = t
  let ids := (w.c.eng.ops.filter fun e => mine e.2).map Prod.fst
  let fix := (w.c.spd.fixups.map fun e => e.2.filter fun x => ids.contains x.op).flatten
  let rest := w.c.spd.fixups.map fun e => (e.1, e.2.filter fun x => !ids.contains x.op)
  let ops := w.c.eng.ops.map fun e =>
    (e.1, if mine e.2 then { e.2 with kind := e.2.kind.moveTo c } else e.2)
  { w with c.eng.ops := ops
           c.spd.fixups := if fix.isEmpty then rest else aset rest c ((aget rest c).getD [] ++ fix) }

/-- A saved team is restored on a core; a block that cannot be read back stops it. -/
def W.restoreTeam (w : W) (t c : Nat) : W :=
  let tm := w.team t
  let gr := w.grid tm.grid
  match w.slotPlace c (gr.spbytes / 4096) with
  | none => w
  | some s0 =>
    let (w, ok) := match tm.block with
      | some k => match w.blockSound tm.asid k .read with
        | (w, true) => w.tasksSound tm
        | r => r
      | none => (w, true)
    let w := (w.rehome t c).rehomeOps t c
    let order := w.restoreOrder t
    let at0 := (w.ac * 2 ^ 40 + tm.tlin) * 2 ^ 39
    let w := order.zipIdx.foldl (fun w e =>
      w.modFrag e.1 fun x => { x with place := .fifo (at0 + e.2) }) w
    let fs := (w.c.thr.frags.filter fun e => (w.group e.2.gid).team = t).map Prod.fst
    let w := fs.foldl (fun w f => w.modFrag f fun x =>
      { x with place := if x.place = .saved none then .parked else x.place }) w
    let w := w.modCore c fun x =>
      { x with unstarted := x.unstarted ++ tm.sUnst.map (fun g => (t, g))
               spawns := x.spawns ++ tm.sSpawn, tasks := x.tasks ++ tm.sTasks }
    let (w, at_) := w.newId
    let w := w.setTeam t
      { tm with core := c, slot0 := s0, st := .resident, at_ := at_, block := none
                sUnst := [], sSpawn := [], sTasks := [] }
    let w := match tm.block with
      | some k => w.modCtx tm.asid fun x => { x with blocks := x.blocks.erase k }
      | none => w
    let w := w.modGrid tm.grid fun x =>
      { x with restorable := x.restorable.erase t, turn := at_ }
    if ok then w else w.corrupt t (w.blockVa tm.asid (tm.block.getD 0))

/-! ## What is placed next (05 R118–R120, R125) -/

/-- What is placed at one moment: new teams of a grid by linear index, or saved teams. -/
inductive PUnit where
  | fresh (tlins : List Nat)
  | saved (teams : List Nat)
  deriving DecidableEq, Repr

def PUnit.size : PUnit → Nat
  | .fresh l => l.length
  | .saved l => l.length

/-- The next unplaced team index of a grid; none when none is left. -/
def Grid.nextTlin (gr : Grid) : Option Nat :=
  let k := lowestOut (gr.placed ++ gr.withdrawn ++ gr.discarded)
  if gr.shut || gr.count ≤ k then none else some k

/-- The teams per cluster of a grid. -/
def Grid.cl (gr : Grid) : Nat := max 1 gr.cluster

/-- The team cluster of an index, without its discarded members. -/
def Grid.members (gr : Grid) (tlin : Nat) : List Nat :=
  let k := tlin / gr.cl
  ((List.range gr.cl).map fun i => k * gr.cl + i).filter fun i => !gr.discarded.contains i

/-- The next unit of a grid. -/
def W.nextUnit (w : W) (n : Nat) : Option PUnit :=
  let gr := w.grid n
  if !gr.started || gr.retired then none
  else match gr.restorable with
    | t :: _ =>
      if gr.cores then some (.saved gr.restorable)
      else some (.saved (gr.restorable.filter fun u =>
        (w.team u).tlin / gr.cl = (w.team t).tlin / gr.cl))
    | [] => match gr.nextTlin with
      | none => none
      | some k =>
        if gr.cores then
          some (.fresh ((List.range gr.count).filter fun i => !gr.discarded.contains i))
        else some (.fresh (gr.members k))

/-- Whether a core takes the `i`-th member of a unit, `w0` being the state before the event that places
the unit: no other work of the core had the context then (05 R117, R120). -/
def W.memberFits (w0 w : W) (n : Nat) (u : PUnit) (i c : Nat) : Bool :=
  (match u with
    | .fresh _ => w.roomFor n c 0
    | .saved l =>
      w.restoreFits (l.getD i 0) c ((w.teamsOn c).length - (w0.teamsOn c).length)) &&
    (w0.fill c).isNone

/-- Places one member of a unit. -/
def W.placeOne (w0 w : W) (n : Nat) (u : PUnit) (i c : Nat) : Option W :=
  if !W.memberFits w0 w n u i c then none
  else match u with
  | .fresh l => some (w.placeTeam n (l.getD i 0) c)
  | .saved l => some (w.restoreTeam (l.getD i 0) c)

/-- The index of the team cluster of each member of a unit. -/
def W.unitKeys (w : W) (n : Nat) (u : PUnit) : List Nat :=
  let cl := (w.grid n).cl
  match u with
  | .fresh l => l.map fun x => x / cl
  | .saved l => l.map fun t => (w.team t).tlin / cl

/-- The sizes of the clusters of a unit, in order. -/
def W.unitClusters (w : W) (n : Nat) (u : PUnit) : List (Nat × Nat) :=
  let ks := w.unitKeys n u
  (uniq ks).map fun k => (k, (ks.filter fun x => x = k).length)

/-- Whether a unit is there as a whole: no team of a saved cluster or co-resident grid is still being
saved (05 R118, R125). -/
def W.unitWhole (w : W) (n : Nat) (u : PUnit) : Bool :=
  match u with
  | .fresh _ => true
  | .saved _ =>
    let gr := w.grid n
    !w.c.slu.teams.any fun e => e.2.grid = n && e.2.st = .stopping
      && (gr.cores || (w.unitKeys n u).contains (e.2.tlin / gr.cl))

/-- The cores that the other members of a team cluster have. -/
def W.clusterHome (w : W) (n k : Nat) : List Nat :=
  (w.c.slu.teams.filter fun e =>
    e.2.grid = n && e.2.tlin / (w.grid n).cl = k && e.2.st ≠ .saved).map fun e => e.2.core

/-- Whether cores may take the members of team cluster `k`: distinct cores of one core cluster that has
CLUSTER working cores, where its other members are (05 R118). -/
def W.clusterCores (w : W) (n k : Nat) (cs : List Nat) : Bool :=
  let cl := (w.grid n).cl
  let all := w.clusterHome n k ++ cs
  cl ≤ 1 || (uniq all = all && (all.all fun c => clusterOf c = clusterOf (all.headD 0))
    && cl ≤ w.clusterWorks (clusterOf (all.headD 0)))

/-- Whether cores may take a unit, cluster by cluster. -/
def W.unitCores (w : W) (n : Nat) (u : PUnit) (cs : List Nat) : Bool :=
  ((w.unitClusters n u).foldl (fun (p : Bool × List Nat) e =>
    (p.1 && w.clusterCores n e.1 (p.2.take e.2), p.2.drop e.2)) (true, cs)).1

/-- Places a unit on the cores given. -/
def W.placeUnit (w0 : W) (n : Nat) (u : PUnit) (cs : List Nat) : Option W :=
  if cs.length ≠ u.size || !w0.unitWhole n u || !w0.unitCores n u cs then none
  else (List.range u.size).foldl (fun (r : Option W) i => match r with
    | none => none
    | some w => W.placeOne w0 w n u i (cs.getD i 0)) (some w0)

/-- A core for the `i`-th member: the part's choice among those that fit. -/
def W.pickCore (w0 w : W) (n : Nat) (u : PUnit) (i : Nat) : Option Nat :=
  let cs := (List.range Config.cores).filter fun c => W.memberFits w0 w n u i c
  match cs with
  | [] => none
  | c :: _ => some (cs.getD (Config.choice 24 w.c.mdl.next % cs.length) c)

/-- The sizes of the free runs of a core's scratchpad slots. -/
def W.gaps (w : W) (c : Nat) : List Nat :=
  let used := sortBy Prod.fst ((w.teamsOn c).map fun e => (e.2.slot0, e.2.slots))
  let r := used.foldl (fun (p : List Nat × Nat) u => (p.1 ++ [u.1 - p.2], u.1 + u.2)) ([], 0)
  r.1 ++ [256 - r.2]

/-- How many more teams of a grid a core has room for. -/
def W.roomCount (w : W) (n c : Nat) : Nat :=
  let gr := w.grid n
  let share := shareOf gr.vb gr.ub gr.width
  let sl := gr.spbytes / 4096
  let a := 64 - (w.busyCtx c).length
  let a := if gr.nwin = 0 then a else min a ((Config.windows - w.windowsUsed c) / gr.nwin)
  let a := if sl = 0 then a else min a (((w.gaps c).map fun x => x / sl).sum)
  if share = 0 then a else min a ((Config.regFile - w.rfUsed c) / share)

/-- Cores for the `m` members of cluster `k`, from the `i`-th of the unit: those with the most room, of
a core cluster of the part's choice. -/
def W.pickCluster (w0 w : W) (n : Nat) (u : PUnit) (i k m : Nat) : Option (List Nat) :=
  let sets := (List.range 72).filterMap fun cc =>
    let cs := ((List.range 16).map fun j => 16 * cc + j).filter fun c =>
      !(w.clusterHome n k).contains c && W.memberFits w0 w n u i c
    let cs := (sortBy (fun c => 64 - w.roomCount n c) cs).take m
    if cs.length = m && w.clusterCores n k cs
        && (List.range m).all (fun j => W.memberFits w0 w n u (i + j) (cs.getD j 0)) then
      some cs else none
  match sets with
  | [] => none
  | s :: _ => some (sets.getD (Config.choice 24 w.c.mdl.next % sets.length) s)

/-- The whole unit placed as one event, with cores of the part's choice; none when it does not fit
now. -/
def W.tryUnit (w0 : W) (n : Nat) (u : PUnit) : Option W :=
  if !w0.unitWhole n u then none
  else if 2 ≤ (w0.grid n).cl then
    ((w0.unitClusters n u).foldl (fun (r : Option (W × Nat)) e => match r with
      | none => none
      | some (w, i) => match W.pickCluster w0 w n u i e.1 e.2 with
        | none => none
        | some cs =>
          match (List.range e.2).foldl (fun (r : Option W) j => match r with
            | none => none
            | some w => W.placeOne w0 w n u (i + j) (cs.getD j 0)) (some w) with
          | none => none
          | some w => some (w, i + e.2)) (some (w0, 0))).map Prod.fst
  else (List.range u.size).foldl (fun (r : Option W) i => match r with
    | none => none
    | some w => match W.pickCore w0 w n u i with
      | none => none
      | some c => W.placeOne w0 w n u i c) (some w0)

/-- The package cap in mJ for each ms, and whether what was metered in the last ms leaves room
(19 R454). -/
def W.planRoom (w : W) : Bool :=
  let cap := fld (w.blk .fantailPlan 0) 0 16
  let cap := if cap = 0 || 5200 < cap then 5200 else cap
  ((w.c.mc.recent.filter fun e => w.ac < e.1 + 1000 * acPerUs).map Prod.snd).sum < cap

/-- The started grids of a level with something to place, in the order of their turns (05 R119); a
context whose account is spent places nothing (05 R122). -/
def W.levelGrids (w : W) (lvl : Nat) : List Nat :=
  let gs := w.c.slu.grids.filter fun e =>
    e.2.started && !e.2.retired && e.2.prio = lvl && (w.nextUnit e.1).isSome
      && !(w.ctx e.2.asid).dry
  (sortBy (fun e => e.2.turn) gs).map Prod.fst

/-- A co-resident grid that holds its level and those below: the oldest of its level that is not yet
placed (05 R120). -/
def W.holdsLevel (w : W) (gs : List Nat) : Option Nat :=
  match minBy (fun n => (w.grid n).startAt) gs with
  | some n => if (w.grid n).cores then some n else none
  | none => none

/-- The grid whose unit is placed next, if any, from a level down. -/
def W.dueFrom (w : W) : Nat → Option Nat
  | 0 => none
  | lvl + 1 =>
    let gs := w.levelGrids lvl
    let fitsNow := fun n => match w.nextUnit n with
      | some u => (w.tryUnit n u).isSome
      | none => false
    match w.holdsLevel gs with
    | some n => if fitsNow n then some n else none
    | none => match gs.find? fitsNow with
      | some n => some n
      | none => W.dueFrom w lvl

/-- Whether a grid has a team or cluster to place for which there is no room (05 R124). -/
def W.stuck (w : W) (n : Nat) : Bool :=
  match w.nextUnit n with
  | some u => w.unitWhole n u && (w.tryUnit n u).isNone
  | none => false

/-- Since when grids have waited so. -/
def W.stuckClock (w : W) : W :=
  w.c.slu.grids.foldl (fun w e =>
    match w.stuck e.1, e.2.waitSince with
    | true, none => w.modGrid e.1 fun x => { x with waitSince := some w.ac }
    | false, some _ => w.modGrid e.1 fun x => { x with waitSince := none }
    | _, _ => w) w

/-- The grid of which the Sluice places a unit next. -/
def W.due (w : W) : Option Nat := if w.planRoom then w.dueFrom 8 else none

/-- The unit of the grid that is due is placed, where the part chooses. -/
def W.placeDue (w : W) : W :=
  match w.due with
  | none => w
  | some n => match w.nextUnit n with
    | none => w
    | some u => (w.tryUnit n u).getD w

/-- TEAM_PLACEMENT: the next team or cluster of a grid is placed on the cores named, when it is that
grid's turn and it fits there. -/
def execTeamPlacement (grid : Nat) (cores : List Nat) (s : State) : Out1 :=
  step1 (fun w => match w.due, w.nextUnit grid with
    | some n, some u => if n = grid then (w.placeUnit n u cores).getD w else w
    | _, _ => w) s

/-- CO_RESIDENT_PLACEMENT: all teams of a co-resident grid are placed as one event. -/
def execCoResidentPlacement (grid : Nat) (s : State) : Out1 :=
  step1 (fun w => if w.due = some grid && (w.grid grid).cores then w.placeDue else w) s

/-- TEAM_RESTORE: a restorable team is restored on a core, when it is its grid's turn. -/
def execTeamRestore (team core : Nat) (s : State) : Out1 :=
  step1 (fun w => match w.due with
    | some n =>
      if w.nextUnit n = some (.saved [team]) then (w.placeUnit n (.saved [team]) [core]).getD w else w
    | none => w) s

/-! ## Contexts and the Leat (05 R117, R134, 06 R161, R162) -/

/-- CONTEXT_FILL. -/
def execContextFill (core : Nat) (s : State) : Out1 := step1 (fun w => (w.fill core).getD w) s

/-- TASK_RIPENING: a task group that has become ripe takes a context when its turn comes. -/
def execTaskRipening (core : Nat) (s : State) : Out1 :=
  step1 (fun w => if (w.ripeGroup core).isSome then (w.fill core).getD w else w) s

/-- The fragment of a core that is displaced: the longest resident, the lower context on a tie, while
the head of the FIFO has waited 4,096 ac without a free context (06 R162). -/
def W.victim (w : W) (c : Nat) : Option Nat :=
  match (w.core c).fifoSince with
  | none => none
  | some s =>
    if w.ac < s + 4096 || (w.freeCtx c).isSome || (w.fifoHead c).isNone then none
    else
      let fs := (w.coreFrags c).filterMap fun e => match e.2.place with
        | .ctx k => some (e.1, e.2.since * 64 + k)
        | _ => none
      (minBy Prod.snd fs).map Prod.fst

/-- DISPLACEMENT: it waits while its record would find the overflow latch full (06 R161). -/
def W.displace (w : W) (c : Nat) : W :=
  match w.victim c with
  | none => w
  | some f =>
    let g := (w.frag f).gid
    let w1 := w.writeOut g f fun x => { x with disp := true }
    if !(w1.frag f).hold.isEmpty then w
    else
      let w1 := w1.modGroup g fun x => { x with perf.disps := x.perf.disps + 1 }
      w1.modCore c fun x => { x with fifoSince := none }

def execDisplacement (core : Nat) (s : State) : Out1 := step1 (fun w => w.displace core) s

/-- The oldest record of a core's overflow latch that now finds room in its pool. -/
def W.latchHead (w : W) (c : Nat) : Option (Nat × Nat × Nat) :=
  let fs := (w.coreFrags c).filterMap fun e => e.2.latch.map fun n => (e.1, n)
  match minBy Prod.snd fs with
  | none => none
  | some (f, _) =>
    let s := w.recShape f
    let n := recBytes s.width s.lv s.ls s.perLane s.perSeq
    let a := (w.group s.g).asid
    (poolFit (w.poolUse a) (w.poolSize a) n).map fun o => (f, o, n)

/-- The latch drains in entry order; the episode ends when it is empty. -/
def W.drainLatch (w : W) (c : Nat) : W :=
  let w := match w.latchHead c with
    | some (f, o, n) => w.modFrag f fun x => { x with latch := none, pool := some (o, n) }
    | none => w
  if w.latchCount c = 0 then w.modCore c fun x => { x with overflow := false } else w

/-- OVERFLOW_LATCH_DRAIN. -/
def execOverflowLatchDrain (core : Nat) (s : State) : Out1 := step1 (fun w => w.drainLatch core) s

/-- EVENT_WAIT_RETEST: the counter of a parked EVWAIT is tested again (04 R114). -/
def execEventWaitRetest (record : Nat) (s : State) : Out1 := step1 (fun w => w.testEvent record) s

/-- Whether a record has waited longer than its context allows and has not been reported (18 R439). -/
def W.overdueRec (w : W) (f : Nat) : Bool :=
  let x := w.frag f
  let lim := fld (w.srReg (w.group x.gid).asid .wdog) 0 32
  x.place = .parked && !x.isFault && !x.dog && 0 < lim && x.wrote + lim * 1000 * acPerUs < w.ac

/-- WATCHDOG. -/
def execWatchdog (record : Nat) (s : State) : Out1 :=
  step1 (fun w =>
    if w.overdueRec record then
      let x := w.frag record
      let gr := w.group x.gid
      let ls := w.fragLanes x.gid record
      let w := w.modFrag record fun y => { y with dog := true }
      w.report (.ctx gr.asid)
        { cause := Cause.watchdog, kind := 3, asid := gr.asid, core := gr.core
          pc := (w.lane x.gid (ls.headD 0)).pc, lanes := laneMask ls, gindex := gr.gindex
          tlin := (w.team gr.team).tlin, grid := gr.grid }
    else w) s

end Sys2Proof.Machine
end

