-- ==== Sys2Proof/Machine/SyncOps.lean ====
section
/-! DEFINITION. Barriers on the Crown Wheel, the Governor's tickets and hand-offs, and what the exit or
the kill of a team releases (16 R386–R396). -/

namespace Sys2Proof.Machine

/-! ## Barriers (16 R386–R391) -/

/-- Which barrier: a team's, or a team cluster's. -/
inductive BKey where
  | tm (t n : Nat)
  | cl (grid k n : Nat)
  deriving DecidableEq, Repr

def W.bar (w : W) : BKey → Barrier
  | .tm t n => (aget w.c.syn.bars (t, n)).getD {}
  | .cl g k n => (aget w.c.syn.cbars (g, k, n)).getD {}
def W.setBar (w : W) (x : BKey) (b : Barrier) : W :=
  match x with
  | .tm t n => { w with c.syn.bars := aset w.c.syn.bars (t, n) b }
  | .cl g k n => { w with c.syn.cbars := aset w.c.syn.cbars (g, k, n) b }

/-- The teams that meet at a barrier, of those that have not exited. -/
def W.barTeams (w : W) : BKey → List Nat
  | .tm t _ => [t]
  | .cl g k _ =>
    (w.c.slu.teams.filter fun e => e.2.grid = g && e.2.tlin / max 1 (w.grid g).cluster = k).map
      Prod.fst

/-- The threads of a team's non-task groups that have not exited. -/
def W.barThreads (w : W) (t : Nat) : List (Nat × Nat) :=
  (w.c.thr.groups.filter fun e => e.2.team = t && (match e.2.kind with
    | .task _ => false
    | _ => true)).flatMap fun e =>
      ((w.allLanes e.1).filter fun l =>
        (w.lane e.1 l).st == .live || (w.lane e.1 l).st == .held).map fun l => (e.1, l)

/-- Whether a team has groups that have not started. -/
def W.unstartedOf (w : W) (t : Nat) : Bool :=
  let k := w.core (w.team t).core
  k.unstarted.any (fun e => e.1 = t) || k.spawns.any (fun r => r.team = t)
    || !(w.team t).sUnst.isEmpty || !(w.team t).sSpawn.isEmpty

/-- Whether every thread that a default count waits for has arrived (16 R387). -/
def W.barFull (w : W) (x : BKey) : Bool :=
  (w.barTeams x).all fun t =>
    !w.unstartedOf t && (w.barThreads t).all fun p => (w.bar x).who.contains p

/-- The phase completes: once (16 R387); a cluster's teams know what each did before it. -/
def W.barDone (w : W) (x : BKey) : W :=
  let w := match x with
    | .tm _ _ => w
    | .cl _ _ _ =>
      let ts := w.barTeams x
      ts.foldl (fun w t => (ts.filter fun u => u ≠ t).foldl (fun w u => w.clkEdge t u) w) w
  w.setBar x { phase := ((w.bar x).phase + 1) % 65536 }

/-- An exit can complete a phase of the default count (16 R387). -/
def W.barRecheck (w : W) (x : BKey) : W :=
  let b := w.bar x
  if b.cnt = some 0 && 0 < b.arr && w.barFull x then w.barDone x else w

/-- The arrival of the executing lanes of an issue at a barrier, and the lanes that fault. -/
def W.arrive (w : W) (i : Issue) (x : BKey) (n : Nat) (es : List Nat) : W × List Nat :=
  let b := w.bar x
  if es.isEmpty then (w, [])
  else if b.cnt.isSome && b.cnt ≠ some n then (w, es)
  else if n ≠ 0 then
    if n < b.arr + es.length then (w, es)
    else
      let w := w.setBar x { b with arr := b.arr + es.length, cnt := some n }
      (if b.arr + es.length = n then w.barDone x else w, [])
  else
    let task := match (w.group i.gid).kind with
      | .task _ => true
      | _ => false
    let bad := es.filter fun l => task || b.who.contains (i.gid, l)
    let good := es.filter fun l => !bad.contains l
    if good.isEmpty then (w, bad)
    else
      let w := w.setBar x { b with arr := b.arr + good.length, cnt := some 0,
                                   who := b.who ++ good.map fun l => (i.gid, l) }
      (if w.barFull x then w.barDone x else w, bad)

/-- Whether a phase is complete for one who waits for phase k; none when it lies in the future. -/
def barGap (phase k : Nat) : Option Bool :=
  let gap := (phase + 65536 - k) % 65536
  if gap = 0 then some false else if gap ≤ 32767 then some true else none

/-- The identity of a barrier wait (16 R391). -/
def barId (kind k n : Nat) : Nat := kind * 2 ^ 62 + k * 16 + n

def mismatch (ls : List Nat) : List LFault :=
  ls.map fun l => { lane := l, cause := Cause.barrierMismatch }

/-- What a lane remembers of the waiting instruction it has begun. -/
def W.begin_ (w : W) (g : Nat) (ls : List Nat) (b : Option (Nat × Nat)) : W :=
  ls.foldl (fun w l => w.modLane g l fun x => { x with begun := b }) w

/-- The lanes of an issue that have begun it already. -/
def W.begunAt (w : W) (i : Issue) (es : List Nat) : List Nat :=
  es.filter fun l => match (w.lane i.gid l).begun with
    | some (pc, _) => pc = i.pc
    | none => false

/-- The barrier of an issue, its kind and its scope. -/
structure BarAt where
  key : BKey
  kind : Nat
  n : Nat
  scope : Scope

/-- BAR and CBAR: the lanes arrive, unless they did before they parked, and wait (16 R390). -/
def barBody (x : BarAt) (n : Nat) (i : Issue) (es : List Nat) (w0 : W) : Eff :=
  let g := i.gid
  let old := w0.begunAt i es
  let new := es.filter fun l => !old.contains l
  let k := (w0.bar x.key).phase
  let (w, bad) := if new.isEmpty then (w0, []) else (w0.releaseAt g x.scope).arrive i x.key n new
  let come := new.filter fun l => !bad.contains l
  let phase := (w.bar x.key).phase
  let due := fun l =>
    let kl := if come.contains l then k else ((w0.lane g l).begun.getD (0, 0)).2
    (kl, barGap phase kl)
  let wait := (come ++ old).filter fun l => (due l).2 = some false
  let gone := (come ++ old).filter fun l => (due l).2 ≠ some false
  let w := w.begin_ g gone none
  let w := wait.foldl (fun w l => w.begin_ g [l] (some (i.pc, (due l).1))) w
  let w := if gone.isEmpty then w else w.acquireAt g x.scope
  { w := w, faults := mismatch bad
    parks := wait.map fun l => (l, .barrier (barId x.kind (due l).1 x.n)) }

/-- BARA and CBAR.arr: the lanes arrive; DST receives the phase before (16 R390). -/
def baraBody (x : BarAt) (n : Nat) (f : Alu) (i : Issue) (es : List Nat) (w0 : W) : Eff :=
  let k := (w0.bar x.key).phase
  let (w, bad) := (w0.releaseAt i.gid x.scope).arrive i x.key n es
  let w := if noDst f || bad.length = es.length then w else w.dst i f.d 0 [BitVec.ofNat 32 k]
  { w := w, faults := mismatch bad }

/-- BARW and CBAR.wt: the lanes depart from a completed phase, or wait (16 R390). -/
def barwBody (x : BarAt) (k : Nat) (i : Issue) (es : List Nat) (w : W) : Eff :=
  match barGap (w.bar x.key).phase k with
  | some true => { w := w.acquireAt i.gid x.scope }
  | some false => { w := w, park := some (.barrier (barId x.kind k x.n)) }
  | none => { w := w, faults := mismatch es }

/-- A team barrier of an issue. -/
def tmBar (m : Fin 16) (i : Issue) (w : W) : BarAt :=
  { key := .tm (w.group i.gid).team m.val, kind := 0, n := m.val, scope := .tm }

/-- A cluster barrier of an issue; none in a grid without clusters (16 R389). -/
def clBar (m : Fin 8) (i : Issue) (w : W) : Option BarAt :=
  let tm := w.team (w.group i.gid).team
  let c := (w.grid tm.grid).cluster
  if c < 2 then none
  else some { key := .cl tm.grid (tm.tlin / c) m.val, kind := 1, n := m.val, scope := .cl }

/-- The count of BAR and BARA; one above 1,024 is an illegal operand (16 R389). -/
def countOf (f : Alu) (i : Issue) (es : List Nat) (w : W) (k : Nat → Eff) : Eff :=
  let rd : Rd := { w := w, i := i, es := es }
  let n := (rd.b f 0).toNat
  if 1024 < n then Eff.allFault w es Cause.illegalOperand else k n

/-- The phase that BARW and CBAR.wt read. -/
def phaseOf (f : Alu) (i : Issue) (w : W) : Nat :=
  let rd : Rd := { w := w, i := i }
  (rd.b f 0).toNat % 65536

def execBar (m : Fin 16) (f : Alu) : State → Out1 :=
  run f.g fun i es w => countOf f i es w fun n => barBody (tmBar m i w) n i es w
def execBara (m : Fin 16) (f : Alu) : State → Out1 :=
  run f.g fun i es w => countOf f i es w fun n => baraBody (tmBar m i w) n f i es w
def execBarw (m : Fin 16) (f : Alu) : State → Out1 :=
  run f.g fun i es w => barwBody (tmBar m i w) (phaseOf f i w) i es w
def execCbar (m : Fin 8) (f : Alu) : State → Out1 :=
  run f.g fun i es w => match clBar m i w with
    | none => { w := w, faults := mismatch es }
    | some x => barBody x 0 i es w
def execCbarArr (m : Fin 8) (f : Alu) : State → Out1 :=
  run f.g fun i es w => match clBar m i w with
    | none => { w := w, faults := mismatch es }
    | some x => baraBody x 0 f i es w
def execCbarWt (m : Fin 8) (f : Alu) : State → Out1 :=
  run f.g fun i es w => match clBar m i w with
    | none => { w := w, faults := mismatch es }
    | some x => barwBody x (phaseOf f i w) i es w

/-! ## Tickets (16 R392–R394) -/

def W.seq (w : W) (g n : Nat) : Seq := (aget w.c.syn.seqs (g, n)).getD {}
def W.setSeq (w : W) (g n : Nat) (x : Seq) : W :=
  { w with c.syn.seqs := aset w.c.syn.seqs (g, n) x }

/-- The turn of a sequence: the lowest team that has not released it. -/
def Seq.turn (x : Seq) : Nat := lowestOut x.released

/-- What a team's release publishes under a name, and what a taker of it finds (16 R393, R401). -/
def W.publish (w : W) (t kind name : Nat) : W :=
  if !w.tenterOn (w.team t).asid then w
  else
    let (w, v) := w.clkRelease t
    w.clkJoin kind name v
def W.observe (w : W) (t kind name : Nat) : W :=
  if !w.tenterOn (w.team t).asid then w else w.clkJoin 0 t (w.clkVec kind name)

/-- The names of a sequence and of a hand-off. -/
def seqName (g n : Nat) : Nat := g * 16 + n
def handName (g h p s : Nat) : Nat := ((g * 16 + h) * 2 ^ 40 + p) * 2 ^ 40 + s

/-- A team releases a sequence. -/
def W.seqRelease (w : W) (g n tlin : Nat) (void : Bool) : W :=
  let x := w.seq g n
  if x.released.contains tlin then w
  else w.setSeq g n { x with released := x.released ++ [tlin],
                             holders := x.holders.filter fun t => t ≠ tlin,
                             void := x.void || void }

/-- The identity of a ticket wait (16 R391). -/
def ticketId (kind n team : Nat) : Nat := kind * 2 ^ 62 + n * 2 ^ 40 + team

/-- Writes the VOID predicate in the executing lanes. -/
def W.voidPred (w : W) (i : Issue) (f : Alu) (es : List Nat) (v : Bool) : W :=
  let p := f.x.toNat % 8
  if p = 7 then w else es.foldl (fun w l => w.writeP i.gid l p v) w

/-- The completion record of a grid will say NONDET. -/
def W.nondet (w : W) (g : Nat) : W := w.modGrid g fun x => { x with nondet := true }

/-- TICKET.take. -/
def execTicketTake (m : Fin 16) (f : Alu) : State → Out1 :=
  run f.g fun i es w =>
    let tid := (w.group i.gid).team
    let tm := w.team tid
    let g := tm.grid
    let n := m.val
    let x := w.seq g n
    if x.released.contains tm.tlin then Eff.allFault w es Cause.handoffOrder
    else if x.holders.contains tm.tlin then
      { w := (if x.void then w.nondet g else w).voidPred i f es x.void }
    else if x.turn ≠ tm.tlin then
      { w := w, park := some (.ticket (ticketId 0 n tm.tlin)) }
    else
      let w := if x.void then w.nondet g else w
      if x.void && f.x.toNat % 8 = 7 && !x.raised.contains tm.tlin then
        Eff.allFault (w.setSeq g n { x with raised := x.raised ++ [tm.tlin] }) es Cause.ticketVoid
      else
        let w := w.setSeq g n { x with holders := x.holders ++ [tm.tlin] }
        let w := (w.acquireAt i.gid .pkg).observe tid 3 (seqName g n)
        { w := w.voidPred i f es x.void }

/-- TICKET.give. -/
def execTicketGive (m : Fin 16) (f : Alu) : State → Out1 :=
  run f.g fun i es w =>
    let tid := (w.group i.gid).team
    let tm := w.team tid
    let x := w.seq tm.grid m.val
    if !x.holders.contains tm.tlin then Eff.allFault w es Cause.handoffOrder
    else
      let w := (w.releaseAt i.gid .pkg).publish tid 3 (seqName tm.grid m.val)
      { w := w.seqRelease tm.grid m.val tm.tlin false }

/-! ## Hand-offs (16 R395, R396) -/

def W.hands (w : W) (g : Nat) : List HandRec := (aget w.c.syn.hands g).getD []
def W.setHands (w : W) (g : Nat) (l : List HandRec) : W :=
  { w with c.syn.hands := aset w.c.syn.hands g l }

/-- The pending hand-offs of all grids. -/
def W.handCount (w : W) : Nat := (w.c.syn.hands.map fun e => e.2.length).sum

/-- Whether a team of a grid was killed. -/
def W.wasKilled (w : W) (g tlin : Nat) : Bool := w.c.syn.killed.contains (g, tlin)

/-- HANDOFF. -/
def execHandoff (m : Fin 16) (f : Alu) : State → Out1 :=
  run f.g fun i es w0 =>
    let rd : Rd := { w := w0, i := i, es := es }
    let tid := (w0.group i.gid).team
    let tm := w0.team tid
    let g := tm.grid
    let h := m.val
    let d := (rd.b f 0).toNat
    let s := tm.tlin + d
    if d = 0 || (w0.grid g).count ≤ s || w0.c.syn.handed.contains (g, h, tm.tlin) then
      Eff.allFault w0 es Cause.handoffOrder
    else
      let w := w0.releaseAt i.gid .pkg
      if 4096 ≤ w.handCount then
        { w := w0, park := some (.ticket (ticketId 2 h 0)) }
      else
        let w := w.publish tid 4 (handName g h tm.tlin s)
        let w := { w with c.syn.handed := w.c.syn.handed ++ [(g, h, tm.tlin)] }
        { w := if w.teamOver g s then w
            else w.setHands g (w.hands g ++ [{ chain := h, src := tm.tlin, dst := s, void := false }]) }

/-- The hand-off that a team waits for: recorded, or that of a predecessor that is over (16 R396). -/
def W.handDue (w : W) (g h p t : Nat) : Option Bool :=
  match (w.hands g).find? fun r => r.chain = h && r.src = p && r.dst = t with
  | some r => some r.void
  | none =>
    if w.wasKilled g p then some true else if w.teamOver g p then some false else none

/-- HANDWAIT. -/
def execHandwait (m : Fin 16) (f : Alu) : State → Out1 :=
  run f.g fun i es w0 =>
    let rd : Rd := { w := w0, i := i, es := es }
    let gid := i.gid
    let tid := (w0.group gid).team
    let tm := w0.team tid
    let g := tm.grid
    let h := m.val
    let d := (rd.b f 0).toNat
    let again := !(w0.begunAt i es).isEmpty
    if d = 0 || tm.tlin < d then Eff.allFault w0 es Cause.handoffOrder
    else
      let p := tm.tlin - d
      let key := (g, h, tm.tlin, p)
      if !again && w0.c.syn.handW.contains key then Eff.allFault w0 es Cause.handoffOrder
      else
        let w := if again then w0
          else { w0 with c.syn.handW := w0.c.syn.handW ++ [key] }
        let w := w.begin_ gid es (some (i.pc, 0))
        match w.handDue g h p tm.tlin with
        | none => { w := w, parks := es.map fun l => (l, .ticket (ticketId 1 h p)) }
        | some void =>
          if void && f.x.toNat % 8 = 7 && !w.c.syn.handV.contains key then
            Eff.allFault { w with c.syn.handV := w.c.syn.handV ++ [key] } es Cause.ticketVoid
          else
            let w := w.setHands g ((w.hands g).filter fun r =>
              !(r.chain = h && r.src = p && r.dst = tm.tlin))
            let w := if void then w.nondet g else w
            let w := (w.acquireAt gid .pkg).observe tid 4 (handName g h p tm.tlin)
            { w := (w.voidPred i f es void).begin_ gid es none }

/-! ## Exits and kills (16 R394, R396, R398) -/

/-- The sixteen sequences are released for a team that is over, and its hand-offs discarded. -/
def W.govEnd (w : W) (g tlin : Nat) (void : Bool) : W :=
  let w := (List.range 16).foldl (fun w n => w.seqRelease g n tlin void) w
  let w := if void then { w with c.syn.killed := w.c.syn.killed ++ [(g, tlin)] } else w
  w.setHands g ((w.hands g).filter fun r => r.dst ≠ tlin)

/-- What a team that exits publishes to those who wait for its releases. -/
def W.govPublish (w : W) (t : Nat) : W :=
  let tm := w.team t
  (List.range 16).foldl (fun w n =>
    if (w.seq tm.grid n).released.contains tm.tlin then w
    else w.publish t 3 (seqName tm.grid n)) w

/-- The staged contributions of a killed team are discarded (16 R398). -/
def W.dropStaged (w : W) (g tlin : Nat) : W :=
  let all := (aget w.c.syn.staged g).getD []
  if all.any fun x => x.tlin = tlin then
    { w with c.syn.staged := aset w.c.syn.staged g (all.filter fun x => x.tlin ≠ tlin) }.nondet g
  else w

/-- Whether a ticket wait is due (16 R392, R395). -/
def W.ticketDue (w : W) (t payload : Nat) : Bool :=
  let tm := w.team t
  let kind := payload / 2 ^ 62
  let n := bits payload 40 4
  let who := bits payload 0 40
  match kind with
  | 0 =>
    let x := w.seq tm.grid n
    x.turn = tm.tlin || x.holders.contains tm.tlin || x.released.contains tm.tlin
  | 1 => (w.handDue tm.grid n who tm.tlin).isSome
  | _ => w.handCount < 4096

/-- Whether a barrier wait is over. -/
def W.barrierDue (w : W) (t id : Nat) : Bool :=
  let tm := w.team t
  let n := id % 16
  let key := if id / 2 ^ 62 = 0 then BKey.tm t n
    else .cl tm.grid (tm.tlin / max 1 (w.grid tm.grid).cluster) n
  barGap (w.bar key).phase (bits id 4 16) ≠ some false

end Sys2Proof.Machine
end

