-- ==== Sys2Proof/Machine/Tasks.lean ====
section
/-! DEFINITION. Work that starts inside a running team: child grids, events, spawned groups, withdrawn
teams, tasks (04 R109–R114, 05 R127–R136). -/

namespace Sys2Proof.Machine

/-! ## LAUNCH and CHWAIT (04 R109–R112) -/

/-- The team leader: the lowest-numbered live thread, as group and lane. -/
def W.leader (w : W) (t : Nat) : Option (Nat × Nat) :=
  minBy (fun p => (w.group p.1).gindex * 64 + p.2) (w.barThreads t)

/-- The child slots of a context in use (04 R110). -/
def W.childSlots (w : W) (a : Nat) : Nat :=
  (w.c.slu.children.filter fun c =>
    c.asid = a && !(c.status.isSome && (c.observed || c.orphan))).length

/-- A new grid number, unique among those of the package (18 R428). -/
def W.newGridNo (w : W) : Nat :=
  freeId 22 w.c.mdl.next (2 ^ 24) (w.c.slu.grids.map Prod.fst ++ w.c.slu.children.map fun c => c.grid)

/-- A launch record is queued as a child of a team, ready to start; the handle. -/
def W.addChild (w : W) (t : Nat) (r h : List Byte) : W × Nat :=
  let tm := w.team t
  let p := w.grid tm.grid
  let n := w.newGridNo
  let handle := 1 + freeId 20 w.c.mdl.next 0xFFFFFFFE
    ((w.c.slu.children.filter fun c => c.team = t).map fun c => c.handle - 1)
  let w := w.setGrid n
    { asid := tm.asid, lrec := r, hnd := h, prio := p.prio, depth := p.depth + 1,
      parent := some (tm.grid, t), started := false, startAt := w.c.mdl.next }
  let c : Child :=
    { asid := tm.asid, team := t, tlin := tm.tlin, handle := handle, grid := n, pgrid := tm.grid, done := recDone r }
  let w := { w with c.slu.children := w.c.slu.children ++ [c]
                    c.slu.retest := w.c.slu.retest ++ [2048 + n]
                    c.mdl.next := w.c.mdl.next + 1 }
  (w, handle)

/-- The record that a LAUNCH reads, with its checks: a copy that a parked LAUNCH keeps, or 256 bytes of
memory (04 R111). -/
def W.launchRec (w : W) (i : Issue) (a addr : Nat) : W × Except Nat (List Byte) :=
  if addr % 256 ≠ 0 || 2 ^ 56 < addr + 256 then (w, .error Cause.launchInvalid)
  else match (w.drainAll i.gid).load i.core a .tm addr 256 with
    | (w, .ok (bs, false)) => (w, .ok bs)
    | (w, .ok (_, true)) => (w, .error Cause.pageNotPresent)
    | (w, .nonres _) => (w, .error Cause.pageNotPresent)
    | (w, .bad c _) => (w, .error c)

/-- LAUNCH. -/
def execLaunch (f : Alu) : State → Out1 :=
  onceOp f.g fun r es w0 =>
    let i := r.i
    let g := i.gid
    let t := (w0.group g).team
    let a := (w0.group g).asid
    -- a LAUNCH that waited resumes at the slot test, with the copy and the handle that it checked
    let go := fun (w : W) (l : Nat) (rec h : List Byte) =>
      if 4096 ≤ w.childSlots a then
        { w := { w with c.slu.copies := aset w.c.slu.copies (g, l) (rec, h) }
          parks := es.map fun k => (k, .slot 2) : Eff }
      else
        let w := { w with c.slu.copies := adel w.c.slu.copies (g, l) }
        let (w, handle) := (w.releaseAt g .pkg).addChild t rec h
        { w := w.dst i f.d 0 [BitVec.ofNat 32 handle] }
    let leads := match w0.leader t with
      | some (g2, l) => if g2 = g && es.contains l then some l else none
      | none => none
    match es.findSome? fun l => (aget w0.c.slu.copies (g, l)).map fun x => (l, x), leads with
    | some (l, rec, h), _ => go w0 l rec h
    | none, none => { w := w0.dst i f.d 0 [0] }
    | none, some l =>
        let addr := (r.pair f.a 0).toNat
        let bad := fun (w : W) (c : Nat) =>
          ({ w := w, faults := [{ lane := l, cause := c, addr := addr }] } : Eff)
        if (w0.grid (w0.group g).grid).depth = 10 then bad w0 Cause.nestDepth
        else match w0.launchRec i a addr with
          | (w, .error c) => bad w c
          | (w, .ok rec) => match w.recCheck a rec with
            | (w, .invalid) => bad w Cause.launchInvalid
            | (w, .ok h) => go w l rec h
            | (w, .hold) => go w l rec []

/-- The children that a CHWAIT names. -/
def W.childrenOf (w : W) (t : Nat) (all : Bool) (handle : Nat) : List Child :=
  w.c.slu.children.filter fun c => c.team = t && (all || c.handle = handle)

/-- Whether a status is one of failure (04 R106). -/
def failedSt (x : Nat) : Bool := x.testBit 31

/-- CHWAIT. -/
def execChwait (f : Alu) : State → Out1 :=
  onceOp f.g fun r es w =>
    let g := r.i.gid
    let t := (w.group g).team
    let all := match f.a with
      | .s _ => false
      | _ => true
    let handle := (r.word f.a 0).toNat
    let cs := w.childrenOf t all handle
    if cs.isEmpty && !all then Eff.allFault w es Cause.launchInvalid
    else if cs.all fun c => c.status.isSome then
      let st := ((cs.filterMap fun c => c.status).find? failedSt).getD 0
      let w := { w with c.slu.children := w.c.slu.children.map fun (c : Child) =>
        if c.team = t && (all || c.handle = handle) then { c with observed := true } else c }
      let w := w.acquireAt g .pkg
      { w := if noDst f then w else w.dst r.i f.d 0 [BitVec.ofNat 32 st] }
    else { w := w, park := some (.child all (if all then 0 else handle)) }

/-! ## EVSIG and EVWAIT (04 R113, R114) -/

/-- The residency predicate that MOD names. -/
def evRp (f : MemF) : Rp := f.x.setWidth 3

/-- EVSIG. -/
def execEvsig (f : MemF) : State → Out1 :=
  run f.g fun i es w0 =>
    match es with
    | [] => { w := w0 }
    | l :: _ =>
      let add := fun (r : Rd) => r.pair f.c l
      let k : AtomI :=
        { rp := evRp f, n := 8, ret := false, sz := .b64
          step := fun r _ old => some (evBytes (evAdd (evOf old) (add r)))
          req := fun _ _ => noReq .load }
      let e := atomBody k f i [l] w0
      match e.faults with
      | x :: _ => Eff.allFault e.w es x.cause x.addr
      | [] =>
        let nr := match rpOf (evRp f) with
          | some p => e.w.readP i.gid l p
          | none => false
        let w := e.w.putRp i.gid (evRp f) (es.map fun k => (k, nr))
        { w := if nr then w else w.eventsMoved }

/-- EVWAIT: a record that wakes reads the counter again and goes on with its value. -/
def execEvwait (f : MemF) : State → Out1 :=
  run f.g fun i es w0 =>
    let g := i.gid
    let gr := w0.group g
    let rd : Rd := { w := w0, i := i, es := es }
    let a := rd.ea f 0
    let thr := (rd.pair f.c 0).toNat
    let none_ := noDst { g := f.g, x := f.x, d := f.d, a := f.a, b := f.b, c := f.c, imm := none }
    let put := fun (w : W) (x : Dword) => if none_ then w else w.dst i f.d 0 [lo32 x, hi32 x]
    let woke := !(w0.begunAt i es).isEmpty
    let fin := fun (w : W) => w.begin_ g es none
    if 2 ^ 56 < a + 8 then Eff.allFault (fin w0) es Cause.addressNoncanonical a
    else if a % 8 ≠ 0 then Eff.allFault (fin w0) es Cause.misalignedAtomic a
    else
      let w := w0.drainAll g
      let w := if f.ord = .str then w.releaseAt g f.scope else w
      let nonres := fun (w : W) (v : Nat) =>
        if (rpOf (evRp f)).isSome then
          { w := (put (fin w) 0).putRp g (evRp f) (es.map fun k => (k, true)) : Eff }
        else Eff.allFault (fin w) es Cause.pageNotPresent v
      match w.load gr.core gr.asid f.scope a 8 with
      | (w, .ok (bs, false)) =>
        let x := evOf bs
        if woke || evFailed x || evMet thr x then
          let w := (w.tenterClock g a true false f.ord f.scope).acquireAt g f.scope
          { w := (put (fin w) x).putRp g (evRp f) (es.map fun k => (k, false)) }
        else
          { w := w.begin_ g es (some (i.pc, 0)), parks := es.map fun l => (l, .event (bits thr 0 63) a) }
      | (w, .ok (_, true)) => nonres w a
      | (w, .nonres v) => nonres w v
      | (w, .bad c v) => Eff.allFault (fin w) es c v

/-! ## SPAWN (05 R127) -/

/-- The group indices that live and unstarted groups of a team hold. -/
def W.gindexes (w : W) (t : Nat) : List Nat :=
  let tm := w.team t
  let k := w.core tm.core
  (w.c.thr.groups.filterMap fun e => match e.2.kind with
    | .task _ => none
    | _ => if e.2.team = t && !w.allExited e.1 then some e.2.gindex else none) ++
  (k.unstarted.filterMap fun e => if e.1 = t then some e.2 else none) ++
  (k.spawns.filterMap fun r => if r.team = t then some r.gindex else none)

/-- SPAWN: one that waited for a record goes on at the record test and repeats the choice of the index. -/
def execSpawn (f : Alu) : State → Out1 :=
  onceOp f.g fun r es w =>
    let i := r.i
    let gr := w.group i.gid
    let t := gr.team
    let entry := (if f.imm.isSome then offTarget i f else r.pair f.b 0).toNat
    let woke := !(w.begunAt i es).isEmpty
    if !woke && !entryValid entry then Eff.allFault w es Cause.spawnInvalid entry
    else
      let used := w.gindexes t
      if !woke && 1024 < (used.length + 1) * gr.width then { w := w.dst i f.d 0 [0xFFFFFFFF] }
      else if 64 ≤ (w.core gr.core).spawns.length then
        { w := w.begin_ i.gid es (some (i.pc, 0)), parks := es.map fun l => (l, .slot 0) }
      else
        let w := w.begin_ i.gid es none
        let gi := lowestOut used
        let rec_ : SpawnRec :=
          { team := t, entry := entry, gindex := gi, args := (List.range 8).map fun k => r.run f.a k 0 }
        let w := w.releaseAt i.gid .tm
        let w := w.modCore gr.core fun k => { k with spawns := k.spawns ++ [rec_] }
        { w := w.dst i f.d 0 [BitVec.ofNat 32 gi] }

/-! ## FETCHW (05 R129) -/

/-- FETCHW: the READY word is stored at issue; the request is made when no earlier mailbox of the team is
outstanding. -/
def execFetchw (f : Alu) : State → Out1 :=
  onceOp f.g fun r es w =>
    let i := r.i
    let gr := w.group i.gid
    let t := gr.team
    let grid := w.grid gr.grid
    let o := (r.word f.a 0).toNat
    let ask := fun (w : W) =>
      if (w.team t).fetchw.isSome then
        { w := w.begin_ i.gid es (some (i.pc, 0)), parks := es.map fun l => (l, .slot 3) : Eff }
      else { w := (w.begin_ i.gid es none).modTeam t fun x => { x with fetchw := some o } }
    if !(w.begunAt i es).isEmpty then ask w
    else if o % 64 ≠ 0 || w.spbytes t < o + 64 || grid.det || 2 ≤ grid.cluster then
      Eff.allFault w es Cause.fetchwInvalid
    else match (w.drainAll i.gid).spGate i.gid t (o + 60) 4 es with
      | (w, some (.bad c a)) => Eff.allFault w es c a
      | (w, some (.wait k)) => { w := w, parks := es.map fun l => (l, k) }
      | (w, _) => ask (w.spStore t (o + 60) (leBytes 4 0))

/-! ## TASKADD and TASKDONE (05 R133, R136) -/

/-- Whether a TFLAGS word holds no reserved bit or code (05 R132). -/
def tflagsOk (x : Nat) : Bool :=
  bits x 24 8 = 0 && bits x 9 7 = 0 && [0, 8, 16, 32, 64].contains (bits x 0 8)

/-- Whether a successor names a task of the team that still waits. -/
def W.succOk (w : W) (c t succ : Nat) : Bool :=
  succ = 0xFFFFFFFF || (w.core c).tasks.any fun u => u.id = succ && u.team = t && 0 < u.waits

/-- TASKADD. -/
def execTaskadd (f : Alu) : State → Out1 :=
  run f.g fun i es w0 =>
    match w0.popAll i.gid es (if f.imm.isSome then [] else queueRegs [f.b]) with
    | (_, .park wk) => { w := w0, park := some wk }
    | (_, .fault c a) => Eff.allFault w0 es c a
    | (w, .ok (pops, zeros)) =>
      let rd : Rd := { w := w0, i := i, pops := pops, es := es }
      let gr := w0.group i.gid
      let uni := match f.a with
        | .s _ => true
        | _ => false
      let ls := if uni then es.take 1 else es
      let entry := fun l => (rd.pair f.a l).toNat
      let tf := fun l => (rd.b f l).toNat
      let succ := fun l => (rd.run f.a 2 l).toNat
      let good := ls.filter fun l =>
        entryValid (entry l) && tflagsOk (tf l) && w0.succOk gr.core gr.team (succ l)
      let bad := ls.filter fun l => !good.contains l
      let spread := fun (xs : List Nat) (c : Nat) =>
        (if uni && !xs.isEmpty then es else xs).map fun l => ({ lane := l, cause := c } : LFault)
      let room := 4096 - (w0.core gr.core).tasks.length
      let ready := w0.poolReady gr.core || (good.take room).any fun l => bits (tf l) 16 8 = 0
      if room < good.length && ready then
        if bad.isEmpty then { w := w0, park := some (.slot 1) }
        else { w := w0, faults := spread bad Cause.taskRecordInvalid
               parks := good.map fun l => (l, .slot 1) }
      else
        let gone := good.take room
        let w := if gone.isEmpty then w0 else w.releaseAt i.gid .tm
        let w := gone.foldl (fun w l =>
          let (w, id) := w.addTask i.gid (entry l) (tf l) (succ l)
            ((List.range 8).map fun k => rd.run f.a (3 + k) l)
          w.dst i f.d l [BitVec.ofNat 32 id]) w
        let w := w.endPreds i.gid (if uni && !gone.isEmpty then es else gone) zeros
        { w := w, faults := spread bad Cause.taskRecordInvalid ++
            spread (good.drop room) Cause.taskQueueFull }

/-- TASKDONE. -/
def execTaskdone (f : Alu) : State → Out1 :=
  run f.g fun i es w0 =>
    let w := w0.releaseAt i.gid .tm
    let gr := w.group i.gid
    match gr.kind with
    | .task (some t) =>
      if (w.allLanes i.gid).any fun l => (w.lane i.gid l).task.isSome then
        let w := (w.allLanes i.gid).foldl (fun w l =>
          w.modLane i.gid l fun x => { x with task := none }) w
        { w := w.taskDone gr.core gr.team t }
      else { w := w }
    | .task none => { w := es.foldl (fun w l => w.laneTaskDone i.gid l) w }
    | _ => { w := w }

end Sys2Proof.Machine
end

