-- ==== Sys2Proof/Machine/Sluice.lean ====
section
/-! DEFINITION. The Sluice: command queues, the start of grids, triggers, mailboxes, the exit of teams
and the retirement of grids (04 R95–R112, 05 R120–R122, R130, R131, R137, 18 R440, R451, R452). -/

namespace Sys2Proof.Machine

/-! ## Command queues (04 R95–R99) -/

/-- The physical address of a queue's entry, and the fields of an entry. -/
def W.qAt (w : W) (q : Nat) : Nat := fld (w.blk .qtbase 0) 16 36 * 65536 + 64 * q
def qRing (e : List Byte) : Nat := fieldLE e 0 8
def qTail (e : List Byte) : Nat := fieldLE e 8 8
def qHead (e : List Byte) : Nat := fieldLE e 16 8
def qAsid (e : List Byte) : Nat := fieldLE e 24 2
def qLog (e : List Byte) : Nat := fieldLE e 26 1
def qCtl (e : List Byte) : Nat := fieldLE e 27 1
def qErr (e : List Byte) : Nat := fieldLE e 28 4
def qRuns (e : List Byte) : Bool := (qCtl e).testBit 3 && qErr e = 0
def qPrio (e : List Byte) : Nat := bits (qCtl e) 0 3

def W.qEntry (w : W) (q : Nat) : List Byte := w.bytes (w.qAt q) 64
def W.queue (w : W) (q : Nat) : CmdQueue := (aget w.c.slu.queues q).getD {}
def W.setQueue (w : W) (q : Nat) (x : CmdQueue) : W :=
  { w with c.slu.queues := aset w.c.slu.queues q x }

/-- The Sluice writes bytes of a queue's entry. -/
def W.qPut (w : W) (q ofs : Nat) (bs : List Byte) : W := w.put3 0 0 (w.qAt q + ofs) bs

/-- The error of an entry, if any, with the TAIL last seen (04 R99). -/
def qBad (seen : Nat) (e : List Byte) : Option Nat :=
  if qLog e < 4 || 16 < qLog e || qRing e % 256 ≠ 0 || bits (qCtl e) 4 4 ≠ 0 || !zeroIn e 32 32 then
    some 2
  else if qTail e < seen || qTail e < qHead e || 2 ^ qLog e < qTail e - qHead e then some 1
  else none

/-- The Sluice stops a queue, writes QERR and tells system software (04 R99). -/
def W.qStop (w : W) (q : Nat) (e : List Byte) (code : Nat) : W :=
  let w := (w.qPut q 27 [BitVec.ofNat 8 (qCtl e - 8)]).qPut q 28 (leBytes 4 code)
  w.reportSys { cause := Cause.launchInvalid, kind := 2, asid := qAsid e, addr := w.qAt q }

/-- What the Sluice does with the entry of a queue that runs and is sound. -/
def W.onQueue (w : W) (q : Nat) (f : W → List Byte → W) : W :=
  if 1024 ≤ q then w
  else match w.phys 0 (w.qAt q) 64 with
    | (w, .ok e) =>
      let x := w.queue q
      if !qRuns e then
        -- a restart may set TAIL anew
        if x.tail = qHead e then w else w.setQueue q { x with tail := qHead e }
      else match qBad x.tail e with
        | some c => w.qStop q e c
        | none => f w e
    | (w, _) => w

/-- TAIL_NOTICE. -/
def execTailNotice (queue : Nat) (s : State) : Out1 :=
  step1 (fun w => w.onQueue queue fun w e => w.setQueue queue { w.queue queue with tail := qTail e }) s

/-- LAUNCH_RECORD_COPY: the next record is copied once, and HEAD advances. -/
def W.copyRecord (w : W) (q : Nat) : W :=
  w.onQueue q fun w e =>
    let x := w.queue q
    let a := qAsid e
    let va := qRing e + 256 * (qHead e % 2 ^ qLog e)
    if x.tail ≤ qHead e then w
    else if (aget w.c.sys.ctxs a).isNone || 2 ^ 56 < va + 256 then w.qStop q e 3
    else match w.read3 a va 256 false with
      | (w, .ok r) => (w.setQueue q { x with recs := x.recs ++ [r] }).qPut q 16 (leBytes 8 (qHead e + 1))
      | (w, .nonres v) => w.sluiceRequest a v
      | (w, .bad _ _) => w.qStop q e 3

def execLaunchRecordCopy (queue : Nat) (s : State) : Out1 := step1 (fun w => w.copyRecord queue) s

/-! ## Heads of queues, triggers and children

An identity below 1,024 is a queue's; 1024 + n is trigger n; 2048 + n is the child grid n. -/

/-- A record that is retired at once: its grid places no team, and GRID_RETIREMENT completes it
(04 R102, R105). -/
def W.refuse (w : W) (a prio : Nat) (r h : List Byte) (cause : Nat) (queue trig : Option Nat) :
    W × Nat :=
  let n := w.newGridNo
  let (w, k) := w.newId
  (w.setGrid n { asid := a, lrec := r, hnd := h, prio := prio, queue := queue, trig := trig
                 startAt := k, shut := true, fail := some cause }, n)

/-- A grid fails before it has placed a team. -/
def W.refuseGrid (w : W) (n cause : Nat) : W :=
  w.modGrid n fun x => { x with started := true, shut := true, fail := some cause }

/-- The head record of a queue leaves it as grid `n`. -/
def W.popHead (w : W) (q n : Nat) : W :=
  let x := w.queue q
  w.setQueue q { x with recs := x.recs.drop 1, checked := none, seen := [], met := false, starved := false
                        last := some n }

/-- The head of a queue is retired with a cause. -/
def W.refuseHead (w : W) (q : Nat) (h : List Byte) (cause : Nat) : W :=
  let e := w.qEntry q
  match (w.queue q).recs with
  | [] => w
  | r :: _ =>
    let (w, n) := w.refuse (qAsid e) (qPrio e) r h cause (some q) none
    w.popHead q n

/-- The head of a queue that runs. -/
def W.head (w : W) (q : Nat) : Option (List Byte) :=
  if qRuns (w.qEntry q) then (w.queue q).recs.head? else none

/-- LAUNCH_RECORD_CHECK: the record at the head is checked, and so is a child whose check waited for a
page (04 R102, R111, R486). -/
def W.checkHead (w : W) (id : Nat) : W :=
  if 2048 ≤ id then
    let n := id - 2048
    let gr := w.grid n
    if gr.started || !gr.hnd.isEmpty then w
    else match w.recCheck gr.asid gr.lrec with
      | (w, .ok h) => w.modGrid n fun x => { x with hnd := h }
      | (w, .invalid) => w.refuseGrid n Cause.launchInvalid
      | (w, .hold) => w
  else match w.head id with
    | none => w
    | some r =>
      if (w.queue id).checked.isSome then w
      else match w.recCheck (qAsid (w.qEntry id)) r with
        | (w, .ok h) => w.setQueue id { w.queue id with checked := some h }
        | (w, .invalid) => w.refuseHead id [] Cause.launchInvalid
        | (w, .hold) => w

def execLaunchRecordCheck (queue : Nat) (s : State) : Out1 := step1 (fun w => w.checkHead queue) s

/-- Whether the predecessor of a queue's head has retired (04 R100). -/
def W.serDue (w : W) (q : Nat) (r : List Byte) : Bool :=
  !(recU r 32 4).testBit 2 || (match (w.queue q).last with
    | none => true
    | some n => (w.grid n).queue ≠ some q)

def W.trig (w : W) (n : Nat) : Option Trigger := aget w.c.slu.trigs n
def W.setTrig (w : W) (n : Nat) (x : Trigger) : W := { w with c.slu.trigs := aset w.c.slu.trigs n x }

/-- The fields of a trigger: armed, its queue, T and PER (04 R107). -/
def W.trgArm (w : W) (n : Nat) : Bool := (w.blk .trgctl n).getLsbD 10
def W.trgQueue (w : W) (n : Nat) : Nat := fld (w.blk .trgctl n) 0 10
def W.trgT (w : W) (n : Nat) : Nat := (w.blk .trgtime n).toNat
def W.trgPer (w : W) (n : Nat) : Nat := fld (w.blk .trgper n) 0 40

/-- After an occurrence or a skip: T advances; a single occurrence disarms the entry (04 R108). -/
def W.trgNext (w : W) (n : Nat) : W :=
  let per := w.trgPer n
  let w := { w with c.slu.trigs := adel w.c.slu.trigs n }
  if per = 0 then w.setBlk .trgctl n (setFld (w.blk .trgctl n) 10 1 0)
  else w.setBlk .trgtime n (BitVec.ofNat 64 (w.trgT n + per))

/-- A counter of TRGCTL goes up, saturating: LATE at bit 32, MISS at bit 48. -/
def W.trgCount (w : W) (n lo : Nat) : W :=
  let x := w.blk .trgctl n
  w.setBlk .trgctl n (setFld x lo 16 (min (fld x lo 16 + 1) 65535))

/-- WAIT_TEST: the waits of a head record are tested; one that failed retires it with
DEPENDENCE_FAILED (04 R105). -/
def W.waitTest (w : W) (id : Nat) : W :=
  let w := { w with c.slu.retest := w.c.slu.retest.filter fun x => x ≠ id }
  if 2048 ≤ id then
    let n := id - 2048
    let gr := w.grid n
    if gr.started || gr.met || gr.hnd.isEmpty then w
    else match w.waitState gr.asid gr.lrec gr.seen with
      | (w, .failed, _) => w.refuseGrid n Cause.dependenceFailed
      | (w, st, seen) => w.modGrid n fun x => { x with seen := seen, met := st = .met }
  else if 1024 ≤ id then
    let n := id - 1024
    let e := w.qEntry (w.trgQueue n)
    match w.trig n with
    | none => w
    | some x =>
      if x.met then w
      else match w.waitState (qAsid e) x.lrec x.seen with
        | (w, .failed, _) =>
          (w.refuse (qAsid e) (qPrio e) x.lrec x.hnd Cause.dependenceFailed none (some n)).1.trgNext n
        | (w, st, seen) => w.setTrig n { x with seen := seen, met := st = .met }
  else match w.head id, (w.queue id).checked with
    | some r, some h =>
      if (w.queue id).met then w
      else match w.waitState (qAsid (w.qEntry id)) r (w.queue id).seen with
        | (w, .failed, _) => w.refuseHead id h Cause.dependenceFailed
        | (w, st, seen) => w.setQueue id { w.queue id with seen := seen, met := st = .met }
    | _, _ => w

def execWaitTest (queue : Nat) (s : State) : Out1 := step1 (fun w => w.waitTest queue) s

/-! ## Starting (04 R100, R109, 05 R118, R120, R122) -/

/-- The teams of a grid that one core holds at once (05 R120). -/
def Grid.capOf (gr : Grid) : Nat :=
  let share := shareOf gr.vb gr.ub gr.width
  let a := if gr.spbytes = 0 then 64 else min 64 (Config.scratchBytes / gr.spbytes)
  let b := if gr.nwin = 0 then a else min a (Config.windows / gr.nwin)
  if share = 0 then b else min b (Config.regFile / share)

/-- The team capacity of the part for a grid (05 R120). -/
def W.capacity (w : W) (gr : Grid) : Nat :=
  let cl := gr.cl
  ((List.range 72).map fun cc => w.clusterWorks cc / cl * cl * gr.capOf).sum

/-- Whether the part can ever place a grid (05 R118, R120). -/
def W.placeable (w : W) (gr : Grid) : Bool :=
  (gr.cl ≤ 1 || (List.range 72).any fun cc => gr.cl ≤ w.clusterWorks cc)
    && (!gr.cores || gr.count ≤ w.capacity gr)

/-- What a record reserves, in mJ (05 R122). -/
def W.estimate (w : W) (r : List Byte) : Nat :=
  if recU r 44 4 = 0 then fld (w.blk .edefault 0) 0 32 else recU r 44 4

/-- A grid starts: its energy is reserved, it sees what its waits and its launcher saw, and it is handed
to placement; one that the part can never place is retired (05 R118, R120, R122, 11 R290). -/
def W.launchGrid (w : W) (n : Nat) : W :=
  let gr := w.grid n
  let e := w.estimate gr.lrec
  let w := w.modCtx gr.asid fun x => { x with account := x.account - e }
  let cs := uniq (w.c.cch.l1.filterMap fun x => if x.1.2.1 = gr.asid then some x.1.1 else none)
  let w := cs.foldl (fun w c => w.acquire c gr.asid .sys) w
  let (w, k) := w.newId
  let w := w.modGrid n fun x =>
    { x with started := true, resv := e, startAt := k }
  if w.placeable gr then w else w.refuseGrid n Cause.launchInvalid

/-- Whether a head record or a child is ready to start, but for its energy (04 R100, R105, R111). -/
def W.startReady (w : W) (id : Nat) : Bool :=
  if 2048 ≤ id then
    let gr := w.grid (id - 2048)
    gr.lrec ≠ [] && !gr.started && gr.met
  else match w.head id with
    | some r => (w.queue id).checked.isSome && (w.queue id).met && w.serDue id r
    | none => false

/-- Its level, its context and its record. -/
def W.startPrio (w : W) (id : Nat) : Nat :=
  if 2048 ≤ id then (w.grid (id - 2048)).prio else qPrio (w.qEntry id)
def W.startAsid (w : W) (id : Nat) : Nat :=
  if 2048 ≤ id then (w.grid (id - 2048)).asid else qAsid (w.qEntry id)
def W.startRec (w : W) (id : Nat) : List Byte :=
  if 2048 ≤ id then (w.grid (id - 2048)).lrec else (w.queue id).recs.headD []

/-- Whether the account holds the reservation (05 R122). -/
def W.energyOk (w : W) (id : Nat) : Bool :=
  w.estimate (w.startRec id) ≤ (w.ctx (w.startAsid id)).account

/-- A queue's place in the round robin of its PRIO: the one started last comes last (04 R100). -/
def W.turnOf (w : W) (q : Nat) : Nat :=
  (q + 2047 - (aget w.c.slu.lastQueue (qPrio (w.qEntry q))).getD 1023) % 1024

/-- The children that wait to start, oldest first, and the queues in round-robin order. -/
def W.startIds (w : W) : List Nat :=
  let kids := w.c.slu.grids.filter fun e => !e.2.started
  let qs := sortBy (fun q => w.turnOf q) (w.c.slu.queues.map Prod.fst)
  (sortBy (fun e => e.2.startAt) kids).map (fun e => 2048 + e.1) ++ qs

/-- The record that starts next: of the highest PRIO, children first, then the queues in turn
(04 R100, R111). -/
def W.nextStart (w : W) : Option Nat :=
  minBy (fun id => 7 - w.startPrio id) (w.startIds.filter fun id => w.startReady id && w.energyOk id)

/-- ENERGY_EXHAUSTED is reported once for a record that is held back (05 R122). -/
def W.starve (w : W) (id : Nat) : W :=
  let told := if 2048 ≤ id then (w.grid (id - 2048)).starved else (w.queue id).starved
  if told then w
  else
    let a := w.startAsid id
    let w := if 2048 ≤ id then w.modGrid (id - 2048) fun x => { x with starved := true }
      else w.setQueue id { w.queue id with starved := true }
    w.report (.ctx a) { cause := Cause.energyExhausted, kind := 3, asid := a }

/-- GRID_START. -/
def W.gridStart (w : W) (id : Nat) : W :=
  if !w.startReady id then w
  else if !w.energyOk id then w.starve id
  else if w.nextStart ≠ some id then w
  else if 2048 ≤ id then w.launchGrid (id - 2048)
  else
    let e := w.qEntry id
    match (w.queue id).recs, (w.queue id).checked with
    | r :: _, some h =>
      let n := w.newGridNo
      let w := w.setGrid n
        { asid := qAsid e, lrec := r, hnd := h, prio := qPrio e, queue := some id, started := false }
      let w := (w.popHead id n).launchGrid n
      { w with c.slu.lastQueue := aset w.c.slu.lastQueue (qPrio e) id }
    | _, _ => w

def execGridStart (queue : Nat) (s : State) : Out1 := step1 (fun w => w.gridStart queue) s

/-! ## Triggers (04 R107, R108) -/

/-- TRIGGER_RECORD_COPY: 50 µs before T, or at once if armed later. -/
def W.trgCopy (w : W) (n : Nat) : W :=
  if 64 ≤ n || !w.trgArm n || (w.trig n).isSome || w.ptpNow + 50000 < w.trgT n then w
  else
    let e := w.qEntry (w.trgQueue n)
    let a := qAsid e
    let va := fld (w.blk .trgrec n) 8 48 * 256
    let lost := fun (w : W) =>
      (w.reportSys { cause := Cause.launchInvalid, kind := 2, asid := a, addr := va }).trgNext n
    if (aget w.c.sys.ctxs a).isNone then lost w
    else match w.read3 a va 256 false with
      | (w, .nonres v) => w.sluiceRequest a v
      | (w, .bad _ _) => lost w
      | (w, .ok r) => match w.recCheck a r with
        | (w, .ok h) => w.setTrig n { lrec := r, hnd := h, late := w.trgT n < w.ptpNow }
        | (w, .invalid) =>
          (w.refuse a (qPrio e) r [] Cause.launchInvalid none (some n)).1.trgNext n
        | (w, .hold) => w

def execTriggerRecordCopy (n : Nat) (s : State) : Out1 := step1 (fun w => w.trgCopy n) s

/-- An occurrence that cannot start at T: it is late from then on. -/
def W.trgLate (w : W) (n : Nat) (x : Trigger) : W := w.setTrig n { x with late := true }

/-- One whose context's account lacks the reservation: that is reported once (05 R122). -/
def W.trgStarve (w : W) (n a : Nat) (x : Trigger) : W :=
  let w := w.trgLate n { x with starved := true }
  if x.starved then w else w.report (.ctx a) { cause := Cause.energyExhausted, kind := 3, asid := a }

/-- TRIGGER_FIRE: at T, when the clock is locked, the waits are met, the energy is there and a core is
free, the grid starts and its first team is placed. An occurrence that could not is late: it starts as
soon as it can, and LATE counts it (04 R108). -/
def W.trgFire (w : W) (n : Nat) : W :=
  match w.trig n with
  | none => w
  | some x =>
    let e := w.qEntry (w.trgQueue n)
    let a := qAsid e
    if !w.trgArm n || !w.c.fab.ptp.lock || w.ptpNow < w.trgT n then w
    else if !x.met then w.trgLate n x
    else if (w.ctx a).account < w.estimate x.lrec then w.trgStarve n a x
    else
      let g := w.newGridNo
      let w1 := (w.setGrid g { asid := a, lrec := x.lrec, hnd := x.hnd, prio := qPrio e,
                               trig := some n, started := false }).launchGrid g
      if (w1.grid g).shut then w1.trgNext n
      else if x.late || w.trgT n + 1000 < w.ptpNow then
        ((if w1.due = some g then w1.placeDue else w1).trgCount n 32).trgNext n
      else if w1.due = some g then w1.placeDue.trgNext n
      else w.trgLate n x

def execTriggerFire (n : Nat) (s : State) : Out1 := step1 (fun w => w.trgFire n) s

/-- The occurrence whose time has come is skipped while one before it has not started: T advances, and
that one goes on waiting. -/
def W.trgSkip (w : W) (n : Nat) : W :=
  let x := (w.trig n).getD {}
  let w := (w.trgCount n 48).setBlk .trgtime n (BitVec.ofNat 64 (w.trgT n + w.trgPer n))
  if x.lrec.isEmpty then w else w.trgLate n x

/-- PTP_LOSS is reported once while the clock is not locked. -/
def W.trgLoss (w : W) : W :=
  if w.c.slu.lossTold then w
  else { w.reportSys { cause := Cause.ptpLoss, kind := 2 } with c.slu.lossTold := true }

/-- TRIGGER_MISSED: the next T came before the occurrence could start, or an occurrence passed while
the clock was not locked (04 R108). -/
def W.trgMiss (w : W) (n : Nat) : W :=
  let waits := ((w.trig n).getD {}).late
  let next := w.trgPer n ≠ 0 && w.trgT n + w.trgPer n ≤ w.ptpNow
  if 64 ≤ n || !w.trgArm n then w
  else if !w.c.fab.ptp.lock then
    if waits then (if next then (w.trgSkip n).trgLoss else w)
    else if w.ptpNow < w.trgT n then w
    else ((w.trgCount n 48).trgNext n).trgLoss
  else if !next then w
  else (w.trgSkip n).reportSys
    { cause := Cause.triggerMissed, kind := 3, asid := qAsid (w.qEntry (w.trgQueue n)) }

def execTriggerMissed (n : Nat) (s : State) : Out1 := step1 (fun w => w.trgMiss n) s

/-! ## Mailboxes (05 R130, R131) -/

/-- MAILBOX_WRITE: the lowest team that is neither placed nor withdrawn is withdrawn for the team that
fetches. -/
def W.mailbox (w : W) (t : Nat) : W :=
  let tm := w.team t
  match tm.fetchw with
  | none => w
  | some o =>
    if tm.st ≠ .resident then w
    else
      let gr := w.grid tm.grid
      let i := gr.nextTlin
      let k := i.getD 0
      let x := k % max 1 gr.dimX
      let y := k / max 1 gr.dimX % max 1 gr.dimY
      let z := k / max 1 (gr.dimX * gr.dimY)
      let box := match i with
        | some _ => leBytes 8 k ++ leBytes 4 x ++ leBytes 4 y ++ leBytes 4 z ++ leBytes 4 0
        | none => leBytes 20 0 ++ leBytes 4 1
      let w := w.spStore t o (box ++ leBytes 36 0 ++ leBytes 4 1)
      let w := w.modTeam t fun x =>
        { x with fetchw := none, took := x.took ++ i.toList }
      w.modGrid tm.grid fun g => { g with withdrawn := g.withdrawn ++ i.toList }

def execMailboxWrite (team : Nat) (s : State) : Out1 := step1 (fun w => w.mailbox team) s

/-! ## Children (04 R109–R112, 18 R440) -/

/-- A child that failed unobserved is told to its parent at the later of its retirement and its
launching team's end; an entry that is over leaves the table. -/
def W.settleKids (w : W) : W :=
  let isOver := fun (c : Child) => c.orphan && c.status.isSome
  let w := (w.c.slu.children.filter isOver).foldl (fun w c =>
    let st := c.status.getD 0
    if c.observed || !failedSt st then w
    else
      let w := w.modGrid c.pgrid fun x => { x with chfault := true }
      w.report (.ctx c.asid)
        { cause := Cause.childFault, kind := 3, asid := c.asid, addr := c.done, tlin := c.tlin
          grid := c.grid, detail := st % 128 }) w
  { w with c.slu.children := w.c.slu.children.filter fun c => !isOver c }

/-- The launching team is over. -/
def W.orphan (w : W) (t : Nat) : W :=
  let w := { w with c.slu.children := w.c.slu.children.map fun (c : Child) =>
    if c.team = t then { c with orphan := true } else c }
  w.settleKids

/-! ## The exit of a team (05 R115, R137, 18 R451) -/

/-- What is left of a team's core resources goes: scratchpad, windows, queues, barriers, tiles. -/
def W.freeTeam (w : W) (t : Nat) : W :=
  let w := { w with
    c.spd.bytes := w.c.spd.bytes.filter fun e => e.1.1 ≠ t
    c.spd.stamps := w.c.spd.stamps.filter fun e => e.1.1 ≠ t
    c.spd.tags := w.c.spd.tags.filter fun e => e.1.1 ≠ t
    c.spd.wins := w.c.spd.wins.filter fun e => e.1.1 ≠ t
    c.spd.ranges := w.c.spd.ranges.filter fun r => r.team ≠ t
    c.eng.hq := w.c.eng.hq.filter fun e => e.1.1 ≠ t
    c.syn.bars := w.c.syn.bars.filter fun e => e.1.1 ≠ t }
  w.mxRelease t

/-- The cluster barriers of a team's cluster are checked once it has gone (16 R387). -/
def W.clusterLeft (w : W) (grid tlin : Nat) : W :=
  let k := tlin / (w.grid grid).cl
  if (w.grid grid).cl < 2 then w
  else (List.range 8).foldl (fun w n => w.barRecheck (.cl grid k n)) w

/-- The S record of a command, or of a team that is saved (18 R442, R443). -/
def W.cmdRecord (w : W) (a grid tlin cause detail : Nat) : W :=
  w.reportSys { cause := cause, kind := 3, asid := a, detail := detail, grid := grid, tlin := tlin }

/-- A team that a pre-empt command asked for has been saved, has exited or was killed: the command ends
with its last one (18 R442, R446). -/
def W.cmdTeam (w : W) (t : Nat) (tm : Team) (detail : Nat) : W :=
  let w := w.cmdRecord tm.asid tm.grid tm.tlin Cause.preemptRequest detail
  if tm.byCmd && w.c.slu.teams.all (fun e => e.1 = t || !e.2.byCmd) then { w with c.slu.cmd := none }
  else w

/-- Whether a team of a core has work: groups, groups and spawn records to start. -/
def W.teamWork (w : W) (t : Nat) : Bool :=
  let k := w.core (w.team t).core
  (w.c.thr.groups.any fun e => e.2.team = t) || k.unstarted.any (fun e => e.1 = t)
    || k.spawns.any (fun r => r.team = t) || (w.team t).fetchw.isSome

/-- Whether the first stream of a queue can go on by itself (12 R323). -/
def HwQueue.goes (q : HwQueue) : Bool :=
  match q.streams with
  | [] => false
  | s :: _ => s.done = s.count || (if s.store then !q.elems.isEmpty || q.closed
      else q.elems.length < 2048)

/-- Whether the streams of a team's queues can go on. -/
def W.teamStreams (w : W) (t : Nat) : Bool := w.c.eng.hq.any fun e => e.1.1 = t && e.2.goes

/-- Whether a team exits: it has no work left, and tasks only that nothing will make ready (05 R115,
R137). -/
def W.exits (w : W) (t : Nat) : Bool :=
  match aget w.c.slu.teams t with
  | none => false
  | some tm =>
    (tm.st = .resident || tm.st = .stopping) && !w.teamWork t
      && ((w.core tm.core).tasks.filter fun x => x.team = t).all fun x => !x.started && 0 < x.waits

/-- TEAM_EXIT. -/
def W.teamExit (w : W) (t : Nat) : W :=
  if !w.exits t || w.teamStreams t then w
  else
    let tm := w.team t
    let left := (w.core tm.core).tasks.any fun x => x.team = t
    let w := w.release tm.core tm.asid .sys
    let w := (w.govPublish t).govEnd tm.grid tm.tlin false
    let w := tm.took.foldl (fun w i => w.govEnd tm.grid i false) w
    let w := w.modCore tm.core fun x => { x with tasks := x.tasks.filter fun y => y.team ≠ t }
    let w := w.freeTeam t
    let w := w.modGrid tm.grid fun x =>
      if left then { x with fail := some (x.fail.getD Cause.dependenceFailed) }
      else { x with ok := x.ok + 1 + tm.took.length }
    let w := match tm.block with
      | some k => w.modCtx tm.asid fun x => { x with blocks := x.blocks.erase k }
      | none => w
    let w := { w with c.slu.teams := adel w.c.slu.teams t }
    let w := (w.clusterLeft tm.grid tm.tlin).orphan t
    if tm.byCmd then w.cmdTeam t tm 0 else w

def execTeamExit (team : Nat) (s : State) : Out1 := step1 (fun w => w.teamExit team) s

/-! ## Retirement (04 R106, R109, R486, 18 R452) -/

/-- Whether a grid is over: its teams and its children are, and its contributions are applied. -/
def W.gridOver (w : W) (n : Nat) : Bool :=
  match aget w.c.slu.grids n with
  | none => false
  | some gr =>
    gr.started && (gr.nextTlin).isNone && w.c.slu.teams.all (fun e => e.2.grid ≠ n)
      && w.c.slu.children.all (fun c => c.pgrid ≠ n || c.status.isSome)
      && ((aget w.c.syn.staged n).getD []).isEmpty && w.c.thr.groups.all fun e => e.2.grid ≠ n

/-- STATUS of the completion record. -/
def Grid.status (gr : Grid) : Nat :=
  (match gr.fail with
    | some c => 2 ^ 31 + c % 128
    | none => 0) + (if gr.nondet then 2 ^ 30 else 0) + if gr.chfault then 2 ^ 29 else 0

/-- The writes of a retirement: the address, how it is aligned, and its bytes. -/
def retireAddrs (r : List Byte) : List (Nat × Nat × Nat) :=
  (if recDone r = 0 then [] else [(recDone r, 32, 32)]) ++ (recSigs r).map fun e => (e.1, 8, 8)

/-- One write of a retirement, or the S record for one that is not performed (04 R486). -/
def W.retirePut (w : W) (a va al : Nat) (f : W → W × Bool) : W :=
  if va % al ≠ 0 || 2 ^ 56 < va + al then w.lostWrite a va
  else match f w with
    | (w, true) => w
    | (w, false) => w.lostWrite a va

/-- The completion record of a grid (04 R106). -/
def W.doneBytes (w : W) (gr : Grid) : List Byte :=
  leBytes 4 gr.status ++ leBytes 4 (min gr.used (2 ^ 32 - 1)) ++ leBytes 8 (recTag gr.lrec)
    ++ leBytes 8 gr.ok ++ leBytes 8 w.ptpNow

/-- Write `k` of a retirement: the completion record where there is one, then SIG0, then SIG1
(04 R106). -/
def W.complete (w : W) (gr : Grid) (k : Nat) : W :=
  let a := gr.asid
  let done := recDone gr.lrec
  let j := if done = 0 then k + 1 else k
  if j = 0 then w.retirePut a done 32 fun w => match w.write3va a done (w.doneBytes gr) false with
    | (w, .ok ()) => (w, true)
    | (w, _) => (w, false)
  else match (recSigs gr.lrec)[j - 1]? with
    | none => w
    | some e =>
      let add := BitVec.ofNat 64 e.2 ||| if gr.fail.isSome then BitVec.ofNat 64 (2 ^ 63) else 0
      w.retirePut a e.1 8 fun w => match w.evAdd3 a e.1 add with
        | (w, .ok _) => (w, true)
        | (w, _) => (w, false)

/-- What the package held for a grid goes with it. -/
def W.dropGrid (w : W) (n : Nat) : W :=
  { w with
    c.slu.grids := adel w.c.slu.grids n
    c.syn.seqs := w.c.syn.seqs.filter fun e => e.1.1 ≠ n
    c.syn.hands := adel w.c.syn.hands n
    c.syn.handed := w.c.syn.handed.filter fun e => e.1 ≠ n
    c.syn.handW := w.c.syn.handW.filter fun e => e.1 ≠ n
    c.syn.handV := w.c.syn.handV.filter fun e => e.1 ≠ n
    c.syn.killed := w.c.syn.killed.filter fun e => e.1 ≠ n
    c.syn.staged := adel w.c.syn.staged n
    c.syn.applied := adel w.c.syn.applied n
    c.syn.cbars := w.c.syn.cbars.filter fun e => e.1.1 ≠ n
    c.cch.konst := w.c.cch.konst.filter fun e => e.1.2.1 ≠ n
    c.mc.work := w.c.mc.work.filter fun e => e.1.1 ≠ n }

/-- The writes of a retirement that are left, in order, up to one whose page is not resident, which is
requested; whether all are performed (04 R106, R486). -/
def W.retireWrites (w : W) (n : Nat) : W × Bool :=
  let gr := w.grid n
  ((retireAddrs gr.lrec).zipIdx.drop gr.wrote).foldl (fun (p : W × Bool) e =>
    if !p.2 then p
    else
      let put := fun (w : W) =>
        ((w.complete gr e.2).modGrid n fun x => { x with wrote := e.2 + 1 }, true)
      if e.1.1 % e.1.2.1 ≠ 0 || 2 ^ 56 < e.1.1 + e.1.2.2 then put p.1
      else match p.1.check3 gr.asid e.1.1 e.1.2.2 false with
        | (w, .nonres v) => (w.sluiceRequest gr.asid v, false)
        | (w, _) => put w) (w, true)

/-- GRID_RETIREMENT: a write whose page has become non-resident holds it until the page is there. -/
def W.retireGrid (w : W) (n : Nat) : W :=
  if !w.gridOver n then w
  else
    let gr := w.grid n
    let a := gr.asid
    match w.retireWrites n with
    | (w, false) => w
    | (w, true) =>
      let back := gr.resv - gr.used
      let w := if (aget w.c.sys.ctxs a).isNone then w else w.modCtx a fun x =>
        { x with account := min (x.account + back) (2 ^ 40 - 1) }
      let w := { w with c.slu.children := w.c.slu.children.map fun (c : Child) =>
        if c.grid = n && c.status.isNone then { c with status := some gr.status } else c }
      (w.dropGrid n).settleKids

def execGridRetirement (grid : Nat) (s : State) : Out1 := step1 (fun w => w.retireGrid grid) s

end Sys2Proof.Machine
end

