-- ==== Sys2Proof/Machine/Kill.lean ====
section
/-! DEFINITION. Pre-emption and saving, killing of teams, grids and contexts, machine checks, energy
metering and the creation of contexts (05 R122, R124, 18 R441–R450, 19 R453). -/

namespace Sys2Proof.Machine

/-! ## Killing a team (18 R447) -/

/-- What the fabric holds for groups that are killed: accesses not yet sent are dropped with their
tokens, collectives with their ranks, forwarding buffers with what they hold. -/
def W.dropFabric (w : W) (gs : List Nat) : W :=
  let mine := w.c.fab.outs.filter fun e => gs.contains e.2.gid && e.2.sent.isNone
  let w := mine.foldl (fun w e =>
    let w := { w with c.fab.outs := adel w.c.fab.outs e.1 }
    match e.2.tok with
    | some k => w.tokFail k
    | none => w) w
  let w := w.c.fab.colls.foldl (fun w e =>
    let gone := e.2.filter fun k => gs.contains k.gid
    let w := gone.foldl (fun w k => w.sendPart e.1 (k.part true [])) w
    w.setColls e.1 (e.2.filter fun k => !gs.contains k.gid)) w
  { w with c.fab.bufs := w.c.fab.bufs.filter fun e => !gs.contains e.2.gid }

/-- A copy loses a receiver that is killed (18 R426). -/
def Op.loseReceiver (o : Op) (t : Nat) : Op :=
  match o.kind with
  | .hoist h =>
    if o.done || !h.teams.contains t then o
    else
      let rest := h.teams.filter fun u => u ≠ t
      let o := { o with fault := some (Cause.tcopyFault, 0) }
      if rest.isEmpty then { o with done := true }
      else { o with kind := .hoist { h with teams := rest } }
  | _ => o

/-- Groups and all that is theirs are discarded: operations, results, records, lanes, registers. -/
def W.dropGroups (w : W) (gs : List Nat) : W :=
  let w := gs.foldl (fun w g => w.drainAll g) w
  let w := w.dropFabric gs
  let ops := (w.c.eng.ops.filter fun e => gs.contains e.2.gid).map Prod.fst
  let fs := (w.c.thr.frags.filter fun e => gs.contains e.2.gid).map Prod.fst ++
    (w.c.thr.groups.filter fun e => gs.contains e.1).map fun e => e.2.finFrag
  { w with
    c.eng.ops := w.c.eng.ops.filter fun e => !gs.contains e.2.gid
    c.eng.sq := w.c.eng.sq.filter fun e => !gs.contains e.1
    c.spd.ranges := w.c.spd.ranges.filter fun r => !ops.contains r.op
    c.spd.fixups := w.c.spd.fixups.map fun e => (e.1, e.2.filter fun x => !ops.contains x.op)
    c.thr.pends := w.c.thr.pends.filter fun e => !gs.contains e.2.gid
    c.thr.binds := w.c.thr.binds.filter fun e => !gs.contains e.1.1
    c.thr.frags := w.c.thr.frags.filter fun e => !gs.contains e.2.gid
    c.thr.sr := w.c.thr.sr.filter fun e => !fs.contains e.1.1
    c.thr.vr := w.c.thr.vr.filter fun e => !gs.contains e.1.1
    c.thr.pr := w.c.thr.pr.filter fun e => !gs.contains e.1.1
    c.thr.lanes := w.c.thr.lanes.filter fun e => !gs.contains e.1.1
    c.thr.groups := w.c.thr.groups.filter fun e => !gs.contains e.1
    c.slu.copies := w.c.slu.copies.filter fun e => !gs.contains e.1.1 }

/-- A grid fails with a cause, unless it failed before (18 R447). -/
def W.failGrid (w : W) (n cause : Nat) : W :=
  w.modGrid n fun x => { x with fail := some (x.fail.getD cause) }

/-- A team is killed; `kid` kills a child grid. -/
def W.killTeamWith (w : W) (t cause : Nat) (kid : W → Nat → W) : W :=
  match aget w.c.slu.teams t with
  | none => w
  | some tm =>
    let w := w.failGrid tm.grid cause
    let kids := (w.c.slu.grids.filter fun e => e.2.parent = some (tm.grid, t)).map Prod.fst
    let w := kids.foldl kid w
    let w := w.dropGroups ((w.teamGroups t).map Prod.fst)
    let w := w.modCore tm.core fun x =>
      { x with unstarted := x.unstarted.filter fun e => e.1 ≠ t
               spawns := x.spawns.filter fun r => r.team ≠ t
               tasks := x.tasks.filter fun y => y.team ≠ t }
    let w := { w with c.eng.ops := w.c.eng.ops.map fun (e : Nat × Op) => (e.1, e.2.loseReceiver t) }
    let w := w.govEnd tm.grid tm.tlin true
    let w := tm.took.foldl (fun w i => w.govEnd tm.grid i true) w
    let w := (w.dropStaged tm.grid tm.tlin).freeTeam t
    let w := match tm.block with
      | some k => w.modCtx tm.asid fun x => { x with blocks := x.blocks.erase k }
      | none => w
    let w := w.modGrid tm.grid fun x => { x with restorable := x.restorable.erase t }
    let w := { w with c.slu.teams := adel w.c.slu.teams t }
    let w := (w.clusterLeft tm.grid tm.tlin).orphan t
    if tm.byCmd then w.cmdTeam t tm 1 else w

/-- A grid is killed: its placed teams, its unplaced ones, and its descendants (18 R448). -/
def W.killGridN : Nat → W → Nat → Nat → W
  | 0, w, _, _ => w
  | k + 1, w, n, cause =>
    match aget w.c.slu.grids n with
    | none => w
    | some _ =>
      let kid := fun (w : W) (m : Nat) => W.killGridN k w m Cause.parentKilled
      let w := w.failGrid n cause
      let w := w.modGrid n fun x => { x with started := true, shut := true }
      let ts := (w.c.slu.teams.filter fun e => e.2.grid = n).map Prod.fst
      let w := ts.foldl (fun w t => w.killTeamWith t cause kid) w
      let kids := (w.c.slu.grids.filter fun e => e.2.parent.map Prod.fst = some n).map Prod.fst
      kids.foldl kid w

/-- Grids nest to depth 10 (04 R111). -/
def W.slayGrid (w : W) (n cause : Nat) : W := W.killGridN 12 w n cause
def W.slayTeam (w : W) (t cause : Nat) : W :=
  w.killTeamWith t cause fun w m => w.slayGrid m Cause.parentKilled

/-! ## The commands (18 R442) -/

/-- The target of a command: an unretired grid of the context that has a team of the index. -/
def W.target442 (w : W) (a n tlin : Nat) : Bool :=
  match aget w.c.slu.grids n with
  | some gr => gr.asid = a && gr.started && tlin < gr.count
  | none => false

/-- The placed or saved team of a grid by its index. -/
def W.teamOf (w : W) (n tlin : Nat) : Option (Nat × Team) :=
  w.c.slu.teams.find? fun e => e.2.grid = n && e.2.tlin = tlin

/-- A command ends with its S record. -/
def W.cmdEnd (w : W) (a n tlin cause detail : Nat) : W :=
  let w := w.cmdRecord a n tlin cause detail
  match w.c.slu.cmd with
  | some c => if c.asid = a then { w with c.slu.cmd := none } else w
  | none => w

/-- KILL_TEAM. A team that is not placed is discarded. -/
def W.cmdKillTeam (w : W) (a n tlin : Nat) : W :=
  let done := fun (w : W) (d : Nat) => w.cmdEnd a n tlin Cause.kill d
  if !w.target442 a n tlin then done w 1
  else match w.teamOf n tlin with
    | some (t, _) => done (w.slayTeam t Cause.kill) 0
    | none =>
      let gr := w.grid n
      if gr.shut || (gr.placed ++ gr.withdrawn ++ gr.discarded).contains tlin then done w 1
      else
        let w := (w.failGrid n Cause.kill).modGrid n fun x =>
          { x with discarded := x.discarded ++ [tlin] }
        done (w.govEnd n tlin true) 0

def execKillTeam (asid grid team : Nat) (s : State) : Out1 :=
  step1 (fun w => w.cmdKillTeam asid grid team) s

/-- KILL_GRID. -/
def W.cmdKillGrid (w : W) (a n : Nat) : W :=
  if w.target442 a n 0 then (w.slayGrid n Cause.kill).cmdEnd a n 0 Cause.kill 0
  else w.cmdEnd a n 0 Cause.kill 1

def execKillGrid (asid grid : Nat) (s : State) : Out1 := step1 (fun w => w.cmdKillGrid asid grid) s

/-- The command queues and triggers of a context stop, and what they had copied is dropped (18 R449). -/
def W.killQueues (w : W) (a : Nat) : W :=
  let w := (List.range 1024).foldl (fun w q =>
    let e := w.qEntry q
    if qAsid e = a && ((qCtl e).testBit 3 || (aget w.c.slu.queues q).isSome) then
      let w := if (qCtl e).testBit 3 then w.qPut q 27 [BitVec.ofNat 8 (qCtl e - 8)] else w
      { w with c.slu.queues := adel w.c.slu.queues q }
    else w) w
  (List.range 64).foldl (fun w n =>
    if w.trgArm n && qAsid (w.qEntry (w.trgQueue n)) = a then
      { w.setBlk .trgctl n (setFld (w.blk .trgctl n) 10 1 0) with
        c.slu.trigs := adel w.c.slu.trigs n }
    else w) w

/-- The fabric forgets a context: its tokens, its held stores, its collectives and buffers (17 R423). -/
def W.killFabric (w : W) (a : Nat) : W :=
  let open_ := (w.c.fab.toks.filter fun e => e.2.asid = a && e.2.st = .outstanding).map Prod.fst
  let w := open_.foldl (fun w k => w.tokFail k) w
  let own := w.pkg
  let ids := (w.c.fab.outs.filter fun e => e.2.asid = a).map Prod.fst
  let jobs := if w.podEn a then [w.podJob a] else []
  { w with
    c.fab.toks := w.c.fab.toks.filter fun e => e.2.asid ≠ a
    c.fab.outs := w.c.fab.outs.filter fun e => e.2.asid ≠ a
    c.fab.weir := w.c.fab.weir.map fun e =>
      (e.1, e.2.filter fun h => !(jobs.contains h.req.job || (h.req.src = own && ids.contains h.req.id)))
    c.fab.bufs := w.c.fab.bufs.filter fun e => e.2.asid ≠ a
    c.fab.colls := w.c.fab.colls.map fun e => (e.1, e.2.filter fun k => k.asid ≠ a) }

/-- The Tenter's watch of a context stops, and so does the Bolter's use of its scan entries (18 R449). -/
def W.killWatch (w : W) (a : Nat) : W :=
  let ctl := w.blk .tenterCtl 0
  let w := if w.tenterOn a then w.setBlk .tenterCtl 0 (setFld ctl 0 1 0) else w
  let w := w.modCtx a fun x => { x with dead := true }
  { w with c.mc.recl := w.c.mc.recl.filter fun r => r.asid ≠ a
           c.syn.tent := w.c.syn.tent.filter fun e => e.1.1 ≠ a
           c.syn.relClk := w.c.syn.relClk.filter fun e => e.1.1 ≠ a
           c.cch.filter := w.c.cch.filter.map fun e => (e.1, e.2.filter fun p => p.1 ≠ a)
           c.cch.strong := w.c.cch.strong.filter fun e => e.1.1 ≠ a }

/-- KILL_CONTEXT: the command completes with KILL_COMPLETE (09 R259, 17 R423, 18 R449). -/
def W.killCtx (w : W) (a : Nat) : W :=
  if (aget w.c.sys.ctxs a).isNone then w.cmdEnd a 0 0 Cause.kill 1
  else
    let w := w.killQueues a
    let gs := (w.c.slu.grids.filter fun e => e.2.asid = a).map Prod.fst
    let w := gs.foldl (fun w n => w.slayGrid n Cause.kill) w
    let w := w.modCtx a fun x => { x with gen := (x.gen + 1) % 256 }
    let w := (w.invalidate a fun _ _ => true).killFabric a
    let w := w.killWatch a
    if w.c.slu.killing.contains a then w else { w with c.slu.killing := w.c.slu.killing ++ [a] }

def execKillContext (asid : Nat) (s : State) : Out1 := step1 (fun w => w.killCtx asid) s

/-- Whether the kill of a context may complete: its grids have retired, so that no request of the old
generation is left (09 R259, 18 R448, R449). -/
def W.killDone (w : W) (a : Nat) : Bool :=
  w.c.slu.killing.contains a && w.c.slu.grids.all fun e => e.2.asid ≠ a

/-- KILL_COMPLETE: what the retirements of its grids left in TLBs and caches goes too, and the command's
S record is written. -/
def execKillComplete (asid : Nat) (s : State) : Out1 :=
  step1 (fun w =>
    if w.killDone asid then
      let w := w.invalidate asid fun _ _ => true
      let w := { w with c.slu.killing := w.c.slu.killing.filter fun a => a ≠ asid }
      w.cmdEnd asid 0 0 Cause.kill 0
    else w) s

/-! ## Pre-emption (05 R124, 06 R163, 18 R443, R446) -/

/-- The free save blocks of a context (18 R443). -/
def W.blocksFree (w : W) (a : Nat) : Nat :=
  fld (w.srReg a .savesize) 0 40 / blockBytes - (w.ctx a).blocks.length

/-- The teams that are taken together with one: its cluster, or its co-resident grid (05 R124). -/
def W.takenWith (w : W) (t : Nat) : List Nat :=
  let tm := w.team t
  let gr := w.grid tm.grid
  let mates := w.c.slu.teams.filter fun e => e.2.grid = tm.grid && e.2.st = .resident
    && (gr.cores || e.2.tlin / gr.cl = tm.tlin / gr.cl)
  mates.map Prod.fst

/-- Teams are asked to stop, each with a save block. -/
def W.stopTeams (w : W) (ts : List Nat) (byCmd : Bool) : W :=
  ts.foldl (fun w t =>
    let a := (w.team t).asid
    let k := lowestOut (w.ctx a).blocks
    let w := w.modCtx a fun x => { x with blocks := x.blocks ++ [k] }
    w.modTeam t fun x => { x with st := .stopping, block := some k, byCmd := byCmd }) w

/-- The package as it would be with teams saved, for what would fit then. -/
def W.asSaved (w : W) (ts : List Nat) : W :=
  let w := ts.foldl (fun w t => w.modTeam t fun x => { x with st := .saved }) w
  { w with c.thr.frags := w.c.thr.frags.map fun e =>
    if ts.contains (w.group e.2.gid).team then (e.1, { e.2 with place := .parked }) else e }

/-- The candidates below a level: of the lowest level first, the most recently placed first; those whose
context lacks save blocks are passed over (05 R124, 18 R443). -/
def W.victims (w : W) (lvl : Nat) : List (List Nat) :=
  let ts := w.c.slu.teams.filter fun e => e.2.st = .resident && (w.grid e.2.grid).prio < lvl
  let top := ts.foldl (fun m e => max m e.2.at_) 0
  let order := (sortBy (fun e => (w.grid e.2.grid).prio * (top + 1) + (top - e.2.at_)) ts).map Prod.fst
  (order.foldl (fun (p : List (List Nat) × List Nat × AMap Nat Nat) t =>
    let (out, seen, used) := p
    if seen.contains t then p
    else
      let set := w.takenWith t
      let a := (w.team t).asid
      let n := (aget used a).getD 0 + set.length
      if w.blocksFree a < n then (out, seen ++ set, used)
      else (out ++ [set], seen ++ set, aset used a n)) ([], [], [])).1

/-- The fewest candidates, in order, whose saving makes room for a unit. -/
def W.enough (w : W) (n : Nat) (u : PUnit) : List Nat → List (List Nat) → Option (List Nat)
  | _, [] => none
  | acc, s :: rest =>
    if ((w.asSaved (acc ++ s)).tryUnit n u).isSome then some (acc ++ s)
    else W.enough w n u (acc ++ s) rest

/-- What a grid's pre-emption would stop; none when it may not start one now (05 R124). -/
def W.preempts (w : W) (n : Nat) : Option (List Nat) :=
  let gr := w.grid n
  let reg := w.blk .preempt 0
  match w.nextUnit n, gr.waitSince with
  | some u, some s =>
    if !reg.getLsbD gr.prio || w.ac < s + fld reg 8 32 * acPerUs then none
    else
      let going := (w.c.slu.teams.filter fun e => e.2.st = .stopping).map Prod.fst
      if ((w.asSaved going).tryUnit n u).isSome then none
      else (w.enough n u going (w.victims gr.prio)).map fun l => l.filter fun t => !going.contains t
  | _, _ => none

/-- PREEMPTION_START. -/
def execPreemptionStart (grid : Nat) (s : State) : Out1 :=
  step1 (fun w => match w.preempts grid with
    | some ts => w.stopTeams ts false
    | none => w) s

/-- PREEMPT_TEAM. -/
def W.cmdPreempt (w : W) (a n tlin : Nat) : W :=
  let no := fun (w : W) => w.cmdEnd a n tlin Cause.preemptRequest 1
  if !w.target442 a n tlin then no w
  else match w.teamOf n tlin with
    | none => no w
    | some (t, tm) =>
      let ts := w.takenWith t
      if tm.st ≠ .resident || w.blocksFree a < ts.length then no w else w.stopTeams ts true

def execPreemptTeam (asid grid team : Nat) (s : State) : Out1 :=
  step1 (fun w => w.cmdPreempt asid grid team) s

/-- The records of a team that hold no pool space move into the pool, or wait with CONT_OVERFLOW told
once; whether all have moved (18 R443 step 3). -/
def W.moveRecords (w : W) (t : Nat) : W × Bool :=
  let fs := (w.c.thr.frags.filter fun e => (w.group e.2.gid).team = t && e.2.pool.isNone).map Prod.fst
  fs.foldl (fun (p : W × Bool) f =>
    let w := p.1
    let s := w.recShape f
    let a := (w.group s.g).asid
    let n := recBytes s.width s.lv s.ls s.perLane s.perSeq
    match poolFit (w.poolUse a) (w.poolSize a) n with
    | some o =>
      let slot := (w.frag f).slot
      let w := w.modFrag f fun x => { x with pool := some (o, n), latch := none, slot := none }
      match slot, w.recVa f with
      | some _, some va => match w.writeAt f va with
        | (w, true) => (w, p.2)
        | (w, false) => (w, false)
      | _, _ => (w, p.2)
    | none =>
      let c := (w.team t).core
      let w := if (w.core c).overflow then w
        else (w.modCore c fun k => { k with overflow := true }).reportCtx a Cause.contOverflow 2 0
      (w, false)) (w, true)

/-- TEAM_SAVE: once no fragment of the team is in a context, its state goes to its block and its core is
freed; the team is restorable. -/
def W.saveTeam (w : W) (t : Nat) : W :=
  let tm := w.team t
  let inCtx := w.c.thr.frags.any fun e => (w.group e.2.gid).team = t && (match e.2.place with
    | .ctx _ => true
    | _ => false)
  if tm.st ≠ .stopping || inCtx || w.exits t then w
  else match w.moveRecords t with
    | (w, false) =>
      if tm.byCmd && (w.team t).st ≠ .stopping then
        (w.modTeam t fun x => { x with byCmd := false }).cmdTeam t tm 1
      else w
    | (w, true) =>
      let (w, ok) := w.blockSound tm.asid (tm.block.getD 0) .write
      if !ok then
        let w := w.corrupt t (w.blockVa tm.asid (tm.block.getD 0))
        if tm.byCmd then (w.modTeam t fun x => { x with byCmd := false }).cmdTeam t tm 1 else w
      else
        let k := w.core tm.core
        let mine := k.tasks.filter fun y => y.team = t
        let (w, ok) := w.putTasks { tm with sTasks := mine }
        let fs := (w.c.thr.frags.filter fun e => (w.group e.2.gid).team = t).map Prod.fst
        let w := fs.foldl (fun w f => w.modFrag f fun x =>
          { x with place := match x.place with
              | .fifo n => .saved (some n)
              | .parked => .saved none
              | y => y }) w
        let w := (w.rehomeOps t 0xFFFF)
        let w := (w.teamGroups t).foldl (fun w e =>
          w.modGroup e.1 fun x => { x with core := 0xFFFF }) w
        let w := w.modTeam t fun x =>
          { x with st := .saved, byCmd := false
                   sUnst := (k.unstarted.filter fun e => e.1 = t).map Prod.snd
                   sSpawn := k.spawns.filter fun r => r.team = t
                   sTasks := mine }
        let w := w.modCore tm.core fun x =>
          { x with unstarted := x.unstarted.filter fun e => e.1 ≠ t
                   spawns := x.spawns.filter fun r => r.team ≠ t
                   tasks := x.tasks.filter fun y => y.team ≠ t }
        let w := w.modGrid tm.grid fun x =>
          { x with restorable := x.restorable ++ [t] }
        let w := w.cmdTeam t tm 0
        if ok then w else w.corrupt t (w.taskVa tm)

def execTeamSave (team : Nat) (s : State) : Out1 := step1 (fun w => w.saveTeam team) s

/-! ## Units lost (18 R450) -/

/-- MACHINE_CHECK: an uncorrectable error in a core's own state; the lifetime record excludes the core
from the next boot on (01 R21). -/
def W.machineCheck (w : W) (c : Nat) : W :=
  let ts := (w.teamsOn c).map Prod.fst
  let w := ts.foldl (fun w t => w.slayTeam t Cause.machineCheck) w
  let w := w.modCore c fun x => { x with closed := true }
  let w := w.reportSys { cause := Cause.machineCheck, kind := 2, core := c }
  w.reportSys { cause := Cause.degradedReconfig, kind := 2, core := c }

def execMachineCheck (core : Nat) (s : State) : Out1 :=
  let lost := core < Config.cores && s.toW.works core && !s.boot.excluded.contains (0, core)
  .next { s.act (fun w => if lost then w.machineCheck core else w) with
    boot.excluded := s.boot.excluded ++ if lost then [(0, core)] else [] }

/-! ## Energy (05 R122, 19 R453) -/

/-- A grid is charged: first its reservation, then its context's account, which stops at 0. -/
def W.charge (w : W) (n mj : Nat) : W :=
  let gr := w.grid n
  let above := gr.used + mj - max gr.resv gr.used
  let x := w.ctx gr.asid
  let w := w.modGrid n fun g => { g with used := g.used + mj }
  if above = 0 then w
  else w.setCtx gr.asid { x with account := x.account - above, dry := x.dry || x.account ≤ above }

/-- The energy of a compute die is divided among the grids whose teams ran on it, by their issued work;
what does not divide stays for the next time. -/
def W.meterDie (w : W) (d mj : Nat) : W :=
  let mine := w.c.mc.work.filter fun e => e.1.2 = d && (aget w.c.slu.grids e.1.1).isSome
  let all := (mine.map Prod.snd).sum
  let total := (aget w.c.mc.metered d).getD 0 + mj
  if all = 0 then { w with c.mc.metered := adel w.c.mc.metered d }
  else
    let shares := mine.map fun e => (e.1.1, total * e.2 / all)
    let w := shares.foldl (fun w e => w.charge e.1 e.2) w
    { w with c.mc.metered := aset w.c.mc.metered d (total - (shares.map Prod.snd).sum)
             c.mc.work := w.c.mc.work.filter fun e => e.1.2 ≠ d }

/-- FANTAIL_METERING: every 100 µs, with what each die used in mJ. -/
def execFantailMetering (dies : List Nat) (s : State) : Out1 :=
  step1 (fun w =>
    let w := (dies.take 8).zipIdx.foldl (fun w e => w.meterDie e.2 e.1) w
    let old := w.c.mc.recent.filter fun e => w.ac < e.1 + 1000 * acPerUs
    { w with c.mc.recent := old ++ [(w.ac, dies.sum)] }) s

/-! ## Contexts (18 R431) -/

/-- CONTEXT_CREATION: its registers take their reset values, its descriptors are not valid, its account
is 0 (02 R45, 19 R453). -/
def execContextCreation (asid gen : Nat) (priv : Bool) (s : State) : Out1 :=
  step1 (fun w =>
    { w with
      c.sys.ctxs := aset w.c.sys.ctxs asid { gen := gen % 256, priv := priv }
      c.sys.sr := w.c.sys.sr.filter fun e => e.1.1 ≠ asid
      c.sys.td := w.c.sys.td.filter fun e => e.1.1 ≠ asid }) s

end Sys2Proof.Machine
end

