-- ==== Sys2Proof/Machine/LaneNet.lean ====
section
/-! DEFINITION. The lane network: shuffles, exchanges, ballots, votes, reductions, scans, matches and
packing (07 R195–R202). -/

namespace Sys2Proof.Machine

/-- The width of the group of an issue. -/
def Rd.width (r : Rd) : Nat := (r.w.group r.i.gid).width

/-- Writes a value, and a flag to the predicate that MOD[2:0] names. -/
def okWrite (f : Alu) (i : Issue) (w : W) (l : Nat) (xs : List Word) : W :=
  let w := w.dst i f.d l (xs.take 1)
  let p := f.x.toNat % 8
  if p = 7 then w else w.writeP i.gid l p ((xs.getD 1 0).getLsbD 0)

/-! ## Shuffles (07 R197, R198) -/

/-- The segment of a shuffle in a group of a width. -/
def segSize (s : Seg) (width : Nat) : Nat :=
  match s with
  | .width => width
  | .s2 => min 2 width
  | .s4 => min 4 width
  | .s8 => min 8 width
  | .s16 => min 16 width
  | .s32 => min 32 width
  | .s64 => min 64 width

/-- The source lane of a shuffle; none out of range. -/
def shflSrc (m : ShflMode) (s l n : Nat) : Option Nat :=
  let base := l - l % s
  match m with
  | .idx => some (base + n % s)
  | .up => if n ≤ l - base then some (l - n) else none
  | .down => if l + n < base + s then some (l + n) else none
  | .xor => some (base + ((l - base) ^^^ (n % s)))

/-- What a lane takes from a source lane, with 1 when it is valid. -/
def fromLane (r : Rd) (f : Alu) (l : Nat) (src : Option Nat) : List Word :=
  match src with
  | some k =>
    if r.es.contains k then [r.word f.a k, 1]
    else if r.i.idle.contains k then [0, 1]
    else [r.word f.a l, 0]
  | none => [r.word f.a l, 0]

def execShfl (m : ShflM) (f : Alu) : State → Out1 :=
  laneOpW f (okWrite f) fun r l =>
    { vals := fromLane r f l (shflSrc m.mode (segSize m.seg r.width) l (r.b f l).toNat) }

/-- The bits that a sign flip changes. -/
def flipMask : Flip → Word
  | .none => 0
  | .ng => 0x80000000
  | .ng2 => 0x80008000

def execSwapp (m : SwapM) (f : Alu) : State → Out1 :=
  laneOpW f (okWrite f) fun r l =>
    let k := l ^^^ 2 ^ m.k.val
    let xs := fromLane r f l (if k < r.width then some k else none)
    { vals := if xs.getD 1 0 = 1 && !l.testBit m.k.val then
        [xs.headD 0 ^^^ flipMask m.flip, 1] else xs }

/-! ## Ballots, votes, matches (07 R199) -/

/-- A mask of lanes as a pair. -/
def maskWords (m : Nat) : List Word := [BitVec.ofNat 32 m, BitVec.ofNat 32 (m / 2 ^ 32)]

def execBallot (f : Alu) : State → Out1 :=
  laneOp f fun r _ => { vals := maskWords (laneMask (r.es.filter fun k => r.word f.a k ≠ 0)) }

/-- Whether a vote holds of the operands of the executing lanes. -/
def voteHolds (m : VoteM) (xs : List Word) : Bool :=
  match m with
  | .all => xs.all fun x => x ≠ 0
  | .any => xs.any fun x => x ≠ 0
  | .uni => xs.all fun x => x = xs.headD 0

def execVote (m : VoteM) (f : Alu) : State → Out1 :=
  laneOp f fun r _ => { vals := [wordOfBool (voteHolds m (r.es.map fun k => r.word f.a k))] }

def execMatch (m : Wid) (f : Alu) : State → Out1 :=
  laneOp f fun r l =>
    let key := fun k => match m with
      | .b32 => (r.word f.a k).toNat
      | .b64 => (r.pair f.a k).toNat
    { vals := maskWords (laneMask (r.es.filter fun k => key k = key l)) }

/-! ## Reductions and scans (07 R200, R201) -/

/-- The identity of an operation. -/
def redIdent : RedOp → Word
  | .addU | .maxU | .or | .xor | .addF => 0
  | .minS => 0x7FFFFFFF
  | .maxS => 0x80000000
  | .minU | .and => 0xFFFFFFFF
  | .minF => 0x7F800000
  | .maxF => 0xFF800000

/-- One combining step with its conditions. -/
def redStep (o : RedOp) (ftz : Bool) (x y : Word) : Word × BitVec 5 :=
  let fp := fun (c : Cv) => (BitVec.ofNat 32 c.code, c.flags)
  let rd := fun (z : Word) => readWide fp32 ftz z.toNat
  match o with
  | .addU => (x + y, 0)
  | .minS => (minBySgn .s32 x y, 0)
  | .maxS => (maxBySgn .s32 x y, 0)
  | .minU => (minBySgn .u32 x y, 0)
  | .maxU => (maxBySgn .u32 x y, 0)
  | .and => (x &&& y, 0)
  | .or => (x ||| y, 0)
  | .xor => (x ^^^ y, 0)
  | .addF => fp (addWide fp32 ftz .rne 0 (rd x) (rd y))
  | .minF => fp (minMaxWide false false (rd x) (rd y))
  | .maxF => fp (minMaxWide true false (rd x) (rd y))

/-- A step on operands that may be absent. -/
def redOpt (o : RedOp) (ftz : Bool) (x y : Option Word) : Option Word × BitVec 5 :=
  match x, y with
  | some a, some b => let c := redStep o ftz a b; (some c.1, c.2)
  | some a, none => (some a, 0)
  | none, y => (y, 0)

/-- The pairs of neighbours of a list combined, and the conditions. -/
def redPairs (o : RedOp) (ftz : Bool) : List (Option Word) → List (Option Word) × BitVec 5
  | x :: y :: rest =>
    let c := redOpt o ftz x y
    let r := redPairs o ftz rest
    (c.1 :: r.1, c.2 ||| r.2)
  | xs => (xs, 0)

/-- The fixed tree: each level combines neighbours. -/
def redTree (o : RedOp) (ftz : Bool) : Nat → List (Option Word) → Option Word × BitVec 5
  | 0, xs => (xs.headD none, 0)
  | n + 1, xs =>
    let p := redPairs o ftz xs
    let r := redTree o ftz n p.1
    (r.1, p.2 ||| r.2)

/-- The operand of each lane position; absent where a lane contributes nothing (07 R196). -/
def redInputs (r : Rd) (f : Alu) : List (Option Word) :=
  (List.range r.width).map fun k =>
    if r.es.contains k then some (r.word f.a k)
    else if r.i.idle.contains k then some 0 else none

/-- A signalling operand sets NV also where it is combined with nothing (07 R201). -/
def redNan (o : RedOp) (xs : List (Option Word)) : BitVec 5 :=
  match o with
  | .addF | .minF | .maxF =>
    flagIf (xs.any fun x => match x with
      | some y => (fp32.dec y.toNat).isSnan
      | none => false) flagNV
  | _ => 0

def execGred (m : RedOp) (f : Alu) : State → Out1 :=
  laneOp f fun r _ =>
    let xs := redInputs r f
    let t := redTree m r.ftz 6 xs
    fpOut r [t.1.getD (redIdent m)] (t.2 ||| redNan m xs)

/-- The scan's value from the identity on, left to right, over some positions, with its conditions. -/
def scanFold (o : RedOp) (ftz : Bool) (xs : List (Option Word)) : Word × BitVec 5 :=
  xs.foldl (fun (a : Word × BitVec 5) x => match x with
    | none => a
    | some y => let c := redStep o ftz a.1 y; (c.1, a.2 ||| c.2)) (redIdent o, 0)

def execGscan (m : ScanM) (f : Alu) : State → Out1 :=
  laneOp f fun r l =>
    let xs := redInputs r f
    let upTo := fun k => xs.take (if m.excl then k else k + 1)
    let all := r.es.foldl (fun fl k => fl ||| (scanFold m.op r.ftz (upTo k)).2) 0#5
    fpOut r [(scanFold m.op r.ftz (upTo l)).1] (all ||| redNan m.op xs)

/-! ## Packing lanes (07 R202) -/

def execCmprs (f : Alu) : State → Out1 :=
  laneOpW f (okWrite f) fun r l =>
    let ks := r.es.filter fun k => r.word f.c k ≠ 0
    let i := r.es.findIdx fun k => k = l
    { vals := match ks[i]? with
        | some k => [r.word f.a k, 1]
        | none => [r.b f l, 0] }

def execExpnd (f : Alu) : State → Out1 :=
  laneOpW f (okWrite f) fun r l =>
    let j := (r.es.filter fun k => k < l && r.word f.c k ≠ 0).length
    { vals := if r.word f.c l ≠ 0 then [r.word f.a (r.es.getD j l), 1] else [r.b f l, 0] }

end Sys2Proof.Machine
end

