-- ==== Sys2Proof/Machine/Spectral.lean ====
section
/-! DEFINITION. The spectral instructions, on packets of sixteen FP32 values (08 R222–R229). -/

namespace Sys2Proof.Machine

/-! ## Packets (08 R222) -/

/-- Element i of an operand: of a packet, or the scalar. -/
def Rd.elem (r : Rd) (o : Opnd) (i l : Nat) : Word :=
  match o with
  | .w _ => r.run o i l
  | _ => r.word o l

/-- Element i of SRCB, for which IMM stands. -/
def Rd.elemB (r : Rd) (f : Alu) (i l : Nat) : Word :=
  match f.imm with
  | some x => x
  | none => r.elem f.b i l

/-- An instruction that computes each of sixteen elements. -/
def wOp (f : Alu) (k : Rd → Nat → Nat → Cv) : State → Out1 :=
  laneOp f fun r l => cvOut r .rne ((List.range 16).map fun i => k r l i)

/-- Element i of a, of b and of c, as they are read. -/
def Rd.fa (r : Rd) (f : Alu) (l i : Nat) : Fv := r.f32 (r.elem f.a i l)
def Rd.fb (r : Rd) (f : Alu) (l i : Nat) : Fv := r.f32 (r.elemB f i l)
def Rd.fc (r : Rd) (f : Alu) (l i : Nat) : Fv := r.f32 (r.elem f.c i l)

/-! ## Element-wise instructions (08 R225) -/

def execWmov (_m : Bool) (f : Alu) : State → Out1 :=
  laneOp f fun r l => { vals := (List.range 16).map fun i => r.elemB f i l }
def execWadd (f : Alu) : State → Out1 :=
  wOp f fun r l i => addWide fp32 r.ftz .rne 0 (r.fa f l i) (r.fb f l i)
def execWmul (f : Alu) : State → Out1 :=
  wOp f fun r l i => mulWide fp32 r.ftz .rne 0 (r.fa f l i) (r.fb f l i)
def execWfma (f : Alu) : State → Out1 :=
  wOp f fun r l i => fmaWide fp32 r.ftz .rne 0 (r.fa f l i) (r.fb f l i) (r.fc f l i)
def execWmin (m : Bool) (f : Alu) : State → Out1 :=
  wOp f fun r l i => minMaxWide false m (r.fa f l i) (r.fb f l i)
def execWmax (m : Bool) (f : Alu) : State → Out1 :=
  wOp f fun r l i => minMaxWide true m (r.fa f l i) (r.fb f l i)
def execWrcp (f : Alu) : State → Out1 := wOp f fun r l i => Tfn.rcp.eval r.ftz (r.elemB f i l)
def execWexpn (f : Alu) : State → Out1 :=
  wOp f fun r l i => expnOut r.ftz (r.elem f.a i l) (r.elemB f i l)

/-- a + c · (b − a) with one rounding. -/
def lerpWide (ftz : Bool) (a b c : Fv) : Cv :=
  match firstNan [a, b, c] with
  | some v => { code := (fp32.conv .rne 0 v).code, flags := snanFlag [a, b, c] }
  | none => match addFv false b (negArg a) with
    | none => invalid32
    | some d => match mulFv c d with
      | none => invalid32
      | some p => match addFv false a p with
        | none => invalid32
        | some s => writeWide fp32 ftz .rne 0 s

def execWlerp (f : Alu) : State → Out1 :=
  wOp f fun r l i => lerpWide r.ftz (r.fa f l i) (r.fb f l i) (r.fc f l i)

/-! ## Sums (08 R226) -/

def execWsum (f : Alu) : State → Out1 :=
  fOp f .rne fun r l => dotWide r.ftz .rne 0 [] ((List.range 16).map fun i => r.fb f l i)
def execWdot (f : Alu) : State → Out1 :=
  fOp f .rne fun r l =>
    dotWide r.ftz .rne 0 ((List.range 16).map fun i => (r.fa f l i, r.fb f l i)) []

/-! ## Wavelengths (08 R223, R224) -/

/-- The packet of wavelengths from λ0 in a range; none where λ0 lies outside. -/
def wlamOut (range : Dword) (ftz : Bool) (x0 : Word) : Option (List Cv) :=
  let lmin := (fp32.dec (lo32 range).toNat).val
  let hi := (hi32 range).toNat
  let lmax := (fp32.dec hi).val
  match readWide fp32 ftz x0.toNat with
  | .num _ b =>
    if b.lt lmin || lmax.le b then none
    else
      let span := lmax.sub lmin
      some ((List.range 16).map fun i =>
        let x := b.add (span.mul { m := i, e := -4 })
        let x := if lmax.le x then x.sub span else x
        let c := writeWide fp32 ftz .rne 0 (Fv.ofNum x)
        if c.code = hi then { c with code := hi - 1 } else c)
  | _ => none

def execWlam (f : Alu) : State → Out1 :=
  laneOp f fun r l =>
    match wlamOut (r.w.srReg (r.w.group r.i.gid).asid .wlrange) r.ftz (r.b f l) with
    | none => { fault := some (Cause.spectralRange, 0) }
    | some cs => cvOut r .rne cs

/-! ## Compact packets (08 R227) -/

def execWcvt (m : Bool) (f : Alu) : State → Out1 :=
  laneOp f fun r l =>
    if m then
      cvOut r .rne ((List.range 16).map fun i =>
        fp32.conv .rne 0 (fp16.dec (bits (r.run f.b (i / 2) l).toNat (16 * (i % 2)) 16)))
    else
      cvOut r .rne ((List.range 8).map fun j =>
        packWords 16 ((List.range 2).map fun h => fp16.conv .rne 0 (r.fb f l (2 * j + h))))

/-! ## Reflectance and polarisation (08 R228, R229) -/

def execWfres (m : Bool) (f : Alu) : State → Out1 :=
  laneOp f fun r l =>
    let cs := (List.range 16).map fun i =>
      fresOut r.ftz (r.elem f.a i l) (r.elemB f i l) (r.elem f.c i l)
    cvOut r .rne (if m then (cs.map fun c => c.1) ++ cs.map fun c => c.2.1
      else cs.map fun c => c.2.2)

/-- One wavelength of the Mueller product: the four sums. -/
def muellerMat (s : Nat → Fv) (p : Nat → Fv) : List (List (Fv × Fv)) :=
  [[(p 0, s 0), (p 1, s 1)], [(p 1, s 0), (p 0, s 1)], [(p 2, s 2), (p 3, s 3)],
   [(negArg (p 3), s 2), (p 2, s 3)]]

/-- One wavelength of a rotation by cos 2θ and sin 2θ; S0 and S3 pass through the same sum. -/
def muellerRot (s : Nat → Fv) (b c : Fv) : List (List (Fv × Fv) × List Fv) :=
  [([], [s 0]), ([(b, s 1), (c, s 2)], []), ([(negArg c, s 1), (b, s 2)], []), ([], [s 3])]

def execSmuel (m : Bool) (f : Alu) : State → Out1 :=
  laneOp f fun r l =>
    let el := fun (o : Opnd) (j i : Nat) => r.f32 (r.run o (16 * j + i) l)
    let sums : Nat → List (List (Fv × Fv) × List Fv) := fun i =>
      if m then muellerRot (fun j => el f.a j i) (r.fb f l i) (r.fc f l i)
      else (muellerMat (fun j => el f.a j i) fun j => el f.b j i).map fun t => (t, [])
    cvOut r .rne ((List.range 64).map fun n =>
      let t := (sums (n % 16)).getD (n / 16) ([], [])
      dotWide r.ftz .rne 0 t.1 t.2)

end Sys2Proof.Machine
end

