-- ==== Sys2Proof/Machine/Light.lean ====
section
/-! DEFINITION. Light: the descriptors of its objects, feedback maps, traversal, the two samplers, the film
(14 R348–R367). -/

namespace Sys2Proof.Machine

/-! ## Descriptors (14 R348) -/

def tdFbmap (d : Td) : Nat := tdF d 444 44
def tdStrU (d : Td) (k : Nat) : Nat := tdF d (312 + 44 * (k - 1)) 44

/-- A film's and a sampled object's element formats. -/
def lightFmt (d : Td) : Bool :=
  let f := fmtOf (tdFmt d)
  !fmtMx (tdFmt d) && tdFmt d ≠ 0x0C && [8, 16, 32].contains f.width

def bvhOk (d : Td) : Bool :=
  let n := 2 ^ 24
  tdType d = 2 && tdNdim d = 3 && 1 ≤ tdSize d 0 && tdSize d 0 < n && 1 ≤ tdSize d 1
    && tdSize d 1 < n && 2 ≤ tdSize d 2 && tdSize d 2 ≤ 65536 && tdSize d 3 = 0 && tdSize d 4 = 0
    && ([1, 2, 3].all fun k => tdStr d k = 0) && tdBase d % 64 = 0 && tdSbase d % 8 = 0
    && tdFmt d = 1 && tdF d 27 7 = 0 && !tdNan d && !tdPack6 d

def texOk (d : Td) : Bool :=
  tdType d = 3 && tdNdim d = 4 && 1 ≤ tdSize d 0 && tdSize d 0 ≤ 4 && 1 ≤ tdSize d 1
    && tdSize d 1 ≤ 65536 && 1 ≤ tdSize d 2 && tdSize d 2 ≤ 65536 && 1 ≤ tdSize d 3
    && tdSize d 3 ≤ Nat.log2 (max (tdSize d 1) (tdSize d 2)) + 1 && tdSize d 4 = 0
    && ([1, 2, 3].all fun k => tdStr d k = 0) && tdBase d % 65536 = 0 && tdSbase d = 0
    && lightFmt d && tdF d 27 7 = 0 && !tdPack6 d

def specOk (d : Td) : Bool :=
  let c := (tdCont d).unit
  tdType d = 4 && tdNdim d = 4 && 2 ≤ tdSize d 0 && tdSize d 0 ≤ 256 && 1 ≤ tdSize d 1
    && 1 ≤ tdSize d 2 && 1 ≤ tdSize d 3 && tdSize d 4 = 0 && tdBase d % c = 0
    && ([1, 2, 3].all fun k => tdStr d k % c = 0) && tdSbase d = 0 && lightFmt d
    && tdF d 27 7 = 0 && !tdPack6 d

def filmOk (d : Td) : Bool :=
  tdType d = 5 && tdNdim d = 3 && 1 ≤ tdSize d 0 && tdSize d 0 ≤ 32 && 1 ≤ tdSize d 1
    && tdSize d 1 ≤ 65536 && 1 ≤ tdSize d 2 && tdSize d 2 ≤ 65536 && tdSize d 3 ≤ 1023
    && tdSize d 4 = 0 && tdStr d 1 % 8 = 0 && tdStr d 2 % 8 = 0 && tdStr d 3 = 0 && tdStr d 4 = 0
    && tdBase d % 8 = 0 && tdSbase d = 0 && tdFmt d = 1 && tdF d 16 11 = 0 && tdF d 27 7 = 0
    && !tdNan d && !tdPack6 d

/-- The fault of a descriptor for its use. -/
def lightBad (ok : Td → Bool) (cause : Nat) (d : Td) : Option Nat :=
  if !tdCommon d then some Cause.tdInvalid else if ok d then none else some cause

/-! ## Reads and feedback (14 R353, R355) -/

/-- What an engine of light reads with: the group, its object and its scope. -/
structure LtEnv where
  g : Nat
  d : Td
  sc : Scope
  deriving DecidableEq, Repr

/-- The bit of a page in an object's feedback map is set; an update that its address forbids is dropped
and counted. -/
def W.fbSet (w : W) (e : LtEnv) (page : Nat) : W :=
  let gr := w.group e.g
  let base := tdBase e.d / 65536
  let map := tdFbmap e.d * 4096
  if map = 0 || page < base then w
  else
    let k := page - base
    let va := map + k / 8
    match checkVa va 1 with
    | .error _ => w.hintDrop gr.asid
    | .ok _ => match w.rmw gr.core gr.asid .sys va 1 fun old =>
        some (leBytes 1 (leNat old ||| 2 ^ (k % 8))) with
      | (w, .ok _) => w
      | (w, _) => w.hintDrop gr.asid

/-- A page that an engine missed: its bit and its request. -/
def W.fbMiss (w : W) (e : LtEnv) (va : Nat) : W :=
  let gr := w.group e.g
  ((w.fbSet e (va / 65536)).request gr.core gr.asid va).1

/-- The pages of a range of bytes. -/
def pagesOf (va n : Nat) : List Nat :=
  (List.range ((va + n - 1) / 65536 - va / 65536 + 1)).map fun i => va / 65536 + i

/-- Bytes of an object; each page that is missing is marked and requested. -/
def W.lightRead (w : W) (e : LtEnv) (va n : Nat) : W × MRes (List Byte) :=
  let gr := w.group e.g
  match checkVa va n with
  | .error (c, v) => (w, .bad c v)
  | .ok _ =>
    (pagesOf va n).foldl (fun (r : W × MRes (List Byte)) p =>
      let lo := max va (p * 65536)
      let hi := min (va + n) ((p + 1) * 65536)
      match r with
      | (w, .bad c v) =>
        if c = Cause.pageNotPresent then
          match w.load gr.core gr.asid e.sc lo (hi - lo) with
          | (w, .ok (_, false)) => (w, .bad c v)
          | (w, .bad c2 v2) =>
            if c2 = Cause.pageNotPresent then (w.fbMiss e lo, .bad c v) else (w, .bad c2 v2)
          | (w, _) => (w.fbMiss e lo, .bad c v)
        else (w, .bad c v)
      | (w, prev) =>
        match w.load gr.core gr.asid e.sc lo (hi - lo), prev with
        | (w, .ok (bs, false)), .ok xs => (w, .ok (xs ++ bs))
        | (w, .ok (_, false)), r => (w, r)
        | (w, .ok (_, true)), r => (w.fbMiss e lo, match r with | .nonres v => .nonres v | _ => .nonres lo)
        | (w, .nonres v), r => (w.fbMiss e lo, match r with | .nonres u => .nonres u | _ => .nonres v)
        | (w, .bad c v), _ =>
          (if c = Cause.pageNotPresent then w.fbMiss e lo else w, .bad c v)) (w, .ok [])

/-- A read that found a page missing, with V = 0 or RES = 0. -/
def missed : MRes (List Byte) → Bool
  | .nonres _ => true
  | .bad c _ => c = Cause.pageNotPresent
  | .ok _ => false

/-- ORD and the stores of the group before an engine of light reads. -/
def W.lightStart (w : W) (i : Issue) (f : EngF) (rel : Option Scope) : W :=
  let w := w.drainAll i.gid
  let w := if f.ord = .rel then w.releaseAt i.gid f.scope else w
  match rel with
  | some sc => w.releaseAt i.gid sc
  | none => w

/-! ## Vectors of exact numbers -/

abbrev V3 := Num × Num × Num

def V3.sub (a b : V3) : V3 := (a.1.sub b.1, a.2.1.sub b.2.1, a.2.2.sub b.2.2)
def V3.dot (a b : V3) : Num := ((a.1.mul b.1).add (a.2.1.mul b.2.1)).add (a.2.2.mul b.2.2)
def V3.cross (a b : V3) : V3 :=
  ((a.2.1.mul b.2.2).sub (a.2.2.mul b.2.1), (a.2.2.mul b.1).sub (a.1.mul b.2.2),
    (a.1.mul b.2.1).sub (a.2.1.mul b.1))

/-- Three numbers of a list of values. -/
def v3 (xs : List Fv) : V3 :=
  let x := fun i => (xs.getD i .zero).val
  (x 0, x 1, x 2)

def finite (v : Fv) : Bool := !v.isNan && !v.isInf

/-- FP32 values of bytes. -/
def fpAt (bs : List Byte) (ofs : Nat) : Fv := fp32.dec (fieldLE bs ofs 4)
def fpList (bs : List Byte) (ofs n : Nat) : List Fv := (List.range n).map fun i => fpAt bs (ofs + 4 * i)

/-! ## Traversal (14 R351, R356, R359) -/

/-- A ray with finite components. -/
structure Ray where
  o : V3
  tmin : Num
  d : V3
  tmax : Num

structure Hit where
  t : Num
  b1 : Num
  b2 : Num
  back : Bool
  tri : Nat
  shidx : Nat
  user : Nat

/-- A traversal in progress. -/
structure Trav where
  w : W
  inc : Bool := false
  hits : List Hit := []
  bad : Option (Nat × Nat) := none

/-- What a traversal needs: the reads, the ray, the mask, culling, and the number of its free choices. -/
structure TravEnv where
  e : LtEnv
  ray : Ray
  mask : Nat
  cull : Bool
  key : Nat

/-- Whether the exact segment meets a box; a box with a bound that is no number is met. -/
def boxMet (r : Ray) (bs : List Byte) (ofs : Nat) : Bool :=
  let lo := fpList bs ofs 3
  let hi := fpList bs (ofs + 12) 3
  if !(lo ++ hi).all finite then true
  else
    let axis := fun (p : Option (Num × Num)) (o d l h : Num) =>
      match p with
      | none => none
      | some (a, b) =>
        if d.isZero then (if l.le o && o.le h then some (a, b) else none)
        else
          let t1 := (l.sub o).div d
          let t2 := (h.sub o).div d
          let (t1, t2) := if t2.lt t1 && (d.m < 0 : Bool) then (t2, t1) else (t1, t2)
          let a := if a.lt t1 then t1 else a
          let b := if t2.lt b then t2 else b
          if a.le b then some (a, b) else none
    let l := v3 lo
    let h := v3 hi
    let p := axis (some (r.tmin, r.tmax)) r.o.1 r.d.1 l.1 h.1
    let p := axis p r.o.2.1 r.d.2.1 l.2.1 h.2.1
    (axis p r.o.2.2 r.d.2.2 l.2.2 h.2.2).isSome

/-- The hit of a ray on a triangle's 48 bytes, by exact real arithmetic. -/
def triHit (x : TravEnv) (j : Nat) (bs : List Byte) : Option Hit :=
  let vs := fpList bs 0 9
  if !vs.all finite || fieldLE bs 38 1 &&& x.mask = 0 then none
  else
    let v0 := v3 vs
    let e1 := V3.sub (v3 (vs.drop 3)) v0
    let e2 := V3.sub (v3 (vs.drop 6)) v0
    let n := V3.cross e1 e2
    let det := V3.dot x.ray.d n
    if det.isZero then none
    else
      let s := V3.sub x.ray.o v0
      let t := ((V3.dot n s).neg).div det
      let b1 := (V3.dot (V3.cross s e2) x.ray.d).div det
      let b2 := (V3.dot (V3.cross e1 s) x.ray.d).div det
      let back := det.m > 0
      let culled := x.cull && back && !(fieldLE bs 39 1).testBit 0
      if Num.zero.le b1 && Num.zero.le b2 && (b1.add b2).le (Num.ofInt 1) && x.ray.tmin.le t
        && t.le x.ray.tmax && !culled then
        some { t := t, b1 := b1, b2 := b2, back := back, tri := j, shidx := fieldLE bs 36 2
               user := fieldLE bs 40 4 }
      else none

def triAddr (d : Td) (j : Nat) : Nat := tdBase d + 64 * tdSize d 0 + 48 * j

/-- One triangle of a leaf. -/
def Trav.tri (x : TravEnv) (s : Trav) (j : Nat) : Trav :=
  if s.bad.isSome then s
  else match s.w.lightRead x.e (triAddr x.e.d j) 48 with
    | (w, .ok bs) =>
      let sh := fieldLE bs 36 2
      if sh = 0 || tdSize x.e.d 2 ≤ sh || 2 ≤ fieldLE bs 39 1 || fieldLE bs 44 4 ≠ 0 then
        { s with w := w, bad := some (Cause.traceInvalidBvh, triAddr x.e.d j) }
      else { s with w := w, hits := s.hits ++ (triHit x j bs).toList }
    | (w, r) =>
      if missed r then { s with w := w, inc := true }
      else match r with
        | .bad c v => { s with w := w, bad := some (c, v) }
        | _ => { s with w := w }

/-- The subtree of a node, at most as many nodes deep as the fuel. A child whose box the segment does
not meet is skipped or not as the part chooses. -/
def Trav.node (x : TravEnv) : Nat → Nat → Trav → Trav
  | 0, _, s => { s with bad := some (Cause.traceInvalidBvh, 0) }
  | fuel + 1, n, s =>
    let at_ := tdBase x.e.d + 64 * n
    if s.bad.isSome then s
    else match s.w.lightRead x.e at_ 64 with
      | (w, .ok bs) =>
        let broken := some (Cause.traceInvalidBvh, at_)
        let s := { s with w := w }
        let child := fun (c : Nat) (s : Trav) =>
          let ref := fieldLE bs (48 + 4 * c) 4
          let skip := !boxMet x.ray bs (24 * c)
            && Config.choice 24 (x.key * 2 ^ 26 + 2 * n + c) % 2 = 0
          if s.bad.isSome || ref = 0x7FFFFFFF || skip then s
          else if ref.testBit 31 then
            let k := bits ref 26 5 + 1
            let j0 := bits ref 0 26
            if tdSize x.e.d 1 < j0 + k then { s with bad := broken }
            else (List.range k).foldl (fun s i => s.tri x (j0 + i)) s
          else if tdSize x.e.d 0 ≤ ref then { s with bad := broken }
          else Trav.node x fuel ref s
        if fieldLE bs 56 8 ≠ 0 then { s with bad := broken } else child 1 (child 0 s)
      | (w, r) =>
        if missed r then { s with w := w, inc := true }
        else match r with
          | .bad c v => { s with w := w, bad := some (c, v) }
          | _ => { s with w := w }

/-- The hit reported: the least t, of equals the lowest triangle; any hit with .any. -/
def pickHit (any : Bool) (key : Nat) (hs : List Hit) : Option Hit :=
  if any then hs[Config.choice 23 key % max 1 hs.length]?
  else hs.foldl (fun (b : Option Hit) h => match b with
    | none => some h
    | some x => if h.t.lt x.t || (h.t.eq x.t && h.tri < x.tri) then some h else some x) none

/-- The hit record with its flags (14 R357). -/
def hitRecord (h : Option Hit) (inc : Bool) (pay : Word) : List Word × BitVec 5 :=
  let i : Nat := if inc then 4 else 0
  match h with
  | none => ([0x7F800000, 0, 0, 0xFFFFFFFF, 0, BitVec.ofNat 32 i, 0, pay], 0)
  | some h =>
    let cs := [h.t, h.b1, h.b2].map fun x => fp32.conv .rne 0 (Fv.ofNum x)
    (cs.map (fun c => BitVec.ofNat 32 c.code) ++
      [BitVec.ofNat 32 h.tri, BitVec.ofNat 32 h.shidx,
       BitVec.ofNat 32 (1 + (if h.back then 2 else 0) + i), BitVec.ofNat 32 h.user, pay],
      cs.foldl (fun f c => f ||| c.flags) 0)

/-- TRACE (14 R356): the rays enter the engine. -/
def execTrace (m : TraceM) (f : EngF) : State → Out1 :=
  onceOp f.g fun r es w =>
    let g := r.i.gid
    let gr := w.group g
    let d := w.td gr.asid f.tdi.toNat
    match lightBad bvhOk Cause.traceInvalidBvh d with
    | some c => Eff.allFault w es c
    | none =>
      if w.countFull g .tx then Eff.allFault w es Cause.counterOverflow
      else
        let w := w.lightStart r.i f (if m.task then some .tm else none)
        let rays := es.map fun l => (l, (List.range 8).map fun k => r.run f.a k l, r.word f.b l)
        let t : Tx :=
          { kind := .trace m (f.eimm.toNat % 256), team := gr.team, core := gr.core, asid := gr.asid
            desc := d, f := f, rays := rays }
        let (w, id) := w.newOp { gid := g, cls := .tx, iaddr := r.i.pc, kind := .tx t, scope := f.scope }
        { w := if m.task then w else w.openPend r.i id f.x.toNat es (runV f.d 8) [] none }

def OpKind.tx? : OpKind → Option Tx
  | .tx t => some t
  | _ => none

/-- Tasks that wait in the traversal engine enter the pool while it has room; the operation ends with
its last ray and task. -/
def W.txDrain : Nat → W → Nat → W
  | 0, w, _ => w
  | n + 1, w, id =>
    match aget w.c.eng.ops id with
    | none => w
    | some o => match o.kind.tx? with
      | none => w
      | some t => match t.tasks with
        | (entry, args) :: rest =>
          if w.poolRoom t.core 1 then
            let w := (w.addTask o.gid entry 0 0xFFFFFFFF args).1
            let w := w.modOp id fun o => { o with kind := .tx { t with tasks := rest } }
            W.txDrain n w id
          else w
        | [] =>
          if t.rays.isEmpty && !o.done then
            (w.modOp id fun o => { o with done := true }).giveResult id fun p => p
          else w

/-- The result of one ray. -/
def W.castRay (w : W) (o : Op) (t : Tx) (m : TraceM) (mask : Nat) (ray : List Word) (pay : Word) :
    Trav × List Word × BitVec 5 :=
  let key := w.c.mdl.fresh
  let vs := ray.map fun x => fp32.dec x.toNat
  let n := fun i => (vs.getD i .zero).val
  let w := w.bumpFresh
  if !vs.all finite || (n 7).lt (n 3) then
    let r := hitRecord none false pay
    ({ w := w }, r.1, flagNV)
  else
    let x : TravEnv :=
      { e := { g := o.gid, d := t.desc, sc := t.f.scope }
        ray := { o := (n 0, n 1, n 2), tmin := n 3, d := (n 4, n 5, n 6), tmax := n 7 }
        mask := mask, cull := m.cullb, key := key }
    let s := Trav.node x 64 0 { w := w }
    let r := hitRecord (pickHit m.any key s.hits) s.inc pay
    (s, r.1, r.2)

/-- A ray of an operation is done: its record, its task, or its fault (14 R357–R359). -/
def W.rayDone (w : W) (id : Nat) (o : Op) (t : Tx) (m : TraceM) (mask lane : Nat) (ray : List Word)
    (pay : Word) : W :=
  let (s, rec_, fl) := w.castRay o t m mask ray pay
  let w := s.w
  let t := { t with rays := t.rays.filter fun e => e.1 ≠ lane }
  let o := { o with kind := .tx t, flags := o.flags ||| fl }
  let w0 := { w with c.eng.ops := aset w.c.eng.ops id o }
  let fault := fun (w : W) (c v : Nat) =>
    if m.task then w.lateFault o.gid [lane] c v o.iaddr true
    else { w with c.thr.pends := w.c.thr.pends.map fun (e : Nat × Pend) =>
      if e.2.op = id then (e.1, { e.2 with faults := e.2.faults ++ [(lane, c, v)] }) else e }
  match s.bad with
  | some (c, v) => fault w0 c v
  | none =>
    if !m.task then
      { w0 with c.thr.pends := w0.c.thr.pends.map fun (e : Nat × Pend) =>
        if e.2.op = id then
          (e.1, { e.2 with vval := e.2.vval ++ (rec_.zip e.2.vdst).map fun x => ((lane, x.2), x.1) })
        else e }
    else
      let sh := (rec_.getD 4 0).toNat
      let e : LtEnv := { g := o.gid, d := t.desc, sc := t.f.scope }
      match w0.lightRead e (tdSbase t.desc + 8 * sh) 8 with
      | (w, .ok bs) =>
        let entry := leNat bs
        if sh = 0 && entry = 0 then w
        else if !entryValid entry then fault w Cause.taskRecordInvalid entry
        else w.modOp id fun o => { o with kind := .tx { t with tasks := t.tasks ++ [(entry, rec_)] } }
      | (w, r) =>
        if missed r then w
        else match r with
          | .bad c v => fault w c v
          | _ => w

/-- RAY_RESULT: the ray of a lane is known, or a task that waits finds room. -/
def W.rayResult (w : W) (id lane : Nat) : W :=
  match aget w.c.eng.ops id with
  | none => w
  | some o => match o.kind.tx? with
    | none => w
    | some t => match t.kind with
      | .trace m mask =>
        let placed := match (w.team t.team).st with
          | .resident | .stopping => true
          | _ => false
        if !placed then w
        else
          let w := match t.rays.find? fun e => e.1 = lane with
            | some e => w.rayDone id o t m mask lane e.2.1 e.2.2
            | none => w
          W.txDrain 4200 w id
      | _ => w

def execRayResult (op lane : Nat) (s : State) : Out1 := step1 (fun w => w.rayResult op lane) s

/-! ## HITGET (14 R360) -/

/-- One component of the exact unit vector, rounded once. -/
def unitPart (n : V3) (x : Num) : Cv :=
  let len := V3.dot n n
  let s := (sqrtNum ((x.mul x).div len)).1
  fp32.conv .rne 0 (Fv.ofNum (if x.m < 0 then s.neg else s))

/-- HITGET. -/
def execHitget (m : HitM) (f : Alu) : State → Out1 :=
  onceOp f.g fun r es w0 =>
    let g := r.i.gid
    let gr := w0.group g
    let d := w0.td gr.asid ((r.word f.b 0).toNat % 1024)
    let n := if m.nrm then 3 else 9
    let rp := (rpOf m.rp).isSome
    match lightBad bvhOk Cause.traceInvalidBvh d with
    | some c => Eff.allFault w0 es c
    | none =>
      let e : LtEnv := { g := g, d := d, sc := .th }
      let zeros := List.replicate n (0 : Word)
      let (w, vals, bad, fl) := es.foldl
        (fun (p : W × List (Nat × List Word × Bool) × List LFault × BitVec 5) l =>
          let (w, vals, bad, fl) := p
          let j := (r.word f.a l).toNat
          let fail := fun (w : W) (c v : Nat) =>
            (w, vals, bad ++ [({ lane := l, cause := c, addr := v } : LFault)], fl)
          if tdSize d 1 ≤ j then
            if tdClamp d then (w, vals ++ [(l, zeros, false)], bad, fl) else fail w Cause.tdBounds 0
          else match w.lightRead e (triAddr d j) 48 with
            | (w, .nonres v) =>
              if rp then (w, vals ++ [(l, zeros, true)], bad, fl) else fail w Cause.pageNotPresent v
            | (w, .bad c v) => fail w c v
            | (w, .ok bs) =>
              if !m.nrm then
                (w, vals ++ [(l, (List.range 9).map fun k => BitVec.ofNat 32 (fieldLE bs (4 * k) 4), false)],
                  bad, fl)
              else
                let vs := fpList bs 0 9
                let v0 := v3 vs
                let c := V3.cross (V3.sub (v3 (vs.drop 3)) v0) (V3.sub (v3 (vs.drop 6)) v0)
                if !vs.all finite then
                  (w.bumpFresh, vals ++ [(l, (List.range 3).map fun k => w.freeWord (50000 + 4 * l + k), false)],
                    bad, fl)
                else if (V3.dot c c).isZero then (w, vals ++ [(l, zeros, false)], bad, fl)
                else
                  let cs := [unitPart c c.1, unitPart c c.2.1, unitPart c c.2.2]
                  (w, vals ++ [(l, cs.map fun x => BitVec.ofNat 32 x.code, false)], bad,
                    cs.foldl (fun f x => f ||| x.flags) fl)) (w0, [], [], 0)
      let w := w.orFlags g fl
      { w := w.lateResult r.i f.x.toNat (vals.map Prod.fst) f.d n (vals.map fun v => (v.1, v.2.1))
          (rpOf m.rp) (vals.map fun v => (v.1, v.2.2))
        faults := bad }

/-! ## Filters (14 R361) -/

/-- The nearest integer of a number that is not negative, ties to even. -/
def roundEven (x : Num) : Int :=
  let f := x.floor
  let rest := x.sub (Num.ofInt f)
  let half : Num := { m := 1, e := -1 }
  if half.lt rest || (rest.eq half && f % 2 = 1) then f + 1 else f

/-- The two taps of a linear filter at a position, with weights in 256ths, those of weight 0 left out. -/
def linTaps (x : Num) : List (Int × Nat) :=
  let a := x.floor
  let f := (roundEven ((x.sub (Num.ofInt a)).mul (.pow 8))).toNat
  let (a, f) := if f = 256 then (a + 1, 0) else (a, f)
  ([(a, 256 - f), (a + 1, f)]).filter fun e => e.2 ≠ 0

def foldAddr (m : AddrM) (n : Nat) (a : Int) : Nat :=
  match m with
  | .wrap => (a % n).toNat
  | .clamp => (min (max a 0) (n - 1 : Nat)).toNat
  | .mirror => let k := (a % (2 * n)).toNat
    if k < n then k else 2 * n - 1 - k

/-- The taps along one axis of extent `n` at a normalised coordinate. -/
def axisTaps (lin : Bool) (m : AddrM) (n : Nat) (q : Num) : List (Nat × Nat) :=
  let x := q.mul (Num.ofInt n)
  let ts := if lin then linTaps (x.sub { m := 1, e := -1 }) else [(x.floor, 256)]
  ts.map fun e => (foldAddr m n e.1, e.2)

/-- A weight of so many 256ths, to a power of them. -/
def weightFv (w : Nat) (k : Nat) : Fv := Fv.ofNum { m := w, e := -8 * (k : Int) }

/-- The exact weighted sum, rounded once; NaNs and invalid cases as 08 R221. -/
def wsum (xs : List (Fv × Fv)) : Cv := dotWide false .rne 0 xs []

/-! ## SAMP (14 R349, R362) -/

def texCs (d : Td) : Nat := (fmtOf (tdFmt d)).width / 8
def texW (d : Td) (l : Nat) : Nat := max 1 (tdSize d 1 / 2 ^ l)
def texH (d : Td) (l : Nat) : Nat := max 1 (tdSize d 2 / 2 ^ l)
def texPitch (d : Td) (l : Nat) : Nat := (texW d l * tdSize d 0 * texCs d + 255) / 256 * 256
def texOfs (d : Td) : Nat → Nat
  | 0 => 0
  | l + 1 => (texOfs d l + texH d l * texPitch d l + 65535) / 65536 * 65536
def texAddr (d : Td) (l c x y : Nat) : Nat :=
  tdBase d + texOfs d l + y * texPitch d l + x * tdSize d 0 * texCs d + c * texCs d

/-- The taps of a footprint: x, y, and the weight in 65,536ths. -/
def texTaps (d : Td) (lin : Bool) (m : AddrM) (l : Nat) (s t : Num) : List (Nat × Nat × Nat) :=
  ((axisTaps lin m (texW d l) s).map fun a =>
    (axisTaps lin m (texH d l) t).map fun b => (a.1, b.1, a.2 * b.2)).flatten

/-- What a lane of a sampler has found. -/
structure Smp where
  w : W
  /-- weight and value, by element -/
  terms : List (Nat × Fv × Fv) := []
  miss : Bool := false
  bad : Option (Nat × Nat) := none

/-- A level's contribution with a weight in 256ths; a missing tap moves the footprint to the next
coarser level, as many as there are. -/
def texLevel (e : LtEnv) (m : AddrM) (s t : Num) (wt : Nat) : Nat → Nat → Bool → Smp → Smp
  | 0, _, _, q => { q with miss := true }
  | fuel + 1, l, lin, q =>
    let reads := ((texTaps e.d lin m l s t).map fun p =>
      (List.range (tdSize e.d 0)).map fun c => (c, p)).flatten
    let (w, out, gone, bad) := reads.foldl
      (fun (r : W × List (Nat × Fv × Fv) × Bool × Option (Nat × Nat)) x =>
        let (w, out, gone, bad) := r
        if bad.isSome then r
        else match w.lightRead e (texAddr e.d l x.1 x.2.1 x.2.2.1) (texCs e.d) with
          | (w, .ok bs) =>
            let v := (tdFormat e.d).dec (leNat bs)
            (w, out ++ [(x.1, weightFv (wt * x.2.2.2) 3, v)], gone, none)
          | (w, res) =>
            if missed res then (w, out, true, none)
            else match res with
              | .bad c v => (w, out, gone, some (c, v))
              | _ => (w, out, gone, none)) (q.w, [], false, none)
    if bad.isSome then { q with w := w, bad := bad }
    else if gone then
      if l + 1 < tdSize e.d 3 then
        texLevel e m s t wt fuel (l + 1) true { q with w := w, miss := true }
      else { q with w := w, miss := true }
    else { q with w := w, terms := q.terms ++ out }

/-- The level of detail: clamped, NaN reads as 0. -/
def lodOf (d : Td) (b : Word) : Num :=
  let top := Num.ofInt (tdSize d 3 - 1 : Nat)
  match fp32.dec b.toNat with
  | .num _ x => if x.m < 0 then Num.zero else if top.lt x then top else x
  | .inf n => if n then Num.zero else top
  | .nan _ _ _ => Num.zero

/-- The end of a sampler: results, residency predicates, flags, faults. -/
def sampEnd (i : Issue) (f : EngF) (rp : Rp) (n : Nat) (w : W)
    (outs : List (Nat × List Cv × Bool)) (bad : List LFault) : Eff :=
  let fl := outs.foldl (fun (x : BitVec 5) o => o.2.1.foldl (fun x c => x ||| c.flags) x) 0
  let (w, id) := w.newOp { gid := i.gid, cls := .tx, iaddr := i.pc, kind := .store, scope := f.scope
                           done := true, flags := fl }
  let w := w.openPend i id f.x.toNat (outs.map Prod.fst) (runV f.d n) [] (rpOf rp)
  { w := w.giveLanes id (outs.map fun o => (o.1, o.2.1.map fun c => BitVec.ofNat 32 c.code))
      (outs.map fun o => (o.1, o.2.2))
    faults := bad }

/-- A lane's elements of a NaN or infinite coordinate. -/
def nanElems (n : Nat) : List Cv := List.replicate n (cvOf 0x7FC00000 flagNV)

/-- The elements of a sampler from its terms. -/
def Smp.elems (q : Smp) (n : Nat) : List Cv :=
  (List.range n).map fun c => wsum ((q.terms.filter fun t => t.1 = c).map fun t => t.2)

/-- The lanes of a sampler in order. -/
def sampLanes (es : List Nat) (w : W) (k : W → Nat → Smp × List Cv) :
    W × List (Nat × List Cv × Bool) × List LFault :=
  es.foldl (fun (p : W × List (Nat × List Cv × Bool) × List LFault) l =>
    let (q, cs) := k p.1 l
    match q.bad with
    | some (c, v) => (q.w, p.2.1, p.2.2 ++ [({ lane := l, cause := c, addr := v } : LFault)])
    | none => (q.w, p.2.1 ++ [(l, cs, q.miss)], p.2.2)) (w, [], [])

/-- SAMP. -/
def execSamp (m : SampM) (f : EngF) : State → Out1 :=
  onceOp f.g fun r es w =>
    let g := r.i.gid
    let d := w.td (w.group g).asid f.tdi.toNat
    let n := tdSize d 0
    match lightBad texOk Cause.samplerInvalid d with
    | some c => Eff.allFault w es c
    | none =>
      let tooFar : Bool := match f.d with
        | .v k => (w.group g).vb < k.val + n
        | _ => true
      if tooFar then Eff.allFault w es Cause.illegalOperand
      else if w.countFull g .tx then Eff.allFault w es Cause.counterOverflow
      else
        let e : LtEnv := { g := g, d := d, sc := f.scope }
        let (w, outs, bad) := sampLanes es (w.lightStart r.i f none) fun w l =>
          let s := fp32.dec (r.run f.a 0 l).toNat
          let t := fp32.dec (r.run f.a 1 l).toNat
          if !finite s || !finite t then ({ w := w }, nanElems n)
          else
            let b := lodOf d (r.word f.b l)
            let lev := fun wt k lin q => texLevel e m.addr s.val t.val wt (tdSize d 3 + 1) k lin q
            let q := match m.filt with
              | .tri =>
                let l0 := b.floor.toNat
                let gw := (roundEven ((b.sub (Num.ofInt l0)).mul (.pow 8))).toNat
                if gw = 0 || tdSize d 3 ≤ l0 + 1 then lev 256 l0 true { w := w }
                else
                  let q := if gw = 256 then { w := w } else lev (256 - gw) l0 true { w := w }
                  lev gw (l0 + 1) true q
              | k => lev 256 ((b.add { m := 1, e := -1 }).floor.toNat) (k = .lin) { w := w }
            (q, q.elems n)
        sampEnd r.i f m.rp n w outs bad

/-! ## SSAMP (14 R350, R363) -/

def specAddr (d : Td) (i u v x : Nat) : Nat :=
  (BitVec.ofInt 64 ((tdBase d + i * (tdCont d).unit : Nat) + u * tdStr d 1 + v * tdStr d 2
    + x * tdStr d 3)).toNat

/-- The taps of the wavelength axis: sample and weight in 256ths. -/
def waveTaps (range : Dword) (n : Nat) (lam : Num) : List (Nat × Nat) :=
  let lmin := (fp32.dec (lo32 range).toNat).val
  let lmax := (fp32.dec (hi32 range).toNat).val
  let x := ((lam.sub lmin).mul (Num.ofInt (n - 1 : Nat))).div (lmax.sub lmin)
  (linTaps x).map fun e => (foldAddr .clamp n e.1, e.2)

/-- The taps of u, v and w; an axis of extent 1 gives one tap in a table with SIZE3 = 1. -/
def specAxis (d : Td) (lin : Bool) (m : AddrM) (k : Nat) (q : Num) : List (Nat × Nat) :=
  let n := tdSize d k
  if tdSize d 3 = 1 && 2 ≤ k && n = 1 then [(0, 256)] else axisTaps lin m n q

/-- Reads an element of a spectral table; a missing page reads as 0. -/
def Smp.spec (e : LtEnv) (q : Smp) (i u v x : Nat) : Smp × Fv :=
  if q.bad.isSome then (q, .zero)
  else match q.w.lightRead e (specAddr e.d i u v x) (tdCont e.d).unit with
    | (w, .ok bs) => ({ q with w := w }, (tdFormat e.d).dec (leNat bs))
    | (w, r) =>
      if missed r then ({ q with w := w, miss := true }, .zero)
      else match r with
        | .bad c a => ({ q with w := w, bad := some (c, a) }, .zero)
        | _ => ({ q with w := w }, .zero)

/-- Each tap of a packet is read once: the taps of all elements, without repeats. -/
def specReads (e : LtEnv) (q : Smp) (ts : List (Nat × Nat × Nat × Nat)) :
    Smp × List ((Nat × Nat × Nat × Nat) × Fv) :=
  (uniq ts).foldl (fun (p : Smp × List ((Nat × Nat × Nat × Nat) × Fv)) t =>
    let (q, v) := p.1.spec e t.1 t.2.1 t.2.2.1 t.2.2.2
    (q, p.2 ++ [(t, v)])) (q, [])

/-- SSAMP. -/
def execSsamp (m : SampM) (f : EngF) : State → Out1 :=
  onceOp f.g fun r es w =>
    let g := r.i.gid
    let a := (w.group g).asid
    let d := w.td a f.tdi.toNat
    let range := w.srReg a .wlrange
    match lightBad specOk Cause.samplerInvalid d with
    | some c => Eff.allFault w es c
    | none =>
      if w.countFull g .tx then Eff.allFault w es Cause.counterOverflow
      else
        let e : LtEnv := { g := g, d := d, sc := f.scope }
        let lin := m.filt ≠ .near
        let (w, outs, bad) := sampLanes es (w.lightStart r.i f none) fun w l =>
          match wlamOut range (w.ftz g) (r.word f.b l) with
          | none => ({ w := w, bad := some (Cause.spectralRange, 0) }, [])
          | some lams =>
            let q := (List.range 3).map fun k => fp32.dec (r.run f.a k l).toNat
            if !q.all finite then ({ w := w }, nanElems 16)
            else
              let ax := fun k => specAxis d lin m.addr (k + 1) (q.getD k .zero).val
              let uvw := ((ax 0).map fun u => ((ax 1).map fun v => (ax 2).map fun x =>
                (u.1, v.1, x.1, u.2 * v.2 * x.2)).flatten).flatten
              let waves := lams.map fun c => waveTaps range (tdSize d 0) (fp32.dec c.code).val
              let tapsOf := fun (ws : List (Nat × Nat)) => (ws.map fun s => uvw.map fun p =>
                ((s.1, p.1, p.2.1, p.2.2.1), s.2 * p.2.2.2)).flatten
              let (s, vals) := specReads e { w := w } ((waves.map fun ws =>
                (tapsOf ws).map Prod.fst).flatten)
              (s, waves.map fun ws => wsum ((tapsOf ws).map fun t =>
                (weightFv t.2 4, (aget vals t.1).getD .zero)))
        sampEnd r.i f m.rp 16 w outs bad

/-! ## FILMACC (14 R352, R364, 16 R398) -/

def filmAddr (d : Td) (c x y : Nat) : Nat :=
  (BitVec.ofInt 64 ((tdBase d + 8 * c : Nat) + x * tdStr d 1 + y * tdStr d 2)).toNat

/-- A lane's contributions by channel, with the response's reads. -/
def filmWords (r : Rd) (m : FilmM) (f : EngF) (film resp : Td) (w : W) (l : Nat) : Smp × List Word :=
  let g := r.i.gid
  let n := tdSize film 0
  match m with
  | .raw => ({ w := w }, (List.range n).map fun c => r.run f.a c l)
  | .resp =>
    let range := w.srReg (w.group g).asid .wlrange
    match wlamOut range (w.ftz g) (r.word f.b l) with
    | none => ({ w := w, bad := some (Cause.spectralRange, 0) }, [])
    | some lams =>
      let e : LtEnv := { g := g, d := resp, sc := f.scope }
      let waves := lams.map fun c => waveTaps range (tdSize resp 0) (fp32.dec c.code).val
      let reads := ((List.range n).map fun c => (waves.map fun ws => ws.map fun t =>
        (t.1, c, 0, 0)).flatten).flatten
      let (q, vals) := specReads e { w := w } reads
      let val := fun i c => (aget vals (i, c, 0, 0)).getD .zero
      (q, (List.range n).map fun c =>
        let prods := waves.zipIdx.map fun ws =>
          let x := wsum (ws.1.map fun t => (weightFv t.2 1, val t.1 c))
          (fp32.dec x.code, fp32.dec (r.elem f.a ws.2 l).toNat)
        BitVec.ofNat 32 (wsum prods).code)

/-- FILMACC: the contributions are performed at the home slice in lane order, or staged in a
deterministic grid. -/
def execFilmacc (m : FilmM) (f : EngF) : State → Out1 :=
  onceOp f.g fun r es w =>
    let g := r.i.gid
    let gr := w.group g
    let d := w.td gr.asid f.tdi.toNat
    let resp := w.td gr.asid (tdSize d 3)
    let det := (w.grid gr.grid).det
    let n := tdSize d 0
    let respBad := m = .resp && (!tdCommon resp || !specOk resp || tdFmt resp ≠ 1 || tdSize resp 1 < n)
    let tooFar : Bool := match f.a with
      | .v k => (w.group g).vb < k.val + n
      | _ => false
    match lightBad filmOk Cause.filmInvalid d with
    | some c => Eff.allFault w es c
    | none =>
      if respBad || (m = .raw && 16 < n) then Eff.allFault w es Cause.filmInvalid
      else if m = .raw && tooFar then Eff.allFault w es Cause.illegalOperand
      else if w.countFull g .tx then Eff.allFault w es Cause.counterOverflow
      else
        let w := w.lightStart r.i f none
        let (w, bad) := es.foldl (fun (p : W × List LFault) l =>
          let fail := fun (w : W) (c v : Nat) =>
            (w, p.2 ++ [({ lane := l, cause := c, addr := v } : LFault)])
          let px := (r.word f.c l).toNat
          let (x, y) := (bits px 0 16, bits px 16 16)
          if tdSize d 1 ≤ x || tdSize d 2 ≤ y then
            if tdClamp d then p else fail p.1 Cause.tdBounds 0
          else
            let (q, xs) := filmWords r m f d resp p.1 l
            match q.bad with
            | some (c, v) => fail q.w c v
            | none =>
              if q.miss then fail q.w Cause.pageNotPresent (tdBase resp)
              else
                let vas := (List.range n).map fun c => filmAddr d c x y
                let (w, err) := vas.foldl (fun (s : W × Option (Nat × Nat)) va =>
                  match s with
                  | (w, some e) => (w, some e)
                  | (w, none) => match checkVa va 8 with
                    | .error e => (w, some e)
                    | .ok _ => match w.prep gr.asid va 8 with
                      | (w, .ok []) => (w, none)
                      | (w, .ok (v :: _)) => (w, some (Cause.pageNotPresent, v))
                      | (w, .nonres v) => (w, some (Cause.pageNotPresent, v))
                      | (w, .bad c v) => (w, some (c, v))) (q.w, none)
                match err with
                | some (c, v) => fail w c v
                | none =>
                  ((vas.zip xs).foldl (fun w e =>
                    if det then
                      w.stage g { asid := gr.asid, tlin := (w.team gr.team).tlin, va := e.1, x := e.2
                                  scope := f.scope }
                    else (w.rmw gr.core gr.asid f.scope e.1 8 fun old => some (pairAdd e.2 old)).1) w, p.2))
          (w, [])
        let (w, _) := w.newOp { gid := g, cls := .tx, iaddr := r.i.pc, kind := .store, done := true
                                scope := f.scope }
        { w := w, faults := bad }

/-! ## RESFB (14 R366) -/

/-- A coordinate inside the object. -/
def inUnit (v : Fv) : Bool := finite v && Num.zero.le v.val && v.val.le (Num.ofInt 1)

/-- The bytes whose pages a lane of RESFB names; none when it names nothing of the object. -/
def fbRanges (r : Rd) (m : FbM) (f : EngF) (d : Td) (l : Nat) : Option (List (Nat × Nat)) :=
  let co := fun k => fp32.dec (r.run f.a k l).toNat
  match m.kind with
  | .tex =>
    if !inUnit (co 0) || !inUnit (co 1) then none
    else
      let lev := min (r.word f.b l).toNat (tdSize d 3 - 1)
      some ((texTaps d true m.addr lev (co 0).val (co 1).val).map fun t =>
        (texAddr d lev 0 t.1 t.2.1, tdSize d 0 * texCs d))
  | .spec =>
    if !([co 0, co 1, co 2].all inUnit) then none
    else
      let ax := fun k => (specAxis d true m.addr (k + 1) (co k).val).map Prod.fst
      some (((ax 0).map fun u => ((ax 1).map fun v => ((ax 2).map fun x =>
        (List.range (tdSize d 0)).map fun i => (specAddr d i u v x, (tdCont d).unit)).flatten).flatten).flatten)
  | .tri =>
    let j := (r.word f.a l).toNat
    if tdSize d 1 ≤ j then none else some [(triAddr d j, 48)]
  | .node =>
    let j := (r.word f.a l).toNat
    if tdSize d 0 ≤ j then none else some [(tdBase d + 64 * j, 64)]

/-- RESFB. -/
def execResfb (m : FbM) (f : EngF) : State → Out1 :=
  onceOp f.g fun r es w =>
    let g := r.i.gid
    let gr := w.group g
    let d := w.td gr.asid f.tdi.toNat
    let chk := match m.kind with
      | .tex => lightBad texOk Cause.samplerInvalid d
      | .spec => lightBad specOk Cause.samplerInvalid d
      | _ => lightBad bvhOk Cause.traceInvalidBvh d
    match chk with
    | some c => Eff.allFault w es c
    | none =>
      if w.countFull g .tx then Eff.allFault w es Cause.counterOverflow
      else
        let e : LtEnv := { g := g, d := d, sc := f.scope }
        let w := es.foldl (fun w l => match fbRanges r m f d l with
          | none => w.hintDrop gr.asid
          | some rs => (uniq ((rs.map fun x => pagesOf x.1 x.2).flatten)).foldl (fun w p =>
              let w := w.fbSet e p
              if m.req then (w.request gr.core gr.asid (p * 65536)).1 else w) w) w
        { w := (w.newOp { gid := g, cls := .tx, iaddr := r.i.pc, kind := .store, done := true
                          scope := f.scope }).1 }

end Sys2Proof.Machine
end

