-- ==== Sys2Proof/Machine/Ptp.lean ====
section
/-! DEFINITION. The PTP clock of the I/O dies: its master, its offset, and its lock (17 R424, R425). -/

namespace Sys2Proof.Machine

/-- PTP.CFG: PORT, DOMAIN, UDP; and whether the clock is enabled. -/
def W.ptpPort (w : W) : Nat := fld (w.blk .ptpCfg 0) 2 2
def W.ptpDomain (w : W) : Nat := fld (w.blk .ptpCfg 0) 8 8
def W.ptpUdp (w : W) : Bool := (w.blk .ptpCfg 0).getLsbD 1
def W.ptpEn (w : W) : Bool := (w.blk .ptpStatus 0).getLsbD 0

/-- Whether messages of a port and a domain reach the clock. -/
def W.ptpHears (w : W) (port domain : Nat) : Bool :=
  w.ptpEn && port = w.ptpPort && domain = w.ptpDomain && !w.c.mc.down.contains port

def W.setPtp (w : W) (x : Ptp) : W := { w with c.fab.ptp := x }

/-- An interval of 2^l seconds in ns. -/
def ptpIv (l : Int) : Nat :=
  if 0 ≤ l then 1000000000 * 2 ^ l.toNat else 1000000000 / 2 ^ (-l).toNat

/-- The order of the best master clock algorithm: the grandmaster's qualities, then the way to it. -/
def ptpRank (m : PtpAnn) : List Nat :=
  [m.prio1, m.clockClass, m.accuracy, m.variance, m.prio2, m.identity, m.steps, m.sender, m.receiver]

def lexLt : List Nat → List Nat → Bool
  | x :: xs, y :: ys => decide (x < y) || (x = y && lexLt xs ys)
  | [], _ :: _ => true
  | _, [] => false

/-- PTP_ANNOUNCE: the best master heard is followed. -/
def W.ptpAnnounce (w : W) (m : PtpAnn) : W :=
  if !w.ptpHears m.port m.domain || m.udp ≠ w.ptpUdp || 255 ≤ m.steps then w
  else
    let x := w.c.fab.ptp
    let take := w.setPtp { x with master := some m, lastAnn := w.ptpNow }
    match x.master with
    | none => take
    | some o =>
      if o.sender = m.sender then take
      else if lexLt (ptpRank m) (ptpRank o) then
        w.setPtp { x with master := some m, lastAnn := w.ptpNow, good := 0
                          sync := none, t12 := none, delayReq := none, pathDelay := 0 }
      else w

def execPtpAnnounce (m : PtpAnn) (s : State) : Out1 := step1 (fun w => w.ptpAnnounce m) s

/-- Whether a message comes from the master that is followed. -/
def W.ptpFrom (w : W) (port domain sender : Nat) : Bool :=
  w.ptpHears port domain && (match w.c.fab.ptp.master with
    | some m => m.sender = sender
    | none => false)

/-- An offset is known: the clock moves towards its master by an amount that the spec leaves open
(log entry 3), and gains or loses lock (17 R424). -/
def W.ptpOffset (w : W) (t1 t2 : Nat) : W :=
  let x := w.c.fab.ptp
  let ofs : Int := (t2 : Int) - t1 - x.pathDelay
  let step := Config.choice 28 w.c.mdl.fresh % (ofs.natAbs + 1)
  let count := if 0 ≤ ofs then x.count + 2 ^ 64 - step % 2 ^ 64 else x.count + step
  let good := if ofs.natAbs ≤ 100 then min 8 (x.good + 1) else 0
  let lock := x.lock || 8 ≤ good
  let w := w.bumpFresh.setPtp
    { x with ofs := ofs, count := count % 2 ^ 64, good := good, lock := lock, t12 := some (t1, t2) }
  let w := if lock && !x.lock then { w with c.slu.lossTold := false } else w
  if lock && 1000 < ofs.natAbs then w.ptpUnlock else w

/-- PTP_SYNC: of a one-step master the origin time comes with it, of a two-step one it follows. An
interval without a Sync breaks the run of intervals that leads to lock. -/
def W.ptpSync (w : W) (port domain sender : Nat) (twoStep : Bool) (seq origin : Nat) (li : Int) : W :=
  if !w.ptpFrom port domain sender || li < -7 || 0 < li then w
  else
    let x := w.c.fab.ptp
    let now := w.ptpNow
    let good := if x.lastSync + 2 * ptpIv li ≤ now then 0 else x.good
    let w := w.setPtp { x with good := good, lastSync := now
                               sync := if twoStep then some (seq, now) else none }
    if twoStep then w else w.ptpOffset origin now

def execPtpSync (port domain sender : Nat) (twoStep : Bool) (seq : Nat) (origin : Nat)
    (logInterval : Int) (s : State) : Out1 :=
  step1 (fun w => w.ptpSync port domain sender twoStep seq origin logInterval) s

/-- PTP_FOLLOW_UP: the precise origin time of the Sync of the same number. -/
def execPtpFollowUp (port domain sender seq origin : Nat) (s : State) : Out1 :=
  step1 (fun w => match w.c.fab.ptp.sync with
    | some (k, t2) =>
      if w.ptpFrom port domain sender && k = seq then
        (w.setPtp { w.c.fab.ptp with sync := none }).ptpOffset origin t2
      else w
    | none => w) s

/-- PTP_DELAY_REQ: at the interval that the master's last Delay_Resp gave. -/
def execPtpDelayReq (s : State) : Out1 :=
  step1 (fun w =>
    let x := w.c.fab.ptp
    let due := match x.delayReq with
      | none => true
      | some (_, t3) => t3 + ptpIv x.delayIv ≤ w.ptpNow
    if !w.ptpEn || x.t12.isNone || x.master.isNone || !due then w
    else
      let w := w.setPtp { x with delayReq := some (x.delaySeq, w.ptpNow)
                                 delaySeq := (x.delaySeq + 1) % 65536 }
      { w with c.fab.outbox := w.c.fab.outbox ++ [.delayReq x.delaySeq] }) s

/-- PTP_DELAY_RESP: the path delay from the four times, and the interval of the next requests, one
second where the message gives none between −7 and 5. -/
def execPtpDelayResp (port domain sender seq received : Nat) (logInterval : Int) (s : State) : Out1 :=
  step1 (fun w =>
    let x := w.c.fab.ptp
    match x.delayReq, x.t12 with
    | some (k, t3), some (t1, t2) =>
      if w.ptpFrom port domain sender && k = seq then
        let d : Int := (((t2 : Int) - t1) + ((received : Int) - t3)) / 2
        w.setPtp { x with pathDelay := d
                          delayIv := if -7 ≤ logInterval && logInterval ≤ 5 then logInterval else 0 }
      else w
    | _, _ => w) s

/-- PTP_SYNC_TIMEOUT: no Sync for 2 s. -/
def execPtpSyncTimeout (s : State) : Out1 :=
  step1 (fun w =>
    let x := w.c.fab.ptp
    if x.lastSync + 2000000000 ≤ w.ptpNow then (w.setPtp { x with good := 0 }).ptpUnlock else w) s

/-- PTP_ANNOUNCE_TIMEOUT: no Announce for three of its intervals. -/
def execPtpAnnounceTimeout (s : State) : Out1 :=
  step1 (fun w =>
    let x := w.c.fab.ptp
    match x.master with
    | some m =>
      if x.lastAnn + 3 * ptpIv m.logInterval ≤ w.ptpNow then
        w.setPtp { x with master := none, good := 0, sync := none, t12 := none, delayReq := none }
      else w
    | none => w) s

end Sys2Proof.Machine
end

