-- ==== Sys2Proof/Machine/Rdma.lean ====
section
/-! DEFINITION. The host's RDMA: queue pairs, host windows, and the boot staging area (04 R96–R98, R104,
19 R461). -/

namespace Sys2Proof.Machine

/-! ## Queue pairs (04 R98) -/

/-- Whether a queue pair is in service. -/
def W.qpReady (w : W) (port qp : Nat) : Bool :=
  aget w.c.slu.qps (port, qp) = some .ready && !w.c.mc.down.contains port

/-- QUEUE_PAIR_CREATE: up to 1,024 on a port; one in the error state is created again. -/
def execQueuePairCreate (port qp : Nat) (s : State) : Out1 :=
  step1 (fun w =>
    let n := (w.c.slu.qps.filter fun e => e.1.1 = port).length
    if 4 ≤ port || w.c.mc.down.contains port
      || ((aget w.c.slu.qps (port, qp)).isNone && 1024 ≤ n) then w
    else { w with c.slu.qps := aset w.c.slu.qps (port, qp) .ready }) s

def execQueuePairDestroy (port qp : Nat) (s : State) : Out1 :=
  step1 (fun w => { w with c.slu.qps := adel w.c.slu.qps (port, qp) }) s

/-- An answer leaves for the host. -/
def W.tell (w : W) (x : Out) : W := { w with c.fab.outbox := w.c.fab.outbox ++ [x] }

/-- The queue pair enters the error state. -/
def W.qpFail (w : W) (port qp : Nat) : W :=
  if (aget w.c.slu.qps (port, qp)).isNone then w
  else { w with c.slu.qps := aset w.c.slu.qps (port, qp) .error }

/-- A request is refused with a NAK for a remote access error, or for an operational one. -/
def W.rdmaNak (w : W) (port qp : Nat) (operational : Bool) : W :=
  (w.qpFail port qp).tell (.rdmaNak port qp operational)

/-- RDMA_INVALID_REQUEST: any other operation or transport. -/
def execRdmaInvalid (port qp : Nat) (s : State) : Out1 :=
  step1 (fun w => (w.qpFail port qp).tell (.rdmaNakInv port qp)) s

/-! ## Host windows (04 R97, R98) -/

/-- A window's registers. -/
structure Hwin where
  base : Nat
  len : Nat
  asid : Nat
  ctl : Dword
  deriving DecidableEq, Repr

def Hwin.evt (h : Hwin) : Bool := h.ctl.getLsbD 5
def Hwin.at_ (h : Hwin) : Bool := h.ctl.getLsbD 4
def Hwin.wr (h : Hwin) : Bool := h.ctl.getLsbD 3
def Hwin.rd (h : Hwin) : Bool := h.ctl.getLsbD 2
def Hwin.phys (h : Hwin) : Bool := h.ctl.getLsbD 1

/-- The enabled window that an R_Key selects for a port, of which every byte of the request is part
(steps 1 and 2). -/
def W.hwin (w : W) (port rkey addr len : Nat) : Option Hwin :=
  let n := (List.range 256).find? fun n =>
    let c := w.blk .hwinCtl n
    c.getLsbD 0 && fld c 32 32 = rkey && c.getLsbD (12 + port)
  match n with
  | none => none
  | some n =>
    let c := w.blk .hwinCtl n
    let h : Hwin :=
      { base := fld (w.blk .hwinBase n) 12 44 * 4096, len := (w.blk .hwinLen n).toNat
        asid := fld c 16 16, ctl := c }
    if h.base ≤ addr && addr + len ≤ h.base + h.len then some h else none

/-- The bytes of a window, read at the memory-side cache (steps 4 and 5). -/
def W.hwinRead (w : W) (h : Hwin) (addr n : Nat) : W × MRes (List Byte) :=
  if h.phys then w.phys 0 addr n
  else if (aget w.c.sys.ctxs h.asid).isNone then (w, .bad Cause.translationTableError addr)
  else w.read3 h.asid addr n false

/-- Bytes written through a window: all of them or none. -/
def W.hwinWrite (w : W) (h : Hwin) (addr : Nat) (bs : List Byte) : W × MRes Unit :=
  if h.phys then (w.put3 h.asid 0 addr bs, .ok ())
  else if (aget w.c.sys.ctxs h.asid).isNone then (w, .bad Cause.translationTableError addr)
  else w.write3va h.asid addr bs false

/-- Whether a window's page may be written (step 4): an atomic needs it whatever it writes. -/
def W.hwinMay (w : W) (h : Hwin) (addr n : Nat) : W × MRes Unit :=
  if h.phys then (w, .ok ())
  else if (aget w.c.sys.ctxs h.asid).isNone then (w, .bad Cause.translationTableError addr)
  else w.check3 h.asid addr n false

/-- Whether the cause of a read is a poisoned sector. -/
def poisoned (c : Nat) : Bool :=
  c = Cause.memPoison || c = Cause.memUncorrectable || c = Cause.cxlTierError

/-- RDMA_READ through a window. -/
def W.rdmaRead (w : W) (port qp rkey addr len : Nat) : W :=
  match w.hwin port rkey addr len with
  | none => w.rdmaNak port qp false
  | some h =>
    if !h.rd then w.rdmaNak port qp false
    else match w.hwinRead h addr len with
      | (w, .ok bs) => w.tell (.rdmaAck port qp bs)
      | (w, .nonres _) => w.rdmaNak port qp false
      | (w, .bad c _) => w.rdmaNak port qp (poisoned c)

/-- RDMA_WRITE through a window. -/
def W.rdmaWrite (w : W) (port qp rkey addr : Nat) (data : List Byte) : W :=
  match w.hwin port rkey addr data.length with
  | none => w.rdmaNak port qp false
  | some h =>
    if !h.wr then w.rdmaNak port qp false
    else match w.hwinWrite h addr data with
      | (w, .ok ()) => w.tell (.rdmaAck port qp [])
      | (w, _) => w.rdmaNak port qp false

/-- An 8-byte atomic through a window: one single-copy atomic step. -/
def W.rdmaAtomic (w : W) (port qp rkey addr : Nat) (step : Hwin → Dword → Option Dword) : W :=
  match w.hwin port rkey addr 8 with
  | none => w.rdmaNak port qp false
  | some h =>
    if !h.at_ || addr % 8 ≠ 0 then w.rdmaNak port qp false
    else match w.hwinMay h addr 8 with
      | (w, .ok ()) =>
        match w.hwinRead h addr 8 with
        | (w, .nonres _) => w.rdmaNak port qp false
        | (w, .bad c _) => w.rdmaNak port qp (poisoned c)
        | (w, .ok bs) =>
          match step h (evOf bs) with
          | none => w.tell (.rdmaAck port qp bs)
          | some x => match w.hwinWrite h addr (evBytes x) with
            | (w, .ok ()) => w.eventsMoved.tell (.rdmaAck port qp bs)
            | (w, _) => w.rdmaNak port qp false
      | (w, _) => w.rdmaNak port qp false

/-- What a compare-and-swap and a fetch-and-add write. -/
def rdmaCasStep (cmp swp : Dword) (_ : Hwin) (old : Dword) : Option Dword :=
  if old = cmp then some swp else none
def rdmaFaaStep (add : Dword) (h : Hwin) (old : Dword) : Option Dword :=
  some (if h.evt then evAdd old add else old + add)

/-! ## The staging area (19 R461) -/

def stagingBytes : Nat := 0x2000000

/-- Whether a write of the staging region is accepted: the area and the word that starts verification,
while the Miller waits for an image. -/
def stagingWritable (b : Boot) (addr len : Nat) : Bool :=
  b.status ≠ 1 && b.status ≠ 2 &&
    (addr + len ≤ stagingBytes || (stagingBytes + 4 ≤ addr && addr + len ≤ stagingBytes + 8))

def putAll (m : Memory) (a : Nat) : List Byte → Memory
  | [] => m
  | b :: bs => putAll (Memory.put m a b) (a + 1) bs

/-- A byte of the region: the area, the status word, the start word and the RKEY word. -/
def stagingByte (b : Boot) (a : Nat) : Byte :=
  if stagingBytes ≤ a && a < stagingBytes + 4 then
    BitVec.ofNat 8 (b.status / 256 ^ (a - stagingBytes))
  else Memory.get b.staging a

/-- RDMA_WRITE: region key 1 is the staging area, every other key selects a window. -/
def execRdmaWrite (port qp rkey addr : Nat) (data : List Byte) (s : State) : Out1 :=
  if !s.toW.qpReady port qp then .next s
  else if rkey ≠ 1 then step1 (fun w => w.rdmaWrite port qp rkey addr data) s
  else if stagingWritable s.boot addr data.length then
    let t := s.act fun w => w.tell (.rdmaAck port qp [])
    .next { t with boot.staging := putAll s.boot.staging addr data }
  else step1 (fun w => w.rdmaNak port qp false) s

/-- RDMA_READ. -/
def execRdmaRead (port qp rkey addr len : Nat) (s : State) : Out1 :=
  if !s.toW.qpReady port qp then .next s
  else if rkey ≠ 1 then step1 (fun w => w.rdmaRead port qp rkey addr len) s
  else step1 (fun w =>
    if addr + len ≤ stagingBytes + 12 then
      w.tell (.rdmaAck port qp ((List.range len).map fun i => stagingByte w.boot (addr + i)))
    else w.rdmaNak port qp false) s

/-- RDMA_COMPARE_AND_SWAP and RDMA_FETCH_AND_ADD; the staging area takes no atomics. -/
def execRdmaCas (port qp rkey addr : Nat) (cmp swp : Dword) (s : State) : Out1 :=
  step1 (fun w =>
    if !w.qpReady port qp then w
    else if rkey = 1 then w.rdmaNak port qp false
    else w.rdmaAtomic port qp rkey addr (rdmaCasStep cmp swp)) s
def execRdmaFaa (port qp rkey addr : Nat) (addend : Dword) (s : State) : Out1 :=
  step1 (fun w =>
    if !w.qpReady port qp then w
    else if rkey = 1 then w.rdmaNak port qp false
    else w.rdmaAtomic port qp rkey addr (rdmaFaaStep addend)) s

end Sys2Proof.Machine
end

