-- ==== Sys2Proof/Machine/Sha.lean ====
section
/-! DEFINITION. SHA-512 and the ECDSA check on P-521, by which the Miller checks a pushed image (19 R461,
R462). The spec names both functions; they are written from their standards (FIPS 180-4, FIPS 186-4). -/

namespace Sys2Proof.Machine

/-! ## SHA-512 -/

def shaK0 : List Dword :=
  [0x428A2F98D728AE22, 0x7137449123EF65CD, 0xB5C0FBCFEC4D3B2F, 0xE9B5DBA58189DBBC,
   0x3956C25BF348B538, 0x59F111F1B605D019, 0x923F82A4AF194F9B, 0xAB1C5ED5DA6D8118,
   0xD807AA98A3030242, 0x12835B0145706FBE, 0x243185BE4EE4B28C, 0x550C7DC3D5FFB4E2,
   0x72BE5D74F27B896F, 0x80DEB1FE3B1696B1, 0x9BDC06A725C71235, 0xC19BF174CF692694,
   0xE49B69C19EF14AD2, 0xEFBE4786384F25E3, 0x0FC19DC68B8CD5B5, 0x240CA1CC77AC9C65]

def shaK1 : List Dword :=
  [0x2DE92C6F592B0275, 0x4A7484AA6EA6E483, 0x5CB0A9DCBD41FBD4, 0x76F988DA831153B5,
   0x983E5152EE66DFAB, 0xA831C66D2DB43210, 0xB00327C898FB213F, 0xBF597FC7BEEF0EE4,
   0xC6E00BF33DA88FC2, 0xD5A79147930AA725, 0x06CA6351E003826F, 0x142929670A0E6E70,
   0x27B70A8546D22FFC, 0x2E1B21385C26C926, 0x4D2C6DFC5AC42AED, 0x53380D139D95B3DF,
   0x650A73548BAF63DE, 0x766A0ABB3C77B2A8, 0x81C2C92E47EDAEE6, 0x92722C851482353B]

def shaK2 : List Dword :=
  [0xA2BFE8A14CF10364, 0xA81A664BBC423001, 0xC24B8B70D0F89791, 0xC76C51A30654BE30,
   0xD192E819D6EF5218, 0xD69906245565A910, 0xF40E35855771202A, 0x106AA07032BBD1B8,
   0x19A4C116B8D2D0C8, 0x1E376C085141AB53, 0x2748774CDF8EEB99, 0x34B0BCB5E19B48A8,
   0x391C0CB3C5C95A63, 0x4ED8AA4AE3418ACB, 0x5B9CCA4F7763E373, 0x682E6FF3D6B2B8A3,
   0x748F82EE5DEFB2FC, 0x78A5636F43172F60, 0x84C87814A1F0AB72, 0x8CC702081A6439EC]

def shaK3 : List Dword :=
  [0x90BEFFFA23631E28, 0xA4506CEBDE82BDE9, 0xBEF9A3F7B2C67915, 0xC67178F2E372532B,
   0xCA273ECEEA26619C, 0xD186B8C721C0C207, 0xEADA7DD6CDE0EB1E, 0xF57D4F7FEE6ED178,
   0x06F067AA72176FBA, 0x0A637DC5A2C898A6, 0x113F9804BEF90DAE, 0x1B710B35131C471B,
   0x28DB77F523047D84, 0x32CAAB7B40C72493, 0x3C9EBE0A15C9BEBC, 0x431D67C49C100D4C,
   0x4CC5D4BECB3E42B6, 0x597F299CFC657E2A, 0x5FCB6FAB3AD6FAEC, 0x6C44198C4A475817]

def shaK : List Dword := shaK0 ++ shaK1 ++ shaK2 ++ shaK3

def shaInit : List Dword :=
  [0x6A09E667F3BCC908, 0xBB67AE8584CAA73B, 0x3C6EF372FE94F82B, 0xA54FF53A5F1D36F1,
   0x510E527FADE682D1, 0x9B05688C2B3E6C1F, 0x1F83D9ABFB41BD6B, 0x5BE0CD19137E2179]

/-- Big-endian numbers of bytes. -/
def beNat (bs : List Byte) : Nat := leNat bs.reverse
def beBytes (k n : Nat) : List Byte := (leBytes k n).reverse

/-- The message with its padding, a multiple of 128 bytes. -/
def shaPad (m : List Byte) : List Byte :=
  let z := (239 - m.length % 128) % 128
  m ++ [0x80] ++ List.replicate z 0 ++ beBytes 16 (8 * m.length)

def shaS0 (x : Dword) : Dword := x.rotateRight 28 ^^^ x.rotateRight 34 ^^^ x.rotateRight 39
def shaS1 (x : Dword) : Dword := x.rotateRight 14 ^^^ x.rotateRight 18 ^^^ x.rotateRight 41
def shaT0 (x : Dword) : Dword := x.rotateRight 1 ^^^ x.rotateRight 8 ^^^ x >>> 7
def shaT1 (x : Dword) : Dword := x.rotateRight 19 ^^^ x.rotateRight 61 ^^^ x >>> 6

/-- The message schedule, newest word first. -/
def shaSchedule : Nat → List Dword → List Dword
  | 0, w => w
  | k + 1, w =>
    let at_ := fun i => w.getD i 0
    shaSchedule k ((shaT1 (at_ 1) + at_ 6 + shaT0 (at_ 14) + at_ 15) :: w)

/-- One round on the eight working words. -/
def shaRound (s : List Dword) (kw : Dword × Dword) : List Dword :=
  match s with
  | [a, b, c, d, e, f, g, h] =>
    let t1 := h + shaS1 e + ((e &&& f) ^^^ (~~~e &&& g)) + kw.1 + kw.2
    let t2 := shaS0 a + ((a &&& b) ^^^ (a &&& c) ^^^ (b &&& c))
    [t1 + t2, a, b, c, d + t1, e, f, g]
  | _ => s

def shaBlock (h : List Dword) (blk : List Byte) : List Dword :=
  let w0 := (List.range 16).map fun i => BitVec.ofNat 64 (beNat ((blk.drop (8 * i)).take 8))
  let ws := (shaSchedule 64 w0.reverse).reverse
  List.zipWith (· + ·) h ((shaK.zip ws).foldl shaRound h)

/-- SHA-512, as a number whose most significant byte is the first of the digest. -/
def sha512 (m : List Byte) : BitVec 512 :=
  let p := shaPad m
  let hs := (List.range (p.length / 128)).foldl (fun h i => shaBlock h ((p.drop (128 * i)).take 128)) shaInit
  BitVec.ofNat 512 (hs.foldl (fun n x => n * 2 ^ 64 + x.toNat) 0)

/-! ## ECDSA on P-521 -/

def p521P : Nat := 2 ^ 521 - 1
def p521N : Nat :=
  2 ^ 521 - 2 ^ 260 + 0xA51868783BF2F966B7FCC0148F709A5D03BB5C9B8899C47AEBB6FB71E91386409
def p521B : Nat :=
  0x51953EB9618E1C9A1F929A21A0B68540EEA2DA725B99B315F3B8B489918EF109 * 2 ^ 264 +
    0xE156193951EC7E937B1652C0BD3BB1BF073573DF883D2C34F1EF451FD46B503F00
def p521G : Nat × Nat :=
  (0xC6858E06B70404E9CD9E3ECB662395B4429C648139053FB521F828AF606B4D3D * 2 ^ 264 +
     0xBAA14B5E77EFE75928FE1DC127A2FFA8DE3348B3C1856A429BF97E7E31C2E5BD66,
   0x11839296A789A3BC0045C8A5FB42C7D1BD998F54449579B446817AFBD17273E66 * 2 ^ 264 +
     0x2C97EE72995EF42640C550B9013FAD0761353C7086A272C24088BE94769FD16650)

/-- Powers modulo m, over the bits of the exponent from the lowest. -/
def powBits (m : Nat) : Nat → Nat → Nat → Nat → Nat
  | 0, _, _, r => r
  | k + 1, b, e, r => powBits m k (b * b % m) (e / 2) (if e % 2 = 1 then r * b % m else r)

/-- The inverse modulo a prime of at most 521 bits. -/
def invMod (m x : Nat) : Nat := powBits m 521 (x % m) (m - 2) 1

/-- A point of the curve; none is the point at infinity. -/
abbrev Ec := Option (Nat × Nat)

def Ec.onCurve (p : Nat × Nat) : Bool :=
  p.1 < p521P && p.2 < p521P &&
    (p.2 * p.2 + 3 * p.1) % p521P = (p.1 * p.1 * p.1 + p521B) % p521P

def Ec.add (a b : Ec) : Ec :=
  match a, b with
  | none, q => q
  | q, none => q
  | some (x1, y1), some (x2, y2) =>
    let m := p521P
    let fin := fun (l : Nat) =>
      let x := (l * l + 2 * m - x1 - x2) % m
      some (x, (l * (x1 + m - x) + m - y1) % m)
    if x1 = x2 then
      if (y1 + y2) % m = 0 then none
      else fin ((3 * x1 * x1 + m - 3) % m * invMod m (2 * y1 % m) % m)
    else fin ((y2 + m - y1) % m * invMod m ((x2 + m - x1) % m) % m)

/-- Multiples of a point, over the bits of the factor from the lowest. -/
def Ec.mulBits : Nat → Nat → Ec → Ec → Ec
  | 0, _, _, r => r
  | k + 1, e, p, r => Ec.mulBits k (e / 2) (Ec.add p p) (if e % 2 = 1 then Ec.add r p else r)

/-- Whether (r, s) is a signature of a digest under a public point. -/
def ecdsaOk (q : Nat × Nat) (e : BitVec 512) (r s : Nat) : Bool :=
  let n := p521N
  if r = 0 || n ≤ r || s = 0 || n ≤ s || !Ec.onCurve q then false
  else
    let w := invMod n s
    let u1 := e.toNat * w % n
    let u2 := r * w % n
    match Ec.add (Ec.mulBits 521 u1 (some p521G) none) (Ec.mulBits 521 u2 (some q) none) with
    | none => false
    | some (x, _) => x % n = r

end Sys2Proof.Machine
end

