-- ==== Sys2Proof/Machine/Miller.lean ====
section
/-! DEFINITION. The Miller: monitors, temperatures, the lifetime record, boot, measurements, and the
host's links (18 R440, 19 R455–R463). -/

namespace Sys2Proof.Machine

/-! ## Monitors (19 R455, R456, R463) -/

/-- The bin of a sample. -/
def monBin (lo : Int) (step : Nat) (v : Int) : Nat := min 15 (max 0 ((v - lo) / 2 ^ step)).toNat

/-- LO of a monitor, signed. -/
def monLo (c : Dword) : Int := ((BitVec.ofNat 32 (fld c 15 32)).toInt : Int)

/-- MONITOR_SAMPLE; a coolant inlet above 45 °C is reported when the capture first sees it. -/
def W.monSample (w : W) (n : Nat) (v : Int) : W :=
  let c := w.blk .monCtl n
  if !c.getLsbD 0 then w
  else
    let m := (aget w.c.mc.mons n).getD {}
    let k := monBin (monLo c) (fld c 47 5) v
    let bins := (List.range 16).map fun i => m.bins.getD i 0 + if i = k then 1 else 0
    let x : Monitor :=
      { bins := bins, count := m.count + 1
        mn := if m.count = 0 then v else min m.mn v
        mx := if m.count = 0 then v else max m.mx v }
    let w := { w with c.mc.mons := aset w.c.mc.mons n x }
    if fld c 58 6 = 3 && 45000 < v && (m.count = 0 || m.mx ≤ 45000) then
      w.reportSys { cause := Cause.thermalLimit, kind := 2 }
    else w

def execMonitorSample (n : Nat) (v : Int) (s : State) : Out1 := step1 (fun w => w.monSample n v) s

/-- A 32-bit field of a signed number. -/
def intBytes (v : Int) : List Byte := leBytes 4 (v % 2 ^ 32).toNat

/-- MONITOR_CAPTURE: every 1 ms the capture is written, COUNT last. -/
def W.monCapture (w : W) (n : Nat) : W :=
  if !(w.blk .monCtl n).getLsbD 0 then w
  else
    let m := (aget w.c.mc.mons n).getD {}
    let bins := (List.range 16).flatMap fun i => leBytes 8 (m.bins.getD i 0)
    w.put3 0 0 (fld (w.blk .monBase n) 6 46 * 64)
      (bins ++ intBytes m.mn ++ intBytes m.mx ++ leBytes 8 m.count ++ List.replicate 112 0)

def execMonitorCapture (n : Nat) (s : State) : Out1 := step1 (fun w => w.monCapture n) s

/-! ## Temperatures (19 R457) -/

/-- THERMAL_LIMIT: a junction above 105 °C. -/
def execThermalLimit (die : Nat) (s : State) : Out1 :=
  step1 (fun w =>
    if w.c.mc.hot.contains die then w
    else
      let w := { w with c.mc.hot := w.c.mc.hot ++ [die] }
      w.reportSys { cause := Cause.thermalLimit, kind := 2 }) s

/-- THERMAL_RECOVERY: it reads below 100 °C. -/
def execThermalRecovery (die : Nat) (s : State) : Out1 :=
  step1 (fun w => { w with c.mc.hot := w.c.mc.hot.filter fun d => d ≠ die }) s

/-! ## Power (19 R457, R460) -/

/-- What is left without power: the lifetime record and what is fused. -/
def Boot.lost (b : Boot) : Boot :=
  { b with power := false, status := 0, staging := [], svn := 0, meas := [] }

/-- The package without power. -/
def State.dark (s : State) : State := { chip := {}, mem := [], boot := s.boot.lost }

/-- POWER_LOSS. -/
def execPowerLoss (s : State) : Out1 := .next s.dark

/-- THERMAL_TRIP: above 115 °C the Miller removes power, and the trip is counted. -/
def execThermalTrip (s : State) : Out1 :=
  .next { s.dark with boot := { s.boot.lost with trips := s.boot.trips + 1 } }

/-- POWER_ON: the Miller starts from ROM and waits for an image on the first port that trains. -/
def execPowerOn (port : Nat) (s : State) : Out1 :=
  if s.boot.power then .next s
  else .next { s.dark with chip.mc.up := [port % 4], boot := { s.boot.lost with power := true } }

/-! ## The lifetime record (19 R458) -/

/-- The record as it is copied into memory: its form is the part's (log entry 3). -/
def lifeBytes (fresh : Nat) : List Byte :=
  (List.range (Config.choice 27 0 % 32769)).map fun i => BitVec.ofNat 8 (Config.freeWord fresh i).toNat

/-- The record is copied to MILLER.LIFEPA. -/
def W.lifeCopy (w : W) : W :=
  (w.put3 0 0 (fld (w.blk .lifepa 0) 12 40 * 4096) (lifeBytes w.c.mdl.fresh)).bumpFresh

/-- LIFETIME_RECORD_WRITE: every 60 s, with the hours and the energy counted so far. -/
def execLifetimeRecordWrite (hours kwh : Nat) (s : State) : Out1 :=
  let n := s.chip.mdl.fresh
  .next { s.act W.lifeCopy with
    boot := { s.boot with
      hours := hours, kwh := kwh, lifeSeq := s.boot.lifeSeq + 1
      hist := (List.range 10).map fun d => Config.choice 29 (32 * n + d)
      corr := (List.range 16).map fun d => Config.choice 29 (32 * n + 10 + d) } }

/-! ## Boot (19 R459, R461, 01 R20, R21) -/

/-- Units: 0 cores, 1 L2 home slices, 2 Ethernet ports, 3 CXL ports, 4 UALink lanes, 5 pseudo-channels,
6 HBM stks. -/
def unitsLeft (ex : List (Nat × Nat)) (kind n : Nat) : List Nat :=
  (List.range n).filter fun i => !ex.contains (kind, i)

/-- SR.CONFIG of a part without the units excluded (01 R20). -/
def configOf (ex : List (Nat × Nat)) : Dword :=
  let cores := unitsLeft ex 0 1152
  let stks := unitsLeft ex 6 16
  let lanes := unitsLeft ex 4 72
  let chans := (unitsLeft ex 5 1024).filter fun c => stks.contains (c / 64)
  BitVec.ofNat 64
    ((unitsLeft ex 1 384).length * 2 ^ 51 + (unitsLeft ex 2 4).length * 2 ^ 48
      + (unitsLeft ex 3 16).length * 2 ^ 43 + lanes.length * 2 ^ 36
      + (uniq (lanes.map fun l => l / 4)).length * 2 ^ 31 + chans.length * 2 ^ 20
      + stks.length * 2 ^ 15 + (uniq (cores.map fun c => c / 144)).length * 2 ^ 11 + cores.length)

/-- The bytes of the staging area. -/
def Boot.area (b : Boot) (o n : Nat) : List Byte :=
  (List.range n).map fun i => Memory.get b.staging (o + i)

/-- The boot status that verification ends with (19 R461). -/
def Boot.verify (b : Boot) : Nat :=
  let size := leNat (b.area 8 8)
  let svn := leNat (b.area 4 4)
  let pub := b.area 16 133
  let zero := fun (o n : Nat) => (b.area o n).all fun x => x = 0
  if leNat (b.area 0 4) ≠ 0x5746434F || 33553920 < size || !zero 149 3 || !zero 284 228 then 3
  else if sha512 pub ≠ b.keyHash then 4
  else if svn < b.minSvn then 5
  else
    let q := (beNat ((pub.drop 1).take 66), beNat (pub.drop 67))
    let msg := b.area 0 152 ++ b.area 512 size
    if pub.headD 0 = 4 && ecdsaOk q (sha512 msg) (leNat (b.area 152 66)) (leNat (b.area 218 66)) then 2
    else 6

/-- The firmware runs: window 0 covers the physical address space (04 R97). -/
def W.firmwareUp (w : W) (rkey : Nat) : W :=
  let w := (w.setBlk .hwinBase 0 0).setBlk .hwinLen 0 (BitVec.ofNat 64 (2 ^ 52))
  let w := w.setBlk .hwinCtl 0
    (BitVec.ofNat 64 (rkey % 2 ^ 32 * 2 ^ 32 + 15 * 2 ^ 12 + 2 ^ 4 + 2 ^ 3 + 2 ^ 2 + 2 + 1))
  w.lifeCopy

/-- IMAGE_PUSH: the host has written 1 to the start word; the image is verified, and a sound one runs,
without the units that fail its boot test. -/
def execImagePush (failedUnits : List (Nat × Nat)) (s : State) : Out1 :=
  let b := s.boot
  if b.status = 2 || leNat (b.area (stagingBytes + 4) 4) ≠ 1 then .next s
  else
    let st := b.verify
    let clear := putAll b.staging (stagingBytes + 4) [0, 0, 0, 0]
    if st ≠ 2 then .next { s with boot.status := st, boot.staging := clear }
    else
      let ex := uniq (b.excluded ++ failedUnits)
      let rkey := Config.choice 25 b.boots
      let size := leNat (b.area 8 8)
      .next { s.act (fun w => w.firmwareUp rkey) with
        boot := { b with
          status := 2
          staging := putAll clear (stagingBytes + 8) (leBytes 4 rkey)
          svn := leNat (b.area 4 4)
          meas := [sha512 (b.area 0 (512 + size)), 0, 0, 0]
          boots := b.boots + 1
          excluded := ex
          config := configOf ex } }

/-- FIRMWARE_ERROR: a failure of the firmware after its start. -/
def execFirmwareError (info : Dword) (s : State) : Out1 :=
  if s.boot.status ≠ 2 then .next s
  else step1 (fun w => w.reportSys { cause := Cause.firmwareError, kind := 2, addr := info.toNat }) s

/-! ## Measurements (19 R462) -/

/-- MEASUREMENT_EXTEND: MEAS1 to MEAS3. -/
def execMeasurementExtend (n : Nat) (data : List Byte) (s : State) : Out1 :=
  let b := s.boot
  if b.status ≠ 2 || n = 0 || 3 < n then .next s
  else
    let old := b.meas.getD n 0
    let new := sha512 (beBytes 64 old.toNat ++ data)
    .next { s with boot.meas := (List.range 4).map fun i => if i = n then new else b.meas.getD i 0 }

/-- ATTESTATION_REQUEST: the device key is a secret, so its signature is a free value (log entry 3). -/
def execAttestationRequest (nonce : List Byte) (s : State) : Out1 :=
  let b := s.boot
  if nonce.length ≠ 32 then .next s
  else
    let meas := (List.range 4).map fun i => b.meas.getD i 0
    let text := nonce ++ (meas.flatMap fun m => beBytes 64 m.toNat) ++ leBytes 4 b.svn
      ++ leBytes 8 b.config.toNat ++ leBytes 8 b.serial
    let h := (sha512 text).toNat
    step1 (fun w => w.tell
      (.attest nonce meas b.svn b.config b.serial (Config.choice 30 h) (Config.choice 31 h))) s

/-! ## The host's links (18 R440) -/

/-- HOST_LINK_DOWN: a port that has trained loses its link. -/
def W.linkDown (w : W) (port : Nat) : W :=
  if !w.c.mc.up.contains port then w
  else
    let up := w.c.mc.up.filter fun p => p ≠ port
    let w := { w with
      c.mc.up := up
      c.mc.down := w.c.mc.down ++ [port]
      c.slu.qps := w.c.slu.qps.map fun (e : (Nat × Nat) × QpSt) => (e.1, if e.1.1 = port then .error else e.2) }
    let w := w.reportSys { cause := Cause.hostLinkDown, kind := 2
                           detail := port % 4 + if up.isEmpty then 32768 else 0 }
    if w.ptpPort = port then w.ptpUnlock else w

def execHostLinkDown (port : Nat) (s : State) : Out1 := step1 (fun w => w.linkDown port) s

/-- HOST_LINK_RETRAINED: a port trains, for the first time or again. -/
def W.linkUp (w : W) (port : Nat) : W :=
  if 4 ≤ port || w.c.mc.up.contains port then w
  else
    let was := w.c.mc.down.contains port
    let w := { w with c.mc.up := w.c.mc.up ++ [port]
                      c.mc.down := w.c.mc.down.filter fun p => p ≠ port }
    if was then w.reportSys { cause := Cause.hostLinkDown, kind := 2, detail := port % 4 + 256 } else w

def execHostLinkRetrained (port : Nat) (s : State) : Out1 := step1 (fun w => w.linkUp port) s

end Sys2Proof.Machine
end

