-- ==== Sys2Proof/Machine/Proxy.lean ====
section
/-! DEFINITION. Proxy queues across packages: the ring at its owner, the forwarding buffers of push ends,
PXPUSH (17 R414–R417). -/

namespace Sys2Proof.Machine

/-- How an arrival at a proxy queue ends (17 R416). -/
inductive PxArr where
  | taken
  | refused
  | drop (cause : Nat)
  deriving DecidableEq, Repr

/-- Elements are appended to a ring in the memory of its owner, all or none of them. -/
def W.pxAppend (w : W) (n job : Nat) (xs : List Word) : W × PxArr :=
  let c := w.blk .pxqCtl n
  let (base, lg, a) := w.pxRing n
  let tail := fld (w.blk .pxqPtr n) 32 32
  let at_ := fun i => base + 4 * ((tail + i) % 2 ^ lg)
  if !c.getLsbD 0 || c.getLsbD 3 then (w, .drop Cause.queueOverrun)
  else if (aget w.c.sys.ctxs a).isNone || !w.podEn a || w.podJob a ≠ job then
    (w, .drop Cause.fabricProtection)
  else if 2 ^ lg < w.pxCount n + xs.length then (w, .refused)
  else
    let (w, bad) := (List.range xs.length).foldl (fun (r : W × Option PxArr) i =>
      match r with
      | (w, some x) => (w, some x)
      | (w, none) => match w.check3 a (at_ i) 4 true with
        | (w, .ok ()) => (w, none)
        | (w, .nonres v) => ((w.request 0xFFFF a v).1, some .refused)
        | (w, .bad c _) => (w, some (.drop c))) (w, none)
    match bad with
    | some x => (w, x)
    | none =>
      let w := xs.zipIdx.foldl (fun w e => (w.write3va a (at_ e.2) (leBytes 4 e.1.toNat) true).1) w
      (w.setBlk .pxqPtr n (setFld (w.blk .pxqPtr n) 32 32 (tail + xs.length)), .taken)

/-- A close mark arrives. -/
def W.pxClose (w : W) (n : Nat) : W := w.setBlk .pxqCtl n (setFld (w.blk .pxqCtl n) 3 1 1)

/-- The binding of a forwarding buffer takes an error, unless the register was bound anew. -/
def W.bufErr (w : W) (id : Nat) (f : FwdBuf) (cause : Nat) : W :=
  let b := w.bind f.gid f.q
  if b.kind = .pxpush && b.buf = id then w.setBind f.gid f.q { b with err := cause } else w

def W.setBuf (w : W) (id : Nat) (f : FwdBuf) : W :=
  { w with c.fab.bufs := aset w.c.fab.bufs id f }

/-- The operation of a run ends. -/
def W.runEnd (w : W) (op : Nat) (fault : Option Nat) : W :=
  w.modOp op fun x => { x with done := true, fault := fault.map fun c => (c, 0) }

/-- The elements of a run, which its operation holds. -/
def W.runElems (w : W) (op : Nat) : List Word :=
  match aget w.c.eng.ops op with
  | some o => match o.kind with
    | .pxpush _ _ xs => xs
    | _ => []
  | none => []

/-- A message or run leaves for another package. -/
def W.bufOut (w : W) (f : FwdBuf) : FwdItem → W
  | .elem x => w.send f.pkg (.elem f.pkg f.n f.job x)
  | .close => w.send f.pkg (.closeMark f.pkg f.n f.job)
  | .run op =>
    let id := w.c.fab.nextReq
    let req := { noReq .store with src := w.pkg, dst := f.pkg, job := f.job, id := id }
    let o : RemOut :=
      { req := req, gid := f.gid, asid := f.asid, lane := 0, op := op, pend := none, rp := none
        dst := 0, ext := .b32, scope := .pod, tok := none, sent := some w.ac, iaddr := 0 }
    let w := { w with c.fab.nextReq := id + 1, c.fab.outs := aset w.c.fab.outs id o }
    w.send f.pkg (.run f.pkg f.n f.job id (w.runElems op))

/-- The head of a forwarding buffer is sent: to a ring of the own package, where it may be refused, or
to another package. -/
def W.bufSend (w : W) (id : Nat) : W :=
  match aget w.c.fab.bufs id with
  | none => w
  | some f => match f.items with
    | [] => w
    | x :: rest =>
      let popped := { f with items := rest, refusedAt := none }
      if f.pkg ≠ w.pkg then if w.pkgValid then (w.setBuf id popped).bufOut f x else w
      else
        let refused := fun (w : W) => w.setBuf id { f with refusedAt := some (f.refusedAt.getD w.ac) }
        match x with
        | .close => (w.setBuf id popped).pxClose f.n
        | .elem v => match w.pxAppend f.n f.job [v] with
          | (w, .taken) => w.setBuf id popped
          | (w, .refused) => refused w
          | (w, .drop c) => (w.setBuf id popped).bufErr id f c
        | .run op =>
          let xs := w.runElems op
          if 2 ^ (w.pxRing f.n).2.1 < xs.length then
            (w.setBuf id popped).runEnd op (some Cause.proxyQueueOverflow)
          else match w.pxAppend f.n f.job xs with
            | (w, .taken) => (w.setBuf id popped).runEnd op none
            | (w, .refused) => refused w
            | (w, .drop c) =>
              ((w.setBuf id popped).bufErr id f c).runEnd op
                (some (if c = Cause.queueOverrun then Cause.proxyQueueOverflow else c))

/-- FORWARDING_BUFFER_SEND. -/
def execForwardingBufferSend (buf : Nat) (s : State) : Out1 := step1 (fun w => w.bufSend buf) s

/-- PROXY_ELEMENT_ARRIVAL: an element from another package. -/
def execProxyElementArrival (n src job : Nat) (x : Word) (s : State) : Out1 :=
  step1 (fun w => match w.pxAppend n job [x] with
    | (w, .refused) => { w with c.fab.outbox := w.c.fab.outbox ++ [.refused src n] }
    | (w, _) => w) s

/-- PROXY_REFUSE_EXPIRY: an element refused for EXP µs is discarded with the rest of its buffer
(17 R416). -/
def execProxyRefuseExpiry (buf : Nat) (s : State) : Out1 :=
  step1 (fun w => match aget w.c.fab.bufs buf with
    | none => w
    | some f => match f.refusedAt with
      | none => w
      | some t =>
        if w.ac < t + w.expAc then w
        else
          let w := f.items.foldl (fun w x => match x with
            | .run op => w.runEnd op (some Cause.proxyQueueOverflow)
            | _ => w) w
          let w := (w.setBuf buf { f with items := [], refusedAt := none }).bufErr buf f
            Cause.proxyQueueOverflow
          if f.pkg = w.pkg then w.reportCtx (w.pxRing f.n).2.2 Cause.proxyQueueOverflow 2 0 else w) s

/-- CLOSE_MARK_ARRIVAL. -/
def execCloseMarkArrival (n : Nat) (s : State) : Out1 := step1 (fun w => w.pxClose n) s

/-- PXPUSH: the elements are read as an engine reads, and follow the earlier pushes of the group
(17 R417). -/
def execPxpush (m : Fin 16) (f : EngF) : State → Out1 :=
  onceOp f.g fun r es w0 =>
    let g := r.i.gid
    let b := w0.bind g m.val
    let a := (r.pair f.a 0).toNat
    let n := (r.word f.b 0).toNat
    if b.kind ≠ .pxpush then Eff.allFault w0 es Cause.queueUnbound
    else if a % 4 ≠ 0 then Eff.allFault w0 es Cause.illegalOperand a
    else if n < 1 || 2048 < n then Eff.allFault w0 es Cause.illegalOperand
    else if w0.countFull g .co then Eff.allFault w0 es Cause.counterOverflow
    else
      let w := w0.drainAll g
      let w := if f.ord = .rel then w.releaseAt g f.scope else w
      let x : AccCtx :=
        { g := g, pc := r.i.pc, scope := f.scope, ord := .rlx, rp := true, again := true }
      let (w, res) := (List.range n).foldl (fun (q : W × Except LaneAcc (List Word)) k =>
        match q with
        | (w, .error e) => (w, .error e)
        | (w, .ok xs) => match w.target g f.space 0 (a + 4 * k) 4 false with
          | .error (c, v) => (w, .error (.bad c v))
          | .ok t => match w.laneRead x t 4 with
            | (w, .ok bs false) => (w, .ok (xs ++ [BitVec.ofNat 32 (leNat bs)]))
            | (w, e) => (w, .error e)) (w, .ok [])
      let opOf := fun (pkg : Nat) (xs : List Word) =>
        ({ gid := g, cls := .co, iaddr := r.i.pc, kind := .pxpush b.n pkg xs, scope := .pod } : Op)
      match res with
      | .error (.wait k) => { w := w0, park := some k }
      | .error (.bad c v) =>
        let (w, id) := w.newOp (opOf 0 [])
        { w := w.modOp id fun o => { o with done := true, fault := some (c, v) } }
      | .error (.ok _ _) =>
        let (w, id) := w.newOp (opOf 0 [])
        { w := w.modOp id fun o => { o with done := true, fault := some (Cause.pageNotPresent, a) } }
      | .ok xs => match aget w.c.fab.bufs b.buf with
        | none => Eff.allFault w0 es Cause.queueUnbound
        | some q =>
          let (w, id) := w.newOp (opOf q.pkg xs)
          if b.err ≠ 0 then { w := w.runEnd id (some b.err) }
          else { w := w.setBuf b.buf { q with items := q.items ++ [.run id] } }

end Sys2Proof.Machine
end

