-- ==== Sys2Proof/Machine/Queues.lean ====
section
/-! DEFINITION. Hardware queues: bindings, closing and status, and the streams that the Flumes run
(12 R317–R326, 17 R415). -/

namespace Sys2Proof.Machine

/-! ## QBIND (12 R317, R318, 17 R415) -/

/-- The hardware queues that the teams of a core have claimed: team and name. -/
def W.claimed (w : W) (c : Nat) : List (Nat × Nat) :=
  (w.c.eng.hq.map Prod.fst).filter fun k => (w.team k.1).core = c && (w.team k.1).st ≠ .saved

/-- A team's queue, claimed when it is first named; none when no physical queue is free. -/
def W.claim (w : W) (t h : Nat) : Option W :=
  if (aget w.c.eng.hq (t, h)).isSome then some w
  else if (w.claimed (w.team t).core).length < 16 then some (w.setHq t h {})
  else none

/-- A rebinding wakes the records of the group that wait on the register. -/
def W.rebound (w : W) (g q : Nat) : W :=
  (w.groupFrags g).foldl (fun w f => match (w.frag f).wake with
    | .queue _ n => if n = q && w.waits f then w.wake f else w
    | _ => w) w

/-- The binding of a hardware queue. -/
def W.bindHq (w : W) (m : QbindM) (f : EngF) (g : Nat) : Except Nat W :=
  let t := (w.group g).team
  let e := f.eimm.toNat
  let h := e % 16
  match w.claim t h with
  | none => .error Cause.queueUnbound
  | some w =>
    let q := w.hq t h
    if e.testBit 4 && !q.streams.isEmpty then .error Cause.queueOverrun
    else
      let w := if e.testBit 4 then
          w.setHq t h { q with elems := [], closed := false, closepend := false, err := 0 }
        else w
      .ok (w.setBind g m.q.val
        { kind := m.kind, n := h, u := m.u,
          endp := if m.kind = .pop && f.x.getLsbD 3 then some (f.x.toNat % 8) else none })

/-- The binding of a push end of a proxy queue, with its forwarding buffer. -/
def W.bindPush (w : W) (m : QbindM) (f : EngF) (g : Nat) : Except Nat W :=
  let a := (w.group g).asid
  let e := f.eimm.toNat
  let x := bits e 22 10
  match w.remCheck a x [] false with
  | some c => .error c
  | none =>
    let id := w.c.fab.nextBuf
    let b : FwdBuf := { gid := g, q := m.q.val, asid := a, job := w.podJob a, pkg := x, n := e % 256 }
    let w := { w with c.fab.nextBuf := id + 1, c.fab.bufs := aset w.c.fab.bufs id b }
    .ok (w.setBind g m.q.val { kind := .pxpush, n := e % 256, u := m.u, buf := id })

/-- Whether a context owns an enabled proxy queue (17 R415). -/
def W.pxOwned (w : W) (n a : Nat) : Bool :=
  let c := w.blk .pxqCtl n
  c.getLsbD 0 && fld c 48 16 = a

/-- QBIND. -/
def execQbind (m : QbindM) (f : EngF) : State → Out1 :=
  onceOp f.g fun r es w =>
    let g := r.i.gid
    let q := m.q.val
    let res : Except Nat W := match m.kind with
      | .none => .ok (w.setBind g q {})
      | .pop | .push => w.bindHq m f g
      | .task =>
        let entry := (r.pair f.a 0).toNat
        if entryValid entry && tflagsOk f.eimm.toNat && bits f.eimm.toNat 16 8 = 0 then
          .ok (w.setBind g q { kind := .task, u := m.u, entry := entry, tflags := f.eimm.toNat })
        else .error Cause.taskRecordInvalid
      | .pxpush => w.bindPush m f g
      | .pxpop =>
        let n := f.eimm.toNat % 256
        if w.pxOwned n (w.group g).asid then
          .ok (w.setBind g q { kind := .pxpop, n := n, u := m.u,
                               endp := if f.x.getLsbD 3 then some (f.x.toNat % 8) else none })
        else .error Cause.queueUnbound
    match res with
    | .error c => Eff.allFault w es c
    | .ok w => { w := w.rebound g q }

/-! ## SCLOSE, QSTAT (12 R324, R325) -/

/-- CLOSEPEND becomes CLOSED once the list holds no load stream. -/
def closeIf (q : HwQueue) : HwQueue :=
  if q.closepend && q.streams.all fun s => s.store then { q with closepend := false, closed := true }
  else q

/-- SCLOSE. -/
def execSclose (m : Fin 16) (f : Alu) : State → Out1 :=
  onceOp f.g fun r es w =>
    let g := r.i.gid
    let b := w.bind g m.val
    match b.kind with
    | .pop | .push =>
      let t := (w.group g).team
      let q := w.hq t b.n
      { w := if q.closed then w else w.setHq t b.n (closeIf { q with closepend := true }) }
    | .pxpush => match aget w.c.fab.bufs b.buf with
      | some x =>
        { w := { w with c.fab.bufs := aset w.c.fab.bufs b.buf { x with items := x.items ++ [.close] } } }
      | none => { w := w }
    | _ => Eff.allFault w es Cause.queueUnbound

/-- The code of a kind of binding (12 R318). -/
def kindCode : BindKind → Nat
  | .none => 0 | .pop => 1 | .push => 2 | .task => 3 | .pxpush => 4 | .pxpop => 5

/-- The snapshot of a binding and its queue (12 R325). -/
def W.qstat (w : W) (g q : Nat) : Word :=
  let b := w.bind g q
  let base := (if b.u then 2 ^ 31 else 0) + kindCode b.kind * 2 ^ 28
  let one := fun (c : Bool) (n : Nat) => if c then 2 ^ n else 0
  match b.kind with
  | .none => 0
  | .pop | .push =>
    let x := w.hq (w.group g).team b.n
    BitVec.ofNat 32 (base + b.n * 2 ^ 24 + x.err * 2 ^ 17 + one x.closepend 16 + one x.closed 15
      + x.streams.length * 2 ^ 12 + x.elems.length)
  | _ => BitVec.ofNat 32 base

/-- QSTAT. -/
def execQstat (m : Fin 16) (f : Alu) : State → Out1 :=
  onceOp f.g fun r es w => { w := w.dstAll r.i f.d es [w.qstat r.i.gid m.val] }

/-! ## STREAM (12 R322, R323) -/

/-- The coordinates of an element of a sequence, dimension 0 fastest. -/
def unlin : List Nat → Nat → List Nat
  | [], _ => []
  | s :: ss, i => i % max 1 s :: unlin ss (i / max 1 s)

/-- The elements of a sequence. -/
def tdCount (d : Td) : Nat := (tdSizes d).foldl (· * ·) 1

/-- Whether elements move bit for bit. -/
def rawWords (d : Td) : Bool := tdFmt d = 1 && tdScm d = 0

/-- The bytes from the lowest to the highest of elements `a` to `a + n - 1` of a sequence (12 R323). -/
def strRange (d : Td) (a n : Nat) : Nat × Nat :=
  let os := if a = 0 && n = tdCount d then [(tdSpan d).1.toNat, (tdSpan d).2.toNat + 1 - (tdCont d).unit]
    else (List.range n).map fun i => tdAddr d (unlin (tdSizes d) (a + i))
  (os.foldl min (os.headD 0), os.foldl max 0 + (tdCont d).unit)

/-- STREAM. -/
def execStream (m : StreamM) (f : EngF) : State → Out1 :=
  onceOp f.g fun r es w0 =>
    let g := r.i.gid
    let gr := w0.group g
    let t := gr.team
    let w := w0.begin_ g es none
    let b := w.bind g m.q.val
    let d0 := w.td gr.asid f.tdi.toNat
    let d := tdAs d0 f.fmto.toNat
    let n := tdCount d
    let a := (r.word f.a 0).toNat
    let c := (r.word f.b 0).toNat
    let count := if c = 0 then n - a else c
    let sp := f.space = .scratch
    let span := tdSpan d
    let q := w.hq t b.n
    if b.kind ≠ (if m.st then .push else .pop) then Eff.allFault w es Cause.queueUnbound
    else if !tdStream d0 then Eff.allFault w es Cause.streamProgramInvalid
    else if fmtMx f.fmto.toNat then Eff.allFault w es Cause.formatInvalid
    else if !tdStream d then Eff.allFault w es Cause.streamProgramInvalid
    else if sp && !(0 ≤ span.1 && span.2 < w.spbytes t) then Eff.allFault w es Cause.scratchBounds
    else if n < a + c || n < a then Eff.allFault w es Cause.streamProgramInvalid
    else if !m.st && (q.closed || q.closepend) then Eff.allFault w es Cause.queueOverrun
    else if 4 ≤ q.streams.length then
      { w := w.begin_ g es (some (r.i.pc, 0)), parks := es.map fun l => (l, .queue true m.q.val) }
    else match if sp && m.st then w.rangeFull gr.core else none with
      | some k => { w := w, park := some k }
      | none =>
        let w := w.drainAll g
        let w := if f.ord = .rel || f.ord = .str then w.releaseAt g f.scope else w
        let w := if f.ord = .acq || f.ord = .str then w.acquireAt g f.scope else w
        let l0 := es.headD 0
        let seed : Dword := BitVec.ofNat 64 (w.seed g l0)
        let seq := (w.lane g l0).seq
        let draws := m.st && tdRnd d = .sr && !rawWords d
        let w := if draws then es.foldl (fun w l => w.bumpSeq g l) w else w
        let (w, id) := w.newId
        let held := sp && m.st && count ≠ 0
        let rng := strRange d a count
        let w := if held then w.addRange t rng.1 rng.2 id else w
        let s : Stream :=
          { store := m.st, desc := d, sp := sp, fmto := f.fmto.toNat, start := a, count := count, done := 0,
            close := m.close, gid := g, scope := f.scope, ord := f.ord, since := none, seed := seed,
            seq := seq, rng := if held then some id else none }
        { w := w.setHq t b.n { q with streams := q.streams ++ [s] } }

/-- How a step on an element ends. -/
inductive StrRes where
  | ok (x : Word) (fl : BitVec 5)
  | nonres (va : Nat)
  | hold
  | bad (cause : Nat)
  deriving DecidableEq, Repr

/-- A value as the 4 bytes that a load stream pushes (10 R266). -/
def W.strWord (w : W) (g : Nat) (d : Td) (v : Fv) (code : Nat) : StrRes :=
  if rawWords d then .ok (BitVec.ofNat 32 code) 0
  else
    let c := writeWide fp32 (w.ftz g) .rne 0 v
    .ok (BitVec.ofNat 32 c.code) c.flags

/-- Reads element `i` of a load stream. -/
def W.streamRead (w : W) (t : Nat) (s : Stream) (i : Nat) : W × StrRes :=
  let d := s.desc
  let ix := unlin (tdSizes d) i
  if s.sp then
    let o := tdAddr d ix
    let n := (tdCont d).unit
    if (w.rangeHit t o n).isSome then (w, .hold)
    else
      let code := (tdCont d).get (ix.headD 0) (w.spBytes t o n)
      (w, w.strWord s.gid d (tdValue d code) code)
  else
    let x : AccCtx := { g := s.gid, pc := 0, scope := s.scope, ord := .rlx, rp := true, again := true }
    match w.eRead x d [] ix with
    | (w, _, .ok v code _) => (w, w.strWord s.gid d v code)
    | (w, _, .nonres v) => (w, .nonres v)
    | (w, _, .wait _) => (w, .hold)
    | (w, _, .bad c _) => (w, .bad c)

/-- Writes element `i` of a store stream. -/
def W.streamWrite (w : W) (t : Nat) (s : Stream) (i : Nat) (x : Word) : W × StrRes :=
  let d := s.desc
  let ix := unlin (tdSizes d) i
  let gr := w.group s.gid
  let cv : Cv := if rawWords d then { code := x.toNat, flags := 0 }
    else tdEncode d (drawOf s.seed.toNat s.seq.toNat i) (readWide fp32 (w.ftz s.gid) x.toNat)
  if s.sp then
    let o := tdAddr d ix
    let old := w.spBytes t o (tdCont d).unit
    (w.spRaw t o ((tdCont d).put (ix.headD 0) cv.code old), .ok 0 cv.flags)
  else match w.engineElem s.gid gr.core gr.asid s.scope d ix cv.code with
    | (w, .ok _) => (w, .ok 0 cv.flags)
    | (w, .skip v) => (w, .nonres v)
    | (w, .bad c _) => (w, .bad c)

/-- The first stream of a queue ends: normally, or with a cause, which discards the others
(STREAM_END). -/
def W.streamEnd (w : W) (t h : Nat) (err : Option Nat) : W :=
  let q := w.hq t h
  match q.streams with
  | [] => w
  | s :: rest =>
    let gone := match err with
      | none => [s]
      | some _ => q.streams
    let w := gone.foldl (fun (w : W) s => match s.rng with
      | some id => w.dropRanges id
      | none => w) w
    let w := w.orFlags s.gid s.flags
    match err with
    | none =>
      let closed := q.closed || (!s.store && s.close)
      w.setHq t h (closeIf { q with streams := rest, closed := closed })
    | some c => w.setHq t h (closeIf { q with streams := [], err := c })

/-- A stream that meets a page that is not resident requests it and waits LIM µs at most
(12 R308, R309). -/
def W.streamWait (w : W) (t h : Nat) (s : Stream) (va : Nat) : W :=
  let gr := w.group s.gid
  let t0 := s.since.getD w.ac
  if t0 + w.fixLim gr.asid ≤ w.ac then w.streamEnd t h (some Cause.fixupUnresolved)
  else
    let w := (w.request gr.core gr.asid va).1
    let q := w.hq t h
    w.setHq t h { q with streams := { s with since := some t0 } :: q.streams.drop 1 }

/-- The first stream of a queue moves one element, or ends. -/
def W.streamStep (w : W) (t h : Nat) : W :=
  let q := w.hq t h
  match q.streams with
  | [] => w
  | s :: rest =>
    let i := s.start + s.done
    let next := fun (w : W) (fl : BitVec 5) (elems : List Word) =>
      let s := { s with done := s.done + 1, since := none, flags := s.flags ||| fl }
      let w := w.setHq t h { q with streams := s :: rest, elems := elems }
      if s.done = s.count then w.streamEnd t h none else w
    if s.done = s.count then w.streamEnd t h none
    else if s.store then
      match q.elems with
      | [] => if q.closed then w.streamEnd t h none else w
      | x :: xs => match w.streamWrite t s i x with
        | (w, .ok _ fl) => next w fl xs
        | (w, .nonres v) => w.streamWait t h s v
        | (w, .hold) => w
        | (w, .bad c) => w.streamEnd t h (some c)
    else if 2048 ≤ q.elems.length then w
    else match w.streamRead t s i with
      | (w, .ok x fl) => next w fl (q.elems ++ [x])
      | (w, .nonres v) => w.streamWait t h s v
      | (w, .hold) => w
      | (w, .bad c) => w.streamEnd t h (some c)

/-- STREAM_ELEMENT: the Flume of a physical queue of a core moves one element (12 R323). -/
def execStreamElement (core hq : Nat) (s : State) : Out1 :=
  step1 (fun w => match (w.claimed core)[hq]? with
    | some (t, h) => w.streamStep t h
    | none => w) s

end Sys2Proof.Machine
end

