-- ==== Sys2Proof/Machine/Uniform.lean ====
section
/-! DEFINITION. The uniform datapath, and the reads and writes of single lanes (07 R192–R194). -/

namespace Sys2Proof.Machine

/-- One uniform word, or a pair. -/
def uni1 (f : Alu) (k : Rd → Word) : State → Out1 := uniOp f fun r => [k r]
def uni2 (f : Alu) (k : Rd → Dword) : State → Out1 := uniOp f fun r => [lo32 (k r), hi32 (k r)]

/-- The uniform sources. -/
def Rd.ua (r : Rd) (f : Alu) : Word := r.word f.a 0
def Rd.ub (r : Rd) (f : Alu) : Word := r.b f 0
def Rd.uc (r : Rd) (f : Alu) : Word := r.word f.c 0

/-! ## Uniform arithmetic (07 R193) -/

def execUadd (m : Wid) (f : Alu) : State → Out1 :=
  match m with
  | .b32 => uni1 f fun r => r.ua f + r.ub f
  | .b64 => uni2 f fun r => r.pair f.a 0 + r.bPair f 0
def execUsub (m : Wid) (f : Alu) : State → Out1 :=
  match m with
  | .b32 => uni1 f fun r => r.ua f - r.ub f
  | .b64 => uni2 f fun r => r.pair f.a 0 - r.bPair f 0
def execUmul (m : UmulM) (f : Alu) : State → Out1 :=
  uni1 f fun r => match m with
    | .lo => r.ua f * r.ub f
    | .hiS => mulHigh .s32 (r.ua f) (r.ub f)
    | .hiU => mulHigh .u32 (r.ua f) (r.ub f)
def execUmad (m : UmadM) (f : Alu) : State → Out1 :=
  match m with
  | .lo => uni1 f fun r => r.ua f * r.ub f + r.uc f
  | .wideS => uni2 f fun r => madWide .s32 (r.ua f) (r.ub f) (r.pair f.c 0)
  | .wideU => uni2 f fun r => madWide .u32 (r.ua f) (r.ub f) (r.pair f.c 0)

/-- A truth table on each bit (ULOP). -/
def lutWord (t : BitVec 8) (a b c : Word) : Word :=
  BitVec.ofNat 32 (laneMask ((List.range 32).filter fun i =>
    lutBit t (a.getLsbD i) (b.getLsbD i) (c.getLsbD i)))

def execUlop (m : BitVec 8) (f : Alu) : State → Out1 :=
  uni1 f fun r => lutWord m (r.ua f) (r.ub f) (r.uc f)
def execUshf (m : UshfM) (f : Alu) : State → Out1 :=
  uni1 f fun r => match m with
    | .shl => shlWord (r.ua f) (r.ub f)
    | .shr => shrWord (r.ua f) (r.ub f)
    | .sar => sarWord (r.ua f) (r.ub f)
    | .rotl => rotWord .l (r.ua f) (r.ub f)
    | .rotr => rotWord .r (r.ua f) (r.ub f)
def execUcmp (m : CmpM) (f : Alu) : State → Out1 := uni1 f fun r => cmpWord m (r.ua f) (r.ub f)
def execUmov (m : Wid) (f : Alu) : State → Out1 :=
  match m with
  | .b32 => uni1 f fun r => r.ub f
  | .b64 => uni2 f fun r => r.bPair f 0
def execUsel (f : Alu) : State → Out1 :=
  uni1 f fun r => if r.uc f ≠ 0 then r.ua f else r.ub f
def execUlea (m : LeaM) (f : Alu) : State → Out1 :=
  uni2 f fun r => leaOf m (r.pair f.a 0) (r.ub f)

/-! ## Single lanes (07 R194) -/

/-- The words of a register or a pair of a lane. -/
def laneWords (m : Wid) (r : Rd) (o : Opnd) (l : Nat) : List Word :=
  match m with
  | .b32 => [r.run o 0 l]
  | .b64 => [r.run o 0 l, r.run o 1 l]

def execRdfl (m : Wid) (f : Alu) : State → Out1 :=
  uniOp f fun r => laneWords m r f.a (r.es.headD 0)
def execRdln (m : Wid) (f : Alu) : State → Out1 :=
  uniOp f fun r =>
    let l := (r.ub f).toNat % 64
    if r.es.contains l then laneWords m r f.a l else (laneWords m r f.a 0).map fun _ => 0
def execWrln (m : Wid) (f : Alu) : State → Out1 :=
  onceOp f.g fun r es w =>
    let l := (r.ub f).toNat % 64
    { w := if es.contains l then w.dst r.i f.d l (laneWords m r f.a 0) else w }

end Sys2Proof.Machine
end

