-- ==== Sys2Proof/Machine/Dispatch.lean ====
section
/-! DEFINITION. The dispatch: one arm for each constructor of `Instr`, a direct call of its meaning. -/

namespace Sys2Proof.Machine

def exec (i : Instr) (s : State) : Host.Outcome State Fault Refusal :=
  match i with
  | .nop f => Sys2Proof.Machine.execNop f s
  | .nopEntry f => Sys2Proof.Machine.execNopEntry f s
  | .bra f => Sys2Proof.Machine.execBra f s
  | .brc m f => Sys2Proof.Machine.execBrc m f s
  | .brx f => Sys2Proof.Machine.execBrx f s
  | .call f => Sys2Proof.Machine.execCall f s
  | .callx f => Sys2Proof.Machine.execCallx f s
  | .ret f => Sys2Proof.Machine.execRet f s
  | .meet f => Sys2Proof.Machine.execMeet f s
  | .join f => Sys2Proof.Machine.execJoin f s
  | .joinf f => Sys2Proof.Machine.execJoinf f s
  | .exit f => Sys2Proof.Machine.execExit f s
  | .yield f => Sys2Proof.Machine.execYield f s
  | .setlive f => Sys2Proof.Machine.execSetlive f s
  | .launch f => Sys2Proof.Machine.execLaunch f s
  | .chwait f => Sys2Proof.Machine.execChwait f s
  | .evsig f => Sys2Proof.Machine.execEvsig f s
  | .evwait f => Sys2Proof.Machine.execEvwait f s
  | .spawn f => Sys2Proof.Machine.execSpawn f s
  | .fetchw f => Sys2Proof.Machine.execFetchw f s
  | .taskadd f => Sys2Proof.Machine.execTaskadd f s
  | .taskdone f => Sys2Proof.Machine.execTaskdone f s
  | .bar m f => Sys2Proof.Machine.execBar m f s
  | .bara m f => Sys2Proof.Machine.execBara m f s
  | .barw m f => Sys2Proof.Machine.execBarw m f s
  | .cbar m f => Sys2Proof.Machine.execCbar m f s
  | .cbarArr m f => Sys2Proof.Machine.execCbarArr m f s
  | .cbarWt m f => Sys2Proof.Machine.execCbarWt m f s
  | .ticketTake m f => Sys2Proof.Machine.execTicketTake m f s
  | .ticketGive m f => Sys2Proof.Machine.execTicketGive m f s
  | .handoff m f => Sys2Proof.Machine.execHandoff m f s
  | .handwait m f => Sys2Proof.Machine.execHandwait m f s
  | .add f => Sys2Proof.Machine.execAdd f s
  | .sub f => Sys2Proof.Machine.execSub f s
  | .mul f => Sys2Proof.Machine.execMul f s
  | .mulh m f => Sys2Proof.Machine.execMulh m f s
  | .mad f => Sys2Proof.Machine.execMad f s
  | .madw m f => Sys2Proof.Machine.execMadw m f s
  | .add64 f => Sys2Proof.Machine.execAdd64 f s
  | .sub64 f => Sys2Proof.Machine.execSub64 f s
  | .mad64 f => Sys2Proof.Machine.execMad64 f s
  | .lea m f => Sys2Proof.Machine.execLea m f s
  | .imin m f => Sys2Proof.Machine.execImin m f s
  | .imax m f => Sys2Proof.Machine.execImax m f s
  | .iabs m f => Sys2Proof.Machine.execIabs m f s
  | .adds m f => Sys2Proof.Machine.execAdds m f s
  | .and f => Sys2Proof.Machine.execAnd f s
  | .or f => Sys2Proof.Machine.execOr f s
  | .xor f => Sys2Proof.Machine.execXor f s
  | .andn f => Sys2Proof.Machine.execAndn f s
  | .shl f => Sys2Proof.Machine.execShl f s
  | .shr f => Sys2Proof.Machine.execShr f s
  | .sar f => Sys2Proof.Machine.execSar f s
  | .rot m f => Sys2Proof.Machine.execRot m f s
  | .fnl m f => Sys2Proof.Machine.execFnl m f s
  | .bfe m f => Sys2Proof.Machine.execBfe m f s
  | .bfi f => Sys2Proof.Machine.execBfi f s
  | .popc m f => Sys2Proof.Machine.execPopc m f s
  | .clz m f => Sys2Proof.Machine.execClz m f s
  | .ctz m f => Sys2Proof.Machine.execCtz m f s
  | .brev m f => Sys2Proof.Machine.execBrev m f s
  | .perm f => Sys2Proof.Machine.execPerm f s
  | .sel f => Sys2Proof.Machine.execSel f s
  | .icmp m f => Sys2Proof.Machine.execIcmp m f s
  | .icvt m f => Sys2Proof.Machine.execIcvt m f s
  | .mov f => Sys2Proof.Machine.execMov f s
  | .movi f => Sys2Proof.Machine.execMovi f s
  | .plop m f => Sys2Proof.Machine.execPlop m f s
  | .pmov m f => Sys2Proof.Machine.execPmov m f s
  | .uadd m f => Sys2Proof.Machine.execUadd m f s
  | .usub m f => Sys2Proof.Machine.execUsub m f s
  | .umul m f => Sys2Proof.Machine.execUmul m f s
  | .umad m f => Sys2Proof.Machine.execUmad m f s
  | .ulop m f => Sys2Proof.Machine.execUlop m f s
  | .ushf m f => Sys2Proof.Machine.execUshf m f s
  | .ucmp m f => Sys2Proof.Machine.execUcmp m f s
  | .umov m f => Sys2Proof.Machine.execUmov m f s
  | .usel f => Sys2Proof.Machine.execUsel f s
  | .ulea m f => Sys2Proof.Machine.execUlea m f s
  | .rdfl m f => Sys2Proof.Machine.execRdfl m f s
  | .rdln m f => Sys2Proof.Machine.execRdln m f s
  | .wrln m f => Sys2Proof.Machine.execWrln m f s
  | .shfl m f => Sys2Proof.Machine.execShfl m f s
  | .swapp m f => Sys2Proof.Machine.execSwapp m f s
  | .ballot f => Sys2Proof.Machine.execBallot f s
  | .vote m f => Sys2Proof.Machine.execVote m f s
  | .gred m f => Sys2Proof.Machine.execGred m f s
  | .gscan m f => Sys2Proof.Machine.execGscan m f s
  | .match m f => Sys2Proof.Machine.execMatch m f s
  | .cmprs f => Sys2Proof.Machine.execCmprs f s
  | .expnd f => Sys2Proof.Machine.execExpnd f s
  | .fadd m f => Sys2Proof.Machine.execFadd m f s
  | .fsub m f => Sys2Proof.Machine.execFsub m f s
  | .fmul m f => Sys2Proof.Machine.execFmul m f s
  | .ffma m f => Sys2Proof.Machine.execFfma m f s
  | .fmin m f => Sys2Proof.Machine.execFmin m f s
  | .fmax m f => Sys2Proof.Machine.execFmax m f s
  | .fcmp m f => Sys2Proof.Machine.execFcmp m f s
  | .fclass f => Sys2Proof.Machine.execFclass f s
  | .frcp f => Sys2Proof.Machine.execFrcp f s
  | .frsq f => Sys2Proof.Machine.execFrsq f s
  | .fsqrt m f => Sys2Proof.Machine.execFsqrt m f s
  | .fdiv m f => Sys2Proof.Machine.execFdiv m f s
  | .fexp2 f => Sys2Proof.Machine.execFexp2 f s
  | .flog2 f => Sys2Proof.Machine.execFlog2 f s
  | .fsin f => Sys2Proof.Machine.execFsin f s
  | .fcos f => Sys2Proof.Machine.execFcos f s
  | .fsinpi f => Sys2Proof.Machine.execFsinpi f s
  | .fcospi f => Sys2Proof.Machine.execFcospi f s
  | .fsincos f => Sys2Proof.Machine.execFsincos f s
  | .ftanh f => Sys2Proof.Machine.execFtanh f s
  | .frint m f => Sys2Proof.Machine.execFrint m f s
  | .ffrac f => Sys2Proof.Machine.execFfrac f s
  | .fldexp m f => Sys2Proof.Machine.execFldexp m f s
  | .fcvt m f => Sys2Proof.Machine.execFcvt m f s
  | .fpack m f => Sys2Proof.Machine.execFpack m f s
  | .funpk m f => Sys2Proof.Machine.execFunpk m f s
  | .hfma2 m f => Sys2Proof.Machine.execHfma2 m f s
  | .hadd2 m f => Sys2Proof.Machine.execHadd2 m f s
  | .hmul2 m f => Sys2Proof.Machine.execHmul2 m f s
  | .bfma2 m f => Sys2Proof.Machine.execBfma2 m f s
  | .fdot2 m f => Sys2Proof.Machine.execFdot2 m f s
  | .fdot4 m f => Sys2Proof.Machine.execFdot4 m f s
  | .fsrnd m f => Sys2Proof.Machine.execFsrnd m f s
  | .wmov m f => Sys2Proof.Machine.execWmov m f s
  | .wadd f => Sys2Proof.Machine.execWadd f s
  | .wmul f => Sys2Proof.Machine.execWmul f s
  | .wfma f => Sys2Proof.Machine.execWfma f s
  | .wmin m f => Sys2Proof.Machine.execWmin m f s
  | .wmax m f => Sys2Proof.Machine.execWmax m f s
  | .wrcp f => Sys2Proof.Machine.execWrcp f s
  | .wexpn f => Sys2Proof.Machine.execWexpn f s
  | .wsum f => Sys2Proof.Machine.execWsum f s
  | .wdot f => Sys2Proof.Machine.execWdot f s
  | .wlam f => Sys2Proof.Machine.execWlam f s
  | .wlerp f => Sys2Proof.Machine.execWlerp f s
  | .wcvt m f => Sys2Proof.Machine.execWcvt m f s
  | .wfres m f => Sys2Proof.Machine.execWfres m f s
  | .smuel m f => Sys2Proof.Machine.execSmuel m f s
  | .ld m f => Sys2Proof.Machine.execLd m f s
  | .st m f => Sys2Proof.Machine.execSt m f s
  | .ldu m f => Sys2Proof.Machine.execLdu m f s
  | .usto m f => Sys2Proof.Machine.execUsto m f s
  | .ldt m f => Sys2Proof.Machine.execLdt m f s
  | .stt m f => Sys2Proof.Machine.execStt m f s
  | .gath m f => Sys2Proof.Machine.execGath m f s
  | .scat m f => Sys2Proof.Machine.execScat m f s
  | .cstore m f => Sys2Proof.Machine.execCstore m f s
  | .pref m f => Sys2Proof.Machine.execPref m f s
  | .resreq f => Sys2Proof.Machine.execResreq f s
  | .resq f => Sys2Proof.Machine.execResq f s
  | .splook f => Sys2Proof.Machine.execSplook f s
  | .sptag f => Sys2Proof.Machine.execSptag f s
  | .spfill f => Sys2Proof.Machine.execSpfill f s
  | .spevict f => Sys2Proof.Machine.execSpevict f s
  | .fence f => Sys2Proof.Machine.execFence f s
  | .cflush m f => Sys2Proof.Machine.execCflush m f s
  | .cinv f => Sys2Proof.Machine.execCinv f s
  | .atom m f => Sys2Proof.Machine.execAtom m f s
  | .acas m f => Sys2Proof.Machine.execAcas m f s
  | .afadd m f => Sys2Proof.Machine.execAfadd m f s
  | .afaddc m f => Sys2Proof.Machine.execAfaddc m f s
  | .ared m f => Sys2Proof.Machine.execAred m f s
  | .waitc m f => Sys2Proof.Machine.execWaitc m f s
  | .tdset f => Sys2Proof.Machine.execTdset f s
  | .tdget f => Sys2Proof.Machine.execTdget f s
  | .tcopy m f => Sys2Proof.Machine.execTcopy m f s
  | .tcopym f => Sys2Proof.Machine.execTcopym f s
  | .windef m f => Sys2Proof.Machine.execWindef m f s
  | .wincLr m f => Sys2Proof.Machine.execWincLr m f s
  | .cbtest m f => Sys2Proof.Machine.execCbtest m f s
  | .cbwait m f => Sys2Proof.Machine.execCbwait m f s
  | .stream m f => Sys2Proof.Machine.execStream m f s
  | .sclose m f => Sys2Proof.Machine.execSclose m f s
  | .qstat m f => Sys2Proof.Machine.execQstat m f s
  | .qbind m f => Sys2Proof.Machine.execQbind m f s
  | .trace m f => Sys2Proof.Machine.execTrace m f s
  | .hitget m f => Sys2Proof.Machine.execHitget m f s
  | .ssamp m f => Sys2Proof.Machine.execSsamp m f s
  | .samp m f => Sys2Proof.Machine.execSamp m f s
  | .filmacc m f => Sys2Proof.Machine.execFilmacc m f s
  | .resfb m f => Sys2Proof.Machine.execResfb m f s
  | .mxalloc f => Sys2Proof.Machine.execMxalloc f s
  | .mxfree f => Sys2Proof.Machine.execMxfree f s
  | .mxzero f => Sys2Proof.Machine.execMxzero f s
  | .mxmma m f => Sys2Proof.Machine.execMxmma m f s
  | .mxvec m f => Sys2Proof.Machine.execMxvec m f s
  | .mxldw m f => Sys2Proof.Machine.execMxldw m f s
  | .mxlda f => Sys2Proof.Machine.execMxlda f s
  | .mxst f => Sys2Proof.Machine.execMxst f s
  | .mxhad m f => Sys2Proof.Machine.execMxhad m f s
  | .mxqnt f => Sys2Proof.Machine.execMxqnt f s
  | .mxprog m f => Sys2Proof.Machine.execMxprog m f s
  | .pxpush m f => Sys2Proof.Machine.execPxpush m f s
  | .tkmrg f => Sys2Proof.Machine.execTkmrg f s
  | .tkwait f => Sys2Proof.Machine.execTkwait f s
  | .coll m f => Sys2Proof.Machine.execColl m f s
  | .trap f => Sys2Proof.Machine.execTrap f s
  | .svc f => Sys2Proof.Machine.execSvc f s
  | .brk f => Sys2Proof.Machine.execBrk f s
  | .eretRes f => Sys2Proof.Machine.execEretRes f s
  | .eretSkip f => Sys2Proof.Machine.execEretSkip f s
  | .eretStep f => Sys2Proof.Machine.execEretStep f s
  | .rdsr f => Sys2Proof.Machine.execRdsr f s
  | .wrsr f => Sys2Proof.Machine.execWrsr f s
  | .tlbinvVa f => Sys2Proof.Machine.execTlbinvVa f s
  | .tlbinvAsid f => Sys2Proof.Machine.execTlbinvAsid f s
  | .tlbinvAll f => Sys2Proof.Machine.execTlbinvAll f s
  | .time m f => Sys2Proof.Machine.execTime m f s
  | .energy m f => Sys2Proof.Machine.execEnergy m f s
  | .perfrd f => Sys2Proof.Machine.execPerfrd f s
  | .slotIssue core slot => Sys2Proof.Machine.execSlotIssue core slot s
  | .fragmentBoost core ctx => Sys2Proof.Machine.execFragmentBoost core ctx s
  | .issueCountSwitch core ctx => Sys2Proof.Machine.execIssueCountSwitch core ctx s
  | .fetchBlockArrival core asid block => Sys2Proof.Machine.execFetchBlockArrival core asid block s
  | .resultLanding id => Sys2Proof.Machine.execResultLanding id s
  | .lookaheadHoldExpiry core ctx => Sys2Proof.Machine.execLookaheadHoldExpiry core ctx s
  | .faultReport ring => Sys2Proof.Machine.execFaultReport ring s
  | .contextFill core => Sys2Proof.Machine.execContextFill core s
  | .displacement core => Sys2Proof.Machine.execDisplacement core s
  | .overflowLatchDrain core => Sys2Proof.Machine.execOverflowLatchDrain core s
  | .taskRipening core => Sys2Proof.Machine.execTaskRipening core s
  | .rdmaWrite port qp rkey addr data => Sys2Proof.Machine.execRdmaWrite port qp rkey addr data s
  | .rdmaRead port qp rkey addr len => Sys2Proof.Machine.execRdmaRead port qp rkey addr len s
  | .rdmaCas port qp rkey addr cmp swp => Sys2Proof.Machine.execRdmaCas port qp rkey addr cmp swp s
  | .rdmaFaa port qp rkey addr addend => Sys2Proof.Machine.execRdmaFaa port qp rkey addr addend s
  | .rdmaInvalid port qp => Sys2Proof.Machine.execRdmaInvalid port qp s
  | .queuePairCreate port qp => Sys2Proof.Machine.execQueuePairCreate port qp s
  | .queuePairDestroy port qp => Sys2Proof.Machine.execQueuePairDestroy port qp s
  | .hostWindowWrite n reg value => Sys2Proof.Machine.execHostWindowWrite n reg value s
  | .tailNotice queue => Sys2Proof.Machine.execTailNotice queue s
  | .launchRecordCopy queue => Sys2Proof.Machine.execLaunchRecordCopy queue s
  | .launchRecordCheck queue => Sys2Proof.Machine.execLaunchRecordCheck queue s
  | .waitTest queue => Sys2Proof.Machine.execWaitTest queue s
  | .gridStart queue => Sys2Proof.Machine.execGridStart queue s
  | .teamPlacement grid cores => Sys2Proof.Machine.execTeamPlacement grid cores s
  | .coResidentPlacement grid => Sys2Proof.Machine.execCoResidentPlacement grid s
  | .teamExit team => Sys2Proof.Machine.execTeamExit team s
  | .gridRetirement grid => Sys2Proof.Machine.execGridRetirement grid s
  | .mailboxWrite team => Sys2Proof.Machine.execMailboxWrite team s
  | .triggerRecordCopy n => Sys2Proof.Machine.execTriggerRecordCopy n s
  | .triggerFire n => Sys2Proof.Machine.execTriggerFire n s
  | .triggerMissed n => Sys2Proof.Machine.execTriggerMissed n s
  | .preemptionStart grid => Sys2Proof.Machine.execPreemptionStart grid s
  | .teamSave team => Sys2Proof.Machine.execTeamSave team s
  | .teamRestore team core => Sys2Proof.Machine.execTeamRestore team core s
  | .killTeam asid grid team => Sys2Proof.Machine.execKillTeam asid grid team s
  | .killGrid asid grid => Sys2Proof.Machine.execKillGrid asid grid s
  | .killContext asid => Sys2Proof.Machine.execKillContext asid s
  | .preemptTeam asid grid team => Sys2Proof.Machine.execPreemptTeam asid grid team s
  | .killComplete asid => Sys2Proof.Machine.execKillComplete asid s
  | .watchdog record => Sys2Proof.Machine.execWatchdog record s
  | .machineCheck core => Sys2Proof.Machine.execMachineCheck core s
  | .storeQueueDrain group => Sys2Proof.Machine.execStoreQueueDrain group s
  | .lineEviction l2 core asid line => Sys2Proof.Machine.execLineEviction l2 core asid line s
  | .upgradeAnswer core asid line => Sys2Proof.Machine.execUpgradeAnswer core asid line s
  | .slotFillComplete op => Sys2Proof.Machine.execSlotFillComplete op s
  | .slotWritebackComplete op => Sys2Proof.Machine.execSlotWritebackComplete op s
  | .readCountExhausted core slot => Sys2Proof.Machine.execReadCountExhausted core slot s
  | .hoistSegmentComplete op seg => Sys2Proof.Machine.execHoistSegmentComplete op seg s
  | .fixupReplay core => Sys2Proof.Machine.execFixupReplay core s
  | .fixupUnresolved op seg => Sys2Proof.Machine.execFixupUnresolved op seg s
  | .engineOperationRetire op => Sys2Proof.Machine.execEngineOperationRetire op s
  | .streamElement core hq => Sys2Proof.Machine.execStreamElement core hq s
  | .matrixKStep op => Sys2Proof.Machine.execMatrixKStep op s
  | .rayResult op lane => Sys2Proof.Machine.execRayResult op lane s
  | .bedstoneContribution asid va x => Sys2Proof.Machine.execBedstoneContribution asid va x s
  | .stagedContributionApply grid => Sys2Proof.Machine.execStagedContributionApply grid s
  | .bolterPairVisit stack => Sys2Proof.Machine.execBolterPairVisit stack s
  | .bolterReclaim stack => Sys2Proof.Machine.execBolterReclaim stack s
  | .remoteRequestArrival req => Sys2Proof.Machine.execRemoteRequestArrival req s
  | .remoteReply rep => Sys2Proof.Machine.execRemoteReply rep s
  | .replyTimeout id => Sys2Proof.Machine.execReplyTimeout id s
  | .tokenExpiry dest seq => Sys2Proof.Machine.execTokenExpiry dest seq s
  | .landingNotice src token => Sys2Proof.Machine.execLandingNotice src token s
  | .failureNotice src token => Sys2Proof.Machine.execFailureNotice src token s
  | .holdExpiry port index => Sys2Proof.Machine.execHoldExpiry port index s
  | .flitResend port => Sys2Proof.Machine.execFlitResend port s
  | .forwardingBufferSend buf => Sys2Proof.Machine.execForwardingBufferSend buf s
  | .proxyElementArrival n src job x => Sys2Proof.Machine.execProxyElementArrival n src job x s
  | .proxyRefuseExpiry buf => Sys2Proof.Machine.execProxyRefuseExpiry buf s
  | .closeMarkArrival n => Sys2Proof.Machine.execCloseMarkArrival n s
  | .collComplete comm parts => Sys2Proof.Machine.execCollComplete comm parts s
  | .collJoinTimeout comm => Sys2Proof.Machine.execCollJoinTimeout comm s
  | .ratioChange stack ratio => Sys2Proof.Machine.execRatioChange stack ratio s
  | .ratioChangeComplete stack => Sys2Proof.Machine.execRatioChangeComplete stack s
  | .spareBank stack pch bank => Sys2Proof.Machine.execSpareBank stack pch bank s
  | .bankCopyComplete stack => Sys2Proof.Machine.execBankCopyComplete stack s
  | .retireChannel stack pch => Sys2Proof.Machine.execRetireChannel stack pch s
  | .channelSwap stack => Sys2Proof.Machine.execChannelSwap stack s
  | .channelRetired stack => Sys2Proof.Machine.execChannelRetired stack s
  | .autoSparing stack pch bank => Sys2Proof.Machine.execAutoSparing stack pch bank s
  | .keyLoad kid => Sys2Proof.Machine.execKeyLoad kid s
  | .keyDestroy kid => Sys2Proof.Machine.execKeyDestroy kid s
  | .keyPurgeComplete => Sys2Proof.Machine.execKeyPurgeComplete s
  | .apertureCtlWrite reg n value => Sys2Proof.Machine.execApertureCtlWrite reg n value s
  | .srLeatsizeWrite asid value => Sys2Proof.Machine.execSrLeatsizeWrite asid value s
  | .srWlrangeWrite asid value => Sys2Proof.Machine.execSrWlrangeWrite asid value s
  | .srFpflagsWrite group value => Sys2Proof.Machine.execSrFpflagsWrite group value s
  | .srHintdropClear asid => Sys2Proof.Machine.execSrHintdropClear asid s
  | .faultRingLostClear ring => Sys2Proof.Machine.execFaultRingLostClear ring s
  | .tenterDropClear => Sys2Proof.Machine.execTenterDropClear s
  | .fabricTkclr asid => Sys2Proof.Machine.execFabricTkclr asid s
  | .fantailCredit value => Sys2Proof.Machine.execFantailCredit value s
  | .fantailMetering dies => Sys2Proof.Machine.execFantailMetering dies s
  | .monitorSample n v => Sys2Proof.Machine.execMonitorSample n v s
  | .monitorCapture n => Sys2Proof.Machine.execMonitorCapture n s
  | .monitorClear n => Sys2Proof.Machine.execMonitorClear n s
  | .thermalLimit die => Sys2Proof.Machine.execThermalLimit die s
  | .thermalRecovery die => Sys2Proof.Machine.execThermalRecovery die s
  | .thermalTrip => Sys2Proof.Machine.execThermalTrip s
  | .lifetimeRecordWrite hours kwh => Sys2Proof.Machine.execLifetimeRecordWrite hours kwh s
  | .powerOn port => Sys2Proof.Machine.execPowerOn port s
  | .powerLoss => Sys2Proof.Machine.execPowerLoss s
  | .imagePush failedUnits => Sys2Proof.Machine.execImagePush failedUnits s
  | .measurementExtend n data => Sys2Proof.Machine.execMeasurementExtend n data s
  | .attestationRequest nonce => Sys2Proof.Machine.execAttestationRequest nonce s
  | .firmwareError info => Sys2Proof.Machine.execFirmwareError info s
  | .hostLinkDown port => Sys2Proof.Machine.execHostLinkDown port s
  | .hostLinkRetrained port => Sys2Proof.Machine.execHostLinkRetrained port s
  | .ptpCfgWrite value => Sys2Proof.Machine.execPtpCfgWrite value s
  | .ptpAnnounce m => Sys2Proof.Machine.execPtpAnnounce m s
  | .ptpSync port domain sender twoStep seq origin logInterval => Sys2Proof.Machine.execPtpSync port domain sender twoStep seq origin logInterval s
  | .ptpFollowUp port domain sender seq origin => Sys2Proof.Machine.execPtpFollowUp port domain sender seq origin s
  | .ptpDelayReq => Sys2Proof.Machine.execPtpDelayReq s
  | .ptpDelayResp port domain sender seq received logInterval => Sys2Proof.Machine.execPtpDelayResp port domain sender seq received logInterval s
  | .ptpSyncTimeout => Sys2Proof.Machine.execPtpSyncTimeout s
  | .ptpAnnounceTimeout => Sys2Proof.Machine.execPtpAnnounceTimeout s
  | .eventWaitRetest record => Sys2Proof.Machine.execEventWaitRetest record s
  | .contextCreation asid gen priv => Sys2Proof.Machine.execContextCreation asid gen priv s

end Sys2Proof.Machine
end

