-- ==== Sys2Proof/Machine/Auto.lean ====
section
/-! DEFINITION. The internal events of the package: which are due, and in which order one ac takes them.
In an ac every slot has its turn, then every event that is due, once each. Every event here is a row of
the opcode table, or the choice of one by the part; the model's order of events of one ac is one of those
that the spec allows (log entry 6). -/

namespace Sys2Proof.Machine

/-- An internal event. -/
inductive Auto where
  | slot (core slot : Nat)
  | land (op : Nat)
  | retire (op : Nat)
  | drain (group : Nat)
  | fetch (core asid block : Nat)
  | segment (op seg : Nat)
  | replay (core : Nat)
  | unresolved (op seg : Nat)
  | kstep (op : Nat)
  | ray (op lane : Nat)
  | fillDone (op : Nat)
  | writeDone (op : Nat)
  | element (core hq : Nat)
  | bufSend (buf : Nat)
  | bufExpiry (buf : Nat)
  | coll (comm : Nat)
  | collTimeout (comm : Nat)
  | inbox
  | remTry (id : Nat)
  | replyTimeout (id : Nat)
  | tokenExpiry (dest seq : Nat)
  | holdExpiry (port index : Nat)
  | resend (port : Nat)
  | report (r : Ring)
  | fill (core : Nat)
  | displace (core : Nat)
  | latch (core : Nat)
  | holdEnd (core ctx : Nat)
  | boost (core ctx : Nat)
  | retest (rec_ : Nat)
  | watchdog (rec_ : Nat)
  | tail (queue : Nat)
  | copy (queue : Nat)
  | check (id : Nat)
  | wait (id : Nat)
  | start (id : Nat)
  | trgCopy (n : Nat)
  | trgFire (n : Nat)
  | trgMiss (n : Nat)
  | mailbox (team : Nat)
  | teamExit (team : Nat)
  | gridOver (grid : Nat)
  | apply (grid : Nat)
  | place
  | preempt (grid : Nat)
  | save (team : Nat)
  | killTeam (asid grid tlin : Nat)
  | killGrid (asid grid : Nat)
  | killContext (asid : Nat)
  | preemptTeam (asid grid tlin : Nat)
  | killComplete (asid : Nat)
  | purged
  | ratioDone (stack : Nat)
  | bankDone (stack : Nat)
  | swap (stack : Nat)
  | retired (stack : Nat)
  | bolt (stack : Nat)
  | reclaim (stack : Nat)
  | delayReq
  | syncTimeout
  | annTimeout
  | capture (n : Nat)
  deriving DecidableEq, Repr

/-- A message of the package to itself arrives (17 R404, R410). -/
def W.inboxStep (w : W) : W :=
  match w.c.fab.inbox with
  | [] => w
  | x :: rest =>
    let w := { w with c.fab.inbox := rest }
    match x with
    | .req r => w.remArrive r
    | .reply _ r => match aget w.c.fab.outs r.id with
      | none => w
      | some o => w.remEnd r.id o r.ok r.nonres r.cause r.data
    | .landing _ t => w.notice w.pkg t false
    | .failure _ t => w.notice w.pkg t true
    | _ => w

/-- An internal event happens. -/
def Auto.run (a : Auto) (s : State) : Out1 :=
  match a with
  | .slot c k => execSlotIssue c k s
  | .land op => execResultLanding op s
  | .retire op => execEngineOperationRetire op s
  | .drain g => execStoreQueueDrain g s
  | .fetch c a b => execFetchBlockArrival c a b s
  | .segment op seg => execHoistSegmentComplete op seg s
  | .replay c => execFixupReplay c s
  | .unresolved op seg => execFixupUnresolved op seg s
  | .kstep op => execMatrixKStep op s
  | .ray op l => execRayResult op l s
  | .fillDone op => execSlotFillComplete op s
  | .writeDone op => execSlotWritebackComplete op s
  | .element c h => execStreamElement c h s
  | .bufSend b => execForwardingBufferSend b s
  | .bufExpiry b => execProxyRefuseExpiry b s
  | .coll c => execCollComplete c [] s
  | .collTimeout c => execCollJoinTimeout c s
  | .inbox => step1 (fun w => w.inboxStep) s
  | .remTry id => step1 (fun w => w.remTry id) s
  | .replyTimeout id => execReplyTimeout id s
  | .tokenExpiry d n => execTokenExpiry d n s
  | .holdExpiry p i => execHoldExpiry p i s
  | .resend p => execFlitResend p s
  | .report r => execFaultReport r s
  | .fill c => execContextFill c s
  | .displace c => execDisplacement c s
  | .latch c => execOverflowLatchDrain c s
  | .holdEnd c k => execLookaheadHoldExpiry c k s
  | .boost c k => execFragmentBoost c k s
  | .retest r => execEventWaitRetest r s
  | .watchdog r => execWatchdog r s
  | .tail q => execTailNotice q s
  | .copy q => execLaunchRecordCopy q s
  | .check id => execLaunchRecordCheck id s
  | .wait id => execWaitTest id s
  | .start id => execGridStart id s
  | .trgCopy n => execTriggerRecordCopy n s
  | .trgFire n => execTriggerFire n s
  | .trgMiss n => execTriggerMissed n s
  | .mailbox t => execMailboxWrite t s
  | .teamExit t => execTeamExit t s
  | .gridOver n => execGridRetirement n s
  | .apply n => execStagedContributionApply n s
  | .place => step1 (fun w => w.placeDue) s
  | .preempt n => execPreemptionStart n s
  | .save t => execTeamSave t s
  | .killTeam a n t => execKillTeam a n t s
  | .killGrid a n => execKillGrid a n s
  | .killContext a => execKillContext a s
  | .preemptTeam a n t => execPreemptTeam a n t s
  | .killComplete a => execKillComplete a s
  | .purged => execKeyPurgeComplete s
  | .ratioDone n => execRatioChangeComplete n s
  | .bankDone n => execBankCopyComplete n s
  | .swap n => execChannelSwap n s
  | .retired n => execChannelRetired n s
  | .bolt n => execBolterPairVisit n s
  | .reclaim n => execBolterReclaim n s
  | .delayReq => execPtpDelayReq s
  | .syncTimeout => execPtpSyncTimeout s
  | .annTimeout => execPtpAnnounceTimeout s
  | .capture n => execMonitorCapture n s

/-! ## What is due

Each list gives the events of one kind with the number of the object, rising in the order of the ac. -/

/-- An event, by its kind and its object. -/
def due1 (kind obj : Nat) (a : Auto) : Nat × Auto := (kind * 2 ^ 200 + obj, a)

/-- Whether the engines work for a team: it is not saved. -/
def W.active (w : W) (t : Nat) : Bool := (w.team t).st ≠ .saved

/-- The cores that hold teams. -/
def W.usedCores (w : W) : List Nat := uniq (w.c.slu.teams.map fun e => e.2.core)

/-- The fragments in contexts, with their core and context. -/
def W.residents (w : W) : List (Nat × Nat × Nat) :=
  w.c.thr.frags.filterMap fun e => match e.2.place with
    | .ctx k => some (e.1, (w.group e.2.gid).core, k)
    | _ => none

/-- Results that land and operations that retire. -/
def W.dueResults (w : W) : List (Nat × Auto) :=
  let alone := uniq ((w.c.thr.pends.filter fun e =>
    !e.2.landed && e.2.ready && (aget w.c.eng.ops e.2.op).isNone).map fun e => e.2.op)
  let over_ := w.c.eng.ops.filter fun e =>
    e.2.done && w.active (w.group e.2.gid).team && w.oldest e.1 e.2
      && !w.c.thr.pends.any fun p => p.2.op = e.1 && !p.2.ready
  alone.map (fun n => due1 1 n (.land n)) ++ over_.map fun e => due1 2 e.1 (.retire e.1)

/-- Store queues, instruction blocks. -/
def W.dueMemory (w : W) : List (Nat × Auto) :=
  let sq := (w.c.eng.sq.filter fun e => !e.2.isEmpty).map fun e => due1 3 e.1 (.drain e.1)
  let blocks := w.residents.filterMap fun (f, _, _) => match w.nextIssue f with
    | none => none
    | some i => match w.peek i.core i.gid i.pc with
      | .absent =>
        let a := (w.group i.gid).asid
        some (due1 4 ((i.core * 2 ^ 16 + a) * 2 ^ 56 + i.pc / 32)
          (.fetch i.core a (i.pc / 32 * 32)))
      | _ => none
  sq ++ blocks

/-- An engine's operation. -/
def W.dueOp (w : W) (id : Nat) (o : Op) : Option (Nat × Auto) :=
  if o.done || !w.active (w.group o.gid).team then none
  else match o.kind with
    | .hoist h =>
      let left := match h.inPlace with
        | some x => [x.seg]
        | none => h.segs.filter fun s => !h.done.contains s && !(h.failed.any fun x => x.1 = s)
            && !(w.fixups h.core).any fun x => x.op = id && x.seg = s
      left.head?.map fun s => due1 5 id (.segment id s)
    | .mx m => if w.mxGoes id o m then some (due1 8 id (.kstep id)) else none
    | .tx t => match t.kind with
      | .trace _ _ => some (due1 9 id (.ray id ((t.rays.head?.map Prod.fst).getD 0)))
      | _ => none
    | .fill _ _ _ _ _ => some (due1 10 id (.fillDone id))
    | .evict _ _ _ => some (due1 10 id (.writeDone id))
    | _ => none

/-- The engines: copies, matrix steps, rays, slots, streams. -/
def W.dueEngines (w : W) : List (Nat × Auto) :=
  let ops := w.c.eng.ops.filterMap fun e => w.dueOp e.1 e.2
  let fix := w.c.spd.fixups.flatMap fun e =>
    let late := e.2.filter fun x => x.since + w.fixLim x.asid ≤ w.ac && (match aget w.c.eng.ops x.op with
      | some o => w.active (w.group o.gid).team
      | none => false)
    (if e.1 < Config.cores && !(w.replayable e.1).isEmpty then [due1 6 e.1 (.replay e.1)] else []) ++
      late.map fun x => due1 7 (x.op * 256 + x.seg) (.unresolved x.op x.seg)
  let stuck := w.c.eng.ops.filterMap fun e => match e.2.kind with
    | .hoist h => match h.inPlace with
      | some x => if w.active (w.group e.2.gid).team && x.since + w.fixLim h.asid ≤ w.ac then
          some (due1 7 (e.1 * 256 + x.seg) (.unresolved e.1 x.seg)) else none
      | none => none
    | _ => none
  let streams := w.usedCores.flatMap fun c => (w.claimed c).zipIdx.filterMap fun e =>
    if (w.hq e.1.1 e.1.2).goes then some (due1 11 (c * 64 + e.2) (.element c e.2)) else none
  ops ++ fix ++ stuck ++ streams

/-- The fabric. -/
def W.dueFabric (w : W) : List (Nat × Auto) :=
  let f := w.c.fab
  let bufs := (f.bufs.filter fun e => !e.2.items.isEmpty).flatMap fun e =>
    due1 12 e.1 (.bufSend e.1) :: match e.2.refusedAt with
      | some t => if t + w.expAc ≤ w.ac then [due1 13 e.1 (.bufExpiry e.1)] else []
      | none => []
  let colls := f.colls.flatMap fun e => match e.2 with
    | [] => []
    | k :: _ =>
      (if k.elems.isNone || k.p = 1 then [due1 14 e.1 (.coll e.1)] else []) ++
        if k.at_ + w.tmoAc ≤ w.ac || k.members.any (fun p => !w.reaches p) then
          [due1 15 e.1 (.collTimeout e.1)] else []
  let inbox := if f.inbox.isEmpty then [] else [due1 16 0 .inbox]
  let outs := f.outs.filterMap fun e => match e.2.sent with
    | none => if w.pkgValid then some (due1 17 e.1 (.remTry e.1)) else none
    | some t => if t + w.tmoAc ≤ w.ac then some (due1 18 e.1 (.replyTimeout e.1)) else none
  let toks := (f.toks.filter fun e => e.2.st = .outstanding && e.2.at_ + w.expAc ≤ w.ac).map fun e =>
    due1 19 (tokOf e.1) (.tokenExpiry e.1.1 e.1.2)
  let old := f.early.any fun e => e.2.2.2.2 + w.expAc ≤ w.ac
  let held := f.weir.flatMap fun e => e.2.zipIdx.filterMap fun h =>
    if !h.1.toks.isEmpty && h.1.at_ + w.expAc ≤ w.ac then
      some (due1 20 (e.1 * 2048 + h.2) (.holdExpiry e.1 h.2)) else none
  let early := if old && held.isEmpty then [due1 20 (2 ^ 100) (.holdExpiry 0 2048)] else []
  let again := (f.resend.filter fun e => !e.2.isEmpty).map fun e => due1 21 e.1 (.resend e.1)
  bufs ++ colls ++ inbox ++ outs ++ toks ++ held ++ early ++ again

/-- Reports, contexts, records. -/
def W.dueContexts (w : W) : List (Nat × Auto) :=
  let rings := (uniq (w.c.sys.reps.map Prod.fst)).filter fun r => w.canReport r
  let reps := rings.map fun r => match r with
    | .sys => due1 22 0 (.report r)
    | .ctx a => due1 22 (a + 1) (.report r)
  let cores := w.usedCores.flatMap fun c =>
    (if (w.fill c).isSome then [due1 23 c (.fill c)] else []) ++
      (if (w.victim c).isSome then [due1 24 c (.displace c)] else []) ++
      if (w.latchHead c).isSome then [due1 25 c (.latch c)] else []
  let ctxs := w.residents.flatMap fun (f, c, k) =>
    (if w.c.thr.pends.any fun e => e.2.frag = f && !e.2.landed && e.2.at_ + 24 ≤ w.ac then
      [due1 26 (c * 64 + k) (.holdEnd c k)] else []) ++
      if !(w.frag f).boost && (w.frag f).issued + 1024 ≤ w.ac && (w.ready f).isSome then
        [due1 27 (c * 64 + k) (.boost c k)] else []
  let recs := w.c.thr.frags.flatMap fun e =>
    (match e.2.wake with
      | .event _ _ => if w.ac % 8500 = 0 && w.waits e.1 then [due1 28 e.1 (.retest e.1)] else []
      | _ => []) ++
      if w.overdueRec e.1 then [due1 29 e.1 (.watchdog e.1)] else []
  reps ++ cores ++ ctxs ++ recs

/-- The queues that the table enables, and those that the Sluice knows. -/
def W.queueIds (w : W) : List Nat :=
  let base := fld (w.blk .qtbase 0) 16 36 * 65536
  let on := w.m0.filterMap fun c =>
    if base ≤ c.1 && c.1 < base + 65536 && (c.1 - base) % 64 = 27 && c.2.getLsbD 3 then
      some ((c.1 - base) / 64)
    else none
  uniq (on ++ w.c.slu.queues.map Prod.fst)

/-- Whether the waits of a record are tested now: at once after an addition, and every µs. -/
def W.testNow (w : W) (id : Nat) : Bool := w.ac % acPerUs = 0 || w.c.slu.retest.contains id

/-- Command queues, children and triggers. -/
def W.dueQueues (w : W) : List (Nat × Auto) :=
  let qs := w.queueIds.flatMap fun q =>
    let e := w.qEntry q
    let x := w.queue q
    if !qRuns e then []
    else
      (if qTail e ≠ x.tail || (qBad x.tail e).isSome then [due1 30 q (.tail q)] else []) ++
        (if qHead e < x.tail then [due1 31 q (.copy q)] else []) ++
        match x.recs with
        | [] => []
        | _ :: _ =>
          if x.checked.isNone then [due1 32 q (.check q)]
          else if !x.met && w.testNow q then [due1 33 q (.wait q)] else []
  let kids := (w.c.slu.grids.filter fun e => !e.2.started).flatMap fun e =>
    let id := 2048 + e.1
    if e.2.hnd.isEmpty then [due1 32 id (.check id)]
    else if !e.2.met && w.testNow id then [due1 33 id (.wait id)] else []
  let start := match w.nextStart with
    | some id => [due1 34 0 (.start id)]
    | none => []
  let dry := (w.startIds.filter fun id => w.startReady id && !w.energyOk id
    && !(if 2048 ≤ id then (w.grid (id - 2048)).starved else (w.queue id).starved)).map fun id =>
      due1 35 id (.start id)
  let armed := (w.c.sys.blk.filter fun e => e.1.1 = .trgctl && w.trgArm e.1.2).map fun e => e.1.2
  let trgs := armed.flatMap fun n => match w.trig n with
    | none =>
      (if w.trgT n ≤ w.ptpNow + 50000 then [due1 36 n (.trgCopy n)] else []) ++
        if w.trgT n ≤ w.ptpNow then [due1 38 n (.trgMiss n)] else []
    | some x =>
      (if !x.met && w.testNow (1024 + n) then [due1 33 (1024 + n) (.wait (1024 + n))] else []) ++
        if w.trgT n ≤ w.ptpNow then [due1 37 n (.trgFire n), due1 38 n (.trgMiss n)] else []
  qs ++ kids ++ start ++ dry ++ trgs

/-- Teams and grids: exits, retirements, placement, pre-emption, commands. -/
def W.dueTeams (w : W) : List (Nat × Auto) :=
  let inCtx := fun (t : Nat) => w.residents.any fun (f, _, _) => (w.group (w.frag f).gid).team = t
  let teams := w.c.slu.teams.flatMap fun e =>
    (if e.2.fetchw.isSome && w.active e.1 then [due1 39 e.1 (.mailbox e.1)] else []) ++
      (if w.exits e.1 && !w.teamStreams e.1 then [due1 40 e.1 (.teamExit e.1)] else []) ++
      if e.2.st = .stopping && !inCtx e.1 then [due1 45 e.1 (.save e.1)] else []
  let grids := w.c.slu.grids.flatMap fun e =>
    (if w.gridOver e.1 then [due1 41 e.1 (.gridOver e.1)] else []) ++
      (if !((aget w.c.syn.staged e.1).getD []).isEmpty &&
          w.teamOver e.1 ((aget w.c.syn.applied e.1).getD 0) then [due1 42 e.1 (.apply e.1)] else []) ++
      match (if e.2.started then w.preempts e.1 else none) with
      | some (_ :: _) => [due1 44 e.1 (.preempt e.1)]
      | _ => []
  let place := match w.due with
    | none => []
    | some n => match w.nextUnit n with
      | none => []
      | some u => if (w.tryUnit n u).isSome then [due1 43 0 .place] else []
  let cmd := match w.c.slu.cmd with
    | none => []
    | some c => match c.op with
      | 1 => [due1 46 0 (.killTeam c.asid c.grid c.team)]
      | 2 => [due1 46 0 (.killGrid c.asid c.grid)]
      | 3 => if w.c.slu.killing.contains c.asid then [] else [due1 46 0 (.killContext c.asid)]
      | _ => if w.c.slu.teams.any fun e => e.2.byCmd then []
        else [due1 46 0 (.preemptTeam c.asid c.grid c.team)]
  let kills := (w.c.slu.killing.filter fun a => w.killDone a).map fun a => due1 47 a (.killComplete a)
  teams ++ grids ++ place ++ cmd ++ kills

/-- Main memory, the clock, the monitors. -/
def W.dueHealth (w : W) : List (Nat × Auto) :=
  let m := w.c.mc
  let purge := if m.purging.isEmpty then [] else [due1 48 0 .purged]
  let stks := m.stks.flatMap fun e =>
    (if e.2.busy then [due1 49 e.1 (.ratioDone e.1)] else []) ++
      match e.2.state with
      | 1 => [due1 50 e.1 (.bankDone e.1)]
      | 2 => [due1 50 e.1 (.swap e.1)]
      | 3 => [due1 50 e.1 (.retired e.1)]
      | _ => []
  let bolts := if w.ac % acPerUs = 0 then
      (w.c.sys.blk.filter fun e => e.1.1 = .boltCtl && e.2.getLsbD 0
        && fld (w.blk .boltScan e.1.2) 0 8 ≠ 0).map fun e => due1 51 e.1.2 (.bolt e.1.2)
    else []
  let recl := (uniq (m.recl.map fun r => r.stack)).map fun n => due1 52 n (.reclaim n)
  let p := w.c.fab.ptp
  let ask := match p.delayReq with
    | none => true
    | some (_, t3) => t3 + ptpIv p.delayIv ≤ w.ptpNow
  let ptp :=
    (if w.ptpEn && p.t12.isSome && p.master.isSome && ask then [due1 53 0 .delayReq] else []) ++
      (if (p.lock || p.good ≠ 0) && p.lastSync + 2000000000 ≤ w.ptpNow then [due1 54 0 .syncTimeout]
        else []) ++
      match p.master with
      | some a => if p.lastAnn + 3 * ptpIv a.logInterval ≤ w.ptpNow then [due1 55 0 .annTimeout] else []
      | none => []
  let mons := if w.ac % 850000 = 0 then
      (w.c.sys.blk.filter fun e => e.1.1 = .monCtl && e.2.getLsbD 0).map fun e =>
        due1 56 e.1.2 (.capture e.1.2)
    else []
  purge ++ stks ++ bolts ++ recl ++ ptp ++ mons

/-! ## The order within an ac (06 R142, R143) -/

/-- The slots with a fragment that is ready, counted four to a core. -/
def W.readySlots (w : W) : List Nat :=
  (w.residents.filter fun e => w.slotFree e.2.1 (e.2.2 / 16) && (w.ready e.1).isSome).map
    fun (_, c, k) => 4 * c + k / 16

/-- The slots of the package. -/
def slotCount : Nat := 4 * Config.cores

/-- The next internal event of this ac, with the place in the ac after it and the fragments packed into
the issue that goes on; none when the ac is over. -/
def W.nextInternal (w : W) : Option (Nat × List Nat × Auto) :=
  let t := w.c.mdl.turn
  let ready := w.readySlots
  let packed := (w.residents.filter fun e => w.c.mdl.pack.contains e.1 && (w.ready e.1).isSome).map
    fun (_, c, k) => 4 * c + k / 16
  match packed.head?, minBy id (ready.filter fun k => t ≤ k) with
  | some k, _ => some (t, w.c.mdl.pack, .slot (k / 4) (k % 4))
  | none, some k => some (k + 1, [], .slot (k / 4) (k % 4))
  | none, none =>
    let all := w.dueResults ++ w.dueMemory ++ w.dueEngines ++ w.dueFabric ++ w.dueContexts ++
      w.dueQueues ++ w.dueTeams ++ w.dueHealth
    match minBy Prod.fst (all.filter fun e => t ≤ slotCount + e.1) with
    | some e => some (slotCount + e.1 + 1, [], e.2)
    | none => none

end Sys2Proof.Machine
end

