-- ==== Sys2Proof/Machine/Sched.lean ====
section
/-! DEFINITION. Which step the package takes next, and the placement of an instruction where the next
step fetches. -/

namespace Sys2Proof.Machine

/-- What the package does next. -/
inductive Todo where
  | off
  | tick (s : State)
  | event (e : Instr) (s : State)
  | auto (a : Auto) (s : State)
  deriving DecidableEq, Repr

/-- POWER_ON alone reaches a package without power (19 R457, R460). -/
def isPowerOn : Instr → Bool
  | .powerOn _ => true
  | _ => false

/-- The step to take: the oldest input that waits, else an internal event, else an ac passes. -/
def nextStep (s : State) : Todo :=
  match s.chip.mdl.agenda with
  | e :: rest =>
    if s.boot.power || isPowerOn e then .event e { s with chip.mdl.agenda := rest } else .off
  | [] =>
    if !s.boot.power then .off
    else match s.toW.nextInternal with
      | some (t, p, a) => .auto a { s with chip.mdl.turn := t, chip.mdl.pack := p }
      | none => .tick { s with chip.mdl.ac := s.chip.mdl.ac + 1, chip.mdl.turn := 0, chip.mdl.pack := [] }

/-- The package with one instruction ready to issue: a context, a grid, a team, a group of width 8 with
the full budgets, and its fragment in context 0 of core 0 with the instruction in the instruction
cache (log entry 5). -/
def placeInsn (bs : List Byte) (s : State) : State :=
  let n := s.chip.mdl.next
  let blk := 0x2000
  let core0 := (aget s.chip.cores 0).getD {}
  let grid : Grid := { asid := 1, lrec := bytesLE 256 0, hnd := bytesLE 64 0 }
  let team : Team := { grid := n, asid := 1, core := 0, slots := 1, nwin := 1 }
  let group : Group :=
    { asid := 1, core := 0, grid := n, team := n, width := 8, vb := 256, ub := 192, born := some 0 }
  let frag : Frag := { gid := n, place := .ctx 0, lv := 256, ls := 192 }
  let lane : Lane := { st := .live, pc := blk, frag := n }
  let thr := s.chip.thr
  let ctx : Ctx := { priv := true }
  { s with
    boot.power := true
    chip.thr.frags := (n, frag) :: thr.frags.filter fun e => e.2.place ≠ .ctx 0
    chip.thr.groups := aset thr.groups n group
    chip.thr.lanes := thr.lanes ++ (List.range 8).map fun l => ((n, l), lane)
    chip.cores := aset s.chip.cores 0 { core0 with
      icache := aset core0.icache (1, blk) bs, busy := adel core0.busy 0 }
    chip.slu.grids := aset s.chip.slu.grids n grid
    chip.slu.teams := aset s.chip.slu.teams n team
    chip.sys.ctxs := aset s.chip.sys.ctxs 1 ctx
    chip.mdl.pack := [n]
    chip.mdl.dec := none
    chip.mdl.next := n + 1
    chip.mdl.agenda := .slotIssue 0 0 :: s.chip.mdl.agenda }

end Sys2Proof.Machine
end

