-- ==== Sys2Proof/Machine/Wakes.lean ====
section
/-! DEFINITION. What becomes due with a step: the end of a pre-empted fragment's run, faults recorded
after the final EXIT, groups that are over, barrier phases and meeting sets that an exit completes, and
the waking of records (06 R153, R155, R162–R166, 10 R281, 16 R387). -/

namespace Sys2Proof.Machine

/-! ## The wake conditions (06 R155) -/

/-- Whether a pop or a push that a record waits for would not wait any more (12 R319, R320); a STREAM
waits for room in the queue's list (12 R322). -/
def W.queueDue (w : W) (g f : Nat) (push : Bool) (q : Nat) : Bool :=
  let ls := w.fragLanes g f
  let x := w.lane g (ls.headD 0)
  if push && x.begun = some (x.pc, 0) then
    (w.hq (w.group g).team (w.bind g q).n).streams.length < 4
  else if push then
    match (w.push g q (ls.map fun _ => 0)).2 with
    | .park _ => false
    | _ => true
  else match (w.pop g q ls).2 with
    | .park _ => false
    | _ => true

/-- Whether a chunk wait is over; a WINCLR waits for the end of the copy (12 R313–R316). -/
def W.chunkDue (w : W) (t win mask : Nat) : Bool :=
  match w.win t win with
  | none => true
  | some x =>
    if mask.testBit 128 then !w.filling x
    else (maskLanes mask 128).all x.bit

/-- Whether a wait for a slot of a table is over: a spawn record, room in the task pool, a child slot,
a mailbox (05 R127, R129, R133, 04 R110). -/
def W.slotDue (w : W) (g f k : Nat) : Bool :=
  let gr := w.group g
  match k with
  | 0 => (w.core gr.core).spawns.length < 64
  | 1 => w.poolRoom gr.core (w.fragLanes g f).length || !w.poolReady gr.core
  | 2 => w.childSlots gr.asid < 4096
  | _ => (w.team gr.team).fetchw.isNone

/-- Whether the wake condition of a record is true. EVENT records are tested when counters move and
every 10 µs, JOIN records wake with their set, FAULT records by their resume. -/
def W.wakeDue (w : W) (f : Nat) : Bool :=
  let x := w.frag f
  let gr := w.group x.gid
  match x.wake with
  | .ready => true
  | .result => true
  | .counter n c => w.count x.gid c ≤ n || 
      (c == .mx && (w.suspended x.gid).any fun e => e.2.1.no + n < w.total x.gid .mx)
  | .chunk win m => w.chunkDue gr.team win m
  | .queue push q => w.queueDue x.gid f push q
  | .range s e => !w.c.spd.ranges.any fun r =>
      r.start = s && r.stop = e && (w.team r.team).core = gr.core
  | .barrier id => w.barrierDue gr.team id
  | .ticket p => w.ticketDue gr.team p
  | .token t => match w.tokView gr.asid t with
    | .waiting => false
    | _ => true
  | .event _ _ => false
  | .child all h => (w.childrenOf gr.team all h).all fun c => c.status.isSome
  | .slot k => w.slotDue x.gid f k
  | .join _ => false
  | .fault _ _ _ => false

/-- Every record whose condition is true wakes; their order is that of R162 whatever the order here. -/
def W.wakeAll (w : W) : W :=
  ((w.c.thr.frags.map Prod.fst).filter fun f => w.waits f && w.wakeDue f).foldl
    (fun w f => w.wake f) w

/-! ## After an issue (06 R163) -/

/-- A fragment of a team that is pre-empted has issued its check point: what is left of it is
written. -/
def W.afterIssue (w : W) (ins : Option Instr) : W :=
  let k := w.c.mdl.cur
  match ins, (w.team (w.group k.gid).team).st, (w.frag k.frag).place with
  | some i, .stopping, .ctx _ =>
    if !checkPoint i then w
    else if (w.frag k.frag).hold.isEmpty then w.writePre k.gid k.frag
    else w.modFrag k.frag fun x => { x with atCheck := true }
  | _, _, _ => w

/-- A held fragment leaves as far as the overflow latch has room; what is left of one held at a check
point of a pre-emption is written with it (06 R161, R163). -/
def W.letGoDue (w : W) (f : Nat) : W :=
  let x := w.frag f
  let w := w.letGo f
  if x.atCheck && (w.frag f).hold.isEmpty && (aget w.c.thr.frags f).isSome then
    let w := w.modFrag f fun y => { y with atCheck := false }
    if (w.team (w.group x.gid).team).st = .stopping then w.writePre x.gid f else w
  else w

def W.letGoAll (w : W) : W :=
  ((w.c.thr.frags.filter fun e => !e.2.hold.isEmpty).map Prod.fst).foldl (fun w f => w.letGoDue f) w

/-! ## After the final EXIT (10 R281, 13 R346) -/

/-- The lanes of a group's final EXIT are there again, at its address. -/
def W.unexit (w : W) (g : Nat) : W :=
  let gr := w.group g
  let w := w.setFrag gr.finFrag { gid := g, lv := gr.vb, ls := gr.ub }
  let w := gr.fin.foldl (fun w l => w.modLane g l fun x =>
    { x with st := .live, pc := gr.finPc, frag := gr.finFrag }) w
  w.modGroup g fun x => { x with fin := [] }

/-- A fault recorded with an operation after the final EXIT, or a suspended matrix operation, is raised
at the lanes of that EXIT. -/
def W.lateExit (w : W) (g : Nat) : W :=
  let gr := w.group g
  let raise := fun (w : W) (cause addr iaddr : Nat) (replay : Bool) =>
    let w := w.unexit g
    let w := w.takeFault g gr.finFrag gr.fin cause addr 0 gr.finPc iaddr replay
    w.dropDone gr.finFrag
  let w' := match gr.deferred, w.suspended g with
    | d :: ds, _ =>
      raise (w.modGroup g fun x => { x with deferred := ds }) d.cause d.addr gr.finPc false
    | [], (id, o, m) :: _ =>
      let sc := m.susp.getD (0, 0)
      raise (w.setOp id { o with kind := .mx { m with raised := true } }) sc.1 sc.2 o.iaddr true
    | [], [] => w
  if (w'.frag gr.finFrag).hold.isEmpty then w' else w

/-- The groups whose final EXIT has issued while operations were outstanding. -/
def W.lateExits (w : W) : W :=
  (w.c.thr.groups.filter fun e => !e.2.fin.isEmpty).foldl (fun w e => w.lateExit e.1) w

/-! ## The end of groups (05 R115) -/

/-- Whether a group is over: its lanes have exited, its operations and results are done, and no stream
of it can go on. -/
def W.groupOver (w : W) (g : Nat) : Bool :=
  let t := (w.group g).team
  w.allExited g && (w.groupFrags g).isEmpty && !(w.c.eng.ops.any fun e => e.2.gid = g)
    && (w.sq g).isEmpty && !(w.c.thr.pends.any fun e => e.2.gid = g)
    && !(w.c.eng.hq.any fun e => e.1.1 = t && (e.2.streams.any fun s => s.gid = g) &&
      (e.2.goes || w.c.thr.groups.any fun k => k.2.team = t && !w.allExited k.1))

/-- Groups that are over leave; what their forwarding buffers hold is still sent (17 R415). -/
def W.reap (w : W) : W :=
  let gs := (w.c.thr.groups.map Prod.fst).filter fun g => w.groupOver g
  if gs.isEmpty then w
  else { w.dropGroups gs with c.fab.bufs := w.c.fab.bufs }

/-! ## Barriers and meeting sets that exits complete (16 R387, 06 R166) -/

def W.barsRecheck (w : W) : W :=
  let w := (w.c.syn.bars.filter fun e => e.2.cnt = some 0).foldl (fun w e =>
    w.barRecheck (.tm e.1.1 e.1.2)) w
  (w.c.syn.cbars.filter fun e => e.2.cnt = some 0).foldl (fun w e =>
    w.barRecheck (.cl e.1.1 e.1.2.1 e.1.2.2)) w

/-- A meeting set that is whole: in a context its lanes issue the JOIN again and are released; records
of it wake. -/
def W.meetDue (w : W) (g m : Nat) : W :=
  if !w.meetingFull g m then w
  else
    let ls := w.meetingSet g m
    let fs := uniq (ls.map fun l => (w.lane g l).frag)
    match fs.find? fun f => match (w.frag f).place with
      | .ctx _ => true
      | _ => false with
    | some f => (w.absorb g f ls).unhold g ls
    | none => (fs.filter fun f => w.waits f).foldl (fun w f => w.wake f) w

def W.meetAll (w : W) : W :=
  (uniq ((w.c.thr.lanes.filter fun e => e.2.st == .held).map fun e => (e.1.1, e.2.meet))).foldl
    (fun w e => w.meetDue e.1 e.2) w

/-! ## The resume FIFO's clock (06 R162) -/

def W.fifoClock (w : W) : W :=
  w.c.cores.foldl (fun w e =>
    match w.fifoHead e.1, (w.core e.1).fifoSince with
    | some _, none => w.modCore e.1 fun x => { x with fifoSince := some w.ac }
    | none, some _ => w.modCore e.1 fun x => { x with fifoSince := none }
    | _, _ => w) w

/-- What has become due by a step happens with it. -/
def W.settle (w : W) (ins : Option Instr) : W :=
  (((((((((w.afterIssue ins).letGoAll).lateExits).reap).barsRecheck).meetAll).wakeAll).spillAll).fifoClock).stuckClock

def settle (ins : Option Instr) (s : State) : State := s.act fun w => w.settle ins

end Sys2Proof.Machine
end

