-- ==== Sys2Proof/Machine/Step.lean ====
section
/-! DEFINITION. One step of the package: the oldest input or event that waits, else the next internal
event, else an ac passes; and the instruction that an issue latched. -/

namespace Sys2Proof.Machine

/-- A step's end: the instruction that an issue latched is performed in the same step, and what has
become due happens. -/
def runLatched (o : Host.Outcome State Fault Refusal) : Host.Outcome State Fault Refusal :=
  match o with
  | .next s => match s.chip.mdl.dec with
    | none => .next (settle none s)
    | some i => match exec i { s with chip.mdl.dec := none } with
      | .next t => .next (settle (some i) t)
      | r => r
  | r => r

/-- One step. -/
def step (s : State) : Host.Outcome State Fault Refusal :=
  match nextStep s with
  | .off => .fault .poweredOff
  | .tick t => .next (settle none t)
  | .event e t => runLatched (exec e t)
  | .auto a t => runLatched (a.run t)

/-- The state with an instruction of the opcode table where the next step fetches: bit 0 of `w` is the
lowest bit of its first byte, the bits from `nbits` up are 0. -/
def State.withFetchWord (s : State) (nbits w : Nat) : State :=
  placeInsn (bytesLE 32 (w % 2 ^ nbits)) s

end Sys2Proof.Machine
end

