-- ==== Sys2Proof/Certificates/Slice0/Obligations.lean ====
section
/-! DEFINITION. The statements for the provers: each `Obligations.<Name>` is a claim about the machine
that a rule of the spec makes, or that follows from several; the words they are said in come first. -/

namespace Sys2Proof.Claim

open Sys2Proof Sys2Proof.Machine

/-! ## The words of the statements -/

/-- The issue that `exec` performs. -/
def now (s : State) : Issue := s.chip.mdl.cur

/-- The lanes that execute: active, with a guard that reads 1 (03 R65). -/
def lanesOf (s : State) (g : Guard) : List Nat := s.toW.execLanes (now s) g

/-- The package after the issue has advanced past the instruction and nothing else has happened
(06 R151); the counter of the free values has moved. -/
def moved (s : State) : W := (s.toW.advance (now s)).bumpFresh

/-- What the sources of the instruction are read from. -/
def rd (s : State) (g : Guard) : Rd := { w := moved s, i := now s, es := lanesOf s g }

/-- The fragment was not resumed by ERET.step (18 R434). -/
def calm (s : State) : Bool := !(s.toW.frag (now s).frag).step

/-- A lane executes, and the fragment is not single-stepped. -/
def runs (s : State) (g : Guard) : Bool := calm s && !(lanesOf s g).isEmpty

/-- The registers, the status and the rest of the package that an instruction did not touch: all of it
but the fields of threads and of the model's own bookkeeping. -/
def sameBeyondThreads (s t : State) : Prop :=
  t.chip.cores = s.chip.cores ∧ t.chip.cch = s.chip.cch ∧ t.chip.spd = s.chip.spd ∧
  t.chip.eng = s.chip.eng ∧ t.chip.slu = s.chip.slu ∧ t.chip.syn = s.chip.syn ∧
  t.chip.fab = s.chip.fab ∧ t.chip.mc = s.chip.mc ∧ t.chip.sys = s.chip.sys ∧
  t.mem = s.mem ∧ t.boot = s.boot

/-- An instruction that computes a function of each executing lane: its guard, its source fields, its
destination and the function. -/
structure LaneRow where
  g : Guard
  srcs : List Opnd
  d : Opnd
  val : Rd → Nat → LOut
  /-- how a lane's words are written -/
  wr : Issue → W → Nat → List Word → W := fun i w l xs => w.dst i d l xs

/-- The state after such an instruction when its queue registers answer and no lane traps: pops by the
executing lanes, their results written, conditions and draws counted, the end predicates, and the push
of the results to a queue destination (02 R38, 03 R60, 06 R151, 12 R319, R320). Absent where a queue
makes the instruction wait or fault, or a lane traps. -/
def LaneRow.after (r : LaneRow) (s : State) : Option State :=
  let i := now s
  let es := lanesOf s r.g
  match (moved s).popAll i.gid es (queueRegs r.srcs) with
  | (w1, .ok (pops, zeros)) =>
    let x : Rd := { w := moved s, i := i, pops := pops, es := es }
    if es.any fun l => (r.val x l).fault.isSome then none
    else
      let w2 := es.foldl (fun w l => r.wr i w l (r.val x l).vals) w1
      let w3 := w2.orFlags i.gid (es.foldl (fun y l => y ||| (r.val x l).flags) 0)
      let w4 := (es.filter fun l => (r.val x l).draw).foldl (fun w l => w.bumpSeq i.gid l) w3
      let w5 := w4.endPreds i.gid es zeros
      match queueOf r.d with
      | none => some (w5.toState s)
      | some q => match w5.push i.gid q (es.map fun l => (r.val x l).vals.headD 0) with
        | (w6, .ok ()) => some (w6.toState s)
        | _ => none
  | _ => none

/-- An instruction completes as its row says: whenever a lane executes, no single step is due and the
queues it names answer. -/
def completes (i : Instr) (r : LaneRow) : Prop :=
  ∀ s t, runs s r.g = true → r.after s = some t → exec i s = .next t

/-- The words of an instruction's encoding as the decoder takes them. -/
def decodesTo (lo hi : Nat) (i : Instr) : Prop :=
  decodeTableWord 128 (lo + 2 ^ 64 * hi) = some i

/-- The fields of an instruction in the 64- and 96-bit form. -/
def alu (d a b c : Opnd) (imm : Option Word := none) (g : Guard := .always) (x : BitVec 4 := 0) : Alu :=
  { g := g, x := x, d := d, a := a, b := b, c := c, imm := imm }

/-! ## Integer arithmetic in the words of 07 -/

/-- A word of an integer: trunc(x, 32) (00 R3). -/
def tr32 (x : Int) : Word := BitVec.ofInt 32 x
def tr64 (x : Int) : Dword := BitVec.ofInt 64 x

/-- ext(x) of a type: sext(x, 32) or zext(x, 32) (07 R184). -/
def ext (t : Sgn) (x : Word) : Int :=
  match t with
  | .s32 => x.toInt
  | .u32 => x.toNat

/-- The conditions of a compare on integers (06 R171). -/
def holds (c : Cc) (a b : Word) : Prop :=
  match c with
  | .eq => a.toNat = b.toNat
  | .ne => a.toNat ≠ b.toNat
  | .lt => a.toInt < b.toInt
  | .le => a.toInt ≤ b.toInt
  | .gt => b.toInt < a.toInt
  | .ge => b.toInt ≤ a.toInt
  | .ltu => a.toNat < b.toNat
  | .leu => a.toNat ≤ b.toNat
  | .gtu => b.toNat < a.toNat
  | .geu => b.toNat ≤ a.toNat

/-- What a row's function has to give: one word with no condition, trap or draw. -/
def gives (r : LaneRow) (k : Rd → Nat → Word) : Prop :=
  ∀ x l, r.val x l = { vals := [k x l] }

/-- A row of one word for each lane. -/
def row1 (f : Alu) (k : Rd → Nat → Word) : LaneRow :=
  { g := f.g, srcs := aluSrcs f, d := f.d, val := fun x l => { vals := [k x l] } }

/-- A row of a register pair for each lane. -/
def row2 (f : Alu) (k : Rd → Nat → Dword) : LaneRow :=
  { g := f.g, srcs := aluSrcs f, d := f.d
    val := fun x l => { vals := [(k x l).setWidth 32, (k x l >>> 32).setWidth 32] } }

/-- The arithmetic instructions of one word (07 R184). -/
def arithRow : Instr → Option LaneRow
  | .add f => some (row1 f fun x l => tr32 ((x.word f.a l).toInt + (x.b f l).toInt))
  | .sub f => some (row1 f fun x l => tr32 ((x.word f.a l).toInt - (x.b f l).toInt))
  | .mul f => some (row1 f fun x l => tr32 ((x.word f.a l).toInt * (x.b f l).toInt))
  | .mulh .s32 f => some (row1 f fun x l => tr32 ((x.word f.a l).toInt * (x.b f l).toInt / 2 ^ 32))
  | .mulh .u32 f =>
    some (row1 f fun x l => BitVec.ofNat 32 ((x.word f.a l).toNat * (x.b f l).toNat / 2 ^ 32))
  | .mulh .su f =>
    some (row1 f fun x l => tr32 ((x.word f.a l).toInt * (x.b f l).toNat / 2 ^ 32))
  | .mad f =>
    some (row1 f fun x l =>
      tr32 ((x.word f.a l).toInt * (x.b f l).toInt + (x.word f.c l).toInt))
  | .imin t f =>
    some (row1 f fun x l =>
      if ext t (x.word f.a l) < ext t (x.b f l) then x.word f.a l else x.b f l)
  | .imax t f =>
    some (row1 f fun x l =>
      if ext t (x.word f.a l) < ext t (x.b f l) then x.b f l else x.word f.a l)
  | .iabs false f => some (row1 f fun x l => tr32 |(x.b f l).toInt|)
  | .iabs true f => some (row1 f fun x l => tr32 (min |(x.b f l).toInt| (2 ^ 31 - 1)))
  | .adds m f =>
    some (row1 f fun x l =>
      let y := if m.sub then ext m.ty (x.word f.a l) - ext m.ty (x.b f l)
        else ext m.ty (x.word f.a l) + ext m.ty (x.b f l)
      match m.ty with
      | .s32 => tr32 (max (-2 ^ 31) (min (2 ^ 31 - 1) y))
      | .u32 => tr32 (max 0 (min (2 ^ 32 - 1) y)))
  | _ => none

/-- The instructions of a register pair (07 R184, R187). -/
def wideRow : Instr → Option LaneRow
  | .madw t f =>
    some (row2 f fun x l =>
      tr64 (ext t (x.word f.a l) * ext t (x.b f l) + (x.pair f.c l).toInt))
  | .add64 f => some (row2 f fun x l => tr64 ((x.pair f.a l).toInt + (x.bPair f l).toInt))
  | .sub64 f => some (row2 f fun x l => tr64 ((x.pair f.a l).toInt - (x.bPair f l).toInt))
  | .mad64 f =>
    some (row2 f fun x l =>
      tr64 ((x.pair f.a l).toInt * (x.bPair f l).toInt + (x.pair f.c l).toInt))
  | .lea m f =>
    some (row2 f fun x l =>
      tr64 ((x.pair f.a l).toInt + ext m.ext (x.b f l) * 2 ^ m.sh.toNat))
  | _ => none

/-- The logic, shift and bit-field instructions, with n the whole value of b (07 R185, R186). -/
def shiftRow : Instr → Option LaneRow
  | .and f => some (row1 f fun x l => x.word f.a l &&& x.b f l)
  | .or f => some (row1 f fun x l => x.word f.a l ||| x.b f l)
  | .xor f => some (row1 f fun x l => x.word f.a l ^^^ x.b f l)
  | .andn f => some (row1 f fun x l => x.word f.a l &&& ~~~x.b f l)
  | .shl f =>
    some (row1 f fun x l => BitVec.ofNat 32
      (if 32 ≤ (x.b f l).toNat then 0 else (x.word f.a l).toNat * 2 ^ (x.b f l).toNat))
  | .shr f =>
    some (row1 f fun x l => BitVec.ofNat 32
      (if 32 ≤ (x.b f l).toNat then 0 else (x.word f.a l).toNat / 2 ^ (x.b f l).toNat))
  | .sar f =>
    some (row1 f fun x l => tr32 ((x.word f.a l).toInt / 2 ^ (min (x.b f l).toNat 31)))
  | .rot .l f =>
    some (row1 f fun x l =>
      let n := (x.b f l).toNat % 32
      BitVec.ofNat 32 ((x.word f.a l).toNat * 2 ^ n + (x.word f.a l).toNat / 2 ^ (32 - n)))
  | .rot .r f =>
    some (row1 f fun x l =>
      let n := (x.b f l).toNat % 32
      BitVec.ofNat 32 ((x.word f.a l).toNat / 2 ^ n + (x.word f.a l).toNat * 2 ^ (32 - n)))
  | .fnl m f =>
    some (row1 f fun x l =>
      let y := (x.b f l).toNat * 2 ^ 32 + (x.word f.a l).toNat
      let k := if m.clamp then min (x.word f.c l).toNat 32 else (x.word f.c l).toNat % 32
      match m.dir with
      | .r => BitVec.ofNat 32 (y / 2 ^ k)
      | .l => BitVec.ofNat 32 (y * 2 ^ k / 2 ^ 32))
  | .bfe t f =>
    some (row1 f fun x l =>
      let len := min ((x.b f l).toNat / 256 % 256) 32
      let y : Int := ext t (x.word f.a l) / 2 ^ ((x.b f l).toNat % 256) % 2 ^ len
      if len = 0 then 0
      else match t with
        | .u32 => tr32 y
        | .s32 => tr32 (if 2 ^ (len - 1) ≤ y then y - 2 ^ len else y))
  | .bfi f =>
    some (row1 f fun x l =>
      let pos := (x.b f l).toNat % 256
      let len := min ((x.b f l).toNat / 256 % 256) 32
      let m := BitVec.ofNat 32 ((2 ^ len - 1) * 2 ^ pos)
      (x.word f.a l &&& ~~~m) ||| (BitVec.ofNat 32 ((x.word f.c l).toNat * 2 ^ pos) &&& m))
  | _ => none

/-- The low bits of the source that a counting instruction reads (07 R187). -/
def countSrc (m : Wid) (f : Alu) (x : Rd) (l : Nat) : Nat :=
  match m with
  | .b32 => (x.b f l).toNat
  | .b64 => (x.bPair f l).toNat

/-- Whether `n` is the place of the highest bit set of `y` counted from the top of `k` bits, or `k` for
zero; and the same from the bottom. -/
def isClz (k y n : Nat) : Prop :=
  (y = 0 → n = k) ∧ (y ≠ 0 → n < k ∧ y.testBit (k - 1 - n) = true ∧
    ∀ j, j < n → y.testBit (k - 1 - j) = false)
def isCtz (k y n : Nat) : Prop :=
  (y = 0 → n = k) ∧ (y ≠ 0 → n < k ∧ y.testBit n = true ∧ ∀ j, j < n → y.testBit j = false)

/-- What POPC, CLZ, CTZ and BREV give for a source of `k` bits (07 R187). -/
def countGives : Instr → (Rd → Nat → List Word) → Prop
  | .popc m f, v => ∀ x l, v x l =
      [BitVec.ofNat 32 (((List.range (if m = .b64 then 64 else 32)).filter fun j =>
        (countSrc m f x l).testBit j).length)]
  | .clz m f, v => ∀ x l, ∃ n, v x l = [BitVec.ofNat 32 n] ∧
      isClz (if m = .b64 then 64 else 32) (countSrc m f x l) n
  | .ctz m f, v => ∀ x l, ∃ n, v x l = [BitVec.ofNat 32 n] ∧
      isCtz (if m = .b64 then 64 else 32) (countSrc m f x l) n
  | .brev .b32 f, v => ∀ x l, ∃ y : Word, v x l = [y] ∧
      ∀ j, j < 32 → y.getLsbD j = (x.b f l).getLsbD (31 - j)
  | .brev .b64 f, v => ∀ x l, ∃ lo hi : Word, v x l = [lo, hi] ∧
      ∀ j, j < 32 → lo.getLsbD j = (x.bPair f l).getLsbD (63 - j) ∧
        hi.getLsbD j = (x.bPair f l).getLsbD (31 - j)
  | _, _ => False

/-- The fields of a counting instruction. -/
def countAlu : Instr → Option Alu
  | .popc _ f | .clz _ f | .ctz _ f | .brev _ f => some f
  | _ => none

/-- Selection, comparison, conversion, moves, permutation and truth tables (07 R187–R191). -/
def selRow : Instr → Option LaneRow
  | .sel f => some (row1 f fun x l => if (x.word f.c l).toNat = 0 then x.b f l else x.word f.a l)
  | .mov f => some (row1 f fun x l => x.b f l)
  | .movi f => some (row1 f fun x l => x.b f l)
  | .plop t f =>
    some (row1 f fun x l =>
      let bit := fun (y : Word) => y.toNat % 2
      BitVec.ofNat 32 (t.toNat / 2 ^ (4 * bit (x.word f.a l) + 2 * bit (x.b f l) + bit (x.word f.c l)) % 2))
  | .pmov .pack f =>
    some (row1 f fun x l => BitVec.ofNat 32
      (((List.range 8).map fun p => if x.w.readP x.i.gid l p then 2 ^ p else 0).sum))
  | .perm f =>
    some
      { g := f.g, d := f.d, srcs := if f.imm.isSome then [f.a, f.b] else [f.a, f.b, f.c]
        val := fun x l =>
          let y := (x.word f.b l).toNat * 2 ^ 32 + (x.word f.a l).toNat
          let byte := fun (n : Nat) =>
            let v := y / 2 ^ (8 * (n % 8)) % 256
            if n / 8 = 0 then v else if 128 ≤ v then 255 else 0
          { vals := [BitVec.ofNat 32 (((List.range 4).map fun k =>
            byte ((x.cImm f l).toNat / 16 ^ k % 16) * 256 ^ k).sum)] } }
  | _ => none

/-- The number that the low bits of x are as a type of ICVT (07 R189). -/
def asType (t : IType) (x : Int) : Int :=
  match t with
  | .u8 => x % 2 ^ 8
  | .s8 => (x + 2 ^ 7) % 2 ^ 8 - 2 ^ 7
  | .u16 => x % 2 ^ 16
  | .s16 => (x + 2 ^ 15) % 2 ^ 16 - 2 ^ 15
  | .u32 => x % 2 ^ 32
  | .s32 => (x + 2 ^ 31) % 2 ^ 32 - 2 ^ 31

/-- The range of a type. -/
def typeMin : IType → Int
  | .s8 => -2 ^ 7 | .s16 => -2 ^ 15 | .s32 => -2 ^ 31 | _ => 0
def typeMax : IType → Int
  | .u8 => 2 ^ 8 - 1 | .s8 => 2 ^ 7 - 1 | .u16 => 2 ^ 16 - 1 | .s16 => 2 ^ 15 - 1
  | .u32 => 2 ^ 32 - 1 | .s32 => 2 ^ 31 - 1

/-- The result of ICVT. -/
def icvtTo (m : IcvtM) (b : Word) : Word :=
  let x := asType m.st b.toNat
  tr32 (if m.sat then max (typeMin m.dt) (min (typeMax m.dt) x) else asType m.dt x)

/-- The word of a compare: all ones with `.m`, 1 without, 0 when it does not hold (07 R188). -/
def isCmp (m : CmpM) (a b y : Word) : Prop :=
  (holds m.cc a b → y = if m.m then 0xFFFFFFFF else 1) ∧ (¬ holds m.cc a b → y = 0)

/-! ## The uniform datapath and single lanes (07 R192–R194) -/

/-- The uniform sources of an instruction. -/
def ua (x : Rd) (f : Alu) : Word := x.word f.a 0
def ub (x : Rd) (f : Alu) : Word := x.b f 0
def uc (x : Rd) (f : Alu) : Word := x.word f.c 0

/-- The halves of a pair, the low one first (03 R59). -/
def halves (x : Dword) : List Word := [x.setWidth 32, (x >>> 32).setWidth 32]

/-- The words that a uniform instruction writes from its destination up (07 R193). -/
def uniVals : Instr → Option (Alu × (Rd → List Word))
  | .uadd .b32 f => some (f, fun x => [tr32 ((ua x f).toInt + (ub x f).toInt)])
  | .uadd .b64 f => some (f, fun x => halves (tr64 ((x.pair f.a 0).toInt + (x.bPair f 0).toInt)))
  | .usub .b32 f => some (f, fun x => [tr32 ((ua x f).toInt - (ub x f).toInt)])
  | .usub .b64 f => some (f, fun x => halves (tr64 ((x.pair f.a 0).toInt - (x.bPair f 0).toInt)))
  | .umul .lo f => some (f, fun x => [tr32 ((ua x f).toInt * (ub x f).toInt)])
  | .umul .hiS f => some (f, fun x => [tr32 ((ua x f).toInt * (ub x f).toInt / 2 ^ 32)])
  | .umul .hiU f =>
    some (f, fun x => [BitVec.ofNat 32 ((ua x f).toNat * (ub x f).toNat / 2 ^ 32)])
  | .umad .lo f =>
    some (f, fun x => [tr32 ((ua x f).toInt * (ub x f).toInt + (uc x f).toInt)])
  | .umad .wideS f =>
    some (f, fun x => halves (tr64 ((ua x f).toInt * (ub x f).toInt + (x.pair f.c 0).toInt)))
  | .umad .wideU f =>
    some (f, fun x => halves (tr64 ((ua x f).toNat * (ub x f).toNat + (x.pair f.c 0).toNat)))
  | .ushf .shl f =>
    some (f, fun x => [BitVec.ofNat 32
      (if 32 ≤ (ub x f).toNat then 0 else (ua x f).toNat * 2 ^ (ub x f).toNat)])
  | .ushf .shr f =>
    some (f, fun x => [BitVec.ofNat 32
      (if 32 ≤ (ub x f).toNat then 0 else (ua x f).toNat / 2 ^ (ub x f).toNat)])
  | .ushf .sar f => some (f, fun x => [tr32 ((ua x f).toInt / 2 ^ (min (ub x f).toNat 31))])
  | .ushf .rotl f =>
    some (f, fun x =>
      let n := (ub x f).toNat % 32
      [BitVec.ofNat 32 ((ua x f).toNat * 2 ^ n + (ua x f).toNat / 2 ^ (32 - n))])
  | .ushf .rotr f =>
    some (f, fun x =>
      let n := (ub x f).toNat % 32
      [BitVec.ofNat 32 ((ua x f).toNat / 2 ^ n + (ua x f).toNat * 2 ^ (32 - n))])
  | .umov .b32 f => some (f, fun x => [ub x f])
  | .umov .b64 f => some (f, fun x => halves (x.bPair f 0))
  | .usel f => some (f, fun x => [if (uc x f).toNat = 0 then ub x f else ua x f])
  | .ulea m f =>
    some (f, fun x => halves (tr64 ((x.pair f.a 0).toInt + ext m.ext (ub x f) * 2 ^ m.sh.toNat)))
  | .rdfl .b32 f => some (f, fun x => [x.run f.a 0 (x.es.headD 0)])
  | .rdfl .b64 f => some (f, fun x => [x.run f.a 0 (x.es.headD 0), x.run f.a 1 (x.es.headD 0)])
  | .rdln .b32 f =>
    some (f, fun x =>
      let l := (ub x f).toNat % 64
      [if l ∈ x.es then x.run f.a 0 l else 0])
  | .rdln .b64 f =>
    some (f, fun x =>
      let l := (ub x f).toNat % 64
      [if l ∈ x.es then x.run f.a 0 l else 0, if l ∈ x.es then x.run f.a 1 l else 0])
  | _ => none

/-- The state with words written once from a destination up. -/
def wroteOnce (s : State) (d : Opnd) (xs : List Word) : State :=
  ((moved s).dst (now s) d 0 xs).toState s

/-! ## The lane network (07 R196–R202) -/

/-- A row whose results are a word and a flag for the predicate that MOD[2:0] names. -/
def okRow (f : Alu) (v : Rd → Nat → Word × Bool) : LaneRow :=
  { g := f.g, srcs := aluSrcs f, d := .sp .zero
    val := fun x l => { vals := [(v x l).1, wordOfBool (v x l).2] }, wr := okWrite f }

/-- The segment of a shuffle in a group of width W (07 R197). -/
def segOfWidth (s : Seg) (width : Nat) : Nat :=
  match s with
  | .width => width
  | .s2 => min 2 width | .s4 => min 4 width | .s8 => min 8 width
  | .s16 => min 16 width | .s32 => min 32 width | .s64 => min 64 width

/-- Whether lane `k` is the source that a shuffle names for lane `l`, in segments of `s` (07 R197). -/
def shflTo (m : ShflMode) (s l n k : Nat) : Prop :=
  let base := l - l % s
  match m with
  | .idx => k = base + n % s
  | .up => k + n = l ∧ base ≤ k
  | .down => k = l + n ∧ k < base + s
  | .xor => k = base + ((l - base) ^^^ (n % s))

/-- What lane `l` receives when `k` says which lane it reads: the value and its validity. -/
def received (x : Rd) (f : Alu) (l : Nat) (src : Nat → Prop) (y : Word × Bool) : Prop :=
  (∀ k, src k → k ∈ x.es → y = (x.word f.a k, true)) ∧
  (∀ k, src k → k ∉ x.es → k ∈ x.i.idle → y = (0, true)) ∧
  ((∀ k, src k → k ∉ x.es ∧ k ∉ x.i.idle) → y = (x.word f.a l, false))

/-- The sign bits that SWAPP flips. -/
def flipped (m : Flip) (x : Word) : Word :=
  match m with
  | .none => x
  | .ng => x ^^^ 0x80000000
  | .ng2 => x ^^^ 0x80008000

/-- What lane `l` receives from its partner in SWAPP. -/
def swapped (m : SwapM) (x : Rd) (f : Alu) (l : Nat) (y : Word × Bool) : Prop :=
  ∃ z : Word × Bool,
    received x f l (fun k => k = l ^^^ 2 ^ m.k.val ∧ k < x.width) z ∧
    y = (if z.2 = true ∧ l.testBit m.k.val = false then flipped m.flip z.1 else z.1, z.2)

/-- A pair that holds a mask of lanes. -/
def maskPair (p : Nat → Prop) (xs : List Word) : Prop :=
  ∃ lo hi : Word, xs = [lo, hi] ∧
    ∀ j, j < 32 → (lo.getLsbD j = true ↔ p j) ∧ (hi.getLsbD j = true ↔ p (j + 32))

/-- The contributors of GRED and GSCAN by lane position (07 R196, R200). -/
def contributor (x : Rd) (f : Alu) (k : Nat) : Option Word :=
  if x.width ≤ k then none
  else if k ∈ x.es then some (x.word f.a k)
  else if k ∈ x.i.idle then some 0 else none

/-- The combination of an operation on integers, from its identity (07 R200). -/
def intCombine : RedOp → Option ((Word → Word → Word) × Word)
  | .addU => some (fun x y => x + y, 0)
  | .minS => some (fun x y => if x.toInt < y.toInt then x else y, 0x7FFFFFFF)
  | .maxS => some (fun x y => if x.toInt < y.toInt then y else x, 0x80000000)
  | .minU => some (fun x y => if x.toNat < y.toNat then x else y, 0xFFFFFFFF)
  | .maxU => some (fun x y => if x.toNat < y.toNat then y else x, 0)
  | .and => some (fun x y => x &&& y, 0xFFFFFFFF)
  | .or => some (fun x y => x ||| y, 0)
  | .xor => some (fun x y => x ^^^ y, 0)
  | _ => none

/-- The contributors below lane `n` combined from the identity, in ascending lane order. -/
def combined (c : (Word → Word → Word) × Word) (x : Rd) (f : Alu) (n : Nat) : Word :=
  ((List.range n).filterMap (contributor x f)).foldl c.1 c.2

/-- One combination of operands that may be absent, with the conditions it raises (07 R200, R201). -/
def combine2 (o : RedOp) (ftz : Bool) (x y : Option Word × BitVec 5) : Option Word × BitVec 5 :=
  match x.1, y.1 with
  | some a, some b => (some (redStep o ftz a b).1, x.2 ||| y.2 ||| (redStep o ftz a b).2)
  | some a, none => (some a, x.2 ||| y.2)
  | none, b => (b, x.2 ||| y.2)

/-- The fixed tree of GRED: position `i` after the levels s = 1, 2, 4, .. 2^(k-1) (07 R200). -/
def treeAt (o : RedOp) (ftz : Bool) (v : Nat → Option Word) : Nat → Nat → Option Word × BitVec 5
  | 0, i => (v i, 0)
  | k + 1, i => combine2 o ftz (treeAt o ftz v k i) (treeAt o ftz v k (i + 2 ^ k))

/-- The scan of a float form: left to right from the identity, with its conditions. -/
def scanAt (o : RedOp) (ftz : Bool) (ident : Word) (xs : List Word) : Word × BitVec 5 :=
  xs.foldl (fun a y => ((redStep o ftz a.1 y).1, a.2 ||| (redStep o ftz a.1 y).2)) (ident, 0)

/-- NV when a contributor is a signalling NaN (07 R201). -/
def snanOf (x : Rd) (f : Alu) : BitVec 5 :=
  if ((List.range x.width).filterMap (contributor x f)).any fun y => (fp32.dec y.toNat).isSnan
  then flagNV else 0

/-- The identities of the float forms: +0, +∞, −∞. -/
def floatIdent : RedOp → Option Word
  | .addF => some 0
  | .minF => some 0x7F800000
  | .maxF => some 0xFF800000
  | _ => none

/-! ## Floating point (02 R24–R40, 08) -/

/-- A row whose results are conversions, with their conditions, and a draw in sr (02 R36, 08 R205). -/
def cvRow (f : Alu) (rm : Rnd) (k : Rd → Nat → List Cv) : LaneRow :=
  { g := f.g, srcs := aluSrcs f, d := f.d
    val := fun x l =>
      let fl := (k x l).foldl (fun (y : BitVec 5) c => y ||| c.flags) 0
      match trapCause (x.w.fpctl x.i.gid) fl with
      | some c => { flags := fl, fault := some (c, 0) }
      | none =>
        { vals := (k x l).map fun c => BitVec.ofNat 32 c.code, flags := fl, draw := decide (rm = .sr) } }

/-- The values of a, b and c as FP32 operands under FTZ (02 R37). -/
def va (x : Rd) (f : Alu) (l : Nat) : Fv := x.f32 (x.word f.a l)
def vb (x : Rd) (f : Alu) (l : Nat) : Fv := x.f32 (x.b f l)
def vc (x : Rd) (f : Alu) (l : Nat) : Fv := x.f32 (x.word f.c l)

/-- The arithmetic of one FP32 result: the exact sum, product, quotient or root, rounded once in the
mode (08 R208, R209), and minima and maxima (08 R210). -/
def floatRow : Instr → Option LaneRow
  | .fadd m f => some (cvRow f m fun x l => [addWide fp32 x.ftz m (x.rnd l 0) (va x f l) (vb x f l)])
  | .fsub m f =>
    some (cvRow f m fun x l => [addWide fp32 x.ftz m (x.rnd l 0) (va x f l)
      (if (vb x f l).isNan then vb x f l else (vb x f l).flip)])
  | .fmul m f => some (cvRow f m fun x l => [mulWide fp32 x.ftz m (x.rnd l 0) (va x f l) (vb x f l)])
  | .ffma m f =>
    some (cvRow f m fun x l => [fmaWide fp32 x.ftz m (x.rnd l 0) (va x f l) (vb x f l) (vc x f l)])
  | .fdiv m f => some (cvRow f m fun x l => [divWide x.ftz m (x.rnd l 0) (va x f l) (vb x f l)])
  | .fsqrt m f => some (cvRow f m fun x l => [sqrtWide x.ftz m (x.rnd l 0) (vb x f l)])
  | .fldexp m f =>
    some (cvRow f m fun x l => [ldexpWide x.ftz m (x.rnd l 0) (va x f l) (x.b f l).toInt])
  | .frint m f => some (cvRow f m fun x l => [rintWide m (x.rnd l 0) (vb x f l)])
  | .ffrac f => some (cvRow f .rne fun x l => [fracWide x.ftz (vb x f l)])
  | .fmin m f => some (cvRow f .rne fun x l => [minMaxWide false m (va x f l) (vb x f l)])
  | .fmax m f => some (cvRow f .rne fun x l => [minMaxWide true m (va x f l) (vb x f l)])
  | .fclass f => some (row1 f fun x l => 1#32 <<< classBit (x.b f l))
  | _ => none

/-- The approximate functions (08 R213, R214). -/
def approxRow : Instr → Option LaneRow
  | .frcp f => some (cvRow f .rne fun x l => [Tfn.rcp.eval x.ftz (x.b f l)])
  | .frsq f => some (cvRow f .rne fun x l => [Tfn.rsq.eval x.ftz (x.b f l)])
  | .fexp2 f => some (cvRow f .rne fun x l => [Tfn.exp2.eval x.ftz (x.b f l)])
  | .flog2 f => some (cvRow f .rne fun x l => [Tfn.log2.eval x.ftz (x.b f l)])
  | .fsin f => some (cvRow f .rne fun x l => [Tfn.sin.eval x.ftz (x.b f l)])
  | .fcos f => some (cvRow f .rne fun x l => [Tfn.cos.eval x.ftz (x.b f l)])
  | .fsinpi f => some (cvRow f .rne fun x l => [Tfn.sinpi.eval x.ftz (x.b f l)])
  | .fcospi f => some (cvRow f .rne fun x l => [Tfn.cospi.eval x.ftz (x.b f l)])
  | .ftanh f => some (cvRow f .rne fun x l => [Tfn.tanh.eval x.ftz (x.b f l)])
  | .fsincos f =>
    some (cvRow f .rne fun x l => [Tfn.sin.eval x.ftz (x.b f l), Tfn.cos.eval x.ftz (x.b f l)])
  | _ => none

/-- The approximate functions and what each computes of its operand b (08 R213, R214). -/
def approxFns : Instr → Option (Alu × List Tfn)
  | .frcp f => some (f, [.rcp])
  | .frsq f => some (f, [.rsq])
  | .fexp2 f => some (f, [.exp2])
  | .flog2 f => some (f, [.log2])
  | .fsin f => some (f, [.sin])
  | .fcos f => some (f, [.cos])
  | .fsinpi f => some (f, [.sinpi])
  | .fcospi f => some (f, [.cospi])
  | .ftanh f => some (f, [.tanh])
  | .fsincos f => some (f, [.sin, .cos])
  | _ => none

/-- Part `j` of `n` bits of a word. -/
def partOf (x : Word) (n j : Nat) : Nat := x.toNat / 2 ^ (n * j) % 2 ^ n

/-- Two results of 16 bits in one word, the conditions together (08 R220). -/
def twoHalves (lo hi : Cv) : Cv :=
  { code := lo.code + hi.code * 2 ^ 16, flags := lo.flags ||| hi.flags }

/-- A packed instruction: each half on its own (08 R220). -/
def halfRow (f : Alu) (m : Rnd) (fmt : Fmt) (k : Bool → Nat → Fv → Fv → Fv → Cv) : LaneRow :=
  cvRow f m fun x l =>
    let p := fun (y : Word) h => readWide fmt x.ftz (partOf y 16 h)
    let at_ := fun h => k x.ftz (x.rnd l h) (p (x.word f.a l) h) (p (x.b f l) h) (p (x.word f.c l) h)
    [twoHalves (at_ 0) (at_ 1)]

/-- Packed halves and dot products (08 R220, R221). -/
def packedRow : Instr → Option LaneRow
  | .hadd2 m f => some (halfRow f m fp16 fun z r a b _ => addWide fp16 z m r a b)
  | .hmul2 m f => some (halfRow f m fp16 fun z r a b _ => mulWide fp16 z m r a b)
  | .hfma2 m f => some (halfRow f m fp16 fun z r a b c => fmaWide fp16 z m r a b c)
  | .bfma2 m f => some (halfRow f m bf16 fun z r a b c => fmaWide bf16 z m r a b c)
  | .fdot2 m f =>
    some (cvRow f m.rm fun x l =>
      let fmt := if m.bf then bf16 else fp16
      let p := fun (y : Word) j => readWide fmt x.ftz (partOf y 16 j)
      [dotWide x.ftz m.rm (x.rnd l 0)
        [(p (x.word f.a l) 0, p (x.b f l) 0), (p (x.word f.a l) 1, p (x.b f l) 1)] [vc x f l]])
  | .fdot4 m f =>
    some (cvRow f m.rm fun x l =>
      let p := fun (five : Bool) (y : Word) j => (if five then e5m2 else e4m3).dec (partOf y 8 j)
      [dotWide x.ftz m.rm (x.rnd l 0)
        ((List.range 4).map fun j => (p m.a5 (x.word f.a l) j, p m.b5 (x.b f l) j)) [vc x f l]])
  | _ => none

/-- The elements that a packed word of a format holds, and the mode of FPACK (08 R217). -/
def packCount (m : BitVec 8) : Nat := packN m
def packMode (f : Alu) : Rnd :=
  match f.x.toNat % 8 with
  | 1 => .rz | 2 => .ru | 3 => .rd | 4 => .sr | _ => .rne

/-- The conversions (08 R216–R219). -/
def convRow : Instr → Option LaneRow
  | .fcvt m f => some (cvRow f m.rm fun x l => [Machine.cvtOf m x.ftz (x.rnd l 0) (x.b f l)])
  | .fpack m f =>
    some (cvRow f (packMode f) fun x l =>
      let cs := (List.range (packCount m)).map fun j =>
        writeWide (packFmt m (x.b f l)) x.ftz (packMode f) (x.rnd l j) (x.f32 (x.run f.a j l))
      [{ code := (cs.zipIdx.map fun e => e.1.code * 2 ^ (32 / packCount m * e.2)).sum
         flags := cs.foldl (fun (y : BitVec 5) c => y ||| c.flags) 0 }])
  | .funpk m f =>
    some (cvRow f .rne fun x l => (List.range (packCount m)).map fun j =>
      writeWide fp32 x.ftz .rne 0 (readWide (packFmt m (x.b f l)) x.ftz
        (partOf (x.word f.a l) (32 / packCount m) j % 2 ^ (packFmt m (x.b f l)).width)))
  | .fsrnd m f =>
    some
      { g := f.g, srcs := aluSrcs f, d := f.d
        val := fun x l =>
          let c := writeWide (fmtOf m.toNat) x.ftz .sr (x.b f l).toNat (va x f l)
          fpOut x [BitVec.ofNat 32 (fp32.conv .rne 0 ((fmtOf m.toNat).dec c.code)).code] c.flags }
  | _ => none

/-! ## Spectral packets (08 R222–R229) -/

/-- Element i of an operand: of a packet, or the scalar for every i; IMM stands for b (08 R222). -/
def el (x : Rd) (o : Opnd) (i l : Nat) : Word :=
  match o with
  | .w n => x.w.readV x.i.gid l (16 * n.val + i)
  | o => x.word o l
def elB (x : Rd) (f : Alu) (i l : Nat) : Word :=
  match f.imm with
  | some y => y
  | none => el x f.b i l
def ea' (x : Rd) (f : Alu) (i l : Nat) : Fv := x.f32 (el x f.a i l)
def eb' (x : Rd) (f : Alu) (i l : Nat) : Fv := x.f32 (elB x f i l)
def ec' (x : Rd) (f : Alu) (i l : Nat) : Fv := x.f32 (el x f.c i l)

/-- Sixteen results. -/
def sixteen (f : Alu) (k : Rd → Nat → Nat → Cv) : LaneRow :=
  cvRow f .rne fun x l => (List.range 16).map fun i => k x i l

/-- The instructions that act on each element, and the sums (08 R225, R226). -/
def packetRow : Instr → Option LaneRow
  | .wmov _ f =>
    some
      { g := f.g, srcs := aluSrcs f, d := f.d
        val := fun x l => { vals := (List.range 16).map fun i => elB x f i l } }
  | .wadd f => some (sixteen f fun x i l => addWide fp32 x.ftz .rne 0 (ea' x f i l) (eb' x f i l))
  | .wmul f => some (sixteen f fun x i l => mulWide fp32 x.ftz .rne 0 (ea' x f i l) (eb' x f i l))
  | .wfma f =>
    some (sixteen f fun x i l =>
      fmaWide fp32 x.ftz .rne 0 (ea' x f i l) (eb' x f i l) (ec' x f i l))
  | .wmin m f => some (sixteen f fun x i l => minMaxWide false m (ea' x f i l) (eb' x f i l))
  | .wmax m f => some (sixteen f fun x i l => minMaxWide true m (ea' x f i l) (eb' x f i l))
  | .wrcp f => some (sixteen f fun x i l => Tfn.rcp.eval x.ftz (elB x f i l))
  | .wexpn f => some (sixteen f fun x i l => expnOut x.ftz (el x f.a i l) (elB x f i l))
  | .wlerp f =>
    some (sixteen f fun x i l => lerpWide x.ftz (ea' x f i l) (eb' x f i l) (ec' x f i l))
  | .wsum f =>
    some (cvRow f .rne fun x l =>
      [dotWide x.ftz .rne 0 [] ((List.range 16).map fun i => eb' x f i l)])
  | .wdot f =>
    some (cvRow f .rne fun x l =>
      [dotWide x.ftz .rne 0 ((List.range 16).map fun i => (ea' x f i l, eb' x f i l)) []])
  | _ => none

/-- One wavelength of SMUEL: the four Stokes sums of products, or of a rotation (08 R229). -/
def stokes (m : Bool) (x : Rd) (f : Alu) (l i : Nat) : List (List (Fv × Fv) × List Fv) :=
  let s := fun j => x.f32 (x.run f.a (16 * j + i) l)
  let p := fun j => x.f32 (x.run f.b (16 * j + i) l)
  let neg := fun (v : Fv) => if v.isNan then v else v.flip
  if m then
    let b := eb' x f i l
    let c := ec' x f i l
    [([], [s 0]), ([(b, s 1), (c, s 2)], []), ([(neg c, s 1), (b, s 2)], []), ([], [s 3])]
  else
    [([(p 0, s 0), (p 1, s 1)], []), ([(p 1, s 0), (p 0, s 1)], []),
     ([(p 2, s 2), (p 3, s 3)], []), ([(neg (p 3), s 2), (p 2, s 3)], [])]

/-- The wavelengths, the compact packets, reflectance and polarisation (08 R223, R224, R227–R229). -/
def lightRow : Instr → Option LaneRow
  | .wlam f =>
    some
      { g := f.g, srcs := aluSrcs f, d := f.d
        val := fun x l =>
          match wlamOut (x.w.srReg (x.w.group x.i.gid).asid .wlrange) x.ftz (x.b f l) with
          | none => { fault := some (Cause.spectralRange, 0) }
          | some cs => (cvRow f .rne fun _ _ => cs).val x l }
  | .wcvt true f =>
    some (cvRow f .rne fun x l => (List.range 16).map fun i =>
      fp32.conv .rne 0 (fp16.dec (partOf (x.run f.b (i / 2) l) 16 (i % 2))))
  | .wcvt false f =>
    some (cvRow f .rne fun x l => (List.range 8).map fun j =>
      twoHalves (fp16.conv .rne 0 (eb' x f (2 * j) l)) (fp16.conv .rne 0 (eb' x f (2 * j + 1) l)))
  | .wfres false f =>
    some (sixteen f fun x i l =>
      (fresOut x.ftz (el x f.a i l) (elB x f i l) (el x f.c i l)).2.2)
  | .wfres true f =>
    some (cvRow f .rne fun x l =>
      let k := fun i => fresOut x.ftz (el x f.a i l) (elB x f i l) (el x f.c i l)
      (List.range 16).map (fun i => (k i).1) ++ (List.range 16).map fun i => (k i).2.1)
  | .smuel m f =>
    some (cvRow f .rne fun x l => ((List.range 4).map fun j => (List.range 16).map fun i =>
      let t := (stokes m x f l i).getD j ([], [])
      dotWide x.ftz .rne 0 t.1 t.2).flatten)
  | _ => none

/-- The word of FCMP. -/
def fcmpWord (m : FcmpM) (a b : Fv) : Word :=
  let uno := a.isNan || b.isNan
  let h : Bool := match m.cc with
    | .eq => !uno && fvEq a b
    | .ne => uno || !fvEq a b
    | .lt => !uno && fvLt a b
    | .le => !uno && (fvLt a b || fvEq a b)
    | .gt => !uno && fvLt b a
    | .ge => !uno && (fvLt b a || fvEq a b)
    | .ord => !uno
    | .uno => uno
  if h then (if m.m then 0xFFFFFFFF else 1) else 0

/-- The condition of FCMP: NV for any NaN in the ordered compares, else for a signalling one
(08 R211). -/
def fcmpFlags (m : FcmpM) (a b : Fv) : BitVec 5 :=
  let loud := match m.cc with
    | .lt | .le | .gt | .ge => a.isNan || b.isNan
    | _ => a.isSnan || b.isSnan
  if loud then flagNV else 0

/-! ## Transfers of control (06 R165–R180) -/

/-- Checks of R170 that a target passes. -/
def goodTarget (t : Dword) : Bool := t.toNat % 4 = 0 && t.toNat < 2 ^ 50 && t.toNat % 32 ≠ 28

/-- The fault of a target that does not: the first check, then the second (06 R170). -/
def badTarget (t : Dword) : Nat × Nat :=
  if t.toNat % 4 = 0 ∧ t.toNat < 2 ^ 50 then (Cause.fetchStraddle, t.toNat)
  else (Cause.instrFetchFault, t.toNat)

/-- Issuing PC plus four times the sign-extended IMM (03 R68). -/
def labelOf (i : Issue) (f : Alu) : Dword :=
  BitVec.ofInt 64 (i.pc + 4 * (f.imm.getD 0).toInt)

/-- A lane sent to the target in two words; its fragment issues again 2 ac later (06 R138). -/
def sent (i : Issue) (w : W) (l : Nat) (xs : List Word) : W :=
  match xs with
  | a :: b :: _ =>
    (w.modLane i.gid l fun x => { x with pc := a.toNat + 2 ^ 32 * b.toNat }).modFrag i.frag
      fun x => { x with notBefore := w.ac + 2 }
  | _ => w

/-- What a lane of a transfer gives: its target, or the fault of it. -/
def aims (t : Dword) : LOut :=
  if goodTarget t then { vals := halves t } else { fault := some (badTarget t) }

/-- The address after the instruction, past a skip word (03 R62). -/
def after62 (i : Issue) : Dword :=
  BitVec.ofNat 64 (if (i.pc + i.len) % 32 = 28 then i.pc + i.len + 4 else i.pc + i.len)

/-- A comparison of BRC (06 R171). -/
def ccTrue (m : Cc) (a b : Word) : Bool :=
  match m with
  | .eq => a = b
  | .ne => a ≠ b
  | .lt => a.toInt < b.toInt
  | .le => a.toInt ≤ b.toInt
  | .gt => b.toInt < a.toInt
  | .ge => b.toInt ≤ a.toInt
  | .ltu => a.toNat < b.toNat
  | .leu => a.toNat ≤ b.toNat
  | .gtu => b.toNat < a.toNat
  | .geu => b.toNat ≤ a.toNat

/-- A lane of a group. -/
def laneOf (x : Rd) (l : Nat) : Lane := x.w.lane x.i.gid l

/-- The lane's call depth, and its meeting register. -/
def deeper (w : W) (i : Issue) (l : Nat) : W :=
  w.modLane i.gid l fun x => { x with depth := x.depth + 1 }
def shallower (w : W) (i : Issue) (l : Nat) : W :=
  w.modLane i.gid l fun x => { x with depth := x.depth - 1 }
def meets (w : W) (i : Issue) (l m : Nat) : W :=
  w.modLane i.gid l fun x => { x with meet := m }

/-- A transfer as a function of each lane. -/
def goRow (f : Alu) (srcs : List Opnd) (val : Rd → Nat → LOut)
    (wr : Issue → W → Nat → List Word → W := sent) : LaneRow :=
  { g := f.g, srcs := srcs, d := .p 7, val := val, wr := wr }

/-- Transfers but CALLX (06 R171–R174, R176). -/
def transferRow : Instr → Option LaneRow
  | .bra f => some (goRow f [] fun x _ => aims (labelOf x.i f))
  | .brc m f => some (goRow f [f.a, f.b] fun x l =>
      if ccTrue m (x.word f.a l) (x.word f.b l) then aims (labelOf x.i f) else {})
  | .brx f => some (goRow f [] fun x l => aims (x.pair f.a l))
  | .call f => some (goRow f []
      (fun x l =>
        if goodTarget (labelOf x.i f) ∧ (laneOf x l).depth = 255 then
          { fault := some (Cause.callDepth, 0) }
        else aims (labelOf x.i f))
      fun i w l xs => sent i (deeper (w.dst i f.d l (halves (after62 i))) i l) l xs)
  | .ret f => some (goRow f []
      (fun x l =>
        if (laneOf x l).depth = 0 then { fault := some (Cause.callDepth, 0) }
        else aims (x.pair f.a l))
      fun i w l xs => sent i (shallower w i l) l xs)
  | .meet f => some (goRow f []
      (fun x l => { vals := halves (BitVec.ofNat 64 (laneOf x l).meet) })
      fun i w l xs => meets (w.dst i f.d l xs) i l ((labelOf i f).toNat % 2 ^ 56))
  | _ => none

/-- CALLX after its budget checks (06 R175). -/
def callxRow (f : Alu) : LaneRow :=
  goRow f []
    (fun x l =>
      if goodTarget (x.pair f.a l) ∧ (laneOf x l).depth = 255 then
        { fault := some (Cause.callDepth, 0) }
      else aims (x.pair f.a l))
    fun i w l xs =>
      let m : Dword := BitVec.ofNat 64 (w.lane i.gid l).meet
      let w := w.dst i f.d l (halves (after62 i) ++ halves m)
      sent i (deeper (meets w i l (after62 i).toNat) i l) l xs

/-- A block in the instruction cache of a core, with a NOP.entry at an address that declares budgets
within those of the group (03 R90). -/
def declaredWithin (s : State) (t : Dword) : Prop :=
  ∃ bs g n, aget ((moved s).core (now s).core).icache
      (((moved s).group (now s).gid).asid, t.toNat / 32 * 32) = some bs ∧
    checkBytes true 256 192 (t.toNat % 32) bs = .ok (.nopEntry g) n ∧
    g.a.code ≤ ((moved s).group (now s).gid).vb ∧ g.b.code ≤ ((moved s).group (now s).gid).ub

/-- The end of an instruction whose lanes leave. Where the overflow latch has no room for a record, the
lanes are held in their context until it has (06 R161); the operations that make lanes leave say so. -/
def leaving (s : State) (w : W) : State := w.toState s

/-- All executing lanes leave, to wait (06 R152). -/
def allWait (s : State) (g : Guard) (k : Wake) : State :=
  leaving s ((moved s).parkLanes (now s) (lanesOf s g) k)

/-- Lanes leave by a fault each, the others having done what `w` says (06 R164, 18 R427). -/
def faulting (s : State) (w : W) (fs : List LFault) : State :=
  leaving s ((w.takeFaults (now s).gid (now s).frag fs ((moved s).faultPc (now s) fs) (now s).pc
    (now s).replay).shed (now s).gid (now s).frag)

/-- Every executing lane leaves by one fault, and nothing else has happened. -/
def allFault (s : State) (g : Guard) (cause : Nat) (addr : Nat := 0) : State :=
  faulting s (moved s) ((lanesOf s g).map fun l => { lane := l, cause := cause, addr := addr })

/-- Lanes held at their JOIN. -/
def heldAt (w : W) (i : Issue) (ls : List Nat) : W :=
  ls.foldl (fun w l => w.modLane i.gid l fun x => { x with st := .held, pc := i.pc }) w

/-- The release of a meeting set: its lanes are loaded into the context of the issue, each takes the
meeting address of its own pair and goes on past the JOIN (06 R166, R177). -/
def released (w : W) (i : Issue) (a : Opnd) : W :=
  let set := w.meetingSet i.gid i.pc
  let w := (w.absorb i.gid i.frag set).unhold i.gid set
  let m := fun l => (({ w := w, i := i } : Rd).pair a l).toNat % 2 ^ 56 / 4 * 4
  (set.map fun l => (l, m l)).foldl (fun w e => w.modLane i.gid e.1 fun x =>
    { x with meet := e.2, pc := (after62 i).toNat }) w

/-- Every lane of the group that has exited is idle (06 R167). -/
def idled (w : W) (g : Nat) : W :=
  (w.allLanes g).foldl (fun w l =>
    if (w.lane g l).st = .exited then w.modLane g l fun x => { x with st := .idle } else w) w

/-- The lanes at their meeting point, and those that have none. -/
def atJoin (s : State) (g : Guard) : List Nat :=
  (lanesOf s g).filter fun l => ((moved s).lane (now s).gid l).meet = (now s).pc
def noJoin (s : State) (g : Guard) : List Nat :=
  (lanesOf s g).filter fun l => ((moved s).lane (now s).gid l).meet = 0

/-- The state of the package as a JOIN leaves it before lanes that may leave. -/
def joined (s : State) (f : Alu) (fin : Bool) : W :=
  let w := heldAt (moved s) (now s) (atJoin s f.g)
  if (atJoin s f.g).isEmpty ∨ w.meetingFull (now s).gid (now s).pc = false then w
  else if fin then idled (released w (now s) f.a) (now s).gid else released w (now s) f.a

/-- Lanes that the EXIT of the issue leaves in the group. -/
def lastToExit (s : State) (g : Guard) : Bool :=
  ((moved s).allLanes (now s).gid).all fun l => (lanesOf s g).contains l ||
    decide (((moved s).lane (now s).gid l).st = .exited ∨
      ((moved s).lane (now s).gid l).st = .idle)

/-- The executing lanes exit, and their tasks complete. -/
def exited (s : State) (g : Guard) : W := (moved s).exitLanes (now s).gid (lanesOf s g)

/-- The fragment of an EXIT ends without lanes; of the last one, what a late fault of its operations
needs is kept. -/
def exitEnd (s : State) (g : Guard) : State :=
  leaving s <|
    if lastToExit s g then (exited s g).lastExit (now s) (lanesOf s g)
    else if ((exited s g).fragLanes (now s).gid (now s).frag).isEmpty then
      (exited s g).dropFrag (now s).frag
    else (exited s g).shed (now s).gid (now s).frag

/-! ## Barriers, tickets and hand-offs (16 R386–R396) -/

/-- The group of the issue, its team and grid. -/
def grp (s : State) : Group := (moved s).group (now s).gid
def teamNo (s : State) : Nat := (grp s).team
def tm (s : State) : Team := (moved s).team (teamNo s)

/-- The executing lanes arrive with a count at a barrier (16 R387, R388): a release; the arrivals are
added in one step, and the phase completes when all have come. -/
def arriveAll (s : State) (x : BarAt) (n : Nat) (es : List Nat) : W :=
  let w := (moved s).releaseAt (now s).gid x.scope
  let b := w.bar x.key
  let b1 : Barrier := { b with
    arr := b.arr + es.length, cnt := some n
    who := if n = 0 then b.who ++ es.map (fun l => ((now s).gid, l)) else b.who }
  let w1 := w.setBar x.key b1
  if (if n = 0 then w1.barFull x.key = true else b1.arr = n) then w1.barDone x.key else w1

/-- Whether the lanes may arrive with that count (16 R387). -/
def mayArrive (s : State) (x : BarAt) (n : Nat) (es : List Nat) : Prop :=
  let b := ((moved s).releaseAt (now s).gid x.scope).bar x.key
  (b.cnt = none ∨ b.cnt = some n) ∧
  (n ≠ 0 → b.arr + es.length ≤ n) ∧
  (n = 0 → (∀ o, (((moved s).releaseAt (now s).gid x.scope).group (now s).gid).kind ≠ .task o) ∧
    ∀ l ∈ es, ((now s).gid, l) ∉ b.who)

/-- The phase of a barrier before the issue. -/
def phaseOfBar (s : State) (x : BarAt) : Nat := ((moved s).bar x.key).phase

/-- The wait for a barrier's phase (16 R391). -/
def barWait (x : BarAt) (k : Nat) : Wake := .barrier (barId x.kind k x.n)

/-- BARA and CBAR.arr when the lanes may arrive: DST takes the phase before (16 R390). -/
def baraDone (s : State) (x : BarAt) (n : Nat) (f : Alu) : State :=
  let w := arriveAll s x n (lanesOf s f.g)
  (if f.d = .v 0 then w else w.dst (now s) f.d 0 [BitVec.ofNat 32 (phaseOfBar s x)]).toState s

/-- BAR and CBAR when the lanes may arrive: they depart when their phase is complete, else they leave
and remember their phase (16 R388, R390). -/
def barArrive (s : State) (x : BarAt) (n : Nat) (g : Guard) : State :=
  let i := now s
  let es := lanesOf s g
  let k := phaseOfBar s x
  let w := arriveAll s x n es
  if ((w.bar x.key).phase + 65536 - k) % 65536 = 0 then
    leaving s ((w.begin_ i.gid es (some (i.pc, k))).parkLanes i es (barWait x k))
  else ((w.begin_ i.gid es none).acquireAt i.gid x.scope).toState s

/-- BARW and CBAR.wt (16 R390): past, present and future phases. -/
def barwDone (s : State) (x : BarAt) (k : Nat) (g : Guard) : State :=
  let gap := (phaseOfBar s x + 65536 - k) % 65536
  if gap = 0 then allWait s g (barWait x k)
  else if gap < 32768 then ((moved s).acquireAt (now s).gid x.scope).toState s
  else allFault s g Cause.barrierMismatch

/-- The count or phase that an instruction reads. -/
def countIn (s : State) (f : Alu) : Nat := ((rd s f.g).b f 0).toNat

/-- The team barrier, and the cluster barrier of a grid with clusters. -/
def teamBar (s : State) (m : Fin 16) : BarAt :=
  { key := .tm (teamNo s) m.val, kind := 0, n := m.val, scope := .tm }
def clusterSize (s : State) : Nat := ((moved s).grid (tm s).grid).cluster
def clusterBar (s : State) (m : Fin 8) : BarAt :=
  { key := .cl (tm s).grid ((tm s).tlin / clusterSize s) m.val, kind := 1, n := m.val, scope := .cl }

/-- No executing lane comes back from a park at the instruction. -/
def fresh (s : State) (g : Guard) : Prop :=
  ∀ l ∈ lanesOf s g, ∀ q, ((moved s).lane (now s).gid l).begun = some q → q.1 ≠ (now s).pc

/-- The ticket sequence of a team's grid. -/
def ticketSeq (s : State) (n : Fin 16) : Seq := (moved s).seq (tm s).grid n.val

/-- The VOID predicate, p7 for none, takes a value in the executing lanes. -/
def voidInto (w : W) (s : State) (f : Alu) (v : Bool) : W :=
  if f.x.toNat % 8 = 7 then w
  else (lanesOf s f.g).foldl (fun w l => w.writeP (now s).gid l (f.x.toNat % 8) v) w

/-- A TICKET.take at its turn (16 R393). -/
def ticketTaken (s : State) (n : Fin 16) (f : Alu) : State :=
  let x := ticketSeq s n
  let g := (tm s).grid
  let w := if x.void then (moved s).nondet g else moved s
  let w := w.setSeq g n.val { x with holders := x.holders ++ [(tm s).tlin] }
  (voidInto ((w.acquireAt (now s).gid .pkg).observe (teamNo s) 3 (seqName g n.val)) s f
    x.void).toState s

/-- The chain's hand-off as far as a waiting team sees it: recorded, empty by an exit, void by a kill
(16 R395, R396). -/
def handOf (w : W) (g h p t : Nat) : Option Bool := w.handDue g h p t

/-- A HANDOFF that the table takes (16 R395). -/
def handedOn (s : State) (h : Fin 16) (d : Nat) : State :=
  let g := (tm s).grid
  let to_ := (tm s).tlin + d
  let w := ((moved s).releaseAt (now s).gid .pkg).publish (teamNo s) 4
    (handName g h.val (tm s).tlin to_)
  let w := { w with c.syn.handed := w.c.syn.handed ++ [(g, h.val, (tm s).tlin)] }
  (if w.teamOver g to_ then w
    else w.setHands g (w.hands g ++ [{ chain := h.val, src := (tm s).tlin, dst := to_, void := false }])
    ).toState s

/-- A team waits for a chain once for each predecessor; the lanes have begun. -/
def handBegun (s : State) (h : Fin 16) (p : Nat) (g : Guard) : W :=
  let w := moved s
  let w := { w with c.syn.handW := w.c.syn.handW ++ [((tm s).grid, h.val, (tm s).tlin, p)] }
  w.begin_ (now s).gid (lanesOf s g) (some ((now s).pc, 0))

/-- A HANDWAIT that finds its hand-off (16 R395, R396). -/
def handTaken (s : State) (h : Fin 16) (p : Nat) (f : Alu) (void : Bool) : State :=
  let g := (tm s).grid
  let w := handBegun s h p f.g
  let w := w.setHands g ((w.hands g).filter fun r =>
    !(r.chain = h.val && r.src = p && r.dst = (tm s).tlin))
  let w := if void then w.nondet g else w
  let w := (w.acquireAt (now s).gid .pkg).observe (teamNo s) 4 (handName g h.val p (tm s).tlin)
  ((voidInto w s f void).begin_ (now s).gid (lanesOf s f.g) none).toState s

/-! ## Memory instructions (10 R260–R282) -/

/-- Room in the counter of a class: below 63 (09 R255). -/
def room (s : State) (c : OpClass) : Prop := (moved s).count (now s).gid c < 63

/-- What the accesses of an instruction are made with: its group, PC, scope, order, and whether it
names a residency predicate. -/
def ctxOf (s : State) (f : MemF) (rp : Rp) (atomic : Bool := false) : AccCtx :=
  { g := (now s).gid, pc := (now s).pc, scope := f.scope, ord := f.ord, rp := decide (rp ≠ 7#3)
    atomic := atomic, again := (now s).again, es := lanesOf s f.g }

/-- The scope of an access: a mailbox's is the system whatever SCOPE names (09 R234). -/
def scopeIn (f : MemF) : Scope := if f.space = .mailbox then .sys else f.scope

/-- The effective address of a lane: base pair, sign-extended index and offset (03 R70). -/
def eaOf (s : State) (f : MemF) (l : Nat) : Nat :=
  let x : Rd := { w := moved s, i := now s }
  (BitVec.ofInt 64 ((x.pair f.a l).toInt + (x.word f.b l).toInt + f.ofs.toInt)).toNat

/-- Where the access of a lane of `n` bytes goes, and whether its alignment is allowed (09 R230,
10 R263). -/
def placeOf (s : State) (f : MemF) (n : Nat) (write : Bool) (l : Nat) : Except (Nat × Nat) Tgt :=
  match (moved s).target (now s).gid f.space f.tdi.toNat (eaOf s f l) n write with
  | .error e => .error e
  | .ok t =>
    if f.ord ≠ .rlx ∧ tgtAddr t % min n (atwBytes f.atw) ≠ 0 then
      .error (Cause.misalignedStrict, eaOf s f l)
    else .ok t

/-- One access of a lane after the other, in ascending order; absent when one of them faults or waits. -/
def eachLane {β : Type} (es : List Nat) (k : W → Nat → W × Option β) (w : W) :
    W × Option (List (Nat × β)) :=
  es.foldl (fun r l => match r with
    | (w, none) => (w, none)
    | (w, some xs) => match k w l with
      | (w, some x) => (w, some (xs ++ [(l, x)]))
      | (w, none) => (w, none)) (w, some [])

/-- The bytes and the absent-page mark of an access that was made. -/
def made (r : W × LaneAcc) : W × Option (List Byte × Bool) :=
  match r with
  | (w, .ok bs nr) => (w, some (bs, nr))
  | (w, _) => (w, none)

/-- The bytes that a load takes and the registers it fills (10 R262). -/
def loadBytes : LdSz → Nat
  | .u8 | .s8 => 1 | .u16 | .s16 => 2 | .b32 => 4 | .b64 => 8 | .b128 => 16
def loadWords : LdSz → Nat
  | .b64 => 2 | .b128 => 4 | _ => 1
def storeBytes : StSz → Nat
  | .b8 => 1 | .b16 => 2 | .b32 => 4 | .b64 => 8 | .b128 => 16

/-- The register words of a load from its little-endian bytes (10 R262). -/
def loaded (sz : LdSz) (bs : List Byte) : List Word :=
  let x : Int := leNat bs
  match sz with
  | .u8 | .u16 | .b32 => [BitVec.ofInt 32 x]
  | .s8 => [BitVec.ofInt 32 (if x < 128 then x else x - 256)]
  | .s16 => [BitVec.ofInt 32 (if x < 32768 then x else x - 65536)]
  | .b64 => [BitVec.ofInt 32 x, BitVec.ofInt 32 (x / 2 ^ 32)]
  | .b128 => [BitVec.ofInt 32 x, BitVec.ofInt 32 (x / 2 ^ 32), BitVec.ofInt 32 (x / 2 ^ 64),
      BitVec.ofInt 32 (x / 2 ^ 96)]

/-- An operation of a class is counted and its result opens a window with values that land later
(09 R255, 06 R145): for vector destinations each lane's words, for uniform ones the first entry's. -/
def resultOp (s : State) (w : W) (o : Op) (lah : BitVec 4) (lanes vd sd : List Nat) (rp : Rp)
    (vals : List (Nat × List Word)) (ps : List (Nat × Bool)) : State :=
  let (w, op) := w.newOp o
  ((w.openPend (now s) op lah.toNat lanes vd sd (Machine.rpOf rp)).giveLanes op vals ps).toState s

/-- The operation of a load. -/
def loadOp (s : State) : Op :=
  { gid := (now s).gid, cls := .ld, iaddr := (now s).pc, kind := .load, done := true }
/-- The operation of a store. -/
def storeOp (s : State) (f : MemF) : Op :=
  { gid := (now s).gid, cls := .st, iaddr := (now s).pc, kind := .store, scope := f.scope }

/-- The bytes, padded with zeros to `n`. -/
def full0 (n : Nat) (bs : List Byte) : List Byte := (bs ++ List.replicate n 0).take n

/-- LD outside the remote space: each executing lane reads its bytes (10 R264). -/
def ldReads (s : State) (m : LdM) (f : MemF) : W × Option (List (Nat × List Byte × Bool)) :=
  eachLane (lanesOf s f.g) (fun w l =>
    match placeOf s f (loadBytes m.sz) false l with
    | .error _ => (w, none)
    | .ok t => made (w.laneRead (ctxOf s f m.rp) t (loadBytes m.sz))) ((moved s).before (now s).gid f.ord)

/-- The slots of the scratchpad that the lanes' loads count against (09 R252). -/
def readSlots (s : State) (f : MemF) (n : Nat) (es : List Nat) : List Nat :=
  (es.map fun l => match placeOf s f n false l with
    | .ok (.sp o) => slotsOf o n
    | _ => []).flatten

/-- The state after a load of lanes. -/
def ldDone (s : State) (m : LdM) (f : MemF) (w : W) (rs : List (Nat × List Byte × Bool)) : State :=
  let w := w.countReads (w.group (now s).gid).team
    (readSlots s f (loadBytes m.sz) (rs.map Prod.fst))
  resultOp s (w.after (now s).gid f.ord (scopeIn f)) (loadOp s) f.x (rs.map Prod.fst)
    (runV f.d (loadWords m.sz)) [] m.rp
    (rs.map fun e => (e.1, loaded m.sz (full0 (loadBytes m.sz) e.2.1)))
    (rs.map fun e => (e.1, e.2.2))

/-- ST outside the remote space: each executing lane's store is accepted under the operation (10 R264,
11 R286). -/
def stWrites (s : State) (m : StM) (f : MemF) : W × Option (List (Nat × List Byte × Bool)) :=
  let p := ((moved s).before (now s).gid f.ord).newOp (storeOp s f)
  eachLane (lanesOf s f.g) (fun w l =>
    match placeOf s f (storeBytes m.sz) true l with
    | .error _ => (w, none)
    | .ok t => made (w.laneWrite (ctxOf s f m.rp) p.2 l t
        (({ w := moved s, i := now s } : Rd).bytes f.c (storeBytes m.sz) l))) p.1

/-- The number that the next operation takes. -/
def opAt (w : W) : Nat := w.c.mdl.next

/-- A store's end: a strong one is performed at once, the residency predicate is written. -/
def storeDone (s : State) (f : MemF) (rp : Rp) (op : Nat) (w : W) (ps : List (Nat × Bool)) : State :=
  let w := if f.ord = .str then w.drainAll (now s).gid else w
  ((w.stEnd (now s).gid op true).putRp (now s).gid rp ps).toState s

/-- A load or store of the fragment, of one address (10 R265). -/
def lduRead (s : State) (m : LdM) (f : MemF) : W × Option (List Byte × Bool) :=
  match placeOf s f (loadBytes m.sz) false 0 with
  | .error _ => (moved s, none)
  | .ok t => made (((moved s).before (now s).gid f.ord).laneRead (ctxOf s f m.rp) t (loadBytes m.sz))
def ustoWrite (s : State) (m : StM) (f : MemF) : W × Option (List Byte × Bool) :=
  let p := ((moved s).before (now s).gid f.ord).newOp (storeOp s f)
  match placeOf s f (storeBytes m.sz) true 0 with
  | .error _ => (p.1, none)
  | .ok t => made (p.1.laneWrite (ctxOf s f m.rp) p.2 0 t
      (({ w := moved s, i := now s } : Rd).bytes f.c (storeBytes m.sz) 0))

/-- The bytes of an atomic's type, and of ACAS (10 R276). -/
def atomBytes : AtomT → Nat
  | .u32 | .s32 | .f32 => 4 | .u64 | .s64 => 8 | .b128 => 16
def casBytes : CasT → Nat
  | .b32 => 4 | .b64 => 8 | .b128 => 16

/-- A number as its type reads it. -/
def atomNum (t : AtomT) (x : Nat) : Int :=
  match t with
  | .s32 => if x < 2 ^ 31 then x else x - 2 ^ 32
  | .s64 => if x < 2 ^ 63 then x else x - 2 ^ 64
  | _ => x

/-- The new value of ATOM and ARED but for .f32 (10 R276). -/
def newValue (o : AtomOp) (t : AtomT) (old b : Nat) : Nat :=
  match o with
  | .add => (old + b) % 2 ^ (8 * atomBytes t)
  | .min => if atomNum t b < atomNum t old then b else old
  | .max => if atomNum t old < atomNum t b then b else old
  | .and => Nat.land old b
  | .or => Nat.lor old b
  | .xor => Nat.xor old b
  | .exch => b
  | .inc => if old ≥ b then 0 else old + 1
  | .dec => if old = 0 ∨ old > b then b else old - 1

/-- The steps of the lanes of an atomic, in ascending order (10 R277). -/
def atomSteps (s : State) (f : MemF) (rp : Rp) (n : Nat) (k : Nat → AStep) :
    W × Option (List (Nat × List Byte × Bool)) :=
  eachLane (lanesOf s f.g) (fun w l =>
    match (moved s).target (now s).gid f.space f.tdi.toNat (eaOf s f l) n true with
    | .error _ => (w, none)
    | .ok t => made (w.atomLane (ctxOf s f rp true) t n (k l))) ((moved s).drainAll (now s).gid)

/-- An atomic that returns the old value: the value lands in DST (10 R277). -/
def atomReturns (s : State) (f : MemF) (rp : Rp) (n : Nat) (w : W)
    (rs : List (Nat × List Byte × Bool)) : State :=
  resultOp s (w.after (now s).gid f.ord (scopeIn f)) { loadOp s with scope := f.scope } f.x
    (rs.map Prod.fst) (runV f.d ((n + 3) / 4)) [] rp
    (rs.map fun e => (e.1, wordsOf ((n + 3) / 4) e.2.1)) (rs.map fun e => (e.1, e.2.2))

/-- An atomic that returns nothing. -/
def atomReduces (s : State) (f : MemF) (rp : Rp) (w : W) (rs : List (Nat × List Byte × Bool)) : State :=
  let w := ((w.after (now s).gid f.ord (scopeIn f)).newOp { storeOp s f with done := true }).1
  (w.putRp (now s).gid rp (rs.map fun e => (e.1, e.2.2))).toState s

/-- The operand of a lane as little-endian bytes. -/
def operand (s : State) (f : MemF) (n l : Nat) : List Byte :=
  ({ w := moved s, i := now s } : Rd).bytes f.c n l

/-- An atomic as the operation it is: its fields, its residency predicate, its width, whether it
returns the old value, and its step. -/
structure AtomRow where
  f : MemF
  rp : Rp
  n : Nat
  ret : Bool
  step : State → Nat → AStep

/-- The atomics (10 R276–R278); AFADDC outside deterministic grids (16 R398). -/
def atomRow : Instr → Option AtomRow
  | .atom m f => if m.ty = .f32 then none else some
      { f := f, rp := m.rp, n := atomBytes m.ty, ret := true
        step := fun s l old => some (leBytes (atomBytes m.ty)
          (newValue m.op m.ty (leNat old) (leNat (operand s f (atomBytes m.ty) l)))) }
  | .ared m f => if m.ty = .f32 then none else some
      { f := f, rp := m.rp, n := atomBytes m.ty, ret := false
        step := fun s l old => some (leBytes (atomBytes m.ty)
          (newValue m.op m.ty (leNat old) (leNat (operand s f (atomBytes m.ty) l)))) }
  | .acas m f => some
      { f := f, rp := m.rp, n := casBytes m.ty, ret := true
        step := fun s l old =>
          if old = operand s f (casBytes m.ty) l then
            some (((List.range (casBytes m.ty / 4)).map fun k =>
              leBytes 4 (({ w := moved s, i := now s } : Rd).run f.c
                (casBytes m.ty / 4 + k) l).toNat).flatten)
          else none }
  | .afadd m f => some
      { f := f, rp := m.rp, n := 4, ret := true
        step := fun s l old => some (leBytes 4 (faddNew m.ty (leNat old)
          (({ w := moved s, i := now s } : Rd).word f.c l).toNat)) }
  | .afaddc rp f => some
      { f := f, rp := rp, n := 8, ret := false
        step := fun s l old => some (pairAdd (({ w := moved s, i := now s } : Rd).word f.c l) old) }
  | _ => none

/-- Whether AFADDC stages its contribution here (16 R398). -/
def stagesHere (s : State) (i : Instr) (f : MemF) : Prop :=
  match i with
  | .afaddc _ _ => f.space ≠ .scratch ∧ ((moved s).grid (grp s).grid).det = true
  | _ => False

/-! ## Tensor elements, compress-store, hints, fences, counters, descriptors (10 R266–R282) -/

/-- The descriptor that TDI names, in the context of the group (02 R46). -/
def tdOf (s : State) (f : MemF) : Td := (moved s).td (grp s).asid f.tdi.toNat

/-- The unsigned coordinates of a lane, from a run of registers (10 R266). -/
def coordsOf (s : State) (f : MemF) (l : Nat) : List Nat :=
  (List.range (tdNdim (tdOf s f))).map fun k => (({ w := moved s, i := now s } : Rd).run f.a k l).toNat

/-- Whether the run of coordinates lies within the budget (03 R56). -/
def coordsFit (s : State) (f : MemF) : Bool := (moved s).runIn (now s).gid f.a (tdNdim (tdOf s f))

/-- Room in the counter of a class, of a state within the instruction. -/
def counted (s : State) (c : OpClass) (w : W) : Prop := w.count (now s).gid c < 63

/-- An element whose alignment a strong access does not allow (10 R263). -/
def strictElem (s : State) (f : MemF) (ix : List Nat) : Bool :=
  tdInside (tdOf s f) ix && decide (f.ord ≠ .rlx) &&
    decide (tdAddr (tdOf s f) ix % min (tdCont (tdOf s f)).unit (atwBytes f.atw) ≠ 0)

/-- One element read: its FP32 word, its flags, and whether its page was absent. -/
def elemRead (s : State) (f : MemF) (rp : Rp) (trap : Bool) (ix : List Nat) (w : W) :
    W × Option (Word × BitVec 5 × Bool) :=
  if strictElem s f ix then (w, none)
  else match w.ldtLane (ctxOf s f rp) (tdOf s f) ix trap with
    | (w, .ok x fl nr) => (w, some (x, fl, nr))
    | (w, _) => (w, none)

/-- One element stored: its flags, and whether its page was absent. -/
def elemWrite (s : State) (f : MemF) (rp : Rp) (trap : Bool) (op l : Nat) (ix : List Nat) (v : Word)
    (r : Nat) (w : W) : W × Option (BitVec 5 × Bool) :=
  if strictElem s f ix then (w, none)
  else match w.sttLane (ctxOf s f rp) op l (tdOf s f) ix v r trap with
    | (w, .ok _ nr, fl) => (w, some (fl, nr))
    | (w, _) => (w, none)

/-- Flags of all lanes together. -/
def orAll (xs : List (BitVec 5)) : BitVec 5 := xs.foldl (fun a b => a ||| b) 0

/-- LDT (10 R266). -/
def ldtReads (s : State) (rp : Rp) (f : MemF) : W × Option (List (Nat × Word × BitVec 5 × Bool)) :=
  eachLane (lanesOf s f.g) (fun w l => elemRead s f rp true (coordsOf s f l) w)
    ((moved s).before (now s).gid f.ord)
def ldtDone (s : State) (rp : Rp) (f : MemF) (w : W) (rs : List (Nat × Word × BitVec 5 × Bool)) : State :=
  resultOp s ((w.after (now s).gid f.ord f.scope).orFlags (now s).gid (orAll (rs.map fun e => e.2.2.1)))
    (loadOp s) f.x (rs.map Prod.fst) (runV f.d 1) [] rp (rs.map fun e => (e.1, [e.2.1]))
    (rs.map fun e => (e.1, e.2.2.2))

/-- STT (10 R266). -/
def sttWrites (s : State) (rp : Rp) (f : MemF) : W × Option (List (Nat × BitVec 5 × Bool)) :=
  let p := ((moved s).before (now s).gid f.ord).newOp (storeOp s f)
  eachLane (lanesOf s f.g) (fun w l =>
    elemWrite s f rp true p.2 l (coordsOf s f l) (({ w := moved s, i := now s } : Rd).word f.c l)
      ((moved s).draw (now s).gid l (4 * l)) w) p.1

/-- Lanes whose draws advance under sr (02 R36). -/
def drewEach (s : State) (f : MemF) (w : W) (ls : List Nat) : W :=
  if tdRnd (tdOf s f) = .sr then ls.foldl (fun w l => w.bumpSeq (now s).gid l) w else w

def sttDone (s : State) (rp : Rp) (f : MemF) (w : W) (rs : List (Nat × BitVec 5 × Bool)) : State :=
  storeDone s f rp (opAt ((moved s).before (now s).gid f.ord))
    (drewEach s f (w.orFlags (now s).gid (orAll (rs.map fun e => e.2.1))) (rs.map Prod.fst))
    (rs.map fun e => (e.1, e.2.2))

/-- The source fields that may be queue registers, of an instruction that acts once. -/
def srcB (f : Alu) : List Opnd := if f.imm.isSome then [] else [f.b]

/-- The state after the pops of the queue registers among some sources, what the sources read, and the
lanes that received 0 (03 R60, 12 R319). Absent where a queue does not answer. -/
def popped (s : State) (g : Guard) (srcs : List Opnd) : Option (W × Rd × List (Nat × List Nat)) :=
  match queueRegs srcs with
  | [] => some (moved s, rd s g, [])
  | qs => match (moved s).popAll (now s).gid (lanesOf s g) qs with
    | (w, .ok (pops, zeros)) =>
      some (w, { w := moved s, i := now s, pops := pops, es := lanesOf s g }, zeros)
    | _ => none

/-- The end predicates of the queues popped. -/
def endedBy (s : State) (g : Guard) (srcs : List Opnd) (zeros : List (Nat × List Nat)) (w : W) : W :=
  if queueRegs srcs = [] then w else w.endPreds (now s).gid (lanesOf s g) zeros

/-- The lanes' column values of GATH and SCAT, of any source (10 R267). -/
def column (s : State) (f : MemF) : Option (W × Rd × List (Nat × List Nat)) := popped s f.g [f.a]

/-- The element of GATH and SCAT: column and row (10 R267). -/
def gathIx (x : Rd) (f : MemF) (l j : Nat) : List Nat :=
  [(x.word f.a l).toNat + j, (x.word f.b l).toNat]

/-- GATH: the elements of a lane, their flags, and whether a page was absent (10 R267, R268). -/
def gathReads (s : State) (m : GathM) (f : MemF) (x : Rd) (w0 : W) :
    W × Option (List (Nat × List Word × BitVec 5 × Bool)) :=
  eachLane (lanesOf s f.g) (fun w l =>
    match eachLane (List.range (m.n1.toNat + 1))
        (fun w j => elemRead s f m.rp false (gathIx x f l j) w) w with
    | (w, some xs) => (w, some (xs.map fun e => e.2.1, orAll (xs.map fun e => e.2.2.1),
        xs.any fun e => e.2.2.2))
    | (w, none) => (w, none))
    ((w0.before (now s).gid f.ord).after (now s).gid f.ord f.scope)
def gathDone (s : State) (m : GathM) (f : MemF) (zeros : List (Nat × List Nat)) (w : W)
    (rs : List (Nat × List Word × BitVec 5 × Bool)) : State :=
  let (w, op) := w.newOp
    { gid := (now s).gid, cls := .ga, iaddr := (now s).pc, kind := .gath (lanesOf s f.g).length
      done := true, scope := f.scope, flags := orAll (rs.map fun e => e.2.2.1) }
  let w := (w.openPend (now s) op f.x.toNat (rs.map Prod.fst) (runV f.d (m.n1.toNat + 1)) []
    (Machine.rpOf m.rp)).giveLanes op (rs.map fun e => (e.1, e.2.1)) (rs.map fun e => (e.1, e.2.2.2))
  (endedBy s f.g [f.a] zeros w).toState s

/-- SCAT: the elements of a lane in their order (10 R267, R268). -/
def scatStart (s : State) (f : MemF) (w : W) : W × Nat :=
  (if f.ord = .rel ∨ f.ord = .str then w.releaseAt (now s).gid f.scope else w).newOp
    { gid := (now s).gid, cls := .ga, iaddr := (now s).pc, kind := .scat (lanesOf s f.g).length
      scope := f.scope }
def scatWrites (s : State) (m : GathM) (f : MemF) (x : Rd) (w0 : W) : W × Option (List (Nat × BitVec 5 × Bool)) :=
  eachLane (lanesOf s f.g) (fun w l =>
    match eachLane (List.range (m.n1.toNat + 1)) (fun w j =>
        elemWrite s f m.rp false (scatStart s f w0).2 l (gathIx x f l j) (x.run f.c j l)
          ((moved s).draw (now s).gid l (4 * l)) w) w with
    | (w, some xs) => (w, some (orAll (xs.map fun e => e.2.1), xs.any fun e => e.2.2))
    | (w, none) => (w, none)) (scatStart s f w0).1
def scatDone (s : State) (m : GathM) (f : MemF) (w0 : W) (zeros : List (Nat × List Nat)) (w : W) (rs : List (Nat × BitVec 5 × Bool)) : State :=
  let op := (scatStart s f w0).2
  let w := (drewEach s f w (rs.map Prod.fst)).modOp op fun o =>
    { o with flags := orAll (rs.map fun e => e.2.1) }
  (endedBy s f.g [f.a] zeros ((w.stEnd (now s).gid op true).putRp (now s).gid m.rp
    (rs.map fun e => (e.1, e.2.2)))).toState s

/-- The lanes that CSTORE stores, the address of the k-th and its bytes (10 R269). -/
def cstLanes (s : State) (f : MemF) : List Nat :=
  (lanesOf s f.g).filter fun l => (({ w := moved s, i := now s } : Rd).word f.b l).toNat ≠ 0
def cstBytes (m : CstM) : Nat := if m.wid = .b64 then 8 else 4
def cstAddr (s : State) (m : CstM) (f : MemF) (k : Nat) : Nat :=
  ((BitVec.ofInt 64 ((({ w := moved s, i := now s } : Rd).pair f.a 0).toInt + f.ofs.toInt)).toNat
    + cstBytes m * k) % 2 ^ 64
def cstPlace (s : State) (m : CstM) (f : MemF) (k : Nat) : Option Tgt :=
  match (moved s).target (now s).gid f.space f.tdi.toNat (cstAddr s m f k) (cstBytes m) true with
  | .error _ => none
  | .ok t => if f.ord ≠ .rlx ∧ tgtAddr t % min (cstBytes m) (atwBytes f.atw) ≠ 0 then none else some t

/-- The check of an element's bytes as a strong or watched access (11 R295, 16 R401). -/
def coherent (s : State) (m : CstM) (f : MemF) (sp : Nat × Nat) (v : Nat) (tenter : Bool) (w : W) :
    W × Option Unit :=
  match w.cohere (ctxOf s f m.rp) sp v (cstBytes m) true tenter with
  | (w, none) => (w, some ())
  | (w, some _) => (w, none)

/-- A CSTORE whose elements all pass their checks on resident pages. -/
def cstChecks (s : State) (m : CstM) (f : MemF) : W × Option (List (Nat × Unit)) :=
  eachLane (List.range (cstLanes s f).length) (fun w k =>
    match cstPlace s m f k with
    | some (.va v) => match w.prep (grp s).asid v (cstBytes m) (ctxOf s f m.rp).rp with
      | (w, .ok []) => coherent s m f (0, (grp s).asid) v true w
      | (w, _) => (w, none)
    | some (.ap k o) => coherent s m f (1, k) o false w
    | some (.sp o) => match w.spGate (now s).gid (w.group (now s).gid).team o (cstBytes m)
          (lanesOf s f.g) with
      | (w, none) => (w, some ())
      | (w, some _) => (w, none)
    | some _ => (w, some ())
    | none => (w, none)) ((moved s).before (now s).gid f.ord)
def cstWrites (s : State) (m : CstM) (f : MemF) (w : W) : W × Option (List (Nat × List Byte × Bool)) :=
  let p := w.newOp (storeOp s f)
  eachLane (List.range (cstLanes s f).length) (fun w k =>
    match cstPlace s m f k with
    | some t => made (w.laneWrite { ctxOf s f m.rp with again := true } p.2 ((cstLanes s f).getD k 0) t
        (({ w := moved s, i := now s } : Rd).bytes f.c (cstBytes m) ((cstLanes s f).getD k 0)))
    | none => (w, none)) p.1

/-- CSTORE that stored all: the count, and the residency predicate 0 in every executing lane. -/
def cstDone (s : State) (m : CstM) (f : MemF) (op : Nat) (w : W) : State :=
  let w := if f.ord = .str then w.drainAll (now s).gid else w
  let w := (w.stEnd (now s).gid op true).dst (now s) f.d 0 [BitVec.ofNat 32 (cstLanes s f).length]
  (w.putRp (now s).gid m.rp ((lanesOf s f.g).map fun l => (l, false))).toState s

/-- The residency request of a lane and its status code (09 R246, 10 R271). -/
def resAsk (s : State) (f : MemF) (w : W) (l : Nat) : W × Option Nat :=
  if 2 ^ 56 ≤ eaOf s f l then (w, none)
  else match w.request (grp s).core (grp s).asid (eaOf s f l) with
    | (w, .ok st) => (w, some st)
    | (w, _) => (w, none)
/-- The status in a uniform or in vector registers. -/
def resDone (s : State) (f : MemF) (w : W) (rs : List (Nat × Nat)) : State :=
  let (w, id) := w.newId
  ((w.openPend (now s) id f.x.toNat (match f.d with | .s _ => lanesOf s f.g | _ => rs.map Prod.fst)
      (runV f.d 1) (runS f.d 1) none).giveLanes id
    (rs.map fun e => (e.1, [BitVec.ofNat 32 e.2])) []).toState s

/-- Whether the page of an address is in the core's request filter (10 R272). -/
def asked (x : Rd) (a : Dword) : Bool :=
  decide (a.toNat < 2 ^ 56) &&
    ((aget x.w.c.cch.filter (x.w.group x.i.gid).core).getD []).contains
      ((x.w.group x.i.gid).asid, a.toNat / 65536)

/-- A release and an acquire of a FENCE (10 R274). -/
def fenced (s : State) (f : MemF) : W :=
  let w := if f.ord = .rel ∨ f.ord = .str then (moved s).releaseAt (now s).gid f.scope else moved s
  if f.ord = .acq ∨ f.ord = .str then w.acquireAt (now s).gid f.scope else w

/-- The write-back of a line below the level of a scope, from every core, and its end with .inv
(10 R275). -/
def flushLine (s : State) (inv : Bool) (f : MemF) (w : W) (l : Nat) : W :=
  let ln := eaOf s f l / 128
  let lv := scopeLevel f.scope
  let w := if lv < 2 then w else w.gather1 (grp s).asid ln
  let w := if lv < 3 then w else w.flush2 (grp s).asid ln
  let w := if inv ∧ 2 ≤ lv then w.dropAll1 (grp s).asid ln else w
  if inv ∧ 3 ≤ lv then w.evict2 (grp s).asid ln else w

/-- The sectors of an L1 line that hold a dirty byte. -/
def dirtySectors (x : Line) : List Nat := (List.range 4).filter fun t => bits x.wr (32 * t) 32 ≠ 0

/-- The faults that a WAITC of a class covers: recorded with operations other than the n most recent
(10 R281). -/
def coveredBy (s : State) (c : OpClass) (n : Nat) : List Late := (moved s).covered (now s).gid c n

/-! ## Scratchpad tags, copies, windows (09 R248–R254, 10 R273, 12 R305–R316) -/

/-- The group's stores performed first. -/
def drained (s : State) : W := (moved s).drainAll (now s).gid
def drainedOf (s : State) (w : W) : W := w.drainAll (now s).gid

/-- The uniform sources of an engine instruction. -/
def nums (s : State) (o : Opnd) (n : Nat) : List Nat :=
  (List.range n).map fun k => (({ w := moved s, i := now s } : Rd).run o k 0).toNat

/-- The team of the issuing group. -/
def teamIn (s : State) (w : W) : Nat := (w.group (now s).gid).team

/-- The slot and the address that a tag operation names. Of a source that differs by lane it takes one
lane's value, the part's choice (log entry 7). -/
def slotArg (x : Rd) (f : Alu) : Nat := (x.bOnce f).toNat
def addrArg (x : Rd) (f : Alu) : Nat := (x.pair f.a 0).toNat

/-- A slot of the allocation that no window holds. -/
def slotFree (s : State) (w : W) (n : Nat) : Prop :=
  n < w.spbytes (teamIn s w) / 4096 ∧ (w.tag (teamIn s w) n).win = false

/-- The address that SPLOOK looks up in a lane. -/
def lookAddr (x : Rd) (f : Alu) (l : Nat) : Nat :=
  (BitVec.ofInt 64 ((x.pair f.a l).toInt + (x.b f l).toInt)).toNat

/-- The answer of SPLOOK: the lowest VALID slot with the block's tag, all ones when there is none. -/
def isLookup (s : State) (va : Nat) (x : Word) : Prop :=
  let t := ((moved s).group (now s).gid).team
  let hit := fun k => k < (moved s).spbytes t / 4096 ∧ ((moved s).tag t k).state = 2 ∧
    ((moved s).tag t k).tag = va / 4096 % 2 ^ 44
  (∃ k, hit k ∧ (∀ j, hit j → k ≤ j) ∧ x = BitVec.ofNat 32 k) ∨
  ((∀ k, ¬ hit k) ∧ x = 0xFFFFFFFF)

/-- What an engine's instruction reads of its tile: the descriptor, the origin, the extents. -/
def etd (s : State) (f : EngF) : Td := (moved s).td (grp s).asid f.tdi.toNat
def origin (s : State) (f : EngF) : List Nat := nums s f.a (tdNdim (etd s f))
def extents (s : State) (f : EngF) : List Nat := nums s f.b (tdNdim (etd s f))

/-- The runs of origin and extents lie within the uniform budget (03 R56). -/
def tileRuns (s : State) (f : EngF) : Bool :=
  (moved s).runIn (now s).gid f.a (tdNdim (etd s f)) && (moved s).runIn (now s).gid f.b (tdNdim (etd s f))

/-- The scratchpad container of the tile. -/
def tileCont (s : State) (f : EngF) : Cont := spCont (etd s f) f.fmto.toNat

/-- The copy that TCOPY starts. -/
def copyOf (s : State) (dir : CopyDir) (f : EngF) : Hoist :=
  { g2s := decide (dir = .g2s), core := (grp s).core, asid := (grp s).asid, team := teamNo s
    desc := etd s f, fmto := f.fmto.toNat, origin := origin s f, extents := extents s f
    off := (nums s f.c 1).headD 0, pitch := (nums s f.c 2).getD 1 0, scope := f.scope, ord := f.ord
    seed := 0, seq := 0, win := none, teams := [], done := [], failed := [], resolved := [] }

/-- The range of the scratchpad that a copy's tile spans. -/
def copyStart (s : State) (f : EngF) : Nat := (nums s f.c 1).headD 0
def copyStop (s : State) (f : EngF) : Nat :=
  copyStart s f + tileBytes (tileCont s f) (extents s f) ((nums s f.c 2).getD 1 0)

/-- The checks of 12 R311 in their order: none fails, or the cause of the first that does. -/
def copyCheck (s : State) (dir : CopyDir) (f : EngF) : Option Nat :=
  match (moved s).tileCheck (etd s f) (tileRuns s f) f.fmto.toNat (origin s f) (extents s f) (copyStart s f)
      ((nums s f.c 2).getD 1 0) with
  | some c => some c
  | none =>
    if (moved s).spbytes (teamNo s) < copyStop s f then some Cause.scratchBounds
    else if (tileSlots (tileCont s f) (extents s f) ((nums s f.c 2).getD 1 0) (copyStart s f)).any
        fun k => ((moved s).tag (teamNo s) k).win then some Cause.windowConflict
    else tileFormat (decide (dir = .g2s)) (etd s f) f.fmto.toNat (origin s f) (extents s f)

/-- The receivers of a multicast by rank (12 R312). -/
def receivers (s : State) (f : EngF) : List Nat :=
  (maskLanes f.eimm.toNat 16).filterMap ((moved s).clusterTeam (teamNo s))
def castPitch (s : State) (f : EngF) : Nat := (nums s f.c 1).headD 0
/-- A receiver's window that takes the tile: an ABSENT .recv window with room. -/
def takesTile (s : State) (f : EngF) (u : Nat) : Bool :=
  match (moved s).win u f.win.toNat with
  | some x => !x.touch && decide (x.state = 0) &&
      decide (tileBytes (tileCont s f) (extents s f) (castPitch s f) ≤ x.slots * 4096)
  | none => false
def goodCast (s : State) (f : EngF) : Prop :=
  2 ≤ ((moved s).grid (grp s).grid).cluster ∧ maskLanes f.eimm.toNat 16 ≠ [] ∧
  (maskLanes f.eimm.toNat 16).length ≤ 12 ∧
  (∀ k ∈ maskLanes f.eimm.toNat 16, k < ((moved s).grid (grp s).grid).cluster) ∧
  (receivers s f).length = (maskLanes f.eimm.toNat 16).length ∧
  ∀ u ∈ receivers s f, takesTile s f u = true
/-- The window of a receiver FILLING: its free chunks read 1, its bytes stand as one range. -/
def castInto (s : State) (f : EngF) (id : Nat) (w : W) (u : Nat) : W :=
  match w.win u f.win.toNat with
  | none => w
  | some x =>
    let used := tileChunks (tileCont s f) (extents s f) (castPitch s f) 0
    let free := (List.range x.chunks).filter fun k => !used.contains k
    (w.setWin u f.win.toNat { x with
      state := 1, op := some id, bits := free.foldl (fun b k => b ||| 2 ^ k) 0, failed := [] }).addRange
      u (x.slot0 * 4096) ((x.slot0 + x.slots) * 4096) id
def castOf (s : State) (f : EngF) : Hoist :=
  { copyOf s .g2s f with off := 0, pitch := castPitch s f, win := some f.win.toNat, teams := receivers s f }

/-- The slots of a new window (12 R313). -/
def winSlot0 (s : State) (f : EngF) : Nat := (nums s f.c 1).headD 0
def winCount (s : State) (f : EngF) : Nat := (nums s f.c 2).getD 1 0
def winSlots (s : State) (f : EngF) : List Nat := (List.range (winCount s f)).map fun k => winSlot0 s f + k
def winFree (s : State) (f : EngF) : Prop :=
  let w := drained s
  let t := (w.group (now s).gid).team
  f.win.toNat < (w.grid (w.group (now s).gid).grid).nwin ∧ w.win t f.win.toNat = none ∧
  1 ≤ winCount s f ∧ winCount s f ≤ 16 ∧ winSlot0 s f + winCount s f ≤ w.spbytes t / 4096 ∧
  ∀ k ∈ winSlots s f, (w.tag t k).win = false ∧ (w.tag t k).state = 0 ∧
    w.rangeHit t (4096 * k) 4096 = none
/-- The slots take WIN = 1. -/
def winTaken (s : State) (f : EngF) : W :=
  (winSlots s f).foldl (fun w k =>
    w.setTag ((drained s).group (now s).gid).team k
      { w.tag ((drained s).group (now s).gid).team k with win := true }) (drained s)
/-- The descriptor that a .touch window keeps. -/
def winTd (s : State) (f : EngF) : Td :=
  (drained s).td ((drained s).group (now s).gid).asid f.tdi.toNat
def winOrigin (s : State) (f : EngF) : List Nat := nums s f.a (tdNdim (winTd s f))
def winExtents (s : State) (f : EngF) : List Nat := nums s f.b (tdNdim (winTd s f))
def winRuns (s : State) (f : EngF) : Bool :=
  (drained s).runIn (now s).gid f.a (tdNdim (winTd s f)) &&
    (drained s).runIn (now s).gid f.b (tdNdim (winTd s f))
def winPitch (s : State) (f : EngF) : Nat := (nums s f.c 3).getD 2 0

/-- The window that an instruction names, of the group's team. -/
def winAt (s : State) (n : Nat) : Option Window := (moved s).win (teamNo s) n

/-- The chunks that CBTEST and CBWAIT ask for: 32 of a quarter, or all 128 (12 R316). -/
def wantChunk (x : Rd) (m : CbM) (f : Alu) (l k : Nat) : Bool :=
  if m.quad then decide (k < 128) && (x.run f.b (k / 32) l).getLsbD (k % 32)
  else decide (k / 32 = m.k.toNat) && (x.b f l).getLsbD (k % 32)
/-- Whether every chunk asked for reads 1. -/
def chunksThere (x : Rd) (m : CbM) (f : Alu) (l : Nat) (n : Window) : Bool :=
  (List.range 128).all fun k => !wantChunk x m f l k || n.bit k
/-- The lane whose mask CBWAIT takes, and CBTEST with an s destination: where the source differs by lane,
the part's choice (log entry 7). -/
def maskLane (x : Rd) (f : Alu) : Nat := x.onceLane f.b

/-- What CBTEST writes: once to an s destination, else to each executing lane. -/
def chunksTold (s : State) (x : Rd) (m : CbM) (f : Alu) (n : Window) (w : W) : W :=
  match f.d with
  | .s _ => w.dst (now s) f.d 0 [wordOfBool (chunksThere x m f (maskLane x f) n)]
  | _ => (lanesOf s f.g).foldl
      (fun w l => w.dst (now s) f.d l [wordOfBool (chunksThere x m f l n)]) w

/-! ## Queues, streams, tokens, collectives (12 R317–R325, 17 R402–R419) -/

/-- The binding that QBIND names for the group (12 R318). -/
def bound (w : W) (s : State) (q : Fin 16) (b : Bind) : W := w.setBind (now s).gid q.val b

/-- The end of a QBIND: records that wait on the register wake (12 R318). -/
def bindDone (s : State) (q : Fin 16) (w : W) : State := (w.rebound (now s).gid q.val).toState s

/-- The end predicate of a pop end: p(MOD[2:0]) when MOD[3] is set. -/
def endOf (f : EngF) : Option Nat := if f.x.getLsbD 3 then some (f.x.toNat % 8) else none

/-- The queue of a team by its name, and whether it is claimed or a physical queue is free. -/
def queueAt (s : State) (h : Nat) : HwQueue := (moved s).hq (teamNo s) h
def claims (s : State) (h : Nat) : Prop :=
  (aget (moved s).c.eng.hq (teamNo s, h)).isSome = true ∨
  ((moved s).claimed ((moved s).team (teamNo s)).core).length < 16

/-- The register's binding. -/
def bindOf (s : State) (q : Nat) : Bind := (moved s).bind (now s).gid q

/-- A result written to an s destination once, else to each executing lane. -/
def toAll (s : State) (f : Alu) (x : Word) : State :=
  (match f.d with
    | .s _ => (moved s).dst (now s) f.d 0 [x]
    | _ => (lanesOf s f.g).foldl (fun w l => w.dst (now s) f.d l [x]) (moved s)).toState s

/-- The fields of QSTAT for a hardware queue (12 R325). -/
def qstatWord (b : Bind) (q : HwQueue) : Nat :=
  (if b.u then 2 ^ 31 else 0) + (if b.kind = .pop then 1 else 2) * 2 ^ 28 + b.n * 2 ^ 24 + q.err * 2 ^ 17
    + (if q.closepend then 2 ^ 16 else 0) + (if q.closed then 2 ^ 15 else 0)
    + q.streams.length * 2 ^ 12 + q.elems.length

/-- The first element and the count that STREAM names (12 R322). -/
def streamFrom (s : State) (f : EngF) : Nat := (({ w := moved s, i := now s } : Rd).word f.a 0).toNat
def streamLen (s : State) (f : EngF) : Nat := (({ w := moved s, i := now s } : Rd).word f.b 0).toNat
/-- The descriptor of a stream, with FMTO in the place of its FMT. -/
def streamTd (s : State) (f : EngF) : Td := tdAs (etd s f) f.fmto.toNat
def streamAll (s : State) (f : EngF) : Nat := tdCount (streamTd s f)
/-- The executing lanes of STREAM have nothing begun. -/
def streamBase (s : State) (g : Guard) : W := (moved s).begin_ (now s).gid (lanesOf s g) none
/-- A tensor in the scratchpad lies within the allocation, and a store stream finds room in the range
scoreboard (12 R323). -/
def streamFits (s : State) (m : StreamM) (f : EngF) : Prop :=
  f.space = .scratch →
    0 ≤ (tdSpan (streamTd s f)).1 ∧
    (tdSpan (streamTd s f)).2 < (streamBase s f.g).spbytes ((streamBase s f.g).group (now s).gid).team ∧
    (m.st = true → (streamBase s f.g).rangeFull (grp s).core = none)
/-- The group as STREAM leaves memory: its stores performed, its order honoured. -/
def streamOrd (s : State) (f : EngF) : W :=
  let w := (streamBase s f.g).drainAll (now s).gid
  let w := if f.ord = .rel ∨ f.ord = .str then w.releaseAt (now s).gid f.scope else w
  if f.ord = .acq ∨ f.ord = .str then w.acquireAt (now s).gid f.scope else w

/-- A token that has landed, has failed, waits, or is not the context's (17 R407, R408). -/
def tokOfLane (s : State) (o : Opnd) (l : Nat) : Nat :=
  match o with
  | .sp _ => 0xFFFFFFFF
  | o => (({ w := moved s, i := now s } : Rd).word o l).toNat

/-- One merge (17 R412); absent when it faults. -/
def merged (s : State) (w : W) (x y : Nat) : W × Option Nat :=
  match w.tokView (grp s).asid x, w.tokView (grp s).asid y with
  | .illegal, _ => (w, none)
  | _, .illegal => (w, none)
  | .landed, .landed => (w, some 0xFFFFFFFF)
  | .landed, _ => (w, some y)
  | _, .landed => (w, some x)
  | vx, vy =>
    if 4096 ≤ (w.c.fab.toks.filter fun e => e.1.1 = w.pkg).length then (w, none)
    else
      let (w, k) := w.newTok w.pkg (grp s).asid (uniq [tokKey x, tokKey y])
      (if vx = .failed ∨ vy = .failed then w.tokFail k else w, some (tokOf k))

/-- The elements that PXPUSH reads: relaxed, at its scope (17 R417). -/
def pushReads (s : State) (f : EngF) : W × Option (List (Nat × List Byte × Bool)) :=
  let x : Rd := { w := moved s, i := now s }
  let c : AccCtx := { g := (now s).gid, pc := (now s).pc, scope := f.scope, ord := .rlx, rp := true,
                      again := true }
  eachLane (List.range (x.word f.b 0).toNat) (fun w k =>
    match w.target (now s).gid f.space 0 ((x.pair f.a 0).toNat + 4 * k) 4 false with
    | .error _ => (w, none)
    | .ok t => match w.laneRead c t 4 with
      | (w, .ok bs false) => (w, some (bs, false))
      | (w, _) => (w, none))
    (if f.ord = .rel then (drained s).releaseAt (now s).gid f.scope else drained s)

/-- The communicator and the format of a COLL (17 R418, R419). -/
def commOf (s : State) (f : EngF) : Comm := (moved s).comm (f.eimm.toNat % 256)
def rootOf (f : EngF) : Nat := f.eimm.toNat / 65536 % 1024
def collFmt (s : State) (f : EngF) : Nat :=
  if f.fmto.toNat = 0 then tdFmt (etd s f) else f.fmto.toNat
def reduces (m : CollM) : Prop := m.op ≠ .allgat ∧ m.op ≠ .bcast
/-- The checks of R419 pass. -/
def collOk (s : State) (m : CollM) (f : EngF) : Prop :=
  (reduces m → f.fmto.toNat ≤ 3 ∧ 1 ≤ collFmt s f ∧ collFmt s f ≤ 3) ∧
  (¬ reduces m → fmtMx f.fmto.toNat = false) ∧
  (moved s).tdTensor (etd s f) = true ∧ tdNdim (etd s f) = 1 ∧ tdScm (etd s f) = 0 ∧
  tdHad (etd s f) = 0 ∧ tdClamp (etd s f) = false ∧
  2 ≤ (commOf s f).p ∧ (commOf s f).p ≤ 1024 ∧ (commOf s f).rank < (commOf s f).p ∧
  (commOf s f).rsvd = 0 ∧ (commOf s f).asid = (grp s).asid ∧ rootOf f < (commOf s f).p ∧
  ((m.op = .redsc ∨ m.op = .allgat) → tdSize (etd s f) 0 % (commOf s f).p = 0)

/-! ## Work that a team starts (04 R109–R114, 05 R127–R136) -/

/-- The lane of the team leader, when it executes (04 R111). -/
def leadLane (s : State) (g : Guard) : Option Nat :=
  match (moved s).leader (teamNo s) with
  | some (g2, l) => if g2 = (now s).gid ∧ l ∈ lanesOf s g then some l else none
  | none => none

/-- The address of a launch record. -/
def launchAddr (s : State) (f : Alu) : Nat := ((rd s f.g).pair f.a 0).toNat

/-- A LAUNCH by the leader whose record passed its checks (04 R111): the release, the child, the handle. -/
def launched (s : State) (f : Alu) (l : Nat) (w : W) (r h : List Byte) : State :=
  let w := { w with c.slu.copies := adel w.c.slu.copies ((now s).gid, l) }
  let p := (w.releaseAt (now s).gid .pkg).addChild (teamNo s) r h
  (p.1.dst (now s) f.d 0 [BitVec.ofNat 32 p.2]).toState s

/-- The children that CHWAIT names: one handle, or all of the team (04 R112). -/
def namesAll (f : Alu) : Bool := match f.a with | .s _ => false | _ => true
def named (s : State) (f : Alu) : List Child :=
  (moved s).c.slu.children.filter fun c => decide (c.team = teamNo s) &&
    (namesAll f || decide (c.handle = ((rd s f.g).word f.a 0).toNat))
/-- The first status of failure in launch order, or 0 (04 R106, R112). -/
def firstFailure (cs : List Child) : Nat :=
  ((cs.filterMap fun c => c.status).find? fun x => Nat.testBit x 31).getD 0
/-- A CHWAIT that completes: its children are observed, with acquire at package scope. -/
def childrenSeen (s : State) (f : Alu) : State :=
  let w := { moved s with
    c.slu.children := (moved s).c.slu.children.map fun (c : Child) =>
      if c.team = teamNo s ∧ (namesAll f = true ∨ c.handle = ((rd s f.g).word f.a 0).toNat) then
        { c with observed := true } else c }
  let w := w.acquireAt (now s).gid .pkg
  (if f.d = .v 0 then w else w.dst (now s) f.d 0 [BitVec.ofNat 32 (firstFailure (named s f))]).toState s

/-- The entry of SPAWN: a pair, or an offset (05 R127). -/
def spawnEntry (s : State) (f : Alu) : Nat :=
  if f.imm.isSome then (labelOf (now s) f).toNat else ((rd s f.g).pair f.b 0).toNat
/-- A group's instruction that has waited goes on, or is done with what it waited for. -/
def begun (s : State) (g : Guard) (w : W) (on : Bool) : W :=
  w.begin_ (now s).gid (lanesOf s g) (if on then some ((now s).pc, 0) else none)
/-- All executing lanes wait in the middle of their instruction. -/
def midWait (s : State) (g : Guard) (w : W) (k : Wake) : State :=
  leaving s ((begun s g w true).parkLanes (now s) (lanesOf s g) k)

/-- The entry checks of SPAWN and of task records (05 R127, R132). -/
def entryGood (e : Nat) : Prop := e % 4 = 0 ∧ e % 32 ≠ 28 ∧ e < 2 ^ 56
/-- The lowest number that a list does not hold. -/
def isLowest (xs : List Nat) (n : Nat) : Prop := n ∉ xs ∧ ∀ m < n, m ∈ xs
/-- SPAWN's record and the new group's index (05 R127). -/
def spawned (s : State) (f : Alu) (gi : Nat) : State :=
  let w := (begun s f.g (moved s) false).releaseAt (now s).gid .tm
  let w := w.modCore (grp s).core fun k => { k with spawns := k.spawns ++
    [{ team := teamNo s, entry := spawnEntry s f, gindex := gi
       args := (List.range 8).map fun k => (rd s f.g).run f.a k 0 }] }
  (w.dst (now s) f.d 0 [BitVec.ofNat 32 gi]).toState s

/-- The mailbox of FETCHW, and its checks (05 R129). -/
def mailbox (s : State) (f : Alu) : Nat := ((rd s f.g).word f.a 0).toNat
def mailboxGood (s : State) (f : Alu) : Prop :=
  mailbox s f % 64 = 0 ∧ mailbox s f + 64 ≤ (moved s).spbytes (teamNo s) ∧
  ((moved s).grid (grp s).grid).det = false ∧ ((moved s).grid (grp s).grid).cluster < 2

/-- A task record of a lane passes its checks (05 R132, R133). -/
def taskGood (s : State) (x : Rd) (f : Alu) (l : Nat) : Bool :=
  entryValid (x.pair f.a l).toNat && tflagsOk (x.b f l).toNat &&
    (moved s).succOk (grp s).core (teamNo s) (x.run f.a 2 l).toNat
/-- The records of TASKADD placed in ascending lane order, each with its id (05 R133). -/
def tasksAdded (s : State) (x : Rd) (f : Alu) (ls : List Nat) (w : W) : W :=
  ls.foldl (fun w l =>
    let p := w.addTask (now s).gid (x.pair f.a l).toNat (x.b f l).toNat
      (x.run f.a 2 l).toNat ((List.range 8).map fun k => x.run f.a (3 + k) l)
    p.1.dst (now s) f.d l [BitVec.ofNat 32 p.2]) (w.releaseAt (now s).gid .tm)

/-- The address and the addend or threshold of EVSIG and EVWAIT. -/
def evAddr (s : State) (f : MemF) (l : Nat) : Nat := eaOf s f l
def evSecond (s : State) (f : MemF) (l : Nat) : Nat :=
  (({ w := moved s, i := now s } : Rd).pair f.c l).toNat
/-- An addition to an event counter (04 R104). -/
def evSum (old add : Nat) : Nat :=
  min (old % 2 ^ 63 + add % 2 ^ 63) (2 ^ 63 - 1) +
    (if 2 ^ 63 ≤ old ∨ 2 ^ 63 ≤ add then 2 ^ 63 else 0)
/-- Whether a counter is failed, or met against a threshold (04 R105). -/
def evDone (thr x : Nat) : Prop := 2 ^ 63 ≤ x ∨ thr % 2 ^ 63 ≤ x % 2 ^ 63
/-- The residency predicate of an event's MOD. -/
def evPred (f : MemF) : Rp := f.x.setWidth 3

/-! ## Matrix engines (13 R327–R346) -/

/-- The issue is converged, the group has no suspended operation to raise, and the instruction replays
none (13 R328, R346). -/
def ready (s : State) (g : Guard) : Bool :=
  runs s g && (now s).conv && ((moved s).suspended (now s).gid).isEmpty && !(now s).replay

/-- The names in a mask of eight. -/
def namesAt (x ofs : Nat) : List Nat := (List.range 8).filter fun k => x.testBit (ofs + k)

/-- The mask that MXALLOC, MXFREE and MXZERO read. -/
def mxMask (s : State) (f : Alu) : Nat := ((rd s f.g).word f.b 0).toNat

/-- Whether the team holds a tile, a slot, by its name. -/
def holdsTile (s : State) (n : Nat) : Prop := ((moved s).tileOf (teamNo s) n).isSome = true
def holdsSlot (s : State) (n : Nat) : Prop := ((moved s).slotOf (teamNo s) n).isSome = true

/-- An operand's descriptor, origin and extents. -/
def mxArg (s : State) (td : BitVec 10) (o : Opnd) (e0 e1 : Nat) (sp had : Bool) : MxOpnd :=
  let d := (moved s).td (grp s).asid td.toNat
  { d := d, o := o, org := nums s o (tdNdim d), e0 := e0, e1 := e1, sp := sp, had := had }

/-- The checks 2 and 5 to 7 of 13 R336 for one operand: its descriptor, its runs, its place within SIZE
and within the scratchpad. -/
def mxArgOk (s : State) (x : MxOpnd) : Prop :=
  (moved s).tdTensor x.d = true ∧ 2 ≤ tdNdim x.d ∧
  (∃ r : Fin 192, x.o = .s r ∧ r.val + tdNdim x.d ≤ (grp s).ub) ∧
  (x.had = true → tdHadB x.d ≠ 0 →
    x.org.getD (tdHdim x.d) 0 % tdHadB x.d = 0 ∧ x.ext.getD (tdHdim x.d) 0 % tdHadB x.d = 0) ∧
  (tdClamp x.d = true ∨
    ∀ k < tdNdim x.d, x.org.getD k 0 + x.ext.getD k 0 ≤ tdSize x.d k) ∧
  (x.sp = true → x.inScratch ((moved s).spbytes (teamNo s)) = true)

/-- The A and B operands of MXMMA; the B operand of MXLDW; the tensor of a tile (13 R333, R336). -/
def mmaA (s : State) (f : MatF) : MxOpnd :=
  mxArg s f.tda f.a (32 * f.kb.toNat) 128 (decide (f.spa = .scratch)) true
def mmaB (s : State) (t : Bool) (o : Opnd) (sp : Bool) (f : MatF) : MxOpnd :=
  if t then mxArg s f.tdb o (32 * f.kb.toNat) 128 sp true
  else mxArg s f.tdb o 128 (32 * f.kb.toNat) sp true
def tileArg (s : State) (f : MatF) (had : Bool) : MxOpnd :=
  mxArg s f.tda f.a 128 128 (decide (f.spa = .scratch)) had

/-- The format in which an operand is used, and whether it is one of the arrays' (13 R333). -/
def usedFmt (fmt : BitVec 8) (d : Td) : Nat := if fmt.toNat = 0 then tdFmt d else fmt.toNat
def arrayFmt (c : Nat) : Prop := (2 ≤ c ∧ c ≤ 0x0B) ∨ (0x10 ≤ c ∧ c ≤ 0x15) ∨ 0x80 ≤ c
/-- A conversion of elements under sr draws; so does the raw read of a KV-paged tensor (15 R376). -/
def drawsIn (fmt : BitVec 8) (d : Td) : Bool :=
  (decide (usedFmt fmt d ≠ tdFmt d) || decide (tdHad d ≠ 0) || decide (tdType d = 1)) && decide (tdRnd d = .sr)

/-- The order of the memory model that an engine instruction asks for is given, its group's stores are
performed, its draws counted, and its operation enters the engine (10 R272, 13 R335, R337). -/
def ordered (s : State) (ord : Order) (scope : Scope) : W :=
  let w := drained s
  let w := if ord = .rel ∨ ord = .str then w.releaseAt (now s).gid scope else w
  if ord = .acq ∨ ord = .str then w.acquireAt (now s).gid scope else w
def entered (s : State) (f : MatF) (draw : Bool) (m : Mx) : W × Nat :=
  let w := ordered s f.ord f.scope
  let l0 := (lanesOf s f.g).headD 0
  let x := { m with
    team := (grp s).team, core := (grp s).core, asid := (grp s).asid, f := f
    seed := BitVec.ofNat 64 (w.seed (now s).gid l0), seq := (w.lane (now s).gid l0).seq }
  let w := if draw then (lanesOf s f.g).foldl (fun w l => w.bumpSeq (now s).gid l) w else w
  w.newOp { gid := (now s).gid, cls := .mx, iaddr := (now s).pc, kind := .mx x, scope := f.scope }

/-- An operation with nothing but its kind; the fields that `entered` sets are left as they are. -/
def bare (k : MxKind) (f : MatF) : Mx := { kind := k, team := 0, core := 0, asid := 0, f := f }

/-- The row of a lane that an MXVEC multiplies: its elements converted, with each block's scale. -/
def vecRow (s : State) (f : MatF) (l : Nat) : List (List (Nat × Nat) × BitVec 5) :=
  (List.range f.kb.toNat).map fun b =>
    let ks := (List.range 32).map fun j => 32 * b + j
    mxCodes f.fmta.toNat 0 false f.rnd
      (ks.map fun k => (moved s).draw (now s).gid l (l * (32 * f.kb.toNat) + k))
      (ks.map fun k => readWide fp32 ((moved s).ftz (now s).gid) ((rd s f.g).run f.a k l).toNat)

/-! ## Light (14 R348–R366) -/

/-- The fault of a descriptor for its use: TD_INVALID where the common fields are wrong, else the cause
of the unit (14 R348). -/
def badLight (s : State) (f : EngF) (ok : Td → Bool) (cause : Nat) (i : Instr) : Prop :=
  (tdCommon (etd s f) = false → exec i s = .next (allFault s f.g Cause.tdInvalid)) ∧
  (tdCommon (etd s f) = true → ok (etd s f) = false → exec i s = .next (allFault s f.g cause))

/-- A descriptor that passes. -/
def goodLight (s : State) (f : EngF) (ok : Td → Bool) : Prop :=
  tdCommon (etd s f) = true ∧ ok (etd s f) = true

/-- What the engine of light starts from: the group's stores performed, the release of ORD, and with
.task the release at .tm (14 R357, R358). -/
def lit (s : State) (f : EngF) (task : Bool) : W :=
  let w := drained s
  let w := if f.ord = .rel then w.releaseAt (now s).gid f.scope else w
  if task then w.releaseAt (now s).gid .tm else w

/-- The rays of TRACE by lane: eight words and the payload. -/
def raysOf (s : State) (f : EngF) : List (Nat × List Word × Word) :=
  (lanesOf s f.g).map fun l => (l, nums8 l, (rd s f.g).word f.b l)
where
  nums8 (l : Nat) : List Word := (List.range 8).map fun k => (rd s f.g).run f.a k l

/-- The operation of a TRACE. -/
def traceOf (s : State) (m : TraceM) (f : EngF) : Op :=
  { gid := (now s).gid, cls := .tx, iaddr := (now s).pc, scope := f.scope
    kind := .tx { kind := .trace m (f.eimm.toNat % 256), team := teamNo s, core := (grp s).core
                  asid := (grp s).asid, desc := etd s f, f := f, rays := raysOf s f } }

/-- An element of an object as an engine of light reads it. -/
def litEnv (s : State) (f : EngF) (d : Td) : LtEnv := { g := (now s).gid, d := d, sc := f.scope }
def elemAt (e : LtEnv) (unit : Nat) (w : W) (va : Nat) : W × Option Fv :=
  match w.lightRead e va unit with
  | (w, .ok bs) => (w, some ((tdFormat e.d).dec (leNat bs)))
  | (w, _) => (w, none)

/-- Several in order: the values, when every page is there. -/
def elemsAt (e : LtEnv) (unit : Nat) (vas : List Nat) (w : W) : W × Option (List Fv) :=
  match eachLane vas (elemAt e unit) w with
  | (w, some xs) => (w, some (xs.map Prod.snd))
  | (w, none) => (w, none)

/-- The exact sum of weights times values, rounded once; the weights count in so many 256ths (14
R361). -/
def blend (k : Nat) (xs : List (Nat × Fv)) : Cv :=
  dotWide false .rne 0 (xs.map fun x => (Fv.ofNum { m := x.1, e := -8 * (k : Int) }, x.2)) []

/-- The result of a coordinate that is no finite number: the default NaN, and NV. -/
def noCoord (n : Nat) : List Cv := List.replicate n (cvOf 0x7FC00000 flagNV)

/-- The coordinates of a lane. -/
def coord (s : State) (f : EngF) (k l : Nat) : Fv := fp32.dec ((rd s f.g).run f.a k l).toNat
def coordsFinite (s : State) (f : EngF) (n l : Nat) : Bool :=
  (List.range n).all fun k => !(coord s f k l).isNan && !(coord s f k l).isInf

/-- The level of detail in [0, SIZE3 − 1]; a NaN reads as 0 (14 R362). -/
def lodNow (s : State) (f : EngF) (l : Nat) : Machine.Num := lodOf (etd s f) ((rd s f.g).word f.b l)

/-- The levels of SAMP with their weights in 256ths (14 R362). -/
def levelsOf (s : State) (m : SampM) (f : EngF) (l : Nat) : List (Nat × Nat) :=
  let b := lodNow s f l
  match m.filt with
  | .tri =>
    let l0 := b.floor.toNat
    let g := (roundEven ((b.sub (Machine.Num.ofInt l0)).mul (.pow 8))).toNat
    if g = 0 ∨ tdSize (etd s f) 3 ≤ l0 + 1 then [(l0, 256)]
    else if g = 256 then [(l0 + 1, 256)] else [(l0, 256 - g), (l0 + 1, g)]
  | _ => [((b.add { m := 1, e := -1 }).floor.toNat, 256)]

/-- One lane of SAMP when every tap's page is there. -/
def sampledLane (s : State) (m : SampM) (f : EngF) (w : W) (l : Nat) : W × Option (List Cv) :=
  let d := etd s f
  let n := tdSize d 0
  if !coordsFinite s f 2 l then (w, some (noCoord n))
  else
    let taps := ((levelsOf s m f l).map fun v =>
      (texTaps d (decide (m.filt ≠ .near)) m.addr v.1 (coord s f 0 l).val (coord s f 1 l).val).map
        fun t => (v.1, t.1, t.2.1, v.2 * t.2.2)).flatten
    let vas := (taps.map fun t => (List.range n).map fun c => texAddr d t.1 c t.2.1 t.2.2.1).flatten
    match elemsAt (litEnv s f d) (texCs d) vas w with
    | (w, some vs) => (w, some ((List.range n).map fun c =>
        blend 3 (taps.zipIdx.map fun t => (t.1.2.2.2, vs.getD (t.2 * n + c) .zero))))
    | (w, none) => (w, none)

/-- The taps along one axis of a spectral table, and one lane of SSAMP when every tap's page is there:
each element of the table is read once (14 R363). -/
def specTaps (s : State) (m : SampM) (f : EngF) (l k : Nat) : List (Nat × Nat) :=
  let d := etd s f
  if tdSize d 3 = 1 ∧ 1 ≤ k ∧ tdSize d (k + 1) = 1 then [(0, 256)]
  else axisTaps (decide (m.filt ≠ .near)) m.addr (tdSize d (k + 1)) (coord s f k l).val
def ssampledLane (s : State) (m : SampM) (f : EngF) (lams : List Cv) (w : W) (l : Nat) :
    W × Option (List Cv) :=
  let d := etd s f
  if !coordsFinite s f 3 l then (w, some (noCoord 16))
  else
    let cells := ((specTaps s m f l 0).map fun u => ((specTaps s m f l 1).map fun v =>
      (specTaps s m f l 2).map fun x => (u.1, v.1, x.1, u.2 * v.2 * x.2)).flatten).flatten
    let elem := fun (i : Cv) =>
      ((waveTaps ((moved s).srReg (grp s).asid .wlrange) (tdSize d 0) (fp32.dec i.code).val).map
        fun t => cells.map fun c => ((t.1, c.1, c.2.1, c.2.2.1), t.2 * c.2.2.2)).flatten
    let keys := uniq ((lams.map fun i => (elem i).map Prod.fst).flatten)
    match elemsAt (litEnv s f d) (tdCont d).unit
        (keys.map fun k => specAddr d k.1 k.2.1 k.2.2.1 k.2.2.2) w with
    | (w, some vs) => (w, some (lams.map fun i =>
        blend 4 ((elem i).map fun t => (t.2, (aget (keys.zip vs) t.1).getD .zero))))
    | (w, none) => (w, none)

/-- A sampler's end: counted in TX, its words land later, its conditions with it (14 R355). -/
def sampled (s : State) (f : EngF) (rp : Rp) (n : Nat) (w : W) (xs : List (Nat × List Cv)) : State :=
  resultOp s w { gid := (now s).gid, cls := .tx, iaddr := (now s).pc, kind := .store, scope := f.scope
                 done := true
                 flags := (xs.map fun e => (e.2.map fun c => c.flags).foldl (· ||| ·) 0).foldl (· ||| ·) 0 }
    f.x (xs.map Prod.fst) (runV f.d n) [] rp
    (xs.map fun e => (e.1, e.2.map fun c => BitVec.ofNat 32 c.code)) (xs.map fun e => (e.1, false))

/-- HITGET: a lane's triangle, its nine words or its unit normal (14 R360). -/
def hitEnv (s : State) (f : Alu) : LtEnv :=
  { g := (now s).gid, sc := .th
    d := (moved s).td (grp s).asid (((rd s f.g).word f.b 0).toNat % 1024) }
def normalOf (vs : List Fv) : List Cv :=
  let p := fun k => v3 (vs.drop (3 * k))
  let n := V3.cross (V3.sub (p 1) (p 0)) (V3.sub (p 2) (p 0))
  if (V3.dot n n).isZero then List.replicate 3 (cvOf 0 0)
  else [unitPart n n.1, unitPart n n.2.1, unitPart n n.2.2]
def hitLane (s : State) (nrm : Bool) (f : Alu) (w : W) (l : Nat) : W × Option (List Cv) :=
  let e := hitEnv s f
  let n := if nrm then 3 else 9
  let j := ((rd s f.g).word f.a l).toNat
  if tdSize e.d 1 ≤ j then
    if tdClamp e.d then (w, some (List.replicate n (cvOf 0 0))) else (w, none)
  else match w.lightRead e (triAddr e.d j) 48 with
    | (w, .ok bs) =>
      let vs := fpList bs 0 9
      if !nrm then (w, some ((List.range 9).map fun k => cvOf (fieldLE bs (4 * k) 4) 0))
      else if vs.all fun v => !v.isNan && !v.isInf then (w, some (normalOf vs)) else (w, none)
    | (w, _) => (w, none)

/-- FILMACC: the pixel of a lane, and whether it lies on the film. -/
def pixelOf (s : State) (f : EngF) (l : Nat) : Nat × Nat :=
  (((rd s f.g).word f.c l).toNat % 65536, ((rd s f.g).word f.c l).toNat / 65536)
def onFilm (s : State) (f : EngF) (l : Nat) : Bool :=
  decide ((pixelOf s f l).1 < tdSize (etd s f) 1) && decide ((pixelOf s f l).2 < tdSize (etd s f) 2)
/-- The response table of the film; the contributions of a lane by channel (14 R364). -/
def respTd (s : State) (f : EngF) : Td := (moved s).td (grp s).asid (tdSize (etd s f) 3)
def contribs (s : State) (f : EngF) (m : FilmM) (w : W) (l : Nat) : W × Option (List Word) :=
  let n := tdSize (etd s f) 0
  let range := (moved s).srReg (grp s).asid .wlrange
  match m with
  | .raw => (w, some ((List.range n).map fun c => (rd s f.g).run f.a c l))
  | .resp => match wlamOut range ((moved s).ftz (now s).gid) ((rd s f.g).word f.b l) with
    | none => (w, none)
    | some lams =>
      let t := respTd s f
      let waves := lams.map fun i => waveTaps range (tdSize t 0) (fp32.dec i.code).val
      let keys := uniq (((List.range n).map fun c => (waves.map fun ws => ws.map fun x =>
        (x.1, c)).flatten).flatten)
      match elemsAt (litEnv s f t) (tdCont t).unit (keys.map fun k => specAddr t k.1 k.2 0 0) w with
      | (w, none) => (w, none)
      | (w, some vs) => (w, some ((List.range n).map fun c =>
          BitVec.ofNat 32 (dotWide false .rne 0 (waves.zipIdx.map fun ws =>
            (fp32.dec (blend 1 (ws.1.map fun x =>
              (x.2, (aget (keys.zip vs) (x.1, c)).getD .zero))).code,
             fp32.dec ((rd s f.g).elem f.a ws.2 l).toNat)) []).code))
/-- The bytes of a pixel's channels are there and may be written. -/
def filmThere (s : State) (vas : List Nat) (w : W) : W × Bool :=
  vas.foldl (fun (r : W × Bool) va =>
    if !r.2 then r
    else match checkVa va 8 with
      | .error _ => (r.1, false)
      | .ok _ => match r.1.prep (grp s).asid va 8 with
        | (w, .ok []) => (w, true)
        | (w, _) => (w, false)) (w, true)
/-- One lane of FILMACC: off the film with CLAMP nothing; else each channel takes its contribution, at
the home slice, or staged in a deterministic grid (14 R364, 16 R398). -/
def filmLane (s : State) (m : FilmM) (f : EngF) (w : W) (l : Nat) : W × Option Unit :=
  let d := etd s f
  if !onFilm s f l then (w, if tdClamp d then some () else none)
  else match contribs s f m w l with
    | (w, none) => (w, none)
    | (w, some xs) =>
      let vas := (List.range (tdSize d 0)).map fun c => filmAddr d c (pixelOf s f l).1 (pixelOf s f l).2
      match filmThere s vas w with
      | (w, false) => (w, none)
      | (w, true) => ((vas.zip xs).foldl (fun w e =>
          if ((moved s).grid (grp s).grid).det then
            w.stage (now s).gid { asid := (grp s).asid, tlin := ((moved s).team (teamNo s)).tlin
                                  va := e.1, x := e.2, scope := f.scope }
          else (w.rmw (grp s).core (grp s).asid f.scope e.1 8 fun old => some (pairAdd e.2 old)).1) w,
        some ())
/-- The instruction's own limits on its film and its response table. -/
def filmFits (s : State) (m : FilmM) (f : EngF) : Prop :=
  match m with
  | .raw => tdSize (etd s f) 0 ≤ 16
  | .resp => tdCommon (respTd s f) = true ∧ specOk (respTd s f) = true ∧ tdFmt (respTd s f) = 1 ∧
      tdSize (etd s f) 0 ≤ tdSize (respTd s f) 1

/-- The pages that RESFB marks for a lane; none where it names nothing of the object (14 R366). -/
def inObject (v : Fv) : Bool := !v.isNan && !v.isInf && Machine.Num.zero.le v.val && v.val.le (Machine.Num.ofInt 1)
def feedPages (s : State) (m : FbM) (f : EngF) (l : Nat) : Option (List Nat) :=
  let d := etd s f
  let j := ((rd s f.g).word f.a l).toNat
  let pages := fun (rs : List (Nat × Nat)) => uniq ((rs.map fun x => pagesOf x.1 x.2).flatten)
  match m.kind with
  | .tri => if j < tdSize d 1 then some (pages [(tdBase d + 64 * tdSize d 0 + 48 * j, 48)]) else none
  | .node => if j < tdSize d 0 then some (pages [(tdBase d + 64 * j, 64)]) else none
  | .tex =>
    let v := min ((rd s f.g).word f.b l).toNat (tdSize d 3 - 1)
    if inObject (coord s f 0 l) && inObject (coord s f 1 l) then
      some (pages ((texTaps d true m.addr v (coord s f 0 l).val (coord s f 1 l).val).map fun t =>
        (texAddr d v 0 t.1 t.2.1, tdSize d 0 * texCs d)))
    else none
  | .spec =>
    if (List.range 3).all fun k => inObject (coord s f k l) then
      let ax := fun k => (if tdSize d 3 = 1 ∧ 1 ≤ k ∧ tdSize d (k + 1) = 1 then [(0, 256)]
        else axisTaps true m.addr (tdSize d (k + 1)) (coord s f k l).val).map Prod.fst
      some (pages (((ax 0).map fun u => ((ax 1).map fun v => ((ax 2).map fun x =>
        (List.range (tdSize d 0)).map fun i => (specAddr d i u v x, (tdCont d).unit)).flatten).flatten).flatten))
    else none

/-- An operation of the class TX that stores. -/
def storeAt (s : State) : Op :=
  { gid := (now s).gid, cls := .tx, iaddr := (now s).pc, kind := .store }

/-! ## Exceptions and system registers (18 R427–R442) -/

/-- Lanes of a fragment stand in one new FAULT record: the record `n` waits with its class, its payload,
its address and its kind; its lanes hold `pc`; and its report waits for the ring of the context
(06 R164, 18 R427, R428). -/
def isRecord (s t : State) (n : Nat) (ls : List Nat) (pc cause addr kind : Nat) : Prop :=
  (∃ x, aget t.chip.thr.frags n = some x ∧ x.gid = (now s).gid ∧
    x.wake = .fault (now s).pc (now s).replay cause ∧ x.fr = { addr := addr, kind := kind, rep := .waiting }) ∧
  (∀ l ∈ ls, (t.toW.lane (now s).gid l).frag = n ∧ (t.toW.lane (now s).gid l).pc = pc) ∧
  ∃ rest x, t.chip.sys.reps = rest ++ [(.ctx (grp s).asid, x)] ∧ x.cause = cause ∧ x.kind = kind ∧
    x.asid = (grp s).asid ∧ x.core = (grp s).core ∧ x.addr = addr ∧ x.pc = pc ∧ x.lanes = laneMask ls ∧
    x.gindex = (grp s).gindex ∧ x.tlin = (tm s).tlin ∧ x.grid = (grp s).grid ∧ x.frag = some n

/-- There is a place for the record that some lanes leave as: in the Leat pool or the overflow latch
(06 R160, R161). -/
def placeFor (s : State) (ls : List Nat) : Prop :=
  let x := (moved s).frag (now s).frag
  ((moved s).place (now s).gid (recBytes (grp s).width x.lv x.ls ((moved s).perLane (now s).gid ls)
    ((moved s).perSeq (now s).gid ls))).isSome = true

/-- The selector of RDSR and WRSR: the register it names, its instance, and the context (18 R435). -/
def selector (s : State) (f : Alu) : Nat := ((rd s f.g).b f 0).toNat
def namesReg (s : State) (f : Alu) (reg : Reg) (n : Nat) : Prop :=
  ∃ cnt, regOf (selector s f / 256 % 4096) = some (reg, cnt) ∧ n = selector s f % 256 ∧ n < cnt ∧
    selector s f / 2 ^ 20 % 2048 = 0
def otherCtx (s : State) (f : Alu) : Nat := ((rd s f.g).word f.c 0).toNat % 65536
def inCtx (s : State) (f : Alu) (reg : Reg) (a : Nat) : Prop :=
  if selector s f < 2 ^ 31 then a = (grp s).asid
  else reg.isSr = true ∧ f.c ≠ .v 0 ∧ (aget s.chip.sys.ctxs a).isSome = true ∧ a = otherCtx s f
def isPriv (s : State) : Bool := ((moved s).ctx (grp s).asid).priv

/-- The value of a register (18 R431, R436, 02 R38, 06 R159, 15 R368–R372, 17 R424, 19 R454). -/
def regValue (s : State) (reg : Reg) (n a : Nat) : Dword :=
  let w := moved s
  match reg with
  | .config => s.boot.config
  | .ctx =>
    let x := w.ctx a
    BitVec.ofNat 64 (a % 65536 * 2 ^ 48 + x.gen % 256 * 2 ^ 40 + (if x.dbg then 2 else 0)
      + if x.priv then 1 else 0)
  | .core =>
    BitVec.ofNat 64 ((now s).core % 2048 + match (w.frag (now s).frag).place with
      | .ctx k => k % 64 * 2048
      | _ => 0)
  | .fpflags => (grp s).flags.setWidth 64
  | .leatuse => BitVec.ofNat 64 (w.leatUse a % 2 ^ 40)
  | .cmd => w.blk .cmd 0 ||| (if w.c.slu.cmd.isSome then BitVec.ofNat 64 (2 ^ 47) else 0)
  | .memcCfg => BitVec.ofNat 64 ((w.stack n).ratio + if (w.stack n).busy then 128 else 0)
  | .memcSpare =>
    let x := w.stack n
    BitVec.ofNat 64 (x.bound % 2 ^ 32 * 2 ^ 32 + x.spc * 2 ^ 24 + x.state * 2 ^ 20 + x.pch * 2 ^ 14
      + x.bank * 2 ^ 9)
  | .keycmd => w.blk .keycmd 0 ||| (if w.c.mc.purging.isEmpty then 0 else BitVec.ofNat 64 (2 ^ 31))
  | .keydata | .fabricTkclr | .fantailCredit => 0
  | .ptpStatus =>
    BitVec.ofNat 64 ((BitVec.ofInt 32 w.c.fab.ptp.ofs).toNat * 2 ^ 32
      + (if w.c.fab.ptp.lock then 2 else 0) + (w.blk .ptpStatus 0).toNat % 2)
  | r => if r.isSr then w.srReg a r else w.blk r n

/-- The bits from `hi` down to `lo`. -/
def fieldMask (hi lo : Nat) : Dword := BitVec.ofNat 64 (2 ^ (hi + 1) - 2 ^ lo)

/-- A register whose write keeps the bits of a mask, and faults where bits of a second one are not 0. -/
def storeMask : Reg → Option (Dword × Dword)
  | .srseed | .qtbase | .ylimit | .cmdarg | .keydata | .fabricReach => some (fieldMask 63 0, 0)
  | .fpctl => some (fieldMask 7 1, fieldMask 63 8)
  | .ttbase => some (fieldMask 51 20, fieldMask 63 52)
  | .mbbase | .savebase => some (fieldMask 55 16, 0)
  | .resqbase | .fltring => some (fieldMask 55 12 ||| fieldMask 3 0, 0)
  | .leatbase => some (fieldMask 55 16, fieldMask 63 56)
  | .fixlim => some (fieldMask 31 0, fieldMask 63 32)
  | .podjob => some (fieldMask 16 0, 0)
  | .wdog | .edefault | .fabricTkexp | .fabricTimeout => some (fieldMask 31 0, 0)
  | .fltev => some (fieldMask 55 3, 0)
  | .savesize | .preempt => some (fieldMask 39 0, 0)
  | .tgather | .fantailPlan => some (fieldMask 15 0, 0)
  | .tierLogbase => some (fieldMask 51 12 ||| fieldMask 8 0, 0)
  | .boltCtl => some (fieldMask 63 32 ||| fieldMask 0 0, 0)
  | .boltScan => some (fieldMask 51 0, 0)
  | .tenterCtl => some (fieldMask 63 48 ||| fieldMask 1 0, fieldMask 31 2)
  | .tenterLog | .errring => some (fieldMask 51 12 ||| fieldMask 3 0, 0)
  | .fabricId => some (fieldMask 10 0, fieldMask 63 11)
  | .pxqRing => some (fieldMask 55 6, 0)
  | .monBase => some (fieldMask 51 6, 0)
  | .commBase => some (fieldMask 63 8, 0)
  | .lifepa => some (fieldMask 51 12, 0)
  | _ => none

/-- The registers of which software writes HEAD alone; those of which a write changes nothing. -/
def headReg (r : Reg) : Prop :=
  r = .resqptr ∨ r = .fltptr ∨ r = .tierLogctl ∨ r = .tenterPtr ∨ r = .errptr
def fixedReg (r : Reg) : Prop := r = .config ∨ r = .core ∨ r = .leatuse ∨ r = .pxqPtr

/-- A register stored. -/
def stored (s : State) (reg : Reg) (n a : Nat) (x : Dword) : State :=
  (if reg.isSr then (moved s).setSrReg a reg x else (moved s).setBlk reg n x).toState s

/-- Two words to a uniform destination once, to every executing lane of another. -/
def pairToAll (s : State) (f : Alu) (x : Dword) : State :=
  let ws : List Word := [x.setWidth 32, (x >>> 32).setWidth 32]
  ((match f.d with
    | .s _ => (moved s).dst (now s) f.d 0 ws
    | _ => (lanesOf s f.g).foldl (fun w l => w.dst (now s) f.d l ws) (moved s)).toState s)

/-- The counters of PERFRD (18 R437). -/
def perfOf (s : State) (n : Nat) : Option Nat :=
  let p := (grp s).perf
  let a := (grp s).asid
  match n with
  | 0 => some p.issues
  | 1 => some p.records
  | 2 => some p.disps
  | 3 => some p.faults
  | 4 => some ((aget ((moved s).core (now s).core).l1miss a).getD 0)
  | 5 => some ((aget s.chip.cch.l2miss a).getD 0)
  | 6 => some ((aget s.chip.cch.walks a).getD 0)
  | 7 => some p.passed
  | _ => none

/-- The issuer's earlier accesses performed at .sys. -/
def atSys (s : State) : W := (moved s).releaseAt (now s).gid .sys
/-- What ERET writes to its destination. -/
def eretEnd (s : State) (f : Alu) (w : W) (d : Word) : State :=
  (if f.d = .v 0 then w else w.dst (now s) f.d 0 [d]).toState s

/-- Whether a cached translation covers a byte of a range: its key names its context and its size. -/
def coversVa (k : Nat × Nat × Nat × Nat) (lo hi : Nat) : Prop :=
  k.2.2.2 * 2 ^ k.2.2.1 < hi ∧ lo < k.2.2.2 * 2 ^ k.2.2.1 + 2 ^ k.2.2.1

/-! ## The package's own events -/

/-- Nothing happens. -/
def stays (e : Instr) (s : State) : Prop := exec e s = .next s

/-- A step does to the package what the function says. -/
def does (e : Instr) (s : State) (f : W → W) : Prop := exec e s = .next ((f s.toW).toState s)

/-- A fragment in a context of a slot that is ready to issue: the issue, its instruction and length. -/
def readyIn (s : State) (core slot f k : Nat) (i : Issue) (p : Peek) : Prop :=
  (f, k) ∈ s.toW.slotFrags core slot ∧ s.toW.ready f = some (i, p)

/-- A fragment comes before another in a slot's choice (06 R142). -/
def before (s : State) (f k f2 k2 : Nat) : Prop :=
  let x := s.toW.frag f
  let y := s.toW.frag f2
  let born := fun (z : Frag) => (s.toW.group z.gid).born.getD 0
  (x.boost = true ∧ y.boost = false) ∨
  (x.boost = y.boost ∧ (born x < born y ∨ (born x = born y ∧ k < k2)))

/-- An instruction of a fragment may issue: the yield meter allows it, and a declared entry fits. -/
def allowed (s : State) (i : Issue) (ins : Instr) : Prop :=
  (s.toW.frag i.frag).meter + weight ins ≤ (s.toW.blk .ylimit 0).toNat ∧
  overBudget (s.toW.group i.gid) ins = false

/-- An instruction is latched for its meaning: the issue stands, the counts of lanes, the meter, the
group's issue counter have moved. -/
def latched (s t : State) (i : Issue) (ins : Instr) : Prop :=
  t.chip.mdl.cur = i ∧ t.chip.mdl.dec = some ins ∧
  (t.toW.frag i.frag).meter =
    (if checkPoint ins then 0 else (s.toW.frag i.frag).meter + weight ins) ∧
  (t.toW.frag i.frag).boost = false ∧ (t.toW.frag i.frag).issued = s.chip.mdl.ac ∧
  (t.toW.group i.gid).perf.issues = (s.toW.group i.gid).perf.issues + 1 ∧
  t.chip.thr.vr = s.chip.thr.vr ∧ t.chip.thr.sr = s.chip.thr.sr ∧ t.chip.thr.pr = s.chip.thr.pr ∧
  t.mem = s.mem

/-- The operation is the oldest outstanding of its group and class. -/
def isOldest (s : State) (id : Nat) (o : Op) : Prop :=
  aget s.chip.eng.ops id = some o ∧
  ∀ n p, (n, p) ∈ s.chip.eng.ops → p.gid = o.gid → p.cls = o.cls → id ≤ n

/-- The values of an operation that its results wait for are there. -/
def valuesThere (s : State) (id : Nat) : Prop :=
  ∀ n p, (n, p) ∈ s.chip.thr.pends → p.op = id → p.ready = true

/-- A started operation of a matrix engine may take its next step: its team is on its core, it is not
suspended, and it is the first outstanding on its tiles and slots (13 R337, R346, R347). -/
def mxNow (s : State) (id : Nat) (o : Op) (m : Mx) : Prop :=
  aget s.chip.eng.ops id = some o ∧ o.kind = .mx m ∧ o.done = false ∧ m.susp = none ∧
  m.isVec = false ∧ ((s.toW.team m.team).st = .resident ∨ (s.toW.team m.team).st = .stopping) ∧
  ∀ n p x, (n, p) ∈ s.chip.eng.ops → p.kind = .mx x → n < id →
    (∀ t ∈ m.tilesOf, t ∉ x.tilesOf) ∧ ∀ t ∈ m.slotsOf, t ∉ x.slotsOf

/-- The step of an operation. -/
def mxStepOf (s : State) (o : Op) (m : Mx) : MxStep :=
  let x : AccCtx :=
    { g := o.gid, pc := o.iaddr, scope := m.f.scope, ord := .rlx, rp := true, again := true }
  match m.kind with
  | .mma k => s.toW.stepMma o m k x
  | .vec k => s.toW.stepVec o m k
  | .ldw k => s.toW.stepLdw m k x
  | .lda => s.toW.stepLda o m x
  | .st => s.toW.stepSt o m x
  | .had k => s.toW.stepHad o m k
  | .qnt => s.toW.stepQnt o m x
  | .zero ts => .done (ts.foldl (fun w t => w.zeroTile t) s.toW) m 0

/-- The steps of an operation: KB K-blocks, or four blocks of 32 rows. -/
def mxStepsOf (m : Mx) : Nat :=
  match m.kind with
  | .mma _ | .vec _ | .ldw _ => m.f.kb.toNat
  | .zero _ => 1
  | _ => 4

/-- A copy of a Hoist that goes on. -/
def hoistNow (s : State) (op : Nat) (o : Op) (h : Hoist) (seg : Nat) : Prop :=
  aget s.chip.eng.ops op = some o ∧ o.kind = .hoist h ∧ o.done = false ∧
  (s.toW.team h.team).st ≠ .saved ∧ seg ∈ h.segs ∧ seg ∉ h.done ∧ (∀ x ∈ h.failed, x.1 ≠ seg) ∧
  ∀ x, h.inPlace = some x → x.seg = seg
def segTry (s : State) (o : Op) (h : Hoist) (seg : Nat) : W × List (Nat × KvRes) × SegRes :=
  if h.g2s then s.toW.segIn o.gid h seg else s.toW.segOut o.gid h seg

/-- A contribution added to the 8 bytes of a channel (02 R44). -/
def contributed (w : W) (core asid : Nat) (sc : Scope) (va : Nat) (x : Word) : W :=
  (w.rmw core asid sc va 8 fun old => some (pairAdd x old)).1

/-! ## The Sluice (04 R94–R112, 05 R115–R125, 18 R441–R452) -/

/-- A queue whose entry the Sluice can read, which runs and is sound: what it read. -/
def queueRuns (s : State) (q : Nat) (w : W) (e : List Byte) : Prop :=
  q < 1024 ∧ s.toW.phys 0 (s.toW.qAt q) 64 = (w, .ok e) ∧ qRuns e = true ∧
  qBad (w.queue q).tail e = none

/-- A queue's head that waits for its check. -/
def headRec (s : State) (q : Nat) (r : List Byte) : Prop :=
  q < 1024 ∧ qRuns (s.toW.qEntry q) = true ∧ (s.toW.queue q).recs.head? = some r

/-- A child grid that is not started. -/
def childRec (s : State) (n : Nat) : Prop :=
  (s.toW.grid n).started = false ∧ (s.toW.grid n).lrec ≠ []

/-- A grid that is refused before it places a team. -/
def refused (w : W) (n cause : Nat) : W :=
  w.modGrid n fun x => { x with started := true, shut := true, fail := some cause }

/-- A completion record's bytes (04 R106). -/
def completion (w : W) (gr : Grid) : List Byte :=
  leBytes 4 gr.status ++ leBytes 4 (min gr.used (2 ^ 32 - 1)) ++ leBytes 8 (recTag gr.lrec) ++
    leBytes 8 gr.ok ++ leBytes 8 w.ptpNow

/-- The record of a command on the system ring (18 R442). -/
def answered (w : W) (a n tlin cause detail : Nat) : W :=
  let w := w.reportSys { cause := cause, kind := 3, asid := a, detail := detail, grid := n, tlin := tlin }
  match w.c.slu.cmd with
  | some c => if c.asid = a then { w with c.slu.cmd := none } else w
  | none => w

/-- No grid of the context has the team that a command names. -/
def noTarget (s : State) (a n tlin : Nat) : Prop :=
  ∀ gr, aget s.chip.slu.grids n = some gr → ¬ (gr.asid = a ∧ gr.started = true ∧ tlin < gr.count)
def isTarget (s : State) (a n tlin : Nat) : Prop :=
  ∃ gr, aget s.chip.slu.grids n = some gr ∧ gr.asid = a ∧ gr.started = true ∧ tlin < gr.count

/-! ## The Miller, the controllers, the clock -/

/-- An event that leaves the package and gives the boot processor a new state. -/
def reboots (e : Instr) (s : State) (b : Boot) : Prop := exec e s = .next { s with boot := b }

/-- The first 512 bytes of an image are sound, 19 R461: the magic number, the size, the fields of zeros. -/
def soundHeader (b : Boot) : Prop :=
  leNat (b.area 0 4) = 0x5746434F ∧ leNat (b.area 8 8) ≤ 33553920 ∧
  (∀ x ∈ b.area 149 3, x = 0) ∧ (∀ x ∈ b.area 284 228, x = 0)

/-- The signature over bytes 0–151 and the body, under the image's own key, 19 R461. -/
def signed (b : Boot) : Prop :=
  (b.area 16 133).headD 0 = 4 ∧
  ecdsaOk (beNat (b.area 17 66), beNat (b.area 83 66))
    (sha512 (b.area 0 152 ++ b.area 512 (leNat (b.area 8 8))))
    (leNat (b.area 152 66)) (leNat (b.area 218 66)) = true

/-- The host has written the start word of an image that is waited for. -/
def pushed (b : Boot) : Prop := b.status ≠ 2 ∧ leNat (b.area (stagingBytes + 4) 4) = 1

/-- A boot that failed waits for the next push. -/
def failedBoot (b : Boot) (st : Nat) : Boot :=
  { b with status := st, staging := putAll b.staging (stagingBytes + 4) [0, 0, 0, 0] }

/-- A PTP message that the clock follows. -/
def followed (s : State) (port domain sender : Nat) : Prop :=
  s.toW.ptpFrom port domain sender = true

/-! ## Encodings, steps, frames -/

/-- The next instruction of a fragment stands in the instruction cache of its core: the bytes at its PC
decode under the budgets of its group and the privilege of its context, inside their block. -/
def standsAt (s : State) (i : Issue) (ins : Instr) (n : Nat) : Prop :=
  ∃ blk, aget (s.toW.core i.core).icache ((s.toW.group i.gid).asid, i.pc / 32 * 32) = some blk ∧
    i.pc % 4 = 0 ∧ i.pc < 2 ^ 50 ∧ i.pc % 32 + n ≤ 32 ∧
    decode (s.toW.ctx (s.toW.group i.gid).asid).priv (s.toW.group i.gid).vb (s.toW.group i.gid).ub
      (blk.drop (i.pc % 32)) = .ok (ins, n) ∧ fmtOk ins = true

/-- The fragment in a context of a slot may issue its next instruction (06 R141): nothing holds it, and
no result that the instruction must await is outstanding. -/
def free (s : State) (core slot f k : Nat) (ins : Instr) : Prop :=
  (f, k) ∈ s.toW.slotFrags core slot ∧ (s.toW.frag f).place = .ctx k ∧ (s.toW.frag f).notBefore ≤ s.chip.mdl.ac ∧
  s.toW.latchHolds f = false ∧
  ∀ e ∈ s.chip.thr.pends, e.2.frag = f → e.2.landed = false →
    ∃ n, e.2.left = some (n + 1) ∧ endsWindow ins = false

/-- What the registers, the memory and the parts of the package beyond threads hold. -/
def sameValues (s t : State) : Prop :=
  t.chip.thr.vr = s.chip.thr.vr ∧ t.chip.thr.sr = s.chip.thr.sr ∧ t.chip.thr.pr = s.chip.thr.pr ∧
  t.chip.cch = s.chip.cch ∧ t.chip.spd = s.chip.spd ∧ t.chip.eng = s.chip.eng ∧
  t.chip.slu = s.chip.slu ∧ t.chip.syn = s.chip.syn ∧ t.chip.fab = s.chip.fab ∧
  t.chip.sys = s.chip.sys ∧ t.mem = s.mem ∧ t.boot = s.boot

/-- The fields of an instruction that computes one result for each lane into its destination, and the
registers that the result fills. -/
def laneFields : Instr → Option (Alu × Nat)
  | .add f | .sub f | .mul f | .mulh _ f | .mad f | .imin _ f | .imax _ f | .iabs _ f | .adds _ f
  | .and f | .or f | .xor f | .andn f | .shl f | .shr f | .sar f | .rot _ f | .fnl _ f | .bfe _ f
  | .bfi f | .popc _ f | .clz _ f | .ctz _ f | .perm f | .sel f | .icmp _ f | .icvt _ f | .mov f
  | .movi f | .plop _ f | .vote _ f | .gred _ f | .gscan _ f | .fadd _ f | .fsub _ f | .fmul _ f
  | .ffma _ f | .fmin _ f | .fmax _ f | .fcmp _ f | .fclass f | .frcp f | .frsq f | .fsqrt _ f
  | .fdiv _ f | .fexp2 f | .flog2 f | .fsin f | .fcos f | .fsinpi f | .fcospi f | .ftanh f
  | .frint _ f | .ffrac f | .fldexp _ f | .fcvt _ f | .fpack _ f | .hfma2 _ f | .hadd2 _ f
  | .hmul2 _ f | .bfma2 _ f | .fdot2 _ f | .fdot4 _ f | .fsrnd _ f | .wsum f | .wdot f => some (f, 1)
  | .madw _ f | .add64 f | .sub64 f | .mad64 f | .lea _ f | .fsincos f | .ballot f | .match _ f =>
    some (f, 2)
  | .brev m f => some (f, if m = .b32 then 1 else 2)
  | .funpk m f => some (f, packN m)
  | .wmov _ f | .wadd f | .wmul f | .wfma f | .wmin _ f | .wmax _ f | .wrcp f | .wexpn f | .wlam f
  | .wlerp f => some (f, 16)
  | .wcvt m f => some (f, if m then 16 else 8)
  | .wfres m f => some (f, if m then 32 else 16)
  | .smuel _ f => some (f, 64)
  | _ => none

/-- The first vector register of a destination. -/
def firstV : Opnd → Option Nat
  | .v n => some n.val
  | .w n => some (16 * n.val)
  | _ => none

/-- The fields of a uniform instruction, and the uniform registers that its result fills. -/
def uniFields : Instr → Option (Alu × Nat)
  | .uadd m f | .usub m f | .umov m f | .rdfl m f | .rdln m f => some (f, if m = .b32 then 1 else 2)
  | .umul _ f | .ulop _ f | .ushf _ f | .ucmp _ f | .usel f => some (f, 1)
  | .umad m f => some (f, if m = .lo then 1 else 2)
  | .ulea _ f => some (f, 2)
  | _ => none

/-- The fields of an instruction of a memory space whose results land later, and its residency
predicate. -/
def memFields : Instr → Option (MemF × Rp)
  | .ld m f => some (f, m.rp)
  | .ldu m f => some (f, m.rp)
  | .st m f => some (f, m.rp)
  | .usto m f => some (f, m.rp)
  | .gath m f => some (f, m.rp)
  | .scat m f => some (f, m.rp)
  | .cstore m f => some (f, m.rp)
  | .atom m f => some (f, m.rp)
  | .ared m f => some (f, m.rp)
  | .afaddc m f => some (f, m)
  | .ldt m f => some (f, m)
  | .stt m f => some (f, m)
  | .cinv f => some (f, 7)
  | .acas m f => some (f, m.rp)
  | .afadd m f => some (f, m.rp)
  | .pref _ f => some (f, 7)
  | .cflush _ f => some (f, 7)
  | _ => none

/-- What only a privileged context may run: ERET, TLBINV, and RDSR and WRSR of a register that an
unprivileged context may not read, or write, where an immediate names it (03 R63, R76). -/
def onlyPriv (i : Instr) : Prop :=
  (∃ f, i = .eretRes f ∨ i = .eretSkip f ∨ i = .eretStep f) ∨
  (∃ f, i = .tlbinvVa f ∨ i = .tlbinvAsid f ∨ i = .tlbinvAll f) ∨
  ∃ (f : Alu) (x : Word) (reg : Reg) (cnt : Nat), f.imm = some x ∧
    regOf (x.toNat / 256 % 4096) = some (reg, cnt) ∧
    ((i = .rdsr f ∧ reg.anyRead = false) ∨ (i = .wrsr f ∧ reg.anyWrite = false))

/-- The register of a special source (03 R55). -/
def specialWord (s : State) (x : Special) (l : Nat) : Word :=
  let g := s.toW.group (now s).gid
  let half := fun (m k : Nat) => BitVec.ofNat 32 (m / 2 ^ (32 * k))
  match x with
  | .zero => 0
  | .laneid => BitVec.ofNat 32 l
  | .gwidth => BitVec.ofNat 32 g.width
  | .gindex => BitVec.ofNat 32 g.gindex
  | .tindex => BitVec.ofNat 32 (s.toW.team g.team).tlin
  | .amasklo => half (now s).mask 0
  | .amaskhi => half (now s).mask 1
  | .idlemask => half (laneMask (s.toW.idleLanes (now s).gid)) (l / 32 % 2)

/-! ## Traps of lanes, and queues -/

/-- The rows of every instruction that computes a function of each executing lane. -/
def anyRow (i : Instr) : Option LaneRow :=
  arithRow i <|> wideRow i <|> shiftRow i <|> selRow i <|> floatRow i <|> approxRow i <|> packedRow i <|>
    convRow i <|> packetRow i <|> lightRow i

/-- The faults that the executing lanes of a row take. -/
def rowFaults (r : LaneRow) (s : State) : List LFault :=
  (lanesOf s r.g).filterMap fun l => ((r.val (rd s r.g) l).fault).map fun x =>
    { lane := l, cause := x.1, addr := x.2 }

/-- What the lanes that take no fault leave behind; the conditions of all of them are kept (02 R38,
R39). -/
def rowKept (r : LaneRow) (s : State) : W :=
  let x := rd s r.g
  let es := lanesOf s r.g
  let good := es.filter fun l => (r.val x l).fault.isNone
  let w := good.foldl (fun w l => r.wr (now s) w l (r.val x l).vals) (moved s)
  let w := w.orFlags (now s).gid (es.foldl (fun y l => y ||| (r.val x l).flags) 0)
  (good.filter fun l => (r.val x l).draw).foldl (fun w l => w.bumpSeq (now s).gid l) w

/-- The element that each lane takes: the executing lanes in ascending order take the oldest elements in
turn, or all of them the first; a lane left without one takes 0. -/
def dealt (u : Bool) (es : List Nat) (xs : List Word) (l : Nat) : Word :=
  xs.getD (if u then 0 else es.findIdx fun k => k = l) 0

end Sys2Proof.Claim

open Sys2Proof Sys2Proof.Machine Sys2Proof.Claim

/-- The decoder reads back the encoding of every well-formed instruction (R61, R63, R64, R68, R75). -/
def Obligations.DecodeEncode : Prop :=
  ∀ vb ub i rest, i.isInsn = true → wellFormed vb ub i = true →
    decode true vb ub (encode i ++ rest) = .ok (i, (encode i).length)

/-- What the decoder accepts is well formed and is what the encoder writes (R61, R63, R64, R68,
R75). -/
def Obligations.DecodedEncodes : Prop :=
  ∀ priv vb ub bs i n, decode priv vb ub bs = .ok (i, n) →
    i.isInsn = true ∧ wellFormed vb ub i = true ∧ n ≤ bs.length ∧ encode i = bs.take n ∧
    ∃ b rest, bs = b :: rest ∧
      ((b.toNat % 4 = 0 ∧ n = 8) ∨ (b.toNat % 4 = 1 ∧ n = 12) ∨ (b.toNat % 4 = 2 ∧ n = 16))

/-- Words written out in the spec decode to the instructions that they stand for (R77, R127, R180,
R282, R310, R354, R412, R440, Worked encodings of chapters 7 and 8). -/
def Obligations.DecodeWords : Prop :=
  let o := Opnd.v 0
  let z := Opnd.sp .zero
  decodesTo 0x0000000000001C04 0 (.nop (alu o o o o)) ∧
  decodesTo 0x0000000000001C09 6 (.bra (alu o o o o (some 6))) ∧
  decodesTo 0x0000000000001C2C 0 (.exit (alu o o o o)) ∧
  decodesTo 0x0000102008101C80 0 (.add (alu (.v 4) (.v 1) (.s 2) o)) ∧
  decodesTo 0x00001F0008101C81 0x64 (.add (alu (.v 4) (.v 1) z o (some 100))) ∧
  decodesTo 0x008000602F881CFC 0
    (.icmp { cc := .lt, m := false } (alu (.p 2) (.v 5) (.v 6) o)) ∧
  decodesTo 0x0840007820281CA4 0 (.lea { ext := .u32, sh := 2 } (alu (.v 10) (.s 4) (.v 7) o)) ∧
  decodesTo 0x0000000018281D88 0 (.ballot (alu (.v 10) (.v 3) o o)) ∧
  decodesTo 0x0000602008101DCC 0 (.ffma .rne (alu (.v 4) (.v 1) (.v 2) (.v 3))) ∧
  decodesTo 0x40001F00281C1DC1 0x3FC00000 (.fadd .ru (alu (.v 7) (.v 5) z o (some 0x3FC00000))) ∧
  decodesTo 0x0038214E07081E8C 0 (.wfma (alu (.w 2) (.w 0) (.v 20) (.w 1))) ∧
  decodesTo 0xE10000282020DEC2 0x0000000100000068
    (.ld { rp := 7, sz := .b32 } { g := .always, x := 3, d := .v 8, a := .s 4, b := .v 2, c := o
                                   ofs := 0x40, dep := .none, tok := false, tdi := 0, space := .glob
                                   atw := .a4, evict := 3, scope := .tm, ord := .rlx }) ∧
  decodesTo 0x002290E850001F42 0xE008
    (.tcopy .g2s { g := .always, x := 0, d := o, a := .s 10, b := .s 14, c := .s 20, eimm := 0
                   fmto := 0, tdi := 7, space := .glob, win := 0, scope := .tm, ord := .rlx }) ∧
  decodesTo 0x000010C850001F8E 0x0030000010050008
    (.mxmma { ws := false, slot := 0, t := false }
      { g := .always, x := 0, d := o, a := .s 10, b := .s 12, c := o, kb := 3, fmta := 0, fmtb := 0
        tda := 4, tdb := 5, acc := 0, spa := .glob, rnd := .rne, arr := .arr0, scope := .tm
        ord := .rlx }) ∧
  decodesTo 0x0000104040411F6A 0x000000FF00012008
    (.trace { task := false, any := false, cullb := false }
      { g := .always, x := 4, d := .v 16, a := .v 8, b := .s 4, c := o, eimm := 0xFF, fmto := 0
        tdi := 9, space := .glob, win := 0, scope := .tm, ord := .rlx }) ∧
  decodesTo 0x000000B050301FC4 0 (.tkmrg (alu (.v 12) (.v 10) (.v 11) o)) ∧
  decodesTo 0x00001F0000001FD1 0x1234 (.trap (alu o o z o (some 0x1234))) ∧
  decodesTo 0x00000008A4601FD8 0 (.eretRes (alu (.s 24) (.s 20) o o)) ∧
  decodesTo 0x00001F0004781FDD 0x200 (.rdsr (alu (.s 30) o z o (some 0x200)))

/-- Lengths, alignment, fetch blocks and skip words (R61, R62, R63). -/
def Obligations.LengthsAndBlocks : Prop :=
  (∀ priv vb ub (b : Byte) rest, b.toNat % 4 = 3 →
    decode priv vb ub (b :: rest) = .error .reservedLength ∧
    checkBytes priv vb ub 0 (b :: rest) = .bad Cause.reservedLength) ∧
  (∀ (w : W) c g pc, pc % 4 ≠ 0 → w.peek c g pc = .bad Cause.instrFetchFault) ∧
  (∀ priv vb ub o (blk : List Byte) b rest, blk.drop o = b :: rest →
    ((b.toNat % 4 = 0 ∧ 32 < o + 8) ∨ (b.toNat % 4 = 1 ∧ 32 < o + 12) ∨ (b.toNat % 4 = 2 ∧ 32 < o + 16)) →
    checkBytes priv vb ub o blk = .bad Cause.fetchStraddle) ∧
  (∀ pc n, nextPc pc n % 32 ≠ 28 ∧
    ((pc + n) % 32 = 28 → nextPc pc n = pc + n + 4) ∧ ((pc + n) % 32 ≠ 28 → nextPc pc n = pc + n))

/-- What an unprivileged context may not run (R76). -/
def Obligations.Privilege : Prop :=
  (∀ vb ub i rest, i.isInsn = true → wellFormed vb ub i = true →
    (onlyPriv i → decode false vb ub (encode i ++ rest) = .error .privilegedOp) ∧
    (¬ onlyPriv i → decode false vb ub (encode i ++ rest) = .ok (i, (encode i).length))) ∧
  (∀ priv vb ub o blk, decode priv vb ub (blk.drop o) = .error .privilegedOp → blk.drop o ≠ [] →
    (∀ b rest, blk.drop o = b :: rest → o + ((b.toNat % 4 + 2) * 4) ≤ 32) →
    checkBytes priv vb ub o blk = .bad Cause.privilegedOp) ∧
  (∀ f s reg n, runs s f.g = true → namesReg s f reg n → isPriv s = false →
    (reg.anyRead = false → exec (.rdsr f) s = .next (allFault s f.g Cause.privilegedOp)) ∧
    (reg.anyWrite = false → exec (.wrsr f) s = .next (allFault s f.g Cause.privilegedOp)))

/-- What source operands read (R55). -/
def Obligations.Sources : Prop :=
  (∀ s g x l, l < 64 → (rd s g).word (.sp x) l = specialWord s x l) ∧
  (∀ s g (p : Fin 8) l, (rd s g).word (.p p) l = if (moved s).readP (now s).gid l p.val then 1 else 0) ∧
  (∀ (w : W) g l, w.pr g l 7 = true) ∧
  (∀ (w : W) g l, w.c.thr.pends = [] → w.readP g l 7 = true) ∧
  (∀ s g n l, (∀ e ∈ s.chip.thr.pends, e.2.gid ≠ (now s).gid ∨ n.val ∉ e.2.vdst) →
    (rd s g).word (.v n) l = s.toW.vr (now s).gid l n.val) ∧
  (∀ s g n l, (∀ e ∈ s.chip.thr.pends, e.2.frag ≠ (now s).frag ∨ n.val ∉ e.2.sdst) →
    (rd s g).word (.s n) l = s.toW.sr (now s).frag n.val) ∧
  (∀ s g o l, (rd s g).pair o l = (rd s g).run o 1 l ++ (rd s g).run o 0 l) ∧
  (∀ vb ub i p, i.parts = some p → wellFormed vb ub i = true →
    (∀ x, p.fmt.d ≠ .sp x) ∧ p.fmt.d ≠ .p 7)

/-- A step runs the instruction whose bytes stand at the PC of the chosen fragment (R63, R138, R141,
R142, R147). That inputs are taken in the order of the agenda is the model's choice, log entry
6. -/
def Obligations.StepRunsDecoded : Prop :=
  ∀ core slot f k i ins n rest s, s.boot.power = true →
    s.chip.mdl.agenda = .slotIssue core slot :: rest → s.chip.mdl.pack = [] →
    s.toW.nextIssue f = some i → standsAt s i ins n → free s core slot f k ins →
    (∀ g k2, (g, k2) ∈ s.toW.slotFrags core slot → g ≠ f → s.toW.ready g ≠ none → before s f k g k2) →
    allowed s i ins → (∀ x ∈ s.toW.slotFrags core slot, x.2 < 64 ∧
      (s.toW.group (s.toW.frag x.1).gid).born.getD 0 < 2 ^ 64) →
    ∃ t : State, t.chip.mdl.cur = { i with len := n } ∧ t.chip.mdl.dec = none ∧
      t.chip.mdl.agenda = rest ∧ t.chip.mdl.ac = s.chip.mdl.ac ∧
      t.chip.thr.vr = s.chip.thr.vr ∧ t.chip.thr.sr = s.chip.thr.sr ∧ t.chip.thr.pr = s.chip.thr.pr ∧
      t.chip.cch = s.chip.cch ∧ t.chip.spd = s.chip.spd ∧ t.chip.eng = s.chip.eng ∧
      t.chip.sys = s.chip.sys ∧ t.mem = s.mem ∧ t.boot = s.boot ∧
      (∀ l, (t.toW.lane i.gid l).pc = (s.toW.lane i.gid l).pc) ∧
      step s = match exec ins t with
        | .next u => .next (settle (some ins) u)
        | r => r

/-- 19 R457, R460: a package with power takes a step, and one without waits for its power. -/
def Sys2Proof.Claim.StepsGoOnPart : Prop :=
  (∀ s, s.boot.power = true → ∃ t, step s = .next t) ∧
  (∀ s r, step s ≠ .refused r) ∧
  (∀ s, s.boot.power = false →
    (∀ p rest, s.chip.mdl.agenda ≠ .powerOn p :: rest) → step s = .fault .poweredOff) ∧
  (∀ s p rest, s.boot.power = false → s.chip.mdl.agenda = .powerOn p :: rest →
    ∃ t, step s = .next t ∧ t.boot.power = true) ∧
  (∀ s, s.boot.power = true → s.chip.mdl.agenda = [] → s.toW.nextInternal = none →
    step s = .next (settle none { s with
      chip.mdl.ac := s.chip.mdl.ac + 1, chip.mdl.turn := 0, chip.mdl.pack := [] }))

/-- 06 R151, R152: what every instruction and every event of the package leaves alone. -/
def Sys2Proof.Claim.EveryInstructionPart : Prop :=
  (∀ i s, ∃ t, exec i s = .next t) ∧
  (∀ i s t, i.isInsn = true → exec i s = .next t → t.boot = s.boot)

/-- Every step of a package with power, and every instruction, answers a next state (R457, R460,
R152). The order of events within an ac is the model's choice, log entry 6. -/
def Obligations.StepsGoOn : Prop :=
  StepsGoOnPart ∧
  EveryInstructionPart

/-- Every step and every instruction keeps the canonical form of memory (R4, R241). That a byte
nothing has written reads 0x00 is the model's choice, log entry 1. -/
def Obligations.StepKeepsMemoryForm : Prop :=
  (∀ s t, Memory.wf s.mem = true → step s = .next t → Memory.wf t.mem = true) ∧
  (∀ i s t, Memory.wf s.mem = true → exec i s = .next t → Memory.wf t.mem = true) ∧
  (∀ (m : Memory) a b c, Memory.wf m = true →
    (m.put a b).get c = if c = a then b else m.get c) ∧
  (∀ m n : Memory, Memory.wf m = true → Memory.wf n = true → (∀ a, m.get a = n.get a) → m = n)

/-- What the registers hold after reset (R21, R92, R126, R223, R368, R402, R454, R461, R309). Memory
that lists nothing and power that is on are the model's choices, log entries 1 and 5. -/
def Obligations.ResetValues : Prop :=
  let w := State.reset.toW
  Memory.wf State.reset.mem = true ∧ State.reset.mem = [] ∧ State.reset.boot.power = true ∧
  State.reset.boot.status = 0 ∧ State.reset.boot.config = 0x0C04848940084480 ∧
  (∀ n, w.rdBlk .ylimit n = 200000) ∧ (∀ n, w.rdBlk .preempt n = 0x64FE) ∧
  (∀ n, w.rdBlk .tgather n = 256) ∧ (∀ n, w.rdBlk .edefault n = 1000) ∧
  (∀ n, w.rdBlk .fabricTkexp n = 4000) ∧ (∀ n, w.rdBlk .fabricTimeout n = 1000) ∧
  (∀ n, w.rdBlk .fantailPlan n = 5200) ∧ (∀ n, w.rdBlk .memcCfg n = 2) ∧
  (∀ n, w.rdBlk .memcSpare n = 0x02000000) ∧ (∀ n, w.rdBlk .ptpCfg n = 0) ∧
  (∀ n, w.rdBlk .hwinCtl n = 0) ∧ (∀ n, w.rdBlk .trgctl n = 0) ∧
  (∀ n, w.rdBlk .aprCtl n = 0) ∧ (∀ n, w.rdBlk .keycmd n = 0) ∧ (∀ n, w.rdBlk .monCtl n = 0) ∧
  (∀ a, w.srReg a .wlrange = 0x444F800043B40000) ∧ (∀ a, w.srReg a .fixlim = 2000) ∧
  (∀ a, w.srReg a .fpctl = 0) ∧ State.reset.chip.sys.ctxs = [] ∧ State.reset.chip.thr.frags = []

/-- 06 R151, 03 R62, R65: where no lane executes, the active lanes advance and nothing else happens. -/
def Sys2Proof.Claim.NoExecutingLanePart : Prop :=
  (∀ i s, i.isInsn = true → lanesOf s (insnGuard i) = [] → calm s = true →
    exec i s = .next ((moved s).toState s)) ∧
  (∀ s, (moved s).toState s = { s with
    chip.thr.lanes := (moved s).c.thr.lanes, chip.mdl.fresh := (moved s).c.mdl.fresh }) ∧
  (∀ s l, (now s).replay = false → l ∈ (now s).lanes →
    ((moved s).lane (now s).gid l) =
      { s.toW.lane (now s).gid l with pc := nextPc (now s).pc (now s).len }) ∧
  (∀ s g l, (g ≠ (now s).gid ∨ l ∉ (now s).lanes ∨ (now s).replay = true) →
    (moved s).lane g l = s.toW.lane g l)

/-- 18 R434: the lanes that ERET.step resumed fault SINGLE_STEP after their next issue. -/
def Sys2Proof.Claim.SingleStepPart : Prop :=
  ∀ f s, calm s = false → lanesOf s f.g ≠ [] → (now s).replay = false →
    aget s.chip.thr.frags (now s).frag = some (s.toW.frag (now s).frag) →
    let w1 := (moved s).setFrag (now s).frag { s.toW.frag (now s).frag with step := false }
    let ls := (w1.runLanes (now s).gid (now s).frag).filter fun l => (now s).lanes.contains l
    (s.toW.frag (now s).frag).hold = [] →
    let w2 := (w1.takeFault (now s).gid (now s).frag ls Cause.singleStep 0 0
      (nextPc (now s).pc (now s).len) (now s).pc false).shed (now s).gid (now s).frag
    (now s).lanes.all (fun l => (w1.runLanes (now s).gid (now s).frag).contains l) = true →
    exec (.nop f) s = .next (w2.toState s)

/-- Without an executing lane the active lanes only advance; a stepped lane faults after one issue
(R65, R151, R62, R434). -/
def Obligations.NoExecutingLane : Prop :=
  NoExecutingLanePart ∧
  SingleStepPart

/-- 03 R53, R54, 06 R151, 02 R39: the frame of the instructions that compute a result for each lane, with
no queue register: registers, predicates, memory, and, where no record is left, the rest of the package. -/
def Sys2Proof.Claim.LaneFramesPart : Prop :=
  ∀ i f n s t, laneFields i = some (f, n) → wellFormed 256 192 i = true → exec i s = .next t →
    (∀ g l r, (g ≠ (now s).gid ∨ l ∉ lanesOf s f.g ∨
      (∀ a, firstV f.d = some a → r < a ∨ a + n ≤ r)) → t.toW.vr g l r = s.toW.vr g l r) ∧
    (queueRegs [f.d, f.a, f.b, f.c] = [] →
      (∀ g l p, (g ≠ (now s).gid ∨ l ∉ lanesOf s f.g ∨ ∀ k, f.d = .p k → p ≠ k.val) →
        t.toW.pr g l p = s.toW.pr g l p) ∧
      t.chip.cch = s.chip.cch ∧ t.chip.spd = s.chip.spd ∧ t.chip.sys.blk = s.chip.sys.blk ∧
      (∀ a r, r ≠ .fltring → t.toW.srReg a r = s.toW.srReg a r) ∧ t.chip.fab = s.chip.fab ∧ t.mem = s.mem ∧
      (t.chip.mdl.next = s.chip.mdl.next →
        (∀ g r, (g ≠ (now s).frag ∨ ∀ k, f.d = .s k → r < k.val ∨ k.val + n ≤ r) →
          t.toW.sr g r = s.toW.sr g r) ∧
        sameBeyondThreads s t)) ∧
    t.boot = s.boot

/-- 07 R181, 06 R151: the frame of the uniform instructions. -/
def Sys2Proof.Claim.UniformFramesPart : Prop :=
  ∀ i f n s t, uniFields i = some (f, n) → runs s f.g = true → exec i s = .next t →
    (∀ g r, (g ≠ (now s).frag ∨ ∀ k, f.d = .s k → r < k.val ∨ k.val + n ≤ r) →
      t.toW.sr g r = s.toW.sr g r) ∧
    t.chip.thr.groups = s.chip.thr.groups ∧ t.chip.thr.frags = s.chip.thr.frags ∧
    ((∃ k, f.d = .s k) → t.chip.thr.vr = s.chip.thr.vr ∧ t.chip.thr.pr = s.chip.thr.pr) ∧
    sameBeyondThreads s t

/-- What lane and uniform instructions leave unchanged (R39, R53, R54, R151, R181). -/
def Obligations.RegisterFrames : Prop :=
  LaneFramesPart ∧
  UniformFramesPart

/-- What memory instructions and stores leave unchanged (R145, R239, R250, R264, R276, R286). -/
def Obligations.MemoryFrames : Prop :=
  (∀ i f rp s t, memFields i = some (f, rp) → exec i s = .next t →
    (∀ e ∈ s.chip.thr.frags, e.1 < s.chip.mdl.next) →
    t.boot = s.boot ∧
    (∀ g l r, (∀ e ∈ s.chip.thr.pends, e.2.gid ≠ g ∨ l ∉ e.2.lanes ∨ r ∉ e.2.vdst) →
      t.toW.vr g l r = s.toW.vr g l r) ∧
    (∀ g r, (aget s.chip.thr.frags g).isSome = true → (aget t.chip.thr.frags g).isSome = true →
      (∀ e ∈ s.chip.thr.pends, e.2.frag ≠ g ∨ r ∉ e.2.sdst) → (∀ m k, i = .cstore m f → f.d = .s k → r ≠ k.val) → t.toW.sr g r = s.toW.sr g r) ∧
    (∀ g l p, (g ≠ (now s).gid ∨ l ∉ lanesOf s f.g ∨ (p ≠ rp.toNat ∧
        ∀ q, f.a = .q q → (s.toW.bind (now s).gid q.val).endp ≠ some p)) →
      t.toW.pr g l p = s.toW.pr g l p)) ∧
  (∀ (w : W) t o bs t2 a, (t2 ≠ t ∨ a < o ∨ o + bs.length ≤ a) →
    aget (w.spStore t o bs).c.spd.bytes (t2, a) = aget w.c.spd.bytes (t2, a)) ∧
  (∀ (w : W) t o bs k, k < bs.length →
    aget (w.spStore t o bs).c.spd.bytes (t, o + k) = some (bs.getD k 0)) ∧
  (∀ (w : W) t o bs, (w.spStore t o bs).wq = w.wq ∧ (w.spStore t o bs).c.cch = w.c.cch ∧
    (w.spStore t o bs).c.thr = w.c.thr) ∧
  (∀ (w : W) c a sc lv va bs l2, aget w.c.cch.l2 (a, va / 128) = some l2 → l2.pw = true →
    ((aget w.c.cch.l1 (c, a, va / 128)).isSome = true ∨ w.c.cch.l1.length < Config.l1Lines) →
    let v := w.writePart c a sc lv va bs
    (∀ k, k ≠ (c, a, va / 128) → aget v.c.cch.l1 k = aget w.c.cch.l1 k) ∧
    (∀ k, k ≠ (a, va / 128) → aget v.c.cch.l2 k = aget w.c.cch.l2 k) ∧
    (lv < 2 → v.c.cch.l2 = w.c.cch.l2) ∧ (lv < 3 → v.wq = w.wq) ∧
    (∀ i, (i < va % 128 ∨ va % 128 + bs.length ≤ i) → i < 128 →
      ((aget v.c.cch.l1 (c, a, va / 128)).getD {}).byte i =
        ((aget w.c.cch.l1 (c, a, va / 128)).getD { data := emptyData }).byte i))

/-- The lanes whose trap is taken write nothing and leave; the others complete (R39). -/
def Obligations.LaneTraps : Prop :=
  (∀ i r s, anyRow i = some r → runs s r.g = true → queueRegs (r.d :: r.srcs) = [] →
    rowFaults r s ≠ [] → exec i s = .next (faulting s (rowKept r s) (rowFaults r s))) ∧
  (∀ (ctl : Dword) (fl : BitVec 5),
    trapCause ctl fl =
      if fl.getLsbD 4 ∧ ctl.getLsbD 5 then some Cause.fpInvalid
      else if fl.getLsbD 3 ∧ ctl.getLsbD 4 then some Cause.fpDivzero
      else if fl.getLsbD 2 ∧ ctl.getLsbD 3 then some Cause.fpOverflow
      else if fl.getLsbD 1 ∧ ctl.getLsbD 2 then some Cause.fpUnderflow
      else if fl.getLsbD 0 ∧ ctl.getLsbD 1 then some Cause.fpInexact else none)

/-- What pops and pushes do, and when they fault or wait (R60, R152, R319). -/
def Obligations.QueueOperands : Prop :=
  (∀ i r s w c a, anyRow i = some r → runs s r.g = true →
    (moved s).popAll (now s).gid (lanesOf s r.g) (queueRegs r.srcs) = (w, .fault c a) →
    exec i s = .next (allFault s r.g c a)) ∧
  (∀ i r s w k, anyRow i = some r → runs s r.g = true →
    (moved s).popAll (now s).gid (lanesOf s r.g) (queueRegs r.srcs) = (w, .park k) →
    exec i s = .next (allWait s r.g k)) ∧
  (∀ (w : W) g q (es : List Nat), es.Nodup → (w.bind g q).kind = .pop →
    let b := w.bind g q
    let h := w.hq (w.group g).team b.n
    let k := if b.u then 1 else es.length
    (k ≤ h.elems.length → ∃ xs v, w.pop g q es = (v, .ok (xs, [])) ∧
      v = w.setHq (w.group g).team b.n { h with elems := h.elems.drop k } ∧
      ∀ l ∈ es, aget xs l = some (dealt b.u es h.elems l)) ∧
    (h.elems.length < k → h.err ≠ 0 → w.pop g q es = (w, .fault h.err 0)) ∧
    (h.elems.length < k → h.err = 0 → h.closed = false → w.pop g q es = (w, .park (.queue false q))) ∧
    (h.elems.length < k → h.err = 0 → h.closed = true → es ≠ [] → b.endp = none →
      (w.pop g q es).2 = .fault Cause.queueClosedPop 0) ∧
    (h.elems.length < k → h.err = 0 → h.closed = true → b.endp ≠ none → ∃ xs zs v,
      w.pop g q es = (v, .ok (xs, zs)) ∧
      v = w.setHq (w.group g).team b.n { h with elems := [] } ∧
      (∀ l ∈ es, aget xs l = some (dealt b.u es h.elems l)) ∧
      ∀ l, l ∈ zs ↔ l ∈ es ∧ (b.u = true ∨ h.elems.length ≤ es.findIdx fun k => k = l))) ∧
  (∀ (w : W) g q es, (w.bind g q).kind ≠ .pop → (w.bind g q).kind ≠ .pxpop →
    w.pop g q es = (w, .fault Cause.queueUnbound 0)) ∧
  (∀ (w : W) g q vals, (w.bind g q).kind = .push →
    let v := w.releaseAt g .tm
    let b := w.bind g q
    let h := v.hq (v.group g).team b.n
    let xs := if b.u then vals.take 1 else vals
    w.push g q vals =
      if h.err ≠ 0 then (v, .fault h.err 0)
      else if h.closed = true ∨ h.closepend = true then (v, .fault Cause.queueOverrun 0)
      else if 2048 < h.elems.length + xs.length then (v, .park (.queue true q))
      else (v.setHq (v.group g).team b.n { h with elems := h.elems ++ xs }, .ok ()))

/-- A part of `Obligations.IntegerArithmetic`. -/
def Sys2Proof.Claim.IntegerArithmeticPart : Prop :=
  ∀ i r, arithRow i = some r → completes i r

/-- A part of `Obligations.IntegerArithmetic`. -/
def Sys2Proof.Claim.WideArithmeticPart : Prop :=
  ∀ i r, wideRow i = some r → completes i r

/-- Results of the integer arithmetic instructions (R184, R181, R151). -/
def Obligations.IntegerArithmetic : Prop :=
  IntegerArithmeticPart ∧
  WideArithmeticPart

/-- A part of `Obligations.LogicShiftsFields`. -/
def Sys2Proof.Claim.LogicShiftsFieldsPart : Prop :=
  ∀ i r, shiftRow i = some r → completes i r

/-- A part of `Obligations.LogicShiftsFields`. -/
def Sys2Proof.Claim.BitCountsPart : Prop :=
  ∀ i f, countAlu i = some f → ∃ v, countGives i v ∧
    completes i { g := f.g, srcs := aluSrcs f, d := f.d, val := fun x l => { vals := v x l } }

/-- Results of logic, shifts, rotations, funnels, bit fields and counts (R185, R186). -/
def Obligations.LogicShiftsFields : Prop :=
  LogicShiftsFieldsPart ∧
  BitCountsPart

/-- A part of `Obligations.SelectCompareConvert`. -/
def Sys2Proof.Claim.SelectMovePermutePart : Prop :=
  ∀ i r, selRow i = some r → completes i r

/-- A part of `Obligations.SelectCompareConvert`. -/
def Sys2Proof.Claim.CompareConvertPart : Prop :=
  (∀ m f, ∃ v : Rd → Nat → Word, (∀ x l, isCmp m (x.word f.a l) (x.b f l) (v x l)) ∧
    completes (.icmp m f) (row1 f v)) ∧
  ∀ m f, completes (.icvt m f) (row1 f fun x l => icvtTo m (x.b f l))

/-- Results of selection, permutes, moves, predicate logic, comparison and conversion (R187, R188,
R189, R190, R191). -/
def Obligations.SelectCompareConvert : Prop :=
  SelectMovePermutePart ∧
  CompareConvertPart

/-- A part of `Obligations.UniformResults`. -/
def Sys2Proof.Claim.UniformResultsPart : Prop :=
  ∀ i f v, uniVals i = some (f, v) → ∀ s, runs s f.g = true →
    exec i s = .next (wroteOnce s f.d (v (rd s f.g)))

/-- A part of `Obligations.UniformResults`. -/
def Sys2Proof.Claim.UniformTablesComparesPart : Prop :=
  (∀ (t : BitVec 8) (f : Alu) (s : State), runs s f.g = true → ∃ y : Word,
    (∀ j, j < 32 → y.getLsbD j = t.getLsbD
      (4 * ((ua (rd s f.g) f).getLsbD j).toNat + 2 * ((ub (rd s f.g) f).getLsbD j).toNat
        + ((uc (rd s f.g) f).getLsbD j).toNat)) ∧
    exec (.ulop t f) s = .next (wroteOnce s f.d [y])) ∧
  ∀ (m : CmpM) (f : Alu) (s : State), runs s f.g = true → ∃ y : Word,
    isCmp m (ua (rd s f.g) f) (ub (rd s f.g) f) y ∧
    exec (.ucmp m f) s = .next (wroteOnce s f.d [y])

/-- A part of `Obligations.UniformResults`. -/
def Sys2Proof.Claim.WriteOneLanePart : Prop :=
  ∀ (m : Wid) (f : Alu) (s : State), runs s f.g = true →
    let x := rd s f.g
    let l := (ub x f).toNat % 64
    exec (.wrln m f) s = .next (((if l ∈ lanesOf s f.g
      then (moved s).dst (now s) f.d l
        (if m = .b64 then [x.run f.a 0 l, x.run f.a 1 l] else [x.run f.a 0 l])
      else moved s)).toState s)

/-- Results of the uniform instructions and of the single-lane moves (R192, R193, R194, R151). -/
def Obligations.UniformResults : Prop :=
  UniformResultsPart ∧
  UniformTablesComparesPart ∧
  WriteOneLanePart

/-- A part of `Obligations.LaneMoves`. -/
def Sys2Proof.Claim.ShufflesSwapsPart : Prop :=
  (∀ (m : ShflM) (f : Alu), ∃ v : Rd → Nat → Word × Bool,
    (∀ x l, l ∈ x.es → received x f l
      (shflTo m.mode (segOfWidth m.seg x.width) l (x.b f l).toNat) (v x l)) ∧
    completes (.shfl m f) (okRow f v)) ∧
  ∀ (m : SwapM) (f : Alu), ∃ v : Rd → Nat → Word × Bool,
    (∀ x l, l ∈ x.es → swapped m x f l (v x l)) ∧ completes (.swapp m f) (okRow f v)

/-- A part of `Obligations.LaneMoves`. -/
def Sys2Proof.Claim.PackingLanesPart : Prop :=
  (∀ f : Alu, completes (.cmprs f) (okRow f fun x l =>
    let ks := x.es.filter fun k => x.word f.c k ≠ 0
    match ks[x.es.idxOf l]? with
    | some k => (x.word f.a k, true)
    | none => (x.b f l, false))) ∧
  ∀ f : Alu, completes (.expnd f) (okRow f fun x l =>
    if x.word f.c l ≠ 0 then
      (x.word f.a (x.es.getD ((x.es.filter fun k => k < l ∧ x.word f.c k ≠ 0).length) l), true)
    else (x.b f l, false))

/-- Shuffles, swaps and packing of lanes (R197, R198, R202, R196). -/
def Obligations.LaneMoves : Prop :=
  ShufflesSwapsPart ∧
  PackingLanesPart

/-- Ballots, votes and matches over the executing lanes (R199). -/
def Obligations.BallotsVotesMatches : Prop :=
  (∀ f : Alu, ∃ v : Rd → Nat → List Word,
    (∀ x l, (∀ k ∈ x.es, k < 64) →
      maskPair (fun k => k ∈ x.es ∧ x.word f.a k ≠ 0) (v x l)) ∧
    completes (.ballot f)
      { g := f.g, srcs := aluSrcs f, d := f.d, val := fun x l => { vals := v x l } }) ∧
  (∀ (m : VoteM) (f : Alu), completes (.vote m f) (row1 f fun x _ => wordOfBool (match m with
    | .all => decide (∀ k ∈ x.es, x.word f.a k ≠ 0)
    | .any => decide (∃ k ∈ x.es, x.word f.a k ≠ 0)
    | .uni => decide (∀ k ∈ x.es, ∀ j ∈ x.es, x.word f.a k = x.word f.a j)))) ∧
  ∀ (m : Wid) (f : Alu), ∃ v : Rd → Nat → List Word,
    (∀ x l, (∀ k ∈ x.es, k < 64) →
      maskPair (fun k => k ∈ x.es ∧ x.run f.a 0 k = x.run f.a 0 l ∧
        (m = .b64 → x.run f.a 1 k = x.run f.a 1 l)) (v x l)) ∧
    completes (.match m f)
      { g := f.g, srcs := aluSrcs f, d := f.d, val := fun x l => { vals := v x l } }

/-- A part of `Obligations.Reductions`. -/
def Sys2Proof.Claim.IntegerReductionsPart : Prop :=
  ∀ (o : RedOp) (c : (Word → Word → Word) × Word), intCombine o = some c →
    (∀ f : Alu, ∃ v : Rd → Nat → Word,
      (∀ x l, x.width ≤ 64 → v x l = combined c x f x.width) ∧ completes (.gred o f) (row1 f v)) ∧
    ∀ (e : Bool) (f : Alu), completes (.gscan { op := o, excl := e } f)
      (row1 f fun x l => combined c x f (min x.width (if e then l else l + 1)))

/-- A part of `Obligations.Reductions`. -/
def Sys2Proof.Claim.FloatReductionsPart : Prop :=
  ∀ (o : RedOp) (z : Word), floatIdent o = some z →
    (∀ f : Alu, ∃ v : Rd → Nat → LOut,
      (∀ x l, x.width ≤ 64 →
        let t := treeAt o x.ftz (contributor x f) 6 0
        v x l = fpOut x [t.1.getD z] (t.2 ||| snanOf x f)) ∧
      completes (.gred o f) { g := f.g, srcs := aluSrcs f, d := f.d, val := v }) ∧
    ∀ (e : Bool) (f : Alu), completes (.gscan { op := o, excl := e } f)
      { g := f.g, srcs := aluSrcs f, d := f.d
        val := fun x l =>
          let below := fun k => (List.range (min x.width (if e then k else k + 1))).filterMap
            (contributor x f)
          fpOut x [(scanAt o x.ftz z (below l)).1]
            (x.es.foldl (fun y k => y ||| (scanAt o x.ftz z (below k)).2) 0 ||| snanOf x f) }

/-- Reductions by the fixed tree and scans from the identity (R196, R200, R201). That GSCAN combines
from the identity on is the reading of log entry 11. -/
def Obligations.Reductions : Prop :=
  IntegerReductionsPart ∧
  FloatReductionsPart

/-- FP32 arithmetic, minima, maxima, rounding and classes (R205, R208, R209, R210, R211, R36, R37). -/
def Obligations.FloatArithmetic : Prop :=
  (∀ i r, floatRow i = some r → completes i r) ∧
  ∀ (m : FcmpM) (f : Alu), completes (.fcmp m f)
    { g := f.g, srcs := aluSrcs f, d := f.d
      val := fun x l => fpOut x [fcmpWord m (va x f l) (vb x f l)] (fcmpFlags m (va x f l) (vb x f l)) }

/-- The approximate functions complete with values inside their bounds (R213, R214, R215). Inside
the bounds the value is a free value, log entry 3. -/
def Obligations.ApproximateFunctions : Prop :=
  ∀ i r, approxRow i = some r → completes i r

/-- Each approximate function completes in every executing lane (R213, R214). Inside the bounds of
R213 the value is a free value, log entry 3. -/
def Obligations.ApproximateCompletion : Prop :=
  ∀ i f ts s, approxFns i = some (f, ts) → runs s f.g = true → queueRegs (f.d :: aluSrcs f) = [] →
    (∀ k, 1 ≤ k → k ≤ 5 → ((moved s).fpctl (now s).gid).getLsbD k = false) →
    let x := rd s f.g
    let out := fun (t : Tfn) l => t.eval x.ftz (x.b f l)
    exec i s = .next ((((lanesOf s f.g).foldl
      (fun w l => w.dst (now s) f.d l (ts.map fun t => BitVec.ofNat 32 (out t l).code)) (moved s)).orFlags
        (now s).gid ((lanesOf s f.g).foldl
          (fun y l => y ||| ts.foldl (fun y t => y ||| (out t l).flags) 0) 0)).toState s)

/-- Packed arithmetic and dot products (R220, R221, R205). That an invalid product sets NV beside a
NaN is the reading of log entry 11. -/
def Obligations.PackedAndDotProducts : Prop :=
  ∀ i r, packedRow i = some r → completes i r

/-- Conversions between formats (R216, R217, R218, R219). What .sat does with an infinite source is
the reading of log entry 11. -/
def Obligations.FloatConversions : Prop :=
  ∀ i r, convRow i = some r → completes i r

/-- Arithmetic of spectral packets (R222, R225, R226, R227). -/
def Obligations.PacketArithmetic : Prop :=
  ∀ i r, packetRow i = some r → completes i r

/-- Wavelengths, reflectance and Mueller products (R223, R224, R228, R229). The reflectance at the
point 0/0 is a free value, log entry 12. -/
def Obligations.WavelengthsAndPolarisation : Prop :=
  ∀ i r, lightRow i = some r → completes i r

/-- A part of `Obligations.Transfers`. -/
def Sys2Proof.Claim.TransfersPart : Prop :=
  ∀ i r, transferRow i = some r → completes i r

/-- A part of `Obligations.Transfers`. -/
def Sys2Proof.Claim.CallCheckedRoutinePart : Prop :=
  ∀ f s t, runs s f.g = true →
    (∀ l ∈ lanesOf s f.g, goodTarget ((rd s f.g).pair f.a l) = true →
      declaredWithin s ((rd s f.g).pair f.a l)) →
    (callxRow f).after s = some t → exec (.callx f) s = .next t

/-- A part of `Obligations.Transfers`. -/
def Sys2Proof.Claim.TransferFaultsPart : Prop :=
  ∀ i r, transferRow i = some r → ∀ s, runs s r.g = true →
    (∀ l ∈ lanesOf s r.g, (r.val (rd s r.g) l).fault.isSome = true) → queueRegs r.srcs = [] →
    exec i s = .next (faulting s (moved s) ((lanesOf s r.g).map fun l =>
      let x := ((r.val (rd s r.g) l).fault).getD (0, 0)
      { lane := l, cause := x.1, addr := x.2 }))

/-- Branches, calls, returns and meeting points (R168, R169, R170, R171, R172, R173, R174, R175,
R90). -/
def Obligations.Transfers : Prop :=
  TransfersPart ∧
  CallCheckedRoutinePart ∧
  TransferFaultsPart

/-- A part of `Obligations.JoinsAndExits`. -/
def Sys2Proof.Claim.JoinsHoldAndReleasePart : Prop :=
  ∀ f s fin, runs s f.g = true →
    exec (if fin then .joinf f else .join f) s = .next
      (if (noJoin s f.g).isEmpty then
        leaving s ((joined s f fin).shed (now s).gid (now s).frag)
      else faulting s (joined s f fin) ((noJoin s f.g).map fun l =>
        { lane := l, cause := Cause.badMeeting }))

/-- A part of `Obligations.JoinsAndExits`. -/
def Sys2Proof.Claim.ExitEndsLanesPart : Prop :=
  ∀ f s, runs s f.g = true → ((moved s).group (now s).gid).deferred = [] →
    (moved s).suspended (now s).gid = [] → exec (.exit f) s = .next (exitEnd s f.g)

/-- A part of `Obligations.JoinsAndExits`. -/
def Sys2Proof.Claim.DeferredFaultAtLastExitPart : Prop :=
  ∀ f s d ds, runs s f.g = true → lastToExit s f.g = true →
    ((moved s).group (now s).gid).deferred = d :: ds →
    exec (.exit f) s = .next (faulting s
      ((moved s).modGroup (now s).gid fun x => { x with deferred := ds })
      ((lanesOf s f.g).map fun l => { lane := l, cause := d.cause, addr := d.addr }))

/-- Lanes meet at JOIN, and end at EXIT (R164, R166, R167, R178). -/
def Obligations.JoinsAndExits : Prop :=
  JoinsHoldAndReleasePart ∧
  ExitEndsLanesPart ∧
  DeferredFaultAtLastExitPart

/-- NOP, YIELD and SETLIVE (R77, R163, R179, R180). -/
def Obligations.NopYieldSetlive : Prop :=
  ∀ f s, runs s f.g = true →
    exec (.nop f) s = .next ((moved s).toState s) ∧
    exec (.nopEntry f) s = .next ((moved s).toState s) ∧
    (((moved s).team ((moved s).group (now s).gid).team).st ≠ .stopping →
      ((moved s).otherWork (now s).core = false ∨ (moved s).freeCtx (now s).core ≠ none) →
      exec (.yield f) s = .next ((moved s).toState s)) ∧
    (((moved s).team ((moved s).group (now s).gid).team).st = .stopping →
      exec (.yield f) s = .next (leaving s
        ((moved s).writePre (now s).gid (now s).frag))) ∧
    (((moved s).team ((moved s).group (now s).gid).team).st ≠ .stopping →
      (moved s).otherWork (now s).core = true → (moved s).freeCtx (now s).core = none →
      exec (.yield f) s = .next (leaving s
        ((moved s).writeOut (now s).gid (now s).frag id))) ∧
    (let x := ((rd s f.g).b f 0).toNat
     exec (.setlive f) s = .next
       (if x % 512 ≤ ((moved s).group (now s).gid).vb ∧
           x / 65536 % 256 ≤ ((moved s).group (now s).gid).ub then
         ((moved s).modFrag (now s).frag fun y =>
           { y with lv := x % 512, ls := x / 65536 % 256 }).toState s
       else allFault s f.g Cause.illegalOperand))

/-- A part of `Obligations.Barriers`. -/
def Sys2Proof.Claim.TeamBarriersPart : Prop :=
  ∀ (m : Fin 16) f s, runs s f.g = true →
    (countIn s f ≤ 1024 → mayArrive s (teamBar s m) (countIn s f) (lanesOf s f.g) →
      exec (.bara m f) s = .next (baraDone s (teamBar s m) (countIn s f) f) ∧
      (fresh s f.g → phaseOfBar s (teamBar s m) < 65536 →
        exec (.bar m f) s = .next (barArrive s (teamBar s m) (countIn s f) f.g))) ∧
    (1024 < countIn s f →
      exec (.bara m f) s = .next (allFault s f.g Cause.illegalOperand) ∧
      exec (.bar m f) s = .next (allFault s f.g Cause.illegalOperand)) ∧
    exec (.barw m f) s = .next (barwDone s (teamBar s m) (countIn s f % 65536) f.g)

/-- A part of `Obligations.Barriers`. -/
def Sys2Proof.Claim.ClusterBarriersPart : Prop :=
  ∀ (m : Fin 8) f s, runs s f.g = true →
    (2 ≤ clusterSize s →
      (mayArrive s (clusterBar s m) 0 (lanesOf s f.g) →
        exec (.cbarArr m f) s = .next (baraDone s (clusterBar s m) 0 f) ∧
        (fresh s f.g → phaseOfBar s (clusterBar s m) < 65536 →
          exec (.cbar m f) s = .next (barArrive s (clusterBar s m) 0 f.g))) ∧
      exec (.cbarWt m f) s = .next (barwDone s (clusterBar s m) (countIn s f % 65536) f.g)) ∧
    (clusterSize s < 2 →
      exec (.cbar m f) s = .next (allFault s f.g Cause.barrierMismatch) ∧
      exec (.cbarArr m f) s = .next (allFault s f.g Cause.barrierMismatch) ∧
      exec (.cbarWt m f) s = .next (allFault s f.g Cause.barrierMismatch))

/-- A part of `Obligations.Barriers`. -/
def Sys2Proof.Claim.BarrierPhaseOncePart : Prop :=
  ∀ (w : W) (x : BKey), ((w.barDone x).bar x) = { phase := ((w.bar x).phase + 1) % 65536 }

/-- Team and cluster barriers (R386, R387, R388, R389, R390). How the default count is read is log
entry 19. -/
def Obligations.Barriers : Prop :=
  TeamBarriersPart ∧
  ClusterBarriersPart ∧
  BarrierPhaseOncePart

/-- A part of `Obligations.TicketsHandoffsEvents`. -/
def Sys2Proof.Claim.TicketTurnsPart : Prop :=
  ∀ (n : Fin 16) f s, runs s f.g = true →
    let x := ticketSeq s n
    let t := (tm s).tlin
    (t ∈ x.released → exec (.ticketTake n f) s = .next (allFault s f.g Cause.handoffOrder)) ∧
    (t ∉ x.released → t ∉ x.holders → x.turn ≠ t →
      exec (.ticketTake n f) s = .next (allWait s f.g (.ticket (n.val * 2 ^ 40 + t)))) ∧
    (t ∉ x.released → t ∉ x.holders → x.turn = t →
      (x.void = false ∨ f.x.toNat % 8 ≠ 7 ∨ t ∈ x.raised) →
      exec (.ticketTake n f) s = .next (ticketTaken s n f)) ∧
    (t ∉ x.holders → exec (.ticketGive n f) s = .next (allFault s f.g Cause.handoffOrder)) ∧
    (t ∈ x.holders → exec (.ticketGive n f) s = .next
      (((((moved s).releaseAt (now s).gid .pkg).publish (teamNo s) 3
        (seqName (tm s).grid n.val)).seqRelease (tm s).grid n.val t false).toState s))

/-- A part of `Obligations.TicketsHandoffsEvents`. -/
def Sys2Proof.Claim.HandOffChainsPart : Prop :=
  ∀ (h : Fin 16) f s, runs s f.g = true →
    let d := countIn s f
    let t := (tm s).tlin
    let g := (tm s).grid
    let key := (g, h.val, t, t - d)
    ((d = 0 ∨ ((moved s).grid g).count ≤ t + d ∨ (g, h.val, t) ∈ (moved s).c.syn.handed) →
      exec (.handoff h f) s = .next (allFault s f.g Cause.handoffOrder)) ∧
    (0 < d → t + d < ((moved s).grid g).count → (g, h.val, t) ∉ (moved s).c.syn.handed →
      ((moved s).releaseAt (now s).gid .pkg).handCount < 4096 →
      exec (.handoff h f) s = .next (handedOn s h d)) ∧
    (0 < d → t + d < ((moved s).grid g).count → (g, h.val, t) ∉ (moved s).c.syn.handed →
      4096 ≤ ((moved s).releaseAt (now s).gid .pkg).handCount →
      exec (.handoff h f) s = .next (allWait s f.g (.ticket (2 * 2 ^ 62 + h.val * 2 ^ 40)))) ∧
    ((d = 0 ∨ t < d ∨ (fresh s f.g ∧ key ∈ (moved s).c.syn.handW)) →
      exec (.handwait h f) s = .next (allFault s f.g Cause.handoffOrder)) ∧
    (0 < d → d ≤ t → fresh s f.g → key ∉ (moved s).c.syn.handW →
      (∀ v, handOf (handBegun s h (t - d) f.g) g h.val (t - d) t = some v →
        (v = false ∨ f.x.toNat % 8 ≠ 7 ∨ key ∈ (moved s).c.syn.handV) →
        exec (.handwait h f) s = .next (handTaken s h (t - d) f v)) ∧
      (handOf (handBegun s h (t - d) f.g) g h.val (t - d) t = none →
        exec (.handwait h f) s = .next (leaving s ((handBegun s h (t - d) f.g).parkLanes (now s)
          (lanesOf s f.g) (.ticket (2 ^ 62 + h.val * 2 ^ 40 + (t - d)))))))

/-- A part of `Obligations.TicketsHandoffsEvents`. -/
def Sys2Proof.Claim.EventCountersPart : Prop :=
  (∀ (old add : Dword), (evAdd old add).toNat = evSum old.toNat add.toNat) ∧
  (∀ f s l ls w old, runs s f.g = true → f.space ≠ .remote → room s .st →
    lanesOf s f.g = l :: ls →
    (match (moved s).target (now s).gid f.space f.tdi.toNat (evAddr s f l) 8 true with
      | .error _ => (moved s, LaneAcc.bad 0 0)
      | .ok t => ((moved s).drainAll (now s).gid).atomLane { ctxOf s f (evPred f) true with es := [l] } t 8
          fun b => some (leBytes 8 (evSum (leNat b % 2 ^ 64) (evSecond s f l)))) = (w, .ok old false) →
    evPred f = 7#3 →
    exec (.evsig f) s = .next
      (((w.after (now s).gid f.ord (scopeIn f)).newOp { storeOp s f with done := true }).1.eventsMoved
        |>.toState s)) ∧
  (∀ f s bs w, runs s f.g = true → evPred f = 7#3 → evAddr s f 0 % 8 = 0 →
    evAddr s f 0 + 8 ≤ 2 ^ 56 →
    (if f.ord = .str then (drained s).releaseAt (now s).gid f.scope else drained s).load
      (grp s).core (grp s).asid f.scope (evAddr s f 0) 8 = (w, .ok (bs, false)) →
    let x := leNat (bs.take 8)
    bs.length = 8 →
    ((¬ fresh s f.g ∨ evDone (evSecond s f 0) x) → f.d ≠ .v 0 →
      exec (.evwait f) s = .next (
        ((((w.tenterClock (now s).gid (evAddr s f 0) true false f.ord f.scope).acquireAt
          (now s).gid f.scope).begin_ (now s).gid (lanesOf s f.g) none).dst (now s) f.d 0
            [BitVec.ofNat 32 x, BitVec.ofNat 32 (x / 2 ^ 32)]).toState s)) ∧
    (fresh s f.g → ¬ evDone (evSecond s f 0) x →
      exec (.evwait f) s = .next
        (midWait s f.g w (.event (evSecond s f 0 % 2 ^ 63) (evAddr s f 0)))))

/-- Tickets, hand-off chains and event counters (R393, R395, R396, R104, R113, R114). -/
def Obligations.TicketsHandoffsEvents : Prop :=
  TicketTurnsPart ∧
  HandOffChainsPart ∧
  EventCountersPart

/-- A part of `Obligations.LoadsAndStores`. -/
def Sys2Proof.Claim.LoadsOfLanesPart : Prop :=
  ∀ m f s w rs, runs s f.g = true → f.space ≠ .remote → room s .ld →
    ldReads s m f = (w, some rs) → exec (.ld m f) s = .next (ldDone s m f w rs)

/-- A part of `Obligations.LoadsAndStores`. -/
def Sys2Proof.Claim.StoresOfLanesPart : Prop :=
  ∀ m f s w rs, runs s f.g = true → f.space ≠ .remote → room s .st →
    stWrites s m f = (w, some rs) →
    exec (.st m f) s = .next (storeDone s f m.rp (opAt ((moved s).before (now s).gid f.ord)) w
      (rs.map fun e => (e.1, e.2.2)))

/-- A part of `Obligations.LoadsAndStores`. -/
def Sys2Proof.Claim.UniformLoadsStoresPart : Prop :=
  (∀ m f s w bs nr, runs s f.g = true → room s .ld → lduRead s m f = (w, some (bs, nr)) →
    exec (.ldu m f) s = .next (
      let w := w.countReads (w.group (now s).gid).team (readSlots s f (loadBytes m.sz) [0])
      resultOp s (w.after (now s).gid f.ord (scopeIn f)) (loadOp s) f.x (lanesOf s f.g) []
        (runS f.d (loadWords m.sz)) m.rp [(0, loaded m.sz (full0 (loadBytes m.sz) bs))]
        ((lanesOf s f.g).map fun l => (l, nr)))) ∧
  ∀ m f s w bs nr, runs s f.g = true → room s .st → ustoWrite s m f = (w, some (bs, nr)) →
    exec (.usto m f) s = .next (storeDone s f m.rp (opAt ((moved s).before (now s).gid f.ord)) w
      ((lanesOf s f.g).map fun l => (l, nr)))

/-- A part of `Obligations.LoadsAndStores`. -/
def Sys2Proof.Claim.CounterOverflowFaultsPart : Prop :=
  ∀ f s, runs s f.g = true →
    (¬ room s .ld →
      (∀ m, f.space ≠ .remote → exec (.ld m f) s = .next (allFault s f.g Cause.counterOverflow)) ∧
      (∀ m, exec (.ldu m f) s = .next (allFault s f.g Cause.counterOverflow))) ∧
    (¬ room s .st →
      (∀ m, f.space ≠ .remote → exec (.st m f) s = .next (allFault s f.g Cause.counterOverflow)) ∧
      (∀ m, exec (.usto m f) s = .next (allFault s f.g Cause.counterOverflow)) ∧
      (∀ m, exec (.cstore m f) s = .next (allFault s f.g Cause.counterOverflow)))

/-- Loads and stores of lanes and of the fragment (R70, R230, R255, R262, R263, R264, R265, R286). -/
def Obligations.LoadsAndStores : Prop :=
  LoadsOfLanesPart ∧
  StoresOfLanesPart ∧
  UniformLoadsStoresPart ∧
  CounterOverflowFaultsPart

/-- Atomic operations in ascending order of lanes (R276, R277, R278, R279). -/
def Obligations.AtomicSteps : Prop :=
  ∀ i r, atomRow i = some r → ∀ s w rs, runs s r.f.g = true → r.f.space ≠ .remote →
    ¬ stagesHere s i r.f → room s (if r.ret then .ld else .st) →
    atomSteps s r.f r.rp r.n (r.step s) = (w, some rs) →
    exec i s = .next (if r.ret then atomReturns s r.f r.rp r.n w rs else atomReduces s r.f r.rp w rs)

/-- A part of `Obligations.TensorElements`. -/
def Sys2Proof.Claim.TensorElementsPart : Prop :=
  (∀ rp f s w rs, runs s f.g = true → room s .ld → (moved s).tdTensor (tdOf s f) = true →
    coordsFit s f = true → ldtReads s rp f = (w, some rs) → exec (.ldt rp f) s = .next (ldtDone s rp f w rs)) ∧
  (∀ rp f s w rs, runs s f.g = true → room s .st → (moved s).tdTensor (tdOf s f) = true →
    coordsFit s f = true → fmtMx (tdFmt (tdOf s f)) = false → tdFmt (tdOf s f) ≠ 0x0C →
    sttWrites s rp f = (w, some rs) →
    exec (.stt rp f) s = .next (sttDone s rp f w rs)) ∧
  (∀ rp f s, runs s f.g = true → room s .ld → (moved s).tdTensor (tdOf s f) = false →
    exec (.ldt rp f) s = .next (allFault s f.g Cause.tdInvalid)) ∧
  (∀ rp f s, runs s f.g = true → (moved s).tdTensor (tdOf s f) = true → coordsFit s f = false →
    (room s .ld → exec (.ldt rp f) s = .next (allFault s f.g Cause.illegalOperand)) ∧
    (room s .st → exec (.stt rp f) s = .next (allFault s f.g Cause.illegalOperand))) ∧
  (∀ rp f s, runs s f.g = true → room s .st → (moved s).tdTensor (tdOf s f) = true →
    coordsFit s f = true → fmtMx (tdFmt (tdOf s f)) = true →
    exec (.stt rp f) s = .next (allFault s f.g Cause.formatInvalid))

/-- A part of `Obligations.TensorElements`. -/
def Sys2Proof.Claim.GatherScatterPart : Prop :=
  (∀ m f s w0 x zeros w rs, runs s f.g = true → (moved s).tdTensor (tdOf s f) = true →
    tdNdim (tdOf s f) = 2 → column s f = some (w0, x, zeros) → counted s .ga w0 →
    gathReads s m f x w0 = (w, some rs) → exec (.gath m f) s = .next (gathDone s m f zeros w rs)) ∧
  (∀ m f s w0 x zeros w rs, runs s f.g = true → (moved s).tdTensor (tdOf s f) = true →
    tdNdim (tdOf s f) = 2 → fmtMx (tdFmt (tdOf s f)) = false → tdFmt (tdOf s f) ≠ 0x0C →
    column s f = some (w0, x, zeros) → counted s .ga w0 → scatWrites s m f x w0 = (w, some rs) →
    exec (.scat m f) s = .next (scatDone s m f w0 zeros w rs)) ∧
  (∀ m f s w0 x zeros, runs s f.g = true → column s f = some (w0, x, zeros) → room s .ga →
    counted s .ga w0 → tdNdim (tdOf s f) ≠ 2 →
    exec (.gath m f) s = .next (allFault s f.g Cause.tdInvalid) ∧
    exec (.scat m f) s = .next (allFault s f.g Cause.tdInvalid))

/-- A part of `Obligations.TensorElements`. -/
def Sys2Proof.Claim.CompressStorePart : Prop :=
  ∀ m f s w w2 xs ys, runs s f.g = true → room s .st → cstChecks s m f = (w, some xs) →
    cstWrites s m f w = (w2, some ys) →
    exec (.cstore m f) s = .next (cstDone s m f (opAt w) w2)

/-- Elements of tensors, gathers, scatters and compressed stores (R266, R267, R268, R269). -/
def Obligations.TensorElements : Prop :=
  TensorElementsPart ∧
  GatherScatterPart ∧
  CompressStorePart

/-- A part of `Obligations.ResidencyAndDescriptors`. -/
def Sys2Proof.Claim.ResidencyRequestsPart : Prop :=
  (∀ f s w rs, runs s f.g = true → (∀ r, f.d ≠ .s r) →
    eachLane (lanesOf s f.g) (resAsk s f) (moved s) = (w, some rs) →
    exec (.resreq f) s = .next (resDone s f w rs)) ∧
  (∀ f s r w st, runs s f.g = true → f.d = .s r → resAsk s f (moved s) 0 = (w, some st) →
    exec (.resreq f) s = .next (resDone s f w [(0, st)])) ∧
  (∀ f s r, runs s f.g = true → f.d = .s r → exec (.resq f) s = .next
    (((moved s).dst (now s) f.d 0
      [if asked (rd s f.g) ((rd s f.g).pair f.a 0) then 1 else 0]).toState s)) ∧
  (∀ f, (∀ r, f.d ≠ .s r) → completes (.resq f)
    { g := f.g, srcs := aluSrcs f, d := f.d
      val := fun x l => { vals := [if asked x (x.pair f.a l) then 1 else 0] } })

/-- A part of `Obligations.ResidencyAndDescriptors`. -/
def Sys2Proof.Claim.PrefetchIsAHintPart : Prop :=
  ∀ m f s, runs s f.g = true → ∃ t, exec (.pref m f) s = .next t ∧ t.chip.thr = (moved s).c.thr

/-- A part of `Obligations.ResidencyAndDescriptors`. -/
def Sys2Proof.Claim.DescriptorTablePart : Prop :=
  (∀ f s, runs s f.g = true → ∃ t, exec (.tdset f) s = .next t ∧
    (∀ k j, k < 16 → j < 32 → (t.toW.td (grp s).asid f.tdi.toNat).getLsbD (32 * k + j) =
      ((rd s f.g).run f.c k 0).getLsbD j) ∧
    (∀ a n, (a, n) ≠ ((grp s).asid, f.tdi.toNat) → t.toW.td a n = (if f.ord = .rel
      then (moved s).releaseAt (now s).gid f.scope else moved s).td a n)) ∧
  (∀ f s, runs s f.g = true → exec (.tdget f) s = .next
    (let w := if f.ord = .acq then (moved s).acquireAt (now s).gid f.scope else moved s
     let p := w.newId
     ((p.1.openPend (now s) p.2 f.x.toNat (lanesOf s f.g) (runV f.d 16) (runS f.d 16) none).giveLanes
       p.2 [(0, (List.range 16).map fun k => (tdOf s f).extractLsb' (32 * k) 32)] []).toState s))

/-- Residency requests, prefetches and the descriptor table (R45, R245, R246, R247, R270, R271,
R272, R282). -/
def Obligations.ResidencyAndDescriptors : Prop :=
  ResidencyRequestsPart ∧
  PrefetchIsAHintPart ∧
  DescriptorTablePart

/-- A part of `Obligations.FencesFlushesWaits`. -/
def Sys2Proof.Claim.FencesAndFlushesPart : Prop :=
  (∀ f s, runs s f.g = true →
      (fenced s f).tenterOn ((fenced s f).group (now s).gid).asid = false →
    (f.ord = .acq ∨ (fenced s f).lastRemote (now s).gid = none) →
    f.ord ≠ .rlx → exec (.fence f) s = .next ((fenced s f).toState s)) ∧
  (∀ inv f s, runs s f.g = true → room s .st → (∀ l ∈ lanesOf s f.g, eaOf s f l < 2 ^ 56) →
    exec (.cflush inv f) s = .next ((((lanesOf s f.g).foldl (flushLine s inv f)
      ((moved s).drainAll (now s).gid)).newOp { storeOp s f with done := true }).1.toState s)) ∧
  (∀ f s, runs s f.g = true → (∀ l ∈ lanesOf s f.g, eaOf s f l < 2 ^ 56) → scopeLevel f.scope < 2 →
    exec (.cinv f) s = .next ((moved s).toState s)) ∧
  (∀ f s l x, runs s f.g = true → lanesOf s f.g = [l] → eaOf s f l < 2 ^ 56 →
    2 ≤ scopeLevel f.scope →
    aget (moved s).c.cch.l1 ((grp s).core, (grp s).asid, eaOf s f l / 128) = some x →
    ∃ t, exec (.cinv f) s = .next t ∧ t.chip.thr = (moved s).c.thr ∧ t.mem = s.mem ∧
      match aget t.chip.cch.l1 ((grp s).core, (grp s).asid, eaOf s f l / 128) with
      | none => x.wr = 0
      | some y => x.wr ≠ 0 ∧ y.wr = x.wr ∧ ∀ k, k < 4 →
          y.sv.testBit k = (x.sv.testBit k && (dirtySectors x).contains k))

/-- A part of `Obligations.FencesFlushesWaits`. -/
def Sys2Proof.Claim.CounterWaitsPart : Prop :=
  ∀ c f s, runs s f.g = true →
    let n := countIn s f
    (63 < n → exec (.waitc c f) s = .next (allFault s f.g Cause.illegalOperand)) ∧
    (n ≤ 63 →
      (c = .mx → ∀ e ∈ (moved s).suspended (now s).gid,
        (moved s).total (now s).gid .mx ≤ e.2.1.no + n) →
      (n < (moved s).count (now s).gid c →
        exec (.waitc c f) s = .next (allWait s f.g (.counter n c))) ∧
      ((moved s).count (now s).gid c ≤ n → coveredBy s c n = [] →
        exec (.waitc c f) s = .next ((moved s).toState s)) ∧
      (∀ d, (moved s).count (now s).gid c ≤ n → coveredBy s c n = [d] →
        exec (.waitc c f) s = .next (faulting s
          ((moved s).modGroup (now s).gid fun x =>
            { x with deferred := x.deferred.filter fun e => decide (e ≠ d) })
          ((lanesOf s f.g).map fun l => { lane := l, cause := d.cause, addr := d.addr }))))

/-- Fences, flushes and waits for counters (R274, R275, R280, R281, R240). -/
def Obligations.FencesFlushesWaits : Prop :=
  FencesAndFlushesPart ∧
  CounterWaitsPart

/-- A part of `Obligations.Scratchpad`. -/
def Sys2Proof.Claim.ScratchpadTagOpsPart : Prop :=
  (∀ f s r w x zs, runs s f.g = true → popped s f.g (srcB f) = some (w, x, zs) → f.d = .s r →
    lookAddr x f 0 < 2 ^ 56 →
    ∃ y, isLookup s (lookAddr x f 0) y ∧
      exec (.splook f) s = .next ((endedBy s f.g (srcB f) zs (w.dst (now s) f.d 0 [y])).toState s)) ∧
  (∀ f s w x zs, runs s f.g = true → popped s f.g (srcB f) = some (w, x, zs) → (∀ r, f.d ≠ .s r) →
    (∀ l ∈ lanesOf s f.g, lookAddr x f l < 2 ^ 56) →
    ∃ y : Nat → Word, (∀ l ∈ lanesOf s f.g, isLookup s (lookAddr x f l) (y l)) ∧
      exec (.splook f) s = .next ((endedBy s f.g (srcB f) zs
        ((lanesOf s f.g).foldl (fun w l => w.dst (now s) f.d l [y l]) w)).toState s)) ∧
  (∀ f s w x zs, runs s f.g = true → popped s f.g (srcB f) = some (w, x, zs) → (∀ r, f.d ≠ .s r) →
    ∀ l, (lanesOf s f.g).find? (fun l => decide (2 ^ 56 ≤ lookAddr x f l)) = some l →
      exec (.splook f) s =
        .next (allFault s f.g Cause.addressNoncanonical (lookAddr x f l))) ∧
  (∀ f s w1 x zs, runs s f.g = true → popped s f.g (srcB f) = some (w1, x, zs) →
    let w := drainedOf s w1
    let t := teamIn s w
    let n := slotArg x f
    slotFree s w n →
    (addrArg x f < 2 ^ 56 → (w.tag t n).state ≠ 1 → (w.tag t n).state ≠ 3 →
      exec (.sptag f) s = .next ((endedBy s f.g (srcB f) zs (w.setTag t n { w.tag t n with
        tag := addrArg x f / 4096 % 2 ^ 44, dirty := false, rcnt := 0, state := 2 })).toState s)) ∧
    (∀ bs, addrArg x f < 2 ^ 56 → (x.word f.c 0).toNat ≤ 255 →
      (w.tag t n).state ≠ 1 → (w.tag t n).state ≠ 3 →
      w.count (now s).gid .tc < 63 → w.rangeFull (w.group (now s).gid).core = none →
      (w.load (w.group (now s).gid).core (w.group (now s).gid).asid .tm
        (addrArg x f / 4096 * 4096) 4096).2 = .ok (bs, false) →
      let v := (w.load (w.group (now s).gid).core (w.group (now s).gid).asid .tm
        (addrArg x f / 4096 * 4096) 4096).1
      let p := v.newOp { gid := (now s).gid, cls := .tc, iaddr := (now s).pc, fault := none
                         kind := .fill t n (x.word f.c 0).toNat (addrArg x f / 4096 % 2 ^ 44)
                           (v.overlay (now s).gid false (addrArg x f / 4096 * 4096) bs) }
      exec (.spfill f) s = .next ((endedBy s f.g (srcB f) zs
        ((p.1.addRange t (4096 * n) (4096 * n + 4096) p.2).setTag t n { w.tag t n with
          tag := addrArg x f / 4096 % 2 ^ 44, dirty := false, rcnt := 0, state := 1 })).toState s)) ∧
    ((w.tag t n).state ≠ 1 → w.count (now s).gid .tc < 63 →
      w.rangeFull (w.group (now s).gid).core = none →
      let back : Bool := (w.tag t n).state = 2 && (w.tag t n).dirty
      let p := w.newOp { gid := (now s).gid, cls := .tc, iaddr := (now s).pc, scope := .pkg
                         kind := .evict t n (w.tag t n).tag, done := !back }
      let v := p.1.addRange t (4096 * n) (4096 * n + 4096) p.2
      exec (.spevict f) s = .next ((endedBy s f.g (srcB f) zs (
        if back then v.setTag t n { w.tag t n with state := 3 }
        else if (w.tag t n).state = 2 then v.setTag t n { w.tag t n with state := 0, rcnt := 0 }
        else v)).toState s)))

/-- A part of `Obligations.Scratchpad`. -/
def Sys2Proof.Claim.TileCopiesPart : Prop :=
  (∀ dir f s c, runs s f.g = true → copyCheck s dir f = some c →
    exec (.tcopy dir f) s = .next (allFault s f.g c)) ∧
  (∀ dir f s e, runs s f.g = true → copyCheck s dir f = none →
    (moved s).rangeHit (teamNo s) (copyStart s f) (copyStop s f - copyStart s f) = some e →
    exec (.tcopy dir f) s = .next (allWait s f.g (.range e.start e.stop))) ∧
  (∀ dir f s, runs s f.g = true → copyCheck s dir f = none →
    (moved s).rangeHit (teamNo s) (copyStart s f) (copyStop s f - copyStart s f) = none →
    room s .tc → (dir = .g2s → (moved s).rangeFull (grp s).core = none) →
    let p := (moved s).hoistStart (now s) (lanesOf s f.g) f (copyOf s dir f)
    exec (.tcopy dir f) s = .next
      ((if dir = .g2s then p.1.addRange (teamNo s) (copyStart s f) (copyStop s f) p.2 else p.1).toState s)) ∧
  (∀ f s, runs s f.g = true →
    (moved s).tileCheck (etd s f) (tileRuns s f) f.fmto.toNat (origin s f) (extents s f) 0
      (castPitch s f) = none →
    (¬ goodCast s f → exec (.tcopym f) s = .next (allFault s f.g Cause.multicastTargetInvalid)) ∧
    (goodCast s f → tileFormat true (etd s f) f.fmto.toNat (origin s f) (extents s f) = none →
      room s .tc → (∀ u ∈ receivers s f, (moved s).rangeFull ((moved s).team u).core = none) →
      let p := (moved s).hoistStart (now s) (lanesOf s f.g) f (castOf s f)
      exec (.tcopym f) s = .next (((receivers s f).foldl (castInto s f p.2) p.1).toState s)))

/-- A part of `Obligations.Scratchpad`. -/
def Sys2Proof.Claim.ScratchpadWindowsPart : Prop :=
  (∀ f s, runs s f.g = true → winFree s f → winPitch s f = 0 →
    exec (.windef .recv f) s = .next (((winTaken s f).setWin
      ((drained s).group (now s).gid).team f.win.toNat
      { slot0 := winSlot0 s f, slots := winCount s f, touch := false, desc := 0, tdi := f.tdi.toNat
        fmto := f.fmto.toNat, origin := [], extents := [], pitch := 0, scope := f.scope
        ord := f.ord }).toState s)) ∧
  (∀ f s, runs s f.g = true → winFree s f →
    (drained s).tileCheck (winTd s f) (winRuns s f) f.fmto.toNat (winOrigin s f) (winExtents s f) 0
      (winPitch s f) = none →
    tileFormat true (winTd s f) f.fmto.toNat (winOrigin s f) (winExtents s f) = none →
    tileBytes (spCont (winTd s f) f.fmto.toNat) (winExtents s f) (winPitch s f) ≤ 4096 * winCount s f →
    exec (.windef .touch f) s = .next (((winTaken s f).setWin
      ((drained s).group (now s).gid).team f.win.toNat
      { slot0 := winSlot0 s f, slots := winCount s f, touch := true, desc := winTd s f
        tdi := f.tdi.toNat, fmto := f.fmto.toNat
        origin := (winOrigin s f).map (BitVec.ofNat 32)
        extents := (winExtents s f).map (BitVec.ofNat 32), pitch := winPitch s f, scope := f.scope
        ord := f.ord }).toState s)) ∧
  (∀ m f s, runs s f.g = true → winAt s m.toNat = none →
    exec (.wincLr m f) s = .next ((moved s).toState s)) ∧
  (∀ m f s x, runs s f.g = true → winAt s m.toNat = some x →
    ((moved s).filling x = false →
      ∃ t, exec (.wincLr m f) s = .next t ∧ t.chip.thr = (moved s).c.thr ∧ t.mem = s.mem ∧
        t.chip.spd.bytes = s.chip.spd.bytes ∧ t.toW.win (teamNo s) m.toNat = none ∧
        ∀ k, x.slot0 ≤ k → k < x.slot0 + x.slots →
          (t.toW.tag (teamNo s) k).win = false ∧ (t.toW.tag (teamNo s) k).state = 0 ∧
          (t.toW.tag (teamNo s) k).rcnt = 0) ∧
    ((moved s).filling x = true →
      exec (.wincLr m f) s = .next
        (allWait s f.g (.chunk m.toNat (clrMark + 2 ^ 128 - 1)))))

/-- A part of `Obligations.Scratchpad`. -/
def Sys2Proof.Claim.ChunkTestsPart : Prop :=
  ∀ m f s w x zs, runs s f.g = true → popped s f.g (srcB f) = some (w, x, zs) →
    (winAt s m.win.toNat = none →
      exec (.cbtest m f) s = .next (allFault s f.g Cause.windowConflict) ∧
      exec (.cbwait m f) s = .next (allFault s f.g Cause.windowConflict)) ∧
    ∀ n, winAt s m.win.toNat = some n →
      exec (.cbtest m f) s =
        .next ((endedBy s f.g (srcB f) zs (chunksTold s x m f n w)).toState s) ∧
      (chunksThere x m f (maskLane x f) n = true →
        exec (.cbwait m f) s = .next ((endedBy s f.g (srcB f) zs w).toState s)) ∧
      (chunksThere x m f (maskLane x f) n = false →
        (∀ k, k < 128 → wantChunk x m f (maskLane x f) k = true → n.failedAt k = none) →
        (n.touch = false ∨ n.state ≠ 0) → ∃ mask, (∀ k, k < 128 →
          Nat.testBit mask k = wantChunk x m f (maskLane x f) k) ∧ mask < 2 ^ 128 ∧
          exec (.cbwait m f) s = .next (allWait s f.g (.chunk m.win.toNat mask)))

/-- The scratchpad: tags, fills, copies, windows and chunks (R249, R250, R251, R252, R273, R311,
R312, R313, R314, R315, R316). -/
def Obligations.Scratchpad : Prop :=
  ScratchpadTagOpsPart ∧
  TileCopiesPart ∧
  ScratchpadWindowsPart ∧
  ChunkTestsPart

/-- 13 R328, R346, R330, R331, R332. -/
def Sys2Proof.Claim.TilesAndSlotsPart : Prop :=
  (∀ i f, (i = .mxalloc f ∨ i = .mxfree f ∨ i = .mxzero f) →
    ∀ s, runs s f.g = true → (now s).conv = false → (now s).replay = false →
      exec i s = .next (allFault s f.g Cause.illegalConvergence)) ∧
  (∀ f s, ready s f.g = true →
    let ts := namesAt (mxMask s f) 0
    let ss := namesAt (mxMask s f) 8
    ((∃ n ∈ ts, holdsTile s n) ∨ (∃ n ∈ ss, holdsSlot s n) →
      exec (.mxalloc f) s = .next (allFault s f.g Cause.matrixState)) ∧
    ((∀ n ∈ ts, ¬ holdsTile s n) → (∀ n ∈ ss, ¬ holdsSlot s n) →
      ts.length ≤ (moved s).freeTiles (grp s).core → ss.length ≤ (moved s).freeSlots (grp s).core →
      exec (.mxalloc f) s = .next (((ss.foldl (fun w n => w.mxSlot (teamNo s) n)
        (ts.foldl (fun w n => w.mxTile (teamNo s) n) (moved s))).dst (now s) f.d 0 [1]).toState s)) ∧
    ((∀ n ∈ ts, ¬ holdsTile s n) → (∀ n ∈ ss, ¬ holdsSlot s n) →
      (moved s).freeTiles (grp s).core < ts.length ∨ (moved s).freeSlots (grp s).core < ss.length →
      exec (.mxalloc f) s = .next (((moved s).dst (now s) f.d 0 [0]).toState s)) ∧
    ((∃ n ∈ ts, ¬ holdsTile s n) ∨ (∃ n ∈ ss, ¬ holdsSlot s n) →
      exec (.mxfree f) s = .next (allFault s f.g Cause.matrixState)) ∧
    ((∀ n ∈ ts, holdsTile s n) → (∀ n ∈ ss, holdsSlot s n) →
      exec (.mxfree f) s = .next (((ss.foldl (fun w n => w.dropSlot (teamNo s) n)
        (ts.foldl (fun w n => w.dropTile (teamNo s) n) (moved s))).mxPurge).toState s))) ∧
  (∀ f s, ready s f.g = true →
    let ids := (namesAt (mxMask s f) 0).filterMap fun n => (moved s).tileOf (teamNo s) n
    ((∃ n ∈ namesAt (mxMask s f) 0, ¬ holdsTile s n) →
      exec (.mxzero f) s = .next (allFault s f.g Cause.matrixState)) ∧
    ((∀ n ∈ namesAt (mxMask s f) 0, holdsTile s n) → (∀ x ∈ ids, (moved s).mxUses false x = false) →
      exec (.mxzero f) s = .next ((ids.foldl (fun w x => w.zeroTile x) (moved s)).toState s) ∧
      (∀ x m n, x ∈ ids → (ids.foldl (fun w x => w.zeroTile x) (moved s)).acc x m n = 0) ∧
      ∀ x m n, x ∉ ids →
        (ids.foldl (fun w x => w.zeroTile x) (moved s)).acc x m n = (moved s).acc x m n) ∧
    ((∀ n ∈ namesAt (mxMask s f) 0, holdsTile s n) → (∃ x ∈ ids, (moved s).mxUses false x = true) →
      ∃ t n o m, exec (.mxzero f) s = .next t ∧ aget t.chip.eng.ops n = some o ∧ o.kind = .mx m ∧
        m.kind = .zero ids ∧ m.team = teamNo s ∧ t.chip.eng.mx = s.chip.eng.mx)) ∧
  (∀ f s, runs s f.g = true → (now s).conv = true →
    let held := fun p : Nat → Bool => laneMask ((List.range 8).filter p)
    let x := held (fun n => ((moved s).tileOf (teamNo s) n).isSome)
      + held (fun n => ((moved s).slotOf (teamNo s) n).isSome) * 2 ^ 8
      + (moved s).freeTiles (grp s).core * 2 ^ 16 + (moved s).freeSlots (grp s).core * 2 ^ 20
    exec (.mxprog .held f) s = .next (((moved s).dst (now s) f.d 0 [BitVec.ofNat 32 x]).toState s) ∧
    ((∀ n o m, (n, o, m) ∈ (moved s).mxOps → o.gid = (now s).gid → m.susp = none) →
      exec (.mxprog .susp f) s = .next (((moved s).dst (now s) f.d 0 [0, 0, 0]).toState s)) ∧
    (∀ n o m c a, (moved s).mxOps.find? (fun e => e.2.1.gid = (now s).gid && e.2.2.susp.isSome) =
        some (n, o, m) → m.susp = some (c, a) →
      exec (.mxprog .susp f) s = .next (((moved s).dst (now s) f.d 0
        [BitVec.ofNat 32 (2 ^ 31 + c % 128 * 2 ^ 24 + m.prog % 4096 * 2 ^ 12 + m.kind.opc),
         BitVec.ofNat 32 a, BitVec.ofNat 32 (a / 2 ^ 32)]).toState s)))

/-- 13 R336, R339, R341, R342, R343. -/
def Sys2Proof.Claim.MatrixOperationsStartPart : Prop :=
  ∀ (f : MatF) s, ready s f.g = true →
  (∀ m : MmaM,
    (((moved s).tileOf (teamNo s) f.acc.toNat = none ∨
      (m.ws = true ∧ (moved s).slotOf (teamNo s) m.slot.toNat = none)) →
      exec (.mxmma m f) s = .next (allFault s f.g Cause.matrixState)) ∧
    (∀ tile, (moved s).tileOf (teamNo s) f.acc.toNat = some tile → room s .mx →
      mxArgOk s (mmaA s f) → arrayFmt (usedFmt f.fmta (mmaA s f).d) →
      (∀ slot, m.ws = true → (moved s).slotOf (teamNo s) m.slot.toNat = some slot →
        exec (.mxmma m f) s = .next ((entered s f (drawsIn f.fmta (mmaA s f).d)
          { bare (.mma m) f with da := (mmaA s f).d, oa := (mmaA s f).org, tile := some tile
                                 db := (mmaB s m.t f.b false f).d, ob := (mmaB s m.t f.b false f).org
                                 slot := some slot }).1.toState s)) ∧
      (m.ws = false → mxArgOk s (mmaB s m.t f.b false f) →
        arrayFmt (usedFmt f.fmtb (mmaB s m.t f.b false f).d) →
        (m.t = true ∨ fmtMx (tdFmt (mmaB s m.t f.b false f).d) = false) →
        exec (.mxmma m f) s = .next ((entered s f
          (drawsIn f.fmta (mmaA s f).d || drawsIn f.fmtb (mmaB s m.t f.b false f).d)
          { bare (.mma m) f with da := (mmaA s f).d, oa := (mmaA s f).org, tile := some tile
                                 db := (mmaB s m.t f.b false f).d
                                 ob := (mmaB s m.t f.b false f).org }).1.toState s)))) ∧
  (∀ m : LdwM,
    let b := mmaB s m.t f.a (decide (f.spa = .scratch)) f
    let e := usedFmt f.fmtb b.d
    ((moved s).slotOf (teamNo s) m.slot.toNat = none →
      exec (.mxldw m f) s = .next (allFault s f.g Cause.matrixState)) ∧
    (∀ slot, (moved s).slotOf (teamNo s) m.slot.toNat = some slot → room s .mx → mxArgOk s b →
      arrayFmt e → (m.t = true ∨ fmtMx (tdFmt b.d) = false) →
      f.kb.toNat ≤ min 128 (256 / (fmtOf e).width) →
      let w := (entered s f (drawsIn f.fmtb b.d)
        { bare (.ldw m) f with db := b.d, ob := b.org, slot := some slot }).1
      exec (.mxldw m f) s = .next ((w.setWs slot { w.ws slot with state := 1 }).toState s))) ∧
  (∀ i had k, ((i = Instr.mxlda f ∧ had = false ∧ k = MxKind.lda) ∨
      (i = .mxst f ∧ had = true ∧ k = .st) ∨ (i = .mxqnt f ∧ had = true ∧ k = .qnt)) →
    let a := tileArg s f had
    ((moved s).tileOf (teamNo s) f.acc.toNat = none →
      exec i s = .next (allFault s f.g Cause.matrixState)) ∧
    (∀ tile, (moved s).tileOf (teamNo s) f.acc.toNat = some tile → room s .mx → mxArgOk s a →
      (k = .lda → tdFmt a.d = 1 ∨ arrayFmt (tdFmt a.d)) →
      (k = .st → tdFmt a.d = 1 ∨ (arrayFmt (tdFmt a.d) ∧ fmtMx (tdFmt a.d) = false)) →
      (k = .qnt → fmtMx (tdFmt a.d) = true ∧ a.org.headD 0 % 32 = 0) →
      exec i s = .next ((entered s f (decide (k ≠ .lda) && decide (tdRnd a.d = .sr))
        { bare k f with da := a.d, oa := a.org, tile := some tile }).1.toState s))) ∧
  (∀ m : HadM,
    ((moved s).tileOf (teamNo s) f.acc.toNat = none →
      exec (.mxhad m f) s = .next (allFault s f.g Cause.matrixState)) ∧
    (∀ tile, (moved s).tileOf (teamNo s) f.acc.toNat = some tile → room s .mx →
      exec (.mxhad m f) s = .next ((entered s f false { bare (.had m) f with tile := some tile }).1.toState
        s))) ∧
  (∀ m : VecM,
    ((moved s).slotOf (teamNo s) m.slot.toNat = none →
      exec (.mxvec m f) s = .next (allFault s f.g Cause.matrixState)) ∧
    (∀ slot, (moved s).slotOf (teamNo s) m.slot.toNat = some slot → room s .mx →
      arrayFmt f.fmta.toNat →
      let p := entered s f (decide (f.rnd = .sr))
        { bare (.vec m) f with
          slot := some slot, lanes := lanesOf s f.g
          rows := (lanesOf s f.g).map fun l => (l, ((vecRow s f l).map Prod.fst).flatten)
          accs := (lanesOf s f.g).map fun l => (l, (List.range m.n.count).map fun n =>
            if m.acc then (rd s f.g).run f.d n l else 0) }
      let fl := ((lanesOf s f.g).map fun l => (vecRow s f l).map Prod.snd).flatten.foldl (· ||| ·) 0
      exec (.mxvec m f) s = .next (((p.1.modOp p.2 fun o => { o with flags := fl }).openPend (now s) p.2
        f.x.toNat (lanesOf s f.g) (runV f.d m.n.count) [] none).toState s)))

/-- Tiles, slots and the start of matrix operations (R329, R330, R331, R332, R334, R336, R337,
R346). -/
def Obligations.MatrixInstructions : Prop :=
  TilesAndSlotsPart ∧
  MatrixOperationsStartPart

/-- A part of `Obligations.QueuesAndStreams`. -/
def Sys2Proof.Claim.QueueBindingsPart : Prop :=
  ∀ (q : Fin 16) (u : Bool) f s, runs s f.g = true →
    exec (.qbind { q := q, kind := .none, u := u } f) s = .next (bindDone s q (bound (moved s) s q {})) ∧
    (∀ k, k = .pop ∨ k = .push → claims s (f.eimm.toNat % 16) →
      let e := f.eimm.toNat
      let h := e % 16
      let b : Bind := { kind := k, n := h, u := u, endp := if k = .pop then endOf f else none }
      (Nat.testBit e 4 = false → exec (.qbind { q := q, kind := k, u := u } f) s = .next
        (bindDone s q (bound (if (aget (moved s).c.eng.hq (teamNo s, h)).isSome then moved s
          else (moved s).setHq (teamNo s) h {}) s q b))) ∧
      (Nat.testBit e 4 = true → (queueAt s h).streams ≠ [] →
        exec (.qbind { q := q, kind := k, u := u } f) s = .next (allFault s f.g Cause.queueOverrun))) ∧
    (∀ k, k = .pop ∨ k = .push → ¬ claims s (f.eimm.toNat % 16) →
      exec (.qbind { q := q, kind := k, u := u } f) s = .next (allFault s f.g Cause.queueUnbound)) ∧
    (let a := ((rd s f.g).pair f.a 0).toNat
     (entryValid a = true → tflagsOk f.eimm.toNat = true → f.eimm.toNat / 65536 % 256 = 0 →
      exec (.qbind { q := q, kind := .task, u := u } f) s = .next (bindDone s q (bound (moved s) s q
        { kind := .task, u := u, entry := a, tflags := f.eimm.toNat }))) ∧
     (entryValid a = false →
      exec (.qbind { q := q, kind := .task, u := u } f) s = .next
        (allFault s f.g Cause.taskRecordInvalid))) ∧
    ((moved s).pxOwned (f.eimm.toNat % 256) (grp s).asid = true →
      exec (.qbind { q := q, kind := .pxpop, u := u } f) s = .next (bindDone s q (bound (moved s) s q
        { kind := .pxpop, n := f.eimm.toNat % 256, u := u, endp := endOf f }))) ∧
    ((moved s).podEn (grp s).asid = true → (moved s).reaches (f.eimm.toNat / 2 ^ 22 % 1024) = true →
      ∃ t, exec (.qbind { q := q, kind := .pxpush, u := u } f) s = .next t ∧
        t.toW.bind (now s).gid q.val = { kind := .pxpush, n := f.eimm.toNat % 256, u := u
                                         buf := s.chip.fab.nextBuf } ∧
        aget t.chip.fab.bufs s.chip.fab.nextBuf = some
          { gid := (now s).gid, q := q.val, asid := (grp s).asid, job := (moved s).podJob (grp s).asid
            pkg := f.eimm.toNat / 2 ^ 22 % 1024, n := f.eimm.toNat % 256 })

/-- A part of `Obligations.QueuesAndStreams`. -/
def Sys2Proof.Claim.QueueCloseAndStatusPart : Prop :=
  ∀ (q : Fin 16) f s, runs s f.g = true →
    let b := bindOf s q.val
    let h := queueAt s b.n
    ((b.kind = .pop ∨ b.kind = .push) →
      (h.closed = true → exec (.sclose q f) s = .next ((moved s).toState s)) ∧
      (h.closed = false → (∀ x ∈ h.streams, x.store = true) →
        exec (.sclose q f) s = .next (((moved s).setHq (teamNo s) b.n
          { h with closepend := false, closed := true }).toState s)) ∧
      (h.closed = false → (∃ x ∈ h.streams, x.store = false) →
        exec (.sclose q f) s = .next (((moved s).setHq (teamNo s) b.n
          { h with closepend := true }).toState s)) ∧
      exec (.qstat q f) s = .next (toAll s f (BitVec.ofNat 32 (qstatWord b h)))) ∧
    ((b.kind = .none ∨ b.kind = .task ∨ b.kind = .pxpop) →
      exec (.sclose q f) s = .next (allFault s f.g Cause.queueUnbound)) ∧
    (b.kind = .none → exec (.qstat q f) s = .next (toAll s f 0))

/-- A part of `Obligations.QueuesAndStreams`. -/
def Sys2Proof.Claim.StreamsStartPart : Prop :=
  ∀ m f s, runs s f.g = true →
    let b := bindOf s m.q.val
    let h := (streamBase s f.g).hq ((streamBase s f.g).group (now s).gid).team b.n
    let a := streamFrom s f
    let c := streamLen s f
    (b.kind ≠ (if m.st then .push else .pop) →
      (streamBase s f.g).bind (now s).gid m.q.val = b →
      exec (.stream m f) s = .next (faulting s (streamBase s f.g)
        ((lanesOf s f.g).map fun l => { lane := l, cause := Cause.queueUnbound }))) ∧
    (b.kind = (if m.st then .push else .pop) → streamFits s m f → tdStream (etd s f) = true →
      fmtMx f.fmto.toNat = false → tdStream (streamTd s f) = true →
      a + c ≤ streamAll s f → (m.st = false → h.closed = false ∧ h.closepend = false) →
      h.streams.length < 4 →
      ∃ t st, exec (.stream m f) s = .next t ∧ t.mem = (streamOrd s f |>.toState s).mem ∧
        (t.toW.hq ((streamBase s f.g).group (now s).gid).team b.n).streams = h.streams ++ [st] ∧
        (t.toW.hq ((streamBase s f.g).group (now s).gid).team b.n).elems = h.elems ∧
        st.store = m.st ∧ st.sp = decide (f.space = .scratch) ∧ st.desc = streamTd s f ∧ st.start = a ∧
        st.count = (if c = 0 then streamAll s f - a else c) ∧ st.done = 0 ∧ st.close = m.close ∧
        st.gid = (now s).gid)

/-- Bindings of queue registers, closing, status and streams (R316, R317, R318, R321, R322, R323,
R324). -/
def Obligations.QueuesAndStreams : Prop :=
  QueueBindingsPart ∧
  QueueCloseAndStatusPart ∧
  StreamsStartPart

/-- A part of `Obligations.TokensProxiesCollectives`. -/
def Sys2Proof.Claim.TokenMergesAndWaitsPart : Prop :=
  (∀ f s w rs, runs s f.g = true → (∀ r, f.d ≠ .s r) →
    eachLane (lanesOf s f.g) (fun w l =>
      match merged s w (tokOfLane s f.a l) (tokOfLane s f.b l) with
      | (w, some t) => (w.dst (now s) f.d l [BitVec.ofNat 32 t], some ())
      | (w, none) => (w, none)) (moved s) = (w, some rs) →
    exec (.tkmrg f) s = .next (w.toState s)) ∧
  (∀ f s r w t, runs s f.g = true → f.d = .s r →
    merged s (moved s) (tokOfLane s f.a 0) (tokOfLane s f.b 0) = (w, some t) →
    exec (.tkmrg f) s = .next ((w.dst (now s) f.d 0 [BitVec.ofNat 32 t]).toState s)) ∧
  (∀ f s, runs s f.g = true →
    let v := fun l => (moved s).tokView (grp s).asid ((rd s f.g).word f.a l).toNat
    ((∀ l ∈ lanesOf s f.g, v l = .landed ∨ v l = .failed) → f.d ≠ .v 0 →
      exec (.tkwait f) s = .next (((lanesOf s f.g).foldl (fun w l =>
        w.dst (now s) f.d l [if v l = .failed then 1 else 0]) (moved s)).toState s)) ∧
    ((∀ l ∈ lanesOf s f.g, v l = .landed ∨ v l = .failed) → f.d = .v 0 →
      exec (.tkwait f) s = .next ((moved s).toState s)) ∧
    (∀ l, (lanesOf s f.g).find? (fun l => v l = .waiting) = some l →
      (∀ k ∈ lanesOf s f.g, v k ≠ .illegal) →
      exec (.tkwait f) s = .next (allWait s f.g (.token ((rd s f.g).word f.a l).toNat))))

/-- A part of `Obligations.TokensProxiesCollectives`. -/
def Sys2Proof.Claim.ProxyPushesPart : Prop :=
  ∀ (q : Fin 16) f s, runs s f.g = true →
    (bindOf s q.val).kind = .pxpush → ((rd s f.g).pair f.a 0).toNat % 4 = 0 →
    1 ≤ ((rd s f.g).word f.b 0).toNat → ((rd s f.g).word f.b 0).toNat ≤ 2048 → room s .co →
    ∀ w rs b, pushReads s f = (w, some rs) → aget w.c.fab.bufs (bindOf s q.val).buf = some b →
    (bindOf s q.val).err = 0 →
    let p := w.newOp { gid := (now s).gid, cls := .co, iaddr := (now s).pc, scope := .pod
                       kind := .pxpush (bindOf s q.val).n b.pkg
                         (rs.map fun e => BitVec.ofNat 32 (leNat e.2.1)) }
    exec (.pxpush q f) s = .next ((p.1.setBuf (bindOf s q.val).buf
      { b with items := b.items ++ [.run p.2] }).toState s)

/-- A part of `Obligations.TokensProxiesCollectives`. -/
def Sys2Proof.Claim.CollectivesStartPart : Prop :=
  ∀ m f s, runs s f.g = true → room s .co → collOk s m f →
    let w := if f.ord = .rel then (drained s).releaseAt (now s).gid f.scope else drained s
    let p := w.newOp { gid := (now s).gid, cls := .co, iaddr := (now s).pc, kind := .coll
                       scope := f.scope }
    let c := f.eimm.toNat % 256
    let w1 := p.1.setColls c (p.1.colls c ++
        [{ op := p.2, gid := (now s).gid, asid := (grp s).asid, m := m, f := f
           desc := collDesc (etd s f) (collFmt s f), fmt := collFmt s f, p := (commOf s f).p
           rank := (commOf s f).rank, root := rootOf f, at_ := p.1.ac
           members := p.1.commPkgs (commOf s f) }])
    exec (.coll m f) s = .next ((if (p.1.colls c).isEmpty then w1.collRead c else w1).toState s)

/-- Tokens, proxy queues and collectives (R407, R408, R412, R415, R417, R418, R419). -/
def Obligations.TokensProxiesCollectives : Prop :=
  TokenMergesAndWaitsPart ∧
  ProxyPushesPart ∧
  CollectivesStartPart

/-- A part of `Obligations.ChildrenAndTasks`. -/
def Sys2Proof.Claim.LaunchesChildrenPart : Prop :=
  ∀ f s, runs s f.g = true →
    (∀ l rc h, (lanesOf s f.g).findSome? (fun l =>
        (aget (moved s).c.slu.copies ((now s).gid, l)).map fun x => (l, x)) = some (l, rc, h) →
      (moved s).childSlots (grp s).asid < 4096 →
      exec (.launch f) s = .next (launched s f l (moved s) rc h)) ∧
    ((∀ k ∈ lanesOf s f.g, aget (moved s).c.slu.copies ((now s).gid, k) = none) →
    (leadLane s f.g = none → exec (.launch f) s = .next (((moved s).dst (now s) f.d 0 [0]).toState s)) ∧
    ∀ l, leadLane s f.g = some l →
      (((moved s).grid (grp s).grid).depth = 10 →
        exec (.launch f) s = .next (faulting s (moved s)
          [{ lane := l, cause := Cause.nestDepth, addr := launchAddr s f }])) ∧
      (((moved s).grid (grp s).grid).depth ≠ 10 → launchAddr s f % 256 ≠ 0 →
        exec (.launch f) s = .next (faulting s (moved s)
          [{ lane := l, cause := Cause.launchInvalid, addr := launchAddr s f }])) ∧
      ∀ w r w2 h, ((moved s).grid (grp s).grid).depth ≠ 10 →
        (moved s).launchRec (now s) (grp s).asid (launchAddr s f) = (w, .ok r) →
        w.recCheck (grp s).asid r = (w2, .ok h) → w2.childSlots (grp s).asid < 4096 →
        exec (.launch f) s = .next (launched s f l w2 r h))

/-- A part of `Obligations.ChildrenAndTasks`. -/
def Sys2Proof.Claim.ChildWaitsPart : Prop :=
  ∀ f s, runs s f.g = true →
    (namesAll f = false → named s f = [] →
      exec (.chwait f) s = .next (allFault s f.g Cause.launchInvalid)) ∧
    ((namesAll f = true ∨ named s f ≠ []) →
      ((∀ c ∈ named s f, c.status.isSome = true) →
        exec (.chwait f) s = .next (childrenSeen s f)) ∧
      ((∃ c ∈ named s f, c.status = none) →
        exec (.chwait f) s = .next (allWait s f.g (.child (namesAll f)
          (if namesAll f then 0 else ((rd s f.g).word f.a 0).toNat)))))

/-- A part of `Obligations.ChildrenAndTasks`. -/
def Sys2Proof.Claim.SpawnsAndMailboxesPart : Prop :=
  (∀ f s, runs s f.g = true →
    let used := (moved s).gindexes (teamNo s)
    (fresh s f.g → ¬ entryGood (spawnEntry s f) →
      exec (.spawn f) s = .next (allFault s f.g Cause.spawnInvalid (spawnEntry s f))) ∧
    (fresh s f.g → entryGood (spawnEntry s f) → 1024 < (used.length + 1) * (grp s).width →
      exec (.spawn f) s = .next (((moved s).dst (now s) f.d 0 [0xFFFFFFFF]).toState s)) ∧
    ((¬ fresh s f.g ∨ (entryGood (spawnEntry s f) ∧ (used.length + 1) * (grp s).width ≤ 1024)) →
      64 ≤ ((moved s).core (grp s).core).spawns.length →
      exec (.spawn f) s = .next (midWait s f.g (moved s) (.slot 0))) ∧
    ((¬ fresh s f.g ∨ (entryGood (spawnEntry s f) ∧ (used.length + 1) * (grp s).width ≤ 1024)) →
      ((moved s).core (grp s).core).spawns.length < 64 →
      ∃ gi, isLowest used gi ∧ exec (.spawn f) s = .next (spawned s f gi))) ∧
  (∀ f s, runs s f.g = true →
    (fresh s f.g → ¬ mailboxGood s f →
      exec (.fetchw f) s = .next (allFault s f.g Cause.fetchwInvalid)) ∧
    ∀ w, ((¬ fresh s f.g ∧ w = moved s) ∨ (fresh s f.g ∧ mailboxGood s f ∧ ∃ v,
        (drained s).spGate (now s).gid (teamNo s) (mailbox s f + 60) 4 (lanesOf s f.g) = (v, none) ∧
        w = v.spStore (teamNo s) (mailbox s f + 60) [0, 0, 0, 0])) →
      ((w.team (teamNo s)).fetchw.isSome = true →
        exec (.fetchw f) s = .next (midWait s f.g w (.slot 3))) ∧
      ((w.team (teamNo s)).fetchw = none →
        exec (.fetchw f) s = .next (((begun s f.g w false).modTeam (teamNo s) fun x =>
          { x with fetchw := some (mailbox s f) }).toState s)))

/-- A part of `Obligations.ChildrenAndTasks`. -/
def Sys2Proof.Claim.TasksAddedAndDonePart : Prop :=
  (∀ f s w x zs, runs s f.g = true → popped s f.g (srcB f) = some (w, x, zs) →
    let ls := match f.a with | .s _ => (lanesOf s f.g).take 1 | _ => lanesOf s f.g
    let free := 4096 - ((moved s).core (grp s).core).tasks.length
    ((∀ l ∈ ls, taskGood s x f l = true) → ls.length ≤ free →
      exec (.taskadd f) s = .next ((endedBy s f.g (srcB f) zs (tasksAdded s x f ls w)).toState s)) ∧
    ((∀ l ∈ ls, taskGood s x f l = true) → free < ls.length →
      ((∃ t ∈ ((moved s).core (grp s).core).tasks, t.waits = 0) ∨
        ∃ l ∈ ls.take free, (x.b f l).toNat / 65536 % 256 = 0) →
      exec (.taskadd f) s = .next (allWait s f.g (.slot 1))) ∧
    ((∀ l ∈ ls, taskGood s x f l = false) →
      exec (.taskadd f) s = .next (allFault s f.g Cause.taskRecordInvalid))) ∧
  (∀ f s, runs s f.g = true →
    let w := (moved s).releaseAt (now s).gid .tm
    let gr := w.group (now s).gid
    (gr.kind = .task none → exec (.taskdone f) s = .next
      (((lanesOf s f.g).foldl (fun w l => w.laneTaskDone (now s).gid l) w).toState s)) ∧
    (∀ t, gr.kind = .task (some t) →
      (∀ l ∈ w.allLanes (now s).gid, (w.lane (now s).gid l).task = none) →
      exec (.taskdone f) s = .next (w.toState s)) ∧
    ((∀ o, gr.kind ≠ .task o) → exec (.taskdone f) s = .next (w.toState s)) ∧
    ∀ t, gr.kind = .task (some t) →
      (∃ l ∈ w.allLanes (now s).gid, (w.lane (now s).gid l).task.isSome = true) →
      exec (.taskdone f) s = .next ((((w.allLanes (now s).gid).foldl (fun w l =>
        w.modLane (now s).gid l fun x => { x with task := none }) w).taskDone gr.core gr.team t).toState s))

/-- Child grids, spawned groups, mailbox reads and tasks (R109, R110, R112, R127, R128, R129, R130,
R131, R132, R133). -/
def Obligations.ChildrenAndTasks : Prop :=
  LaunchesChildrenPart ∧
  ChildWaitsPart ∧
  SpawnsAndMailboxesPart ∧
  TasksAddedAndDonePart

/-- 14 R356–R358, R360. -/
def Sys2Proof.Claim.RaysAndTrianglesPart : Prop :=
  (∀ m f s, runs s f.g = true →
    badLight s f bvhOk Cause.traceInvalidBvh (.trace m f) ∧
    (goodLight s f bvhOk → room s .tx →
      let p := (lit s f m.task).newOp (traceOf s m f)
      exec (.trace m f) s = .next ((if m.task then p.1
        else p.1.openPend (now s) p.2 f.x.toNat (lanesOf s f.g) (runV f.d 8) [] none).toState s))) ∧
  (∀ m f s, runs s f.g = true → tdCommon (hitEnv s f).d = true → bvhOk (hitEnv s f).d = true →
    ∀ w xs, eachLane (lanesOf s f.g) (hitLane s m.nrm f) (moved s) = (w, some xs) →
      exec (.hitget m f) s = .next (((w.orFlags (now s).gid
          ((xs.map fun e => (e.2.map fun c => c.flags).foldl (· ||| ·) 0).foldl (· ||| ·) 0)).lateResult
        (now s) f.x.toNat (xs.map Prod.fst) f.d (if m.nrm then 3 else 9)
        (xs.map fun e => (e.1, e.2.map fun c => BitVec.ofNat 32 c.code)) (Machine.rpOf m.rp)
        (xs.map fun e => (e.1, false))).toState s))

/-- 14 R361, R362, R363. -/
def Sys2Proof.Claim.SamplersFilterPart : Prop :=
  (∀ m f s, runs s f.g = true →
    badLight s f texOk Cause.samplerInvalid (.samp m f) ∧
    (goodLight s f texOk → room s .tx →
      (∀ k : Fin 256, f.d = .v k → k.val + tdSize (etd s f) 0 ≤ (grp s).vb →
        ∀ w xs, eachLane (lanesOf s f.g) (sampledLane s m f) (lit s f false) = (w, some xs) →
          exec (.samp m f) s = .next (sampled s f m.rp (tdSize (etd s f) 0) w xs)))) ∧
  (∀ m f s, runs s f.g = true →
    badLight s f specOk Cause.samplerInvalid (.ssamp m f) ∧
    (goodLight s f specOk → room s .tx →
      ∀ w xs, eachLane (lanesOf s f.g) (fun w l =>
          match wlamOut ((moved s).srReg (grp s).asid .wlrange) ((moved s).ftz (now s).gid)
              ((rd s f.g).word f.b l) with
          | none => (w, none)
          | some lams => ssampledLane s m f lams w l) (lit s f false) = (w, some xs) →
        exec (.ssamp m f) s = .next (sampled s f m.rp 16 w xs)))

/-- 14 R364, R366. -/
def Sys2Proof.Claim.FilmAndFeedbackPart : Prop :=
  (∀ m f s, runs s f.g = true →
    badLight s f filmOk Cause.filmInvalid (.filmacc m f) ∧
    (goodLight s f filmOk → ¬ filmFits s m f →
      exec (.filmacc m f) s = .next (allFault s f.g Cause.filmInvalid)) ∧
    (goodLight s f filmOk → filmFits s m f → room s .tx →
      (m = .raw → ∀ k : Fin 256, f.a = .v k → k.val + tdSize (etd s f) 0 ≤ (grp s).vb) →
      ∀ w xs, eachLane (lanesOf s f.g) (filmLane s m f) (lit s f false) = (w, some xs) →
        exec (.filmacc m f) s = .next ((w.newOp { storeAt s with scope := f.scope, done := true }).1.toState
          s))) ∧
  (∀ m f s, runs s f.g = true →
    (m.kind = .tex → badLight s f texOk Cause.samplerInvalid (.resfb m f)) ∧
    (m.kind = .spec → badLight s f specOk Cause.samplerInvalid (.resfb m f)) ∧
    ((m.kind = .tri ∨ m.kind = .node) → badLight s f bvhOk Cause.traceInvalidBvh (.resfb m f)) ∧
    (goodLight s f (match m.kind with | .tex => texOk | .spec => specOk | _ => bvhOk) → room s .tx →
      exec (.resfb m f) s = .next ((((lanesOf s f.g).foldl (fun w l =>
        match feedPages s m f l with
        | none => w.hintDrop (grp s).asid
        | some ps => ps.foldl (fun w p =>
            let w := w.fbSet (litEnv s f (etd s f)) p
            if m.req then (w.request (grp s).core (grp s).asid (p * 65536)).1 else w) w) (moved s)).newOp
          { storeAt s with scope := f.scope, done := true }).1.toState s)))

/-- Rays, samplers, film and feedback (R355, R356, R357, R360, R361, R362, R363, R364, R365). Where
TRACE.any may take any hit the pick is a free value, log entry 3; an unstated normal is one too,
log entry 12. -/
def Obligations.LightInstructions : Prop :=
  RaysAndTrianglesPart ∧
  SamplersFilterPart ∧
  FilmAndFeedbackPart

/-- TRAP, SVC and BRK take their exceptions (R427, R428, R433, R164). -/
def Obligations.TrapsTakeExceptions : Prop :=
  ∀ f s, runs s f.g = true → (now s).replay = false →
    let n := s.chip.mdl.next
    let b := ((rd s f.g).b f 0).toNat
    let after := (nextPc (now s).pc (now s).len)
    (∀ t, placeFor s (lanesOf s f.g) → exec (.trap f) s = .next t →
      isRecord s t n (lanesOf s f.g) after Cause.swTrap b 0) ∧
    (∀ t, placeFor s (lanesOf s f.g) → exec (.svc f) s = .next t →
      isRecord s t n (lanesOf s f.g) after Cause.swTrap b 1) ∧
    exec (.trap f) s = .next (leaving s (((moved s).takeFault (now s).gid (now s).frag (lanesOf s f.g)
      Cause.swTrap b 0 after (now s).pc false).shed (now s).gid (now s).frag)) ∧
    exec (.svc f) s = .next (leaving s (((moved s).takeFault (now s).gid (now s).frag (lanesOf s f.g)
      Cause.swTrap b 1 after (now s).pc false).shed (now s).gid (now s).frag)) ∧
    exec (.brk f) s = .next (allFault s f.g Cause.breakpoint)

/-- ERET returns lanes from their exceptions (R434, R430). -/
def Obligations.ReturnsFromExceptions : Prop :=
  ∀ f s, runs s f.g = true →
    let w0 := atSys s
    let va := ((rd s f.g).pair f.a 0).toNat
    (w0.awaitingAt (grp s).asid va = none →
      exec (.eretRes f) s = .next (eretEnd s f w0 1) ∧
      exec (.eretSkip f) s = .next (eretEnd s f w0 1) ∧
      exec (.eretStep f) s = .next (eretEnd s f w0 1)) ∧
    (∀ n w bs, w0.awaitingAt (grp s).asid va = some n →
      let x := w0.frag n
      let a := (w0.group x.gid).asid
      w0.read3 a va x.fr.bytes.length false = (w, .ok bs) →
      (fixedFields bs ≠ fixedFields x.fr.bytes →
        exec (.eretRes f) s = .next (eretEnd s f (w.corrupt (w0.group x.gid).team va) 2) ∧
        exec (.eretSkip f) s = .next (eretEnd s f (w.corrupt (w0.group x.gid).team va) 2) ∧
        exec (.eretStep f) s = .next (eretEnd s f (w.corrupt (w0.group x.gid).team va) 2)) ∧
      (fixedFields bs = fixedFields x.fr.bytes →
        exec (.eretRes f) s = .next (eretEnd s f ((w.readRecord n bs).resume n) 0) ∧
        exec (.eretStep f) s = .next (eretEnd s f
          (((w.readRecord n bs).modFrag n fun y => { y with step := true }).resume n) 0) ∧
        (∀ iaddr c, x.wake = .fault iaddr true c →
          exec (.eretSkip f) s = .next (eretEnd s f (((w.readRecord n bs).modFrag n fun y =>
            { y with wake := .fault iaddr false c }).resume n) 0)) ∧
        (∀ iaddr c v, x.wake = .fault iaddr false c → w.lengthAt a iaddr = (v, none) →
          exec (.eretSkip f) s = .next (eretEnd s f v 3)) ∧
        (∀ iaddr c v k, x.wake = .fault iaddr false c → w.lengthAt a iaddr = (v, some k) →
          let u := v.readRecord n bs
          exec (.eretSkip f) s = .next (eretEnd s f
            ((u.setPcs x.gid (u.fragLanes x.gid n) (nextPc iaddr k)).resume n) 0))))

/-- 18 R435, R436. -/
def Sys2Proof.Claim.RegisterReadsPart : Prop :=
  ∀ f s, runs s f.g = true →
    ((selector s f / 2 ^ 20 % 2048 ≠ 0 ∨ regOf (selector s f / 256 % 4096) = none ∨
        ∃ reg cnt, regOf (selector s f / 256 % 4096) = some (reg, cnt) ∧ cnt ≤ selector s f % 256) →
      exec (.rdsr f) s = .next (allFault s f.g Cause.illegalOperand) ∧
      exec (.wrsr f) s = .next (allFault s f.g Cause.illegalOperand)) ∧
    (∀ reg n, namesReg s f reg n →
      (isPriv s = false → reg.isSr = false → reg ≠ .ptpStatus → reg ≠ .ptpCfg →
        exec (.rdsr f) s = .next (allFault s f.g Cause.privilegedOp)) ∧
      (isPriv s = false → reg ≠ .fpflags → reg ≠ .hintdrop → reg ≠ .core →
        exec (.wrsr f) s = .next (allFault s f.g Cause.privilegedOp)) ∧
      (isPriv s = true → 2 ^ 31 ≤ selector s f →
        (reg.isSr = false ∨ f.c = .v 0 ∨ aget s.chip.sys.ctxs (otherCtx s f) = none) →
        exec (.rdsr f) s = .next (allFault s f.g Cause.illegalOperand) ∧
        exec (.wrsr f) s = .next (allFault s f.g Cause.illegalOperand)) ∧
      (∀ a, inCtx s f reg a →
        (isPriv s = true ∨ reg.isSr = true ∨ reg = .ptpStatus ∨ reg = .ptpCfg) →
        let x := regValue s reg n a
        exec (.rdsr f) s = .next (((moved s).dst (now s) f.d 0
          [x.setWidth 32, (x >>> 32).setWidth 32]).toState s)))

/-- 18 R435, R436, and the rules of the fields. -/
def Sys2Proof.Claim.RegisterWritesPart : Prop :=
  ∀ f s reg n a, runs s f.g = true → namesReg s f reg n → inCtx s f reg a → isPriv s = true →
    let x := (rd s f.g).pair f.a 0
    let w := moved s
    (∀ kept zero, storeMask reg = some (kept, zero) → x &&& zero = 0 →
      exec (.wrsr f) s = .next (stored s reg n a (x &&& kept))) ∧
    (∀ kept zero, storeMask reg = some (kept, zero) → x &&& zero ≠ 0 →
      exec (.wrsr f) s = .next (allFault s f.g Cause.reservedField)) ∧
    (headReg reg → exec (.wrsr f) s = .next (stored s reg n a
      ((if reg.isSr then w.srReg a reg else w.blk reg n) &&& fieldMask 63 32 ||| x &&& fieldMask 31 0))) ∧
    (fixedReg reg → exec (.wrsr f) s = .next (w.toState s)) ∧
    (reg = .ctx → x &&& fieldMask 39 2 = 0 →
      exec (.wrsr f) s = .next ((w.modCtx a fun y => { y with dbg := x.getLsbD 1 }).toState s)) ∧
    (reg = .fpflags → exec (.wrsr f) s = .next
      ((w.modGroup (now s).gid fun y => { y with flags := x.setWidth 5 }).toState s)) ∧
    (reg = .hintdrop → exec (.wrsr f) s = .next ((w.setSrReg a .hintdrop 0).toState s)) ∧
    (reg = .leatsize →
      (x.toNat % 2 ^ 40 % 65536 = 0 ∧ leatReserved + w.leatUse a ≤ x.toNat % 2 ^ 40 →
        exec (.wrsr f) s = .next ((w.setSrReg a .leatsize (x &&& fieldMask 39 0)).toState s)) ∧
      (¬ (x.toNat % 2 ^ 40 % 65536 = 0 ∧ leatReserved + w.leatUse a ≤ x.toNat % 2 ^ 40) →
        exec (.wrsr f) s = .next (allFault s f.g Cause.illegalOperand))) ∧
    (reg = .cmd → s.chip.slu.cmd ≠ none →
      exec (.wrsr f) s = .next (allFault s f.g Cause.illegalOperand)) ∧
    (reg = .cmd → s.chip.slu.cmd = none → x.toNat % 8 ≤ 4 → x.toNat % 8 ≠ 0 →
      ∃ t, exec (.wrsr f) s = .next t ∧ t.chip.slu.cmd = some
        { op := x.toNat % 8, asid := x.toNat / 2 ^ 48
          grid := (w.blk .cmdarg 0).toNat % 2 ^ 24
          team := (w.blk .cmdarg 0).toNat / 2 ^ 24 }) ∧
    (reg = .memcCfg → x &&& fieldMask 63 8 = 0 → exec (.wrsr f) s = .next ((w.setStack n
      { w.stack n with ratio := x.toNat % 4, busy := true }).toState s)) ∧
    ((reg = .aprPa ∨ reg = .aprSize ∨ reg = .aprSide ∨ reg = .aprCtl) → (w.blk .aprCtl n).getLsbD 0 = true →
      exec (.wrsr f) s = .next (allFault s f.g Cause.illegalOperand)) ∧
    (reg = .fabricTkclr → exec (.wrsr f) s = .next ({ w with
      c.fab.toks := w.c.fab.toks.filter fun e =>
        !(e.2.asid = x.toNat % 65536 && e.2.st == TokSt.failed) }.toState s))

/-- 18 R437, R438. -/
def Sys2Proof.Claim.CountsAndTranslationsPart : Prop :=
  (∀ f s, runs s f.g = true →
    exec (.time .ptp f) s = .next (pairToAll s f (BitVec.ofNat 64
      (s.chip.fab.ptp.count + s.chip.mdl.ac * 20 / 17))) ∧
    exec (.time .ac f) s = .next (pairToAll s f (BitVec.ofNat 64 s.chip.mdl.ac)) ∧
    exec (.energy .ctx f) s = .next (pairToAll s f (BitVec.ofNat 64 ((moved s).ctx (grp s).asid).account)) ∧
    exec (.energy .grid f) s = .next (pairToAll s f (BitVec.ofNat 64 ((moved s).grid (grp s).grid).used)) ∧
    (∀ n, perfOf s ((rd s f.g).b f 0).toNat = some n →
      exec (.perfrd f) s = .next (pairToAll s f (BitVec.ofNat 64 n))) ∧
    (perfOf s ((rd s f.g).b f 0).toNat = none →
      exec (.perfrd f) s = .next (allFault s f.g Cause.illegalOperand))) ∧
  (∀ (f : MemF) s, runs s f.g = true →
    let c := ((rd s f.g).word f.c 0).toNat
    let lo := ((rd s f.g).pair f.a 0).toNat / 65536 * 65536
    let hi := lo + 65536 * c
    let a := ((rd s f.g).word f.b 0).toNat % 65536
    (c = 0 → exec (.tlbinvVa f) s = .next (allFault s f.g Cause.illegalOperand)) ∧
    (c ≠ 0 → ∃ t, exec (.tlbinvVa f) s = .next t ∧
      t = ((atSys s).invalidate a fun x n => decide (x < hi ∧ lo < x + n)).toState s ∧
      ∀ k e, (k, e) ∈ t.chip.cch.tlb → k.1 = a → ¬ coversVa k lo hi) ∧
    (∃ t, exec (.tlbinvAsid f) s = .next t ∧
      t = ((atSys s).invalidate a fun _ _ => true).toState s ∧
      ∀ k e, (k, e) ∈ t.chip.cch.tlb → k.1 ≠ a) ∧
    (∃ t, exec (.tlbinvAll f) s = .next t ∧
      t = ((uniq ((atSys s).c.sys.ctxs.map Prod.fst)).foldl
        (fun w a => w.invalidate a fun _ _ => true) (atSys s)).toState s ∧
      ∀ k e, (k, e) ∈ t.chip.cch.tlb → k.1 ∉ (atSys s).c.sys.ctxs.map Prod.fst))

/-- Reads and writes of special registers, counts and translations (R432, R435, R436, R437, R438). -/
def Obligations.SystemRegisters : Prop :=
  RegisterReadsPart ∧
  RegisterWritesPart ∧
  CountsAndTranslationsPart

/-- 06 R142, R143, R149, R138, R147, R153, 09 R255. -/
def Sys2Proof.Claim.IssueAndLandingPart : Prop :=
  (∀ core slot f k i ins n s, readyIn s core slot f k i (.ok ins n) → s.chip.mdl.pack = [] →
    (∀ g k2, (g, k2) ∈ s.toW.slotFrags core slot → g ≠ f → s.toW.ready g ≠ none →
      before s f k g k2) →
    allowed s i ins → s.toW.slotFree core slot = true → (∀ x ∈ s.toW.slotFrags core slot, x.2 < 64 ∧
      (s.toW.group (s.toW.frag x.1).gid).born.getD 0 < 2 ^ 64) →
    ∃ t, exec (.slotIssue core slot) s = .next t ∧ latched s t i ins) ∧
  (∀ core ctx f s, s.toW.inCtx core ctx = some f → s.toW.ready f ≠ none →
    (s.toW.frag f).issued + 1024 ≤ s.chip.mdl.ac →
    does (.fragmentBoost core ctx) s fun w => w.modFrag f fun x => { x with boost := true }) ∧
  (∀ core ctx f l i ins n s, s.toW.inCtx core ctx = some f →
    s.toW.overdue (s.toW.frag f).gid f = some l → s.toW.ready f = some (i, .ok ins n) → allowed s i ins →
    ∃ t, exec (.issueCountSwitch core ctx) s = .next t ∧ latched s t i ins ∧
      ((s.toW.frag f).replay = none → i.pc = (s.toW.lane i.gid l).pc)) ∧
  (∀ core asid block w bs s, aget (s.toW.core core).icache (asid, block / 32 * 32) = none →
    s.toW.fetchBlock asid (block / 32 * 32) = (w, .ok bs) →
    exec (.fetchBlockArrival core asid block) s = .next ((w.modCore core fun k =>
      { k with icache := k.intoCache w.c.mdl.fresh (asid, block / 32 * 32) bs }).toState s)) ∧
  (∀ core asid block w c v s, aget (s.toW.core core).icache (asid, block / 32 * 32) = none →
    s.toW.fetchBlock asid (block / 32 * 32) = (w, .bad c v) →
    exec (.fetchBlockArrival core asid block) s = .next (((w.blockUsers core asid (block / 32 * 32)).foldl
      (fun w i => w.issueFault i c) w).toState s)) ∧
  (∀ e id o s, (e = .resultLanding id ∨ e = .engineOperationRetire id) →
    isOldest s id o → o.done = true → valuesThere s id →
    does e s fun w => ((w.dropOp id o).dropRanges id).land id) ∧
  (∀ e id o s, (e = .resultLanding id ∨ e = .engineOperationRetire id) →
    aget s.chip.eng.ops id = some o → (o.done = false ∨ ¬ valuesThere s id ∨ ¬ isOldest s id o) →
    stays e s) ∧
  (∀ core ctx f g e s, s.toW.inCtx core ctx = some f → g = (s.toW.frag f).gid →
    s.toW.nextIssue f = none → (s.toW.waitsFor f true).find? (fun e => e.2.at_ + 24 ≤ s.chip.mdl.ac) =
      some e →
    let ls := e.2.lanes.filter fun l => (s.toW.lane g l).frag = f
    let w := ((uniq (ls.map fun l => (s.toW.lane g l).pc)).foldl (fun w pc =>
      w.leave g f (ls.filter fun l => (w.lane g l).pc = pc) .result {}) s.toW).shed g f
    exec (.lookaheadHoldExpiry core ctx) s = .next (w.toState s))

/-- 05 R117, R134, 06 R153, R161, R162, 18 R427–R429, R439. -/
def Sys2Proof.Claim.ContextsAndReportsPart : Prop :=
  (∀ core k f s, s.toW.freeCtx core = some k → s.toW.fifoHead core = some f →
    s.toW.rfFits core (s.toW.group (s.toW.frag f).gid).vb (s.toW.group (s.toW.frag f).gid).ub
      (s.toW.group (s.toW.frag f).gid).width = true →
    does (.contextFill core) s fun w => (w.relaunch f k).modCore core fun x =>
      { x with fifoSince := none }) ∧
  (∀ core k t gi rest s, s.toW.freeCtx core = some k → s.toW.fifoHead core = none →
    (s.toW.core core).unstarted = (t, gi) :: rest → s.toW.teamRuns t = true → s.toW.groupFits t = true →
    does (.contextFill core) s fun w => (w.modCore core fun x =>
      { x with unstarted := x.unstarted.filter fun e => e ≠ (t, gi) }).startGroup k (launchStart w t gi)) ∧
  (∀ core k r rest s, s.toW.freeCtx core = some k → s.toW.fifoHead core = none →
    (s.toW.core core).unstarted = [] → (s.toW.core core).spawns = r :: rest →
    s.toW.teamRuns r.team = true → s.toW.groupFits r.team = true →
    does (.contextFill core) s fun w => (w.modCore core fun x => { x with spawns := rest }).startGroup k
      (spawnStart w r)) ∧
  (∀ core k t ts s, s.toW.freeCtx core = some k → s.toW.fifoHead core = none →
    (s.toW.core core).unstarted = [] → (s.toW.core core).spawns = [] →
    s.toW.ripeGroup core = some (t :: ts) → s.toW.groupFits t.team = true →
    does (.contextFill core) s (fun w => (w.markStarted core ((t :: ts).map Task.id)).startGroup k
      (taskStart w (t :: ts))) ∧
    does (.taskRipening core) s fun w => (w.markStarted core ((t :: ts).map Task.id)).startGroup k
      (taskStart w (t :: ts))) ∧
  (∀ core s, s.toW.freeCtx core = none → stays (.contextFill core) s) ∧
  (∀ core since f h s, (s.toW.core core).fifoSince = some since → since + 4096 ≤ s.chip.mdl.ac →
    s.toW.freeCtx core = none → s.toW.fifoHead core = some h → s.toW.victim core = some f →
    let g := (s.toW.frag f).gid
    let w := s.toW.writeOut g f fun x => { x with disp := true }
    ((w.frag f).hold ≠ [] → stays (.displacement core) s) ∧
    ((w.frag f).hold = [] → exec (.displacement core) s = .next
      (((w.modGroup g fun x => { x with perf.disps := x.perf.disps + 1 }).modCore core fun x =>
        { x with fifoSince := none }).toState s))) ∧
  (∀ core since s, (s.toW.core core).fifoSince = some since → s.chip.mdl.ac < since + 4096 →
    stays (.displacement core) s) ∧
  (∀ core f o n s, s.toW.latchHead core = some (f, o, n) →
    does (.overflowLatchDrain core) s fun w =>
      let w := w.modFrag f fun x => { x with latch := none, pool := some (o, n) }
      if w.latchCount core = 0 then w.modCore core fun x => { x with overflow := false } else w) ∧
  (∀ r x rest w f va s, nextReport r s.chip.sys.reps = some (x, rest) → x.frag = some f →
    s.toW.ringFull r = false → s.toW.recReady x = true → (aget s.chip.thr.frags f).isSome = true →
    (s.toW.frag f).fr.bytes = [] →
    ({ s.toW with c.sys.reps := rest }).writeRecord f = (w, some va) →
    ∀ u, w.append r (reportBytes x va w.ptpNow) = (u, true) →
      exec (.faultReport r) s = .next ((match r with
        | .ctx a => (u.awaits x).faultEvent a x
        | .sys => u.awaits x).toState s)) ∧
  (∀ r s, s.toW.canReport r = false → stays (.faultReport r) s) ∧
  (∀ f s, s.toW.overdueRec f = true →
    let x := s.toW.frag f
    let gr := s.toW.group x.gid
    let ls := s.toW.fragLanes x.gid f
    does (.watchdog f) s fun w => (w.modFrag f fun y => { y with dog := true }).report (.ctx gr.asid)
      { cause := Cause.watchdog, kind := 3, asid := gr.asid, core := gr.core
        pc := (s.toW.lane x.gid (ls.headD 0)).pc, lanes := laneMask ls, gindex := gr.gindex
        tlin := (s.toW.team gr.team).tlin, grid := gr.grid }) ∧
  (∀ f s, s.toW.overdueRec f = false → stays (.watchdog f) s) ∧
  (∀ f w s, s.toW.waits f = true → s.toW.eventDue f = (w, true) →
    exec (.eventWaitRetest f) s = .next ((w.wake f).toState s)) ∧
  (∀ f w s, s.toW.waits f = true → s.toW.eventDue f = (w, false) →
    exec (.eventWaitRetest f) s = .next (w.toState s))

/-- Issue, boosts, landing, context fills and reports (R138, R142, R143, R147, R149, R153, R117,
R134, R427, R429, R439). That events of one ac happen one after the other is the model's choice,
log entry 6. -/
def Obligations.IssueAndContexts : Prop :=
  IssueAndLandingPart ∧
  ContextsAndReportsPart

/-- Stores are performed, lines leave, answers arrive (R237, R238, R240, R286, R287). -/
def Obligations.StoresAndLines : Prop :=
  (∀ g q rest s, s.toW.sq g = q :: rest →
    let gr := s.toW.group g
    does (.storeQueueDrain g) s fun w =>
      let w := { w with c.eng.sq := aset w.c.eng.sq g rest }
      let w := if q.ord = .rel ∨ q.ord = .str then w.release gr.core gr.asid q.scope else w
      let w := if q.space = .scratch then w.spStore gr.team q.addr q.data
        else w.store gr.core gr.asid q.scope q.addr q.data []
      if ∃ x ∈ rest, x.op = q.op then w else w.modOp q.op fun o => { o with done := true }) ∧
  (∀ g s, s.toW.sq g = [] → stays (.storeQueueDrain g) s) ∧
  (∀ core asid line s,
    does (.lineEviction true core asid line) s (fun w => w.evict2 asid line) ∧
    does (.lineEviction false core asid line) s (fun w =>
      (w.flush1 core asid line).drop1 core asid line) ∧
    (∃ t, exec (.lineEviction true core asid line) s = .next t ∧ aget t.chip.cch.l2 (asid, line) = none) ∧
    ∃ t, exec (.lineEviction false core asid line) s = .next t ∧
      aget t.chip.cch.l1 (core, asid, line) = none) ∧
  (∀ core asid line l w s, aget s.chip.cch.l1 (core, asid, line) = some l →
    s.toW.upgrade2 asid (line * 128) = (w, .ok ()) →
    exec (.upgradeAnswer core asid line) s = .next ({ w with
      c.cch.l1 := aset w.c.cch.l1 (core, asid, line) { l with pw := true } }.toState s)) ∧
  (∀ core asid line s, aget s.chip.cch.l1 (core, asid, line) = none →
    stays (.upgradeAnswer core asid line) s) ∧
  (∀ op o t slot rcnt tag data s, aget s.chip.eng.ops op = some o →
    o.kind = .fill t slot rcnt tag data → o.done = false →
    (o.fault = none → does (.slotFillComplete op) s fun w =>
      ((w.spRaw t (4096 * slot) data).setTag t slot { w.tag t slot with
        rcnt := rcnt, tag := tag, dirty := false, state := 2 }).modOp op fun o =>
          { o with done := true }) ∧
    (o.fault ≠ none → does (.slotFillComplete op) s fun w =>
      (w.setTag t slot { w.tag t slot with state := 0, dirty := false, rcnt := 0 }).modOp op fun o =>
          { o with done := true })) ∧
  (∀ op o t slot tag w s, aget s.chip.eng.ops op = some o → o.kind = .evict t slot tag →
    o.done = false → s.toW.prep (s.toW.team t).asid (tag * 4096) 4096 = (w, .ok []) →
    let data := s.toW.spBytes t (4096 * slot) 4096
    let v := w.store (s.toW.team t).core (s.toW.team t).asid .pkg (tag * 4096) data []
    exec (.slotWritebackComplete op) s = .next (((v.setTag t slot
      { v.tag t slot with state := 0, dirty := false, rcnt := 0 }).modOp op fun o =>
        { o with done := true, fault := none }).toState s)) ∧
  (∀ op o t slot tag w c v s, aget s.chip.eng.ops op = some o → o.kind = .evict t slot tag →
    o.done = false → s.toW.prep (s.toW.team t).asid (tag * 4096) 4096 = (w, .bad c v) →
    exec (.slotWritebackComplete op) s = .next (((w.setTag t slot
      { w.tag t slot with state := 0, dirty := false, rcnt := 0 }).modOp op fun o =>
        { o with done := true, fault := some (c, v) }).toState s)) ∧
  (∀ core slot t m s, s.chip.slu.teams.find? (fun e => decide (e.2.core = core) &&
      (decide (e.2.slot0 ≤ slot) && decide (slot < e.2.slot0 + e.2.slots))) = some (t, m) →
    aget s.chip.spd.tags (t, slot - m.slot0) = some { rcnt := 256, state := 2, dirty := true } →
    ∃ u, exec (.readCountExhausted core slot) s = .next u ∧
      aget u.chip.spd.tags (t, slot - m.slot0) = some { rcnt := 0, state := 0, dirty := false }) ∧
  (∀ asid va x s, does (.bedstoneContribution asid va x) s fun w => contributed w 0 asid .pkg va x) ∧
  (∀ grid n s, n = (aget s.chip.syn.applied grid).getD 0 → n < (s.toW.grid grid).count →
    s.toW.teamOver grid n = true →
    let all := (aget s.chip.syn.staged grid).getD []
    does (.stagedContributionApply grid) s fun w =>
      let w := (sortBy (fun (x : Staged) => x.va * 2 ^ 32 + x.x.toNat) (all.filter fun x => x.tlin = n)).foldl
        (fun w x => contributed w 0 x.asid x.scope x.va x.x) w
      { w with c.syn.staged := aset w.c.syn.staged grid (all.filter fun x => x.tlin ≠ n)
               c.syn.applied := aset w.c.syn.applied grid (n + 1) }) ∧
  (∀ grid n s, n = (aget s.chip.syn.applied grid).getD 0 →
    ((s.toW.grid grid).count ≤ n ∨ s.toW.teamOver grid n = false) →
    stays (.stagedContributionApply grid) s)

/-- The engines go on step by step (R305, R306, R308, R337, R346, R347, R358). What an engine may
take in any order is a free value or log entry 3. -/
def Obligations.EngineSteps : Prop :=
  (∀ op o h seg s, hoistNow s op o h seg → (∀ e ∈ s.toW.fixups h.core, ¬ (e.op = op ∧ e.seg = seg)) →
    (∀ w res fl, segTry s o h seg = (w, res, .ok fl) →
      let h1 := { h with done := h.done ++ [seg], resolved := res, inPlace := none }
      exec (.hoistSegmentComplete op seg) s = .next
        ((((w.modOp op fun o => { o with kind := .hoist h1, flags := o.flags ||| fl }).setChunk h1 seg
          |>.setFixups h.core ((((w.modOp op fun o => { o with kind := .hoist h1, flags := o.flags ||| fl
            }).setChunk h1 seg).fixups h.core).filter fun e => !(e.op = op && e.seg = seg))).hoistEnd op
              h1).toState s)) ∧
    (∀ w res va, segTry s o h seg = (w, res, .skip va) → h.inPlace = none →
      let v := (s.toW.request h.core h.asid va).1
      let v1 := fun x => v.modOp op fun o => { o with
        kind := .hoist { h with resolved := res, inPlace := x } }
      ((v.fixups h.core).length < 256 → exec (.hoistSegmentComplete op seg) s = .next
        (((v.setFixups h.core (v.fixups h.core ++
          [{ op := op, seg := seg, va := va, asid := h.asid, since := v.ac }])).modOp op fun o =>
            { o with kind := .hoist { h with resolved := res, inPlace := none } }).toState s)) ∧
      (256 ≤ (v.fixups h.core).length → exec (.hoistSegmentComplete op seg) s = .next
        ((v1 (some { seg := seg, va := va, since := v.ac })).toState s)))) ∧
  (∀ op seg o h s, aget s.chip.eng.ops op = some o → o.kind = .hoist h →
    (∃ e ∈ s.toW.fixups h.core, e.op = op ∧ e.seg = seg) → stays (.hoistSegmentComplete op seg) s) ∧
  (∀ core s, does (.fixupReplay core) s fun w => (w.replayable core).foldl (fun w e =>
    match aget w.c.eng.ops e.op with
    | some o => match o.kind with
      | .hoist h => w.hoistTry e.op o h e.seg
      | _ => w
    | none => w) w) ∧
  (∀ op o h seg e s, hoistNow s op o h seg →
    (s.toW.fixups h.core).find? (fun e => e.op = op && e.seg = seg) = some e →
    (e.since + s.toW.fixLim h.asid ≤ s.chip.mdl.ac →
      let h1 := { h with failed := h.failed ++ [(seg, Cause.fixupUnresolved, e.va)], inPlace := none }
      does (.fixupUnresolved op seg) s fun w =>
        let w := w.modOp op fun o => { o with kind := .hoist h1 }
        ((w.setFixups h.core ((w.fixups h.core).filter fun x => !(x.op = op && x.seg = seg))).failChunk h1
          seg Cause.fixupUnresolved e.va).hoistEnd op h1) ∧
    (s.chip.mdl.ac < e.since + s.toW.fixLim h.asid → stays (.fixupUnresolved op seg) s)) ∧
  (∀ core hq t h s, (s.toW.claimed core)[hq]? = some (t, h) →
    let q := s.toW.hq t h
    (q.streams = [] → stays (.streamElement core hq) s) ∧
    (∀ x rest, q.streams = x :: rest → x.store = false → x.done < x.count → q.elems.length < 2048 →
      (∀ w v fl, s.toW.streamRead t x (x.start + x.done) = (w, .ok v fl) →
        let x1 := { x with done := x.done + 1, since := none, flags := x.flags ||| fl }
        let u := w.setHq t h { q with streams := x1 :: rest, elems := q.elems ++ [v] }
        exec (.streamElement core hq) s = .next
          ((if x.done + 1 = x.count then u.streamEnd t h none else u).toState s)) ∧
      (∀ w c, s.toW.streamRead t x (x.start + x.done) = (w, .bad c) →
        exec (.streamElement core hq) s = .next ((w.streamEnd t h (some c)).toState s))) ∧
    (∀ x rest v vs, q.streams = x :: rest → x.store = true → x.done < x.count → q.elems = v :: vs →
      ∀ w y fl, s.toW.streamWrite t x (x.start + x.done) v = (w, .ok y fl) →
        let x1 := { x with done := x.done + 1, since := none, flags := x.flags ||| fl }
        let u := w.setHq t h { q with streams := x1 :: rest, elems := vs }
        exec (.streamElement core hq) s = .next
          ((if x.done + 1 = x.count then u.streamEnd t h none else u).toState s))) ∧
  (∀ id o m s, mxNow s id o m →
    (∀ w m1 fl, mxStepOf s o m = .done w m1 fl →
      (∀ ts, m.kind = .zero ts → exec (.matrixKStep id) s = .next
        ({ w with c.eng.ops := adel w.c.eng.ops id }.toState s)) ∧
      ((∀ ts, m.kind ≠ .zero ts) → ∃ t, exec (.matrixKStep id) s = .next t ∧ t.mem = (w.toState s).mem ∧
        aget t.chip.eng.ops id = some { o with
          kind := .mx { m1 with prog := m1.prog + 1, since := none }, flags := o.flags ||| fl
          done := decide (mxStepsOf m1 ≤ m1.prog + 1) })) ∧
    (∀ w m1 c v, mxStepOf s o m = .stop w m1 (.bad c v) → ∃ t, exec (.matrixKStep id) s = .next t ∧
      aget t.chip.eng.ops id = some { o with kind := .mx { m1 with
        susp := some (c, v), since := none, raised := false } } ∧ t.mem = (w.toState s).mem)) ∧
  (∀ id lane o t m mask ray pay s, aget s.chip.eng.ops id = some o → o.kind = .tx t →
    t.kind = .trace m mask → (s.toW.team t.team).st = .resident → m.task = false →
    t.rays.find? (fun e => e.1 = lane) = some (lane, ray, pay) →
    ∀ x rec_ fl, s.toW.castRay o t m mask ray pay = (x, rec_, fl) → x.bad = none →
      let t1 := { t with rays := t.rays.filter fun e => e.1 ≠ lane }
      ∃ u, exec (.rayResult id lane) s = .next u ∧
        (∃ o1, aget u.chip.eng.ops id = some o1 ∧ o1.kind = .tx t1 ∧ o1.flags = o.flags ||| fl ∧
          (t1.rays = [] → t.tasks = [] → o1.done = true)) ∧
        ∀ n p, (n, p) ∈ s.chip.thr.pends → p.op = id → ∃ p1, (n, p1) ∈ u.chip.thr.pends ∧
          p1.vval = p.vval ++ (rec_.zip p.vdst).map fun x => ((lane, x.2), x.1))

/-- Requests between packages (R403, R404, R405, R409, R410, R411). What another package sends is an
input, log entry 44. -/
def Obligations.RemoteRequests : Prop :=
  (∀ req s, s.toW.pkgValid = true → req.dst = s.toW.pkg → req.toks = [] →
    (req.src = s.toW.pkg ∨ req.port < 18) → (∀ e ∈ s.chip.mc.stks, e.2.closed = false) →
    (∀ h ∈ s.toW.weir req.port, req.op = .store → sameLine h.req req = false) →
    let rep := fun (ok nr : Bool) (c : Nat) (bs : List Byte) =>
      ({ id := req.id, ok := ok, nonres := nr, cause := c, data := bs } : RemRep)
    (s.toW.peer req.job = none → does (.remoteRequestArrival req) s fun w =>
      w.reply req (rep false false Cause.fabricProtection [])) ∧
    (∀ a w bs, s.toW.peer req.job = some a → req.op = .load →
      s.toW.read3 a req.va req.len true = (w, .ok bs) →
      exec (.remoteRequestArrival req) s = .next ((w.reply req (rep true false 0 bs)).toState s)) ∧
    (∀ a w, s.toW.peer req.job = some a → req.op = .store →
      s.toW.write3va a req.va req.data true = (w, .ok ()) →
      exec (.remoteRequestArrival req) s = .next ((w.reply req (rep true false 0 [])).toState s)) ∧
    (∀ a w c v, s.toW.peer req.job = some a → req.op = .store →
      s.toW.write3va a req.va req.data true = (w, .bad c v) →
      exec (.remoteRequestArrival req) s = .next ((w.reply req (rep false false
        (if c = Cause.memPoison ∨ c = Cause.memUncorrectable then Cause.remotePoison else c)
          [])).toState s)) ∧
    (∀ a w v old new, s.toW.peer req.job = some a → req.op ≠ .store → req.op ≠ .load →
      s.toW.read3 a req.va req.len true = (w, .ok old) → remAtom req.op req.data req.swp old = some new →
      w.write3va a req.va new true = (v, .ok ()) →
      exec (.remoteRequestArrival req) s = .next ((v.reply req (rep true false 0 old)).toState s)) ∧
    (∀ a w v old, s.toW.peer req.job = some a → req.op ≠ .store → req.op ≠ .load →
      s.toW.read3 a req.va req.len true = (w, .ok old) → remAtom req.op req.data req.swp old = none →
      w.check3 a req.va req.len true = (v, .ok ()) →
      exec (.remoteRequestArrival req) s = .next ((v.reply req (rep true false 0 old)).toState s))) ∧
  (∀ req s, (s.toW.pkgValid = false ∨ req.dst ≠ s.toW.pkg ∨ req.src ≠ s.toW.pkg ∧ 18 ≤ req.port) →
    stays (.remoteRequestArrival req) s) ∧
  (∀ rep o s, aget s.chip.fab.outs rep.id = some o →
    does (.remoteReply rep) s fun w => w.remEnd rep.id o rep.ok rep.nonres rep.cause rep.data) ∧
  (∀ rep s, aget s.chip.fab.outs rep.id = none → stays (.remoteReply rep) s) ∧
  (∀ id o t s, aget s.chip.fab.outs id = some o → o.sent = some t →
    (t + s.toW.tmoAc ≤ s.chip.mdl.ac → does (.replyTimeout id) s fun w =>
      w.remEnd id o false false Cause.fabricUnreachable []) ∧
    (s.chip.mdl.ac < t + s.toW.tmoAc → stays (.replyTimeout id) s)) ∧
  (∀ d q e s, aget s.chip.fab.toks (d, q) = some e → e.st = .outstanding →
    (e.at_ + s.toW.expAc ≤ s.chip.mdl.ac → ∃ t, exec (.tokenExpiry d q) s = .next t ∧
      ∃ x, aget t.chip.fab.toks (d, q) = some x ∧ x.st = .failed ∧ x.asid = e.asid) ∧
    (s.chip.mdl.ac < e.at_ + s.toW.expAc → stays (.tokenExpiry d q) s)) ∧
  (∀ src tok s, (∀ p l, (p, l) ∈ s.chip.fab.weir → ∀ h ∈ l, ¬ (h.req.src = src ∧ tok ∈ h.toks)) →
    does (.landingNotice src tok) s (fun w => { w with
      c.fab.early := w.c.fab.early ++ [(0, src, tok, false, w.ac)] }) ∧
    does (.failureNotice src tok) s (fun w => { w with
      c.fab.early := w.c.fab.early ++ [(0, src, tok, true, w.ac)] })) ∧
  (∀ src tok p h s, s.chip.fab.weir = [(p, [h])] → h.req.src = src → h.toks = [tok] →
    does (.landingNotice src tok) s (fun w =>
      ({ w with c.fab.weir := [(p, [])] } : W).remPerform h.req) ∧
    does (.failureNotice src tok) s (fun w => w.weirDrop p h)) ∧
  (∀ port n h s, s.chip.fab.early = [] → (s.toW.weir port)[n]? = some h →
    (h.toks = [] ∨ s.chip.mdl.ac < h.at_ + s.toW.expAc) → stays (.holdExpiry port n) s) ∧
  (∀ port h s, s.chip.fab.early = [] → s.toW.weir port = [h] → h.toks ≠ [] →
    h.at_ + s.toW.expAc ≤ s.chip.mdl.ac → does (.holdExpiry port 0) s fun w => w.weirDrop port h) ∧
  (∀ port s, (∀ e ∈ s.chip.fab.outs, e.2.sent ≠ none) →
    does (.flitResend port) s fun w => { w with
      c.fab.inbox := w.c.fab.inbox ++ (aget w.c.fab.resend port).getD []
      c.fab.resend := adel w.c.fab.resend port })

/-- Proxy rings and collectives between packages (R414, R415, R416, R418, R419, R420). See log entry
24. -/
def Obligations.ProxiesAndCollectives : Prop :=
  (∀ buf f x rest s, aget s.chip.fab.bufs buf = some f → f.items = x :: rest →
    let popped := { f with items := rest, refusedAt := none }
    (f.pkg ≠ s.toW.pkg → s.toW.pkgValid = true →
      does (.forwardingBufferSend buf) s fun w => (w.setBuf buf popped).bufOut f x) ∧
    (f.pkg ≠ s.toW.pkg → s.toW.pkgValid = false → stays (.forwardingBufferSend buf) s) ∧
    (f.pkg = s.toW.pkg →
      (x = .close → does (.forwardingBufferSend buf) s fun w => (w.setBuf buf popped).setBlk .pxqCtl f.n
        ((w.blk .pxqCtl f.n) ||| 8)) ∧
      (∀ v w, x = .elem v → s.toW.pxAppend f.n f.job [v] = (w, .taken) →
        exec (.forwardingBufferSend buf) s = .next ((w.setBuf buf popped).toState s)) ∧
      (∀ v w, x = .elem v → s.toW.pxAppend f.n f.job [v] = (w, .refused) →
        exec (.forwardingBufferSend buf) s = .next ((w.setBuf buf { f with
          refusedAt := some (f.refusedAt.getD s.chip.mdl.ac) }).toState s)))) ∧
  (∀ n src job x w s, s.toW.pxAppend n job [x] = (w, .taken) →
    exec (.proxyElementArrival n src job x) s = .next (w.toState s)) ∧
  (∀ n src job x w s, s.toW.pxAppend n job [x] = (w, .refused) →
    exec (.proxyElementArrival n src job x) s = .next
      ({ w with c.fab.outbox := w.c.fab.outbox ++ [Out.refused src n] }.toState s)) ∧
  (∀ n job xs (s : State), let c := s.toW.blk .pxqCtl n
    (c.getLsbD 0 = false ∨ c.getLsbD 3 = true →
      s.toW.pxAppend n job xs = (s.toW, .drop Cause.queueOverrun)) ∧
    (c.getLsbD 0 = true → c.getLsbD 3 = false →
      2 ^ (s.toW.pxRing n).2.1 < s.toW.pxCount n + xs.length →
      (aget s.chip.sys.ctxs (s.toW.pxRing n).2.2).isSome = true →
      s.toW.podEn (s.toW.pxRing n).2.2 = true → s.toW.podJob (s.toW.pxRing n).2.2 = job →
      s.toW.pxAppend n job xs = (s.toW, .refused))) ∧
  (∀ buf f t s, aget s.chip.fab.bufs buf = some f → f.refusedAt = some t →
    f.pkg ≠ s.toW.pkg →
    (s.chip.mdl.ac < t + s.toW.expAc → stays (.proxyRefuseExpiry buf) s) ∧
    (t + s.toW.expAc ≤ s.chip.mdl.ac → does (.proxyRefuseExpiry buf) s fun w =>
      let w := f.items.foldl (fun w x => match x with
        | .run op => w.runEnd op (some Cause.proxyQueueOverflow)
        | _ => w) w
      (w.setBuf buf { f with items := [], refusedAt := none }).bufErr buf f Cause.proxyQueueOverflow)) ∧
  (∀ n s, does (.closeMarkArrival n) s fun w => w.setBlk .pxqCtl n (w.blk .pxqCtl n ||| 8)) ∧
  (∀ c parts k own s, s.toW.colls c = [k] → k.elems = some own →
    let rest := (List.range k.p).filter fun r => r ≠ k.rank
    let part := fun r => parts.find? fun p => decide (p.rank = r)
    let agrees := fun (p : CollPart) => p.op = k.m.op ∧ p.comb = k.m.comb ∧ p.fmt.toNat = k.fmt % 256 ∧
      p.n = tdSize k.desc 0 ∧ p.root = k.root
    ((∃ r ∈ rest, part r = none) → stays (.collComplete c parts) s) ∧
    ((∀ r ∈ rest, ∃ p, part r = some p) →
      (∃ r ∈ rest, ∃ p, part r = some p ∧ p.failed = false ∧ ¬ agrees p) →
      does (.collComplete c parts) s fun w => w.collEnd c k 0 (some (Cause.collectiveMismatch, 0))) ∧
    ((∀ r ∈ rest, ∃ p, part r = some p ∧ p.failed = false ∧ agrees p) →
      ∀ xs fl w, k.result (fun r => if r = k.rank then own else ((part r).map fun p => p.elems).getD []) =
        (xs, fl) → (∃ z, s.toW.collWrite k xs = (w, .ok z)) → w.colls c = [k] →
        exec (.collComplete c parts) s = .next ((w.collEnd c k fl none).toState s))) ∧
  (∀ c k s, s.toW.colls c = [k] →
    (s.chip.mdl.ac < k.at_ + s.toW.tmoAc → (∀ p ∈ k.members, s.toW.reaches p = true) →
      stays (.collJoinTimeout c) s) ∧
    ((k.at_ + s.toW.tmoAc ≤ s.chip.mdl.ac ∨ ∃ p ∈ k.members, s.toW.reaches p = false) →
      (s.toW.collSpoil k).colls c = [k] → does (.collJoinTimeout c) s fun w =>
        (w.collSpoil k).collEnd c k 0 (some (Cause.fabricUnreachable, 0))))

/-- 04 R97, R98, 19 R461. -/
def Sys2Proof.Claim.HostWindowsPart : Prop :=
  (∀ port qp s, port < 4 → port ∉ s.chip.mc.down →
    ((aget s.chip.slu.qps (port, qp)).isSome = true ∨
      (s.chip.slu.qps.filter fun e => decide (e.1.1 = port)).length < 1024) →
    does (.queuePairCreate port qp) s fun w => { w with
      c.slu.qps := aset w.c.slu.qps (port, qp) .ready }) ∧
  (∀ port qp s, does (.queuePairDestroy port qp) s fun w => { w with
    c.slu.qps := adel w.c.slu.qps (port, qp) }) ∧
  (∀ port qp s, does (.rdmaInvalid port qp) s fun w => { w.qpFail port qp with
    c.fab.outbox := w.c.fab.outbox ++ [.rdmaNakInv port qp] }) ∧
  (∀ port qp rkey addr data len c x s, s.toW.qpReady port qp = false →
    stays (.rdmaWrite port qp rkey addr data) s ∧ stays (.rdmaRead port qp rkey addr len) s ∧
    stays (.rdmaCas port qp rkey addr c x) s ∧ stays (.rdmaFaa port qp rkey addr x) s) ∧
  (∀ port qp rkey addr s, s.toW.qpReady port qp = true → rkey ≠ 1 →
    let nak := fun (op : Bool) (w : W) => (w.qpFail port qp).tell (.rdmaNak port qp op)
    (∀ data, (∀ h, s.toW.hwin port rkey addr data.length = some h → h.wr = false) →
      does (.rdmaWrite port qp rkey addr data) s (nak false)) ∧
    (∀ data h w, s.toW.hwin port rkey addr data.length = some h → h.wr = true →
      s.toW.hwinWrite h addr data = (w, .ok ()) →
      exec (.rdmaWrite port qp rkey addr data) s = .next ((w.tell (.rdmaAck port qp [])).toState s)) ∧
    (∀ len h w bs, s.toW.hwin port rkey addr len = some h → h.rd = true →
      s.toW.hwinRead h addr len = (w, .ok bs) →
      exec (.rdmaRead port qp rkey addr len) s = .next ((w.tell (.rdmaAck port qp bs)).toState s)) ∧
    (∀ len h w c v, s.toW.hwin port rkey addr len = some h → h.rd = true →
      s.toW.hwinRead h addr len = (w, .bad c v) →
      exec (.rdmaRead port qp rkey addr len) s = .next ((nak
        (decide (c = Cause.memPoison) || decide (c = Cause.memUncorrectable) ||
          decide (c = Cause.cxlTierError)) w).toState s)) ∧
    (∀ c x, s.toW.hwin port rkey addr 8 = none →
      does (.rdmaCas port qp rkey addr c x) s (nak false) ∧
      does (.rdmaFaa port qp rkey addr x) s (nak false)) ∧
    (∀ h v y c x, s.toW.hwin port rkey addr 8 = some h → h.at_ = true → addr % 8 = 0 →
      s.toW.hwinMay h addr 8 = (v, y) → y ≠ .ok () →
      exec (.rdmaCas port qp rkey addr c x) s = .next ((nak false v).toState s) ∧
      exec (.rdmaFaa port qp rkey addr x) s = .next ((nak false v).toState s)) ∧
    (∀ h u w bs c x, s.toW.hwin port rkey addr 8 = some h → h.at_ = true → addr % 8 = 0 →
      s.toW.hwinMay h addr 8 = (u, .ok ()) → u.hwinRead h addr 8 = (w, .ok bs) →
      let old := BitVec.ofNat 64 (leNat bs)
      (old ≠ c → exec (.rdmaCas port qp rkey addr c x) s = .next
        ((w.tell (.rdmaAck port qp bs)).toState s)) ∧
      (∀ v, old = c → w.hwinWrite h addr (leBytes 8 x.toNat) = (v, .ok ()) →
        exec (.rdmaCas port qp rkey addr c x) s = .next
          ((v.eventsMoved.tell (.rdmaAck port qp bs)).toState s)) ∧
      (∀ v, w.hwinWrite h addr (leBytes 8
          (if h.evt then evAdd old x else old + x).toNat) = (v, .ok ()) →
        exec (.rdmaFaa port qp rkey addr x) s = .next
          ((v.eventsMoved.tell (.rdmaAck port qp bs)).toState s)))) ∧
  (∀ port qp addr data s, s.toW.qpReady port qp = true →
    (s.boot.status ≠ 1 → s.boot.status ≠ 2 → Memory.wf s.boot.staging = true → addr + data.length ≤ 0x2000000 →
      ∃ t, exec (.rdmaWrite port qp 1 addr data) s = .next t ∧
        t.chip.fab.outbox = s.chip.fab.outbox ++ [.rdmaAck port qp []] ∧ t.mem = s.mem ∧
        (∀ k < data.length, Memory.get t.boot.staging (addr + k) = data.getD k 0) ∧
        ∀ a, (a < addr ∨ addr + data.length ≤ a) →
          Memory.get t.boot.staging a = Memory.get s.boot.staging a) ∧
    (s.boot.status = 1 ∨ s.boot.status = 2 →
      does (.rdmaWrite port qp 1 addr data) s fun w =>
        (w.qpFail port qp).tell (.rdmaNak port qp false))) ∧
  (∀ n reg x s, (reg = 0 ∨ reg = 1) → n < 256 → (s.toW.blk .hwinCtl n).getLsbD 0 = false →
    does (.hostWindowWrite n reg x) s fun w =>
      if reg = 0 then w.setBlk .hwinBase n (x &&& fieldMask 55 12)
      else w.setBlk .hwinLen n (x &&& fieldMask 39 0)) ∧
  (∀ n x s, n < 256 → x.getLsbD 0 = false → does (.hostWindowWrite n 2 x) s fun w =>
    w.setBlk .hwinCtl n (x &&& (fieldMask 63 12 ||| fieldMask 5 0))) ∧
  (∀ n reg x s, n < 256 → (s.toW.blk .hwinCtl n).getLsbD 0 = true → (reg = 2 → x.getLsbD 0 = true) →
    stays (.hostWindowWrite n reg x) s)

/-- 16 R400, 17 R402, R408, 18 R431, R432, R436, 19 R453, R455, R456: the writes that arrive as steps. -/
def Sys2Proof.Claim.RegisterEventsPart : Prop :=
  (∀ a x s, (aget s.chip.sys.ctxs a).isSome = true →
    exec (.srLeatsizeWrite a x) s =
      (match s.toW.wrLeatsize a x with
       | .ok w => .next (w.toState s)
       | .error _ => .next s) ∧
    exec (.srWlrangeWrite a x) s =
      (match s.toW.wrWlrange a x with
       | .ok w => .next (w.toState s)
       | .error _ => .next s) ∧
    does (.srHintdropClear a) s fun w => w.setSrReg a .hintdrop 0) ∧
  (∀ a x s, aget s.chip.sys.ctxs a = none →
    stays (.srLeatsizeWrite a x) s ∧ stays (.srWlrangeWrite a x) s ∧ stays (.srHintdropClear a) s ∧
    (fld x 48 16 = a → stays (.fantailCredit x) s)) ∧
  (∀ gid x s, (aget s.chip.thr.groups gid).isSome = true →
    does (.srFpflagsWrite gid x) s fun w => w.wrFpflags gid x) ∧
  (∀ gid x s, aget s.chip.thr.groups gid = none → stays (.srFpflagsWrite gid x) s) ∧
  (∀ r s, does (.faultRingLostClear r) s fun w =>
    w.setRingBase r (w.ringBase r &&& ~~~ fieldMask 11 4)) ∧
  (∀ s, does .tenterDropClear s fun w =>
    w.setBlk .tenterCtl 0 (w.blk .tenterCtl 0 &&& ~~~ fieldMask 47 32)) ∧
  (∀ a s, ∃ w : W, exec (.fabricTkclr a) s = .next (w.toState s) ∧ (w.toState s).mem = s.mem ∧
    ∀ e, e ∈ w.c.fab.toks ↔ e ∈ s.chip.fab.toks ∧ ¬ (e.2.asid = a ∧ e.2.st = .failed)) ∧
  (∀ a x s, (aget s.chip.sys.ctxs a).isSome = true → fld x 48 16 = a → fld x 40 8 = 0 → ∃ w : W,
    exec (.fantailCredit x) s = .next (w.toState s) ∧ (w.toState s).mem = s.mem ∧
    w.c.sys = (s.toW.modCtx a fun y => { y with
      account := min (y.account + fld x 0 40) (2 ^ 40 - 1), dry := false }).c.sys ∧
    (∀ e ∈ w.c.slu.queues, e.2.starved = false) ∧ (∀ e ∈ w.c.slu.grids, e.2.starved = false)) ∧
  (∀ x s, fld x 40 8 ≠ 0 → stays (.fantailCredit x) s) ∧
  (∀ n s, does (.monitorClear n) s fun w => { w with c.mc.mons := adel w.c.mc.mons n }) ∧
  (∀ n v s, (s.toW.blk .monCtl n).getLsbD 0 = false → stays (.monitorSample n v) s ∧ stays (.monitorCapture n) s) ∧
  (∀ n (v : Int) s, let c := s.toW.blk .monCtl n
    let m := (aget s.chip.mc.mons n).getD {}
    let lo := ((BitVec.ofNat 32 (fld c 15 32)).toInt : Int)
    let k := min 15 (max 0 ((v - lo) / 2 ^ fld c 47 5)).toNat
    c.getLsbD 0 = true → fld c 58 6 ≠ 3 ∨ v ≤ 45000 → ∃ x : Monitor,
    (does (.monitorSample n v) s fun w => { w with c.mc.mons := aset w.c.mc.mons n x }) ∧
    x.count = m.count + 1 ∧ x.bins.length = 16 ∧
    (∀ i, i < 16 → x.bins.getD i 0 = m.bins.getD i 0 + if i = k then 1 else 0) ∧
    (m.count = 0 → x.mn = v ∧ x.mx = v) ∧
    (m.count ≠ 0 → x.mn = min m.mn v ∧ x.mx = max m.mx v)) ∧
  (∀ n (v : Int) s, let c := s.toW.blk .monCtl n
    let m := (aget s.chip.mc.mons n).getD {}
    c.getLsbD 0 = true → fld c 58 6 = 3 → 45000 < v → m.count = 0 ∨ m.mx ≤ 45000 → ∃ x : Monitor,
    does (.monitorSample n v) s fun w =>
      ({ w with c.mc.mons := aset w.c.mc.mons n x } : W).reportSys
        { cause := Cause.thermalLimit, kind := 2 }) ∧
  (∀ n s, let m := (aget s.chip.mc.mons n).getD {}
    (s.toW.blk .monCtl n).getLsbD 0 = true →
    does (.monitorCapture n) s fun w => w.put3 0 0 (fld (w.blk .monBase n) 6 46 * 64)
      (((List.range 16).flatMap fun i => leBytes 8 (m.bins.getD i 0)) ++
        leBytes 4 (m.mn % 2 ^ 32).toNat ++ leBytes 4 (m.mx % 2 ^ 32).toNat ++ leBytes 8 m.count ++
        List.replicate 112 0))

/-- The host's requests and the register writes that arrive as steps (R97, R98, R400, R402, R408,
R431, R432, R453, R455, R456). Replies beyond the windows follow RoCE as log entry 38 presumes. -/
def Obligations.OutsideWrites : Prop :=
  HostWindowsPart ∧
  RegisterEventsPart

/-- Command queues and the life of grids (R94, R95, R99, R100, R101, R102, R103, R104, R105, R106,
R486). Readings of waits and of SER are log entry 33. -/
def Obligations.QueuesAndGrids : Prop :=
  (∀ q w e s, queueRuns s q w e →
    exec (.tailNotice q) s = .next ((w.setQueue q { w.queue q with tail := qTail e }).toState s) ∧
    ((w.queue q).tail ≤ qHead e → exec (.launchRecordCopy q) s = .next (w.toState s)) ∧
    (∀ v r, qHead e < (w.queue q).tail → (aget w.c.sys.ctxs (qAsid e)).isSome = true →
      let va := qRing e + 256 * (qHead e % 2 ^ qLog e)
      va + 256 ≤ 2 ^ 56 → w.read3 (qAsid e) va 256 false = (v, .ok r) →
      exec (.launchRecordCopy q) s = .next (((v.setQueue q { w.queue q with
        recs := (w.queue q).recs ++ [r] }).qPut q 16 (leBytes 8 (qHead e + 1))).toState s)) ∧
    (qHead e < (w.queue q).tail → aget w.c.sys.ctxs (qAsid e) = none →
      exec (.launchRecordCopy q) s = .next ((w.qStop q e 3).toState s))) ∧
  (∀ q w e c s, q < 1024 → s.toW.phys 0 (s.toW.qAt q) 64 = (w, .ok e) → qRuns e = true →
    qBad (w.queue q).tail e = some c →
    exec (.tailNotice q) s = .next ((w.qStop q e c).toState s) ∧
    exec (.launchRecordCopy q) s = .next ((w.qStop q e c).toState s)) ∧
  (∀ q r w x s, headRec s q r → (s.toW.queue q).checked = none →
    s.toW.recCheck (qAsid (s.toW.qEntry q)) r = (w, x) →
    (∀ h, x = .ok h → exec (.launchRecordCheck q) s = .next
      ((w.setQueue q { w.queue q with checked := some h }).toState s)) ∧
    (x = .hold → exec (.launchRecordCheck q) s = .next (w.toState s)) ∧
    (x = .invalid → exec (.launchRecordCheck q) s = .next
      ((w.refuseHead q [] Cause.launchInvalid).toState s))) ∧
  (∀ n w x s, childRec s n → (s.toW.grid n).hnd = [] →
    s.toW.recCheck (s.toW.grid n).asid (s.toW.grid n).lrec = (w, x) →
    (∀ h, x = .ok h → exec (.launchRecordCheck (2048 + n)) s = .next
      ((w.modGrid n fun g => { g with hnd := h }).toState s)) ∧
    (x = .invalid → exec (.launchRecordCheck (2048 + n)) s = .next
      ((refused w n Cause.launchInvalid).toState s))) ∧
  (∀ q r h w x seen s, headRec s q r → (s.toW.queue q).checked = some h →
    (s.toW.queue q).met = false →
    let s1 : W := { s.toW with c.slu.retest := s.chip.slu.retest.filter fun y => decide (y ≠ q) }
    s1.waitState (qAsid (s.toW.qEntry q)) r (s.toW.queue q).seen = (w, x, seen) →
    (x = .met → exec (.waitTest q) s = .next
      ((w.setQueue q { w.queue q with seen := seen, met := true }).toState s)) ∧
    (x = .unmet → exec (.waitTest q) s = .next
      ((w.setQueue q { w.queue q with seen := seen, met := false }).toState s)) ∧
    (x = .failed → exec (.waitTest q) s = .next ((w.refuseHead q h Cause.dependenceFailed).toState s))) ∧
  (∀ id s, s.toW.startReady id = true → s.toW.energyOk id = false →
    does (.gridStart id) s (fun w => w.starve id)) ∧
  (∀ id s, s.toW.startReady id = false → stays (.gridStart id) s) ∧
  (∀ n s, s.toW.startReady (2048 + n) = true → s.toW.energyOk (2048 + n) = true →
    s.toW.nextStart = some (2048 + n) → does (.gridStart (2048 + n)) s fun w => w.launchGrid n) ∧
  (∀ q r rest h s, q < 1024 → s.toW.startReady q = true → s.toW.energyOk q = true →
    s.toW.nextStart = some q → (s.toW.queue q).recs = r :: rest → (s.toW.queue q).checked = some h →
    let e := s.toW.qEntry q
    does (.gridStart q) s fun w =>
      let n := w.newGridNo
      let w := w.setGrid n { asid := qAsid e, lrec := r, hnd := h, prio := qPrio e, queue := some q,
                              started := false }
      let w := (w.setQueue q { w.queue q with
        recs := rest, checked := none, seen := [], met := false, starved := false, last := some n }).launchGrid n
      { w with c.slu.lastQueue := aset w.c.slu.lastQueue (qPrio e) q }) ∧
  (∀ p q (s : State), s.toW.nextStart = some p → s.toW.startReady q = true → s.toW.energyOk q = true →
    p < 1024 → q < 1024 → (aget s.chip.slu.queues q).isSome = true →
    qPrio (s.toW.qEntry q) ≤ qPrio (s.toW.qEntry p) ∧
      (qPrio (s.toW.qEntry q) = qPrio (s.toW.qEntry p) → s.toW.turnOf p ≤ s.toW.turnOf q)) ∧
  (∀ n s, s.toW.gridOver n = false → stays (.gridRetirement n) s) ∧
  (∀ n s, s.toW.gridOver n = true → recDone (s.toW.grid n).lrec = 0 → recSigs (s.toW.grid n).lrec = [] →
    let gr := s.toW.grid n
    (aget s.chip.sys.ctxs gr.asid).isSome = true →
    does (.gridRetirement n) s fun w =>
      let w := w.modCtx gr.asid fun x => { x with
        account := min (x.account + (gr.resv - gr.used)) (2 ^ 40 - 1) }
      let w := { w with c.slu.children := w.c.slu.children.map fun (c : Child) =>
        if c.grid = n && c.status.isNone then { c with status := some gr.status } else c }
      (w.dropGrid n).settleKids) ∧
  (∀ n v w s, s.toW.gridOver n = true → recDone (s.toW.grid n).lrec ≠ 0 →
    recDone (s.toW.grid n).lrec % 32 = 0 → recDone (s.toW.grid n).lrec + 32 ≤ 2 ^ 56 →
    (s.toW.grid n).wrote = 0 →
    s.toW.check3 (s.toW.grid n).asid (recDone (s.toW.grid n).lrec) 32 false = (w, .nonres v) →
    exec (.gridRetirement n) s = .next ((w.sluiceRequest (s.toW.grid n).asid v).toState s)) ∧
  (∀ (gr : Grid) (w v : W), recDone gr.lrec ≠ 0 → recDone gr.lrec % 32 = 0 → recDone gr.lrec + 32 ≤ 2 ^ 56 →
    w.write3va gr.asid (recDone gr.lrec) (completion w gr) false = (v, .ok ()) → w.complete gr 0 = v) ∧
  (∀ (gr : Grid) (w v : W) e old, recDone gr.lrec ≠ 0 → (recSigs gr.lrec)[0]? = some e → e.1 % 8 = 0 →
    e.1 + 8 ≤ 2 ^ 56 →
    w.evAdd3 gr.asid e.1 (BitVec.ofNat 64 e.2 |||
      if gr.fail.isSome then BitVec.ofNat 64 (2 ^ 63) else 0) = (v, .ok old) → w.complete gr 1 = v)

/-- 04 R107, R108, 05 R115–R120, R130, R131, R137. -/
def Sys2Proof.Claim.TriggersAndTeamsPart : Prop :=
  (∀ n s, (64 ≤ n ∨ s.toW.trgArm n = false ∨ s.toW.trig n ≠ none ∨
      s.toW.ptpNow + 50000 < s.toW.trgT n) → stays (.triggerRecordCopy n) s) ∧
  (∀ n w v r h s, n < 64 → s.toW.trgArm n = true → s.toW.trig n = none →
    s.toW.trgT n ≤ s.toW.ptpNow + 50000 →
    let a := qAsid (s.toW.qEntry (s.toW.trgQueue n))
    (aget s.chip.sys.ctxs a).isSome = true →
    s.toW.read3 a ((s.toW.blk .trgrec n).toNat / 256 % 2 ^ 48 * 256) 256 false = (w, .ok r) →
    w.recCheck a r = (v, .ok h) →
    exec (.triggerRecordCopy n) s = .next
      ((v.setTrig n { lrec := r, hnd := h, late := v.trgT n < v.ptpNow }).toState s)) ∧
  (∀ n x s, s.toW.trig n = some x →
    (s.toW.trgArm n = false ∨ s.chip.fab.ptp.lock = false ∨ s.toW.ptpNow < s.toW.trgT n) →
    stays (.triggerFire n) s) ∧
  (∀ n x s, s.toW.trig n = some x → s.toW.trgArm n = true → s.chip.fab.ptp.lock = true →
    s.toW.trgT n ≤ s.toW.ptpNow →
    let e := s.toW.qEntry (s.toW.trgQueue n)
    let a := qAsid e
    let g := s.toW.newGridNo
    let w := (s.toW.setGrid g { asid := a, lrec := x.lrec, hnd := x.hnd, prio := qPrio e
                                trig := some n, started := false }).launchGrid g
    (x.met = false → does (.triggerFire n) s fun w => w.setTrig n { x with late := true }) ∧
    (x.met = true → (s.toW.ctx a).account < s.toW.estimate x.lrec →
      does (.triggerFire n) s fun w =>
        let w := w.setTrig n { x with starved := true, late := true }
        if x.starved then w
        else w.report (.ctx a) { cause := Cause.energyExhausted, kind := 3, asid := a }) ∧
    (x.met = true → s.toW.estimate x.lrec ≤ (s.toW.ctx a).account →
      ((w.grid g).shut = true → exec (.triggerFire n) s = .next ((w.trgNext n).toState s)) ∧
      ((w.grid g).shut = false → x.late = false → s.toW.ptpNow ≤ s.toW.trgT n + 1000 →
        (w.due = some g →
          exec (.triggerFire n) s = .next ((w.placeDue.trgNext n).toState s)) ∧
        (w.due ≠ some g →
          does (.triggerFire n) s fun w => w.setTrig n { x with late := true })) ∧
      ((w.grid g).shut = false → x.late = true ∨ s.toW.trgT n + 1000 < s.toW.ptpNow →
        exec (.triggerFire n) s = .next
          (((if w.due = some g then w.placeDue else w).trgCount n 32).trgNext n |>.toState s)))) ∧
  (∀ n s, n < 64 → s.toW.trgArm n = true → s.chip.fab.ptp.lock = true → s.toW.trgPer n ≠ 0 →
    s.toW.trgT n + s.toW.trgPer n ≤ s.toW.ptpNow →
    let go := fun w : W => (w.trgCount n 48).setBlk .trgtime n
      (BitVec.ofNat 64 (s.toW.trgT n + s.toW.trgPer n))
    does (.triggerMissed n) s fun w =>
      (if ((s.toW.trig n).getD {}).lrec.isEmpty then go w
        else (go w).setTrig n { (s.toW.trig n).getD {} with late := true }).reportSys
      { cause := Cause.triggerMissed, kind := 3, asid := qAsid (s.toW.qEntry (s.toW.trgQueue n)) }) ∧
  (∀ n s, (s.toW.trgArm n = false ∨ s.toW.ptpNow < s.toW.trgT n) → stays (.triggerMissed n) s) ∧
  (∀ n u cs s, s.toW.due = some n → s.toW.nextUnit n = some u →
    (∀ w, s.toW.placeUnit n u cs = some w → exec (.teamPlacement n cs) s = .next (w.toState s)) ∧
    (s.toW.placeUnit n u cs = none → stays (.teamPlacement n cs) s)) ∧
  (∀ n u cs k m (w v : W), w.placeUnit n u cs = some v → cs.length = u.size ∧
    (w.unitClusters n u = [(k, m)] → 2 ≤ (w.grid n).cl → cs.Nodup ∧
      ∀ c ∈ cs, clusterOf c = clusterOf (cs.headD 0) ∧ (w.grid n).cl ≤ w.clusterWorks (clusterOf c))) ∧
  (∀ n cs s, s.toW.due ≠ some n → stays (.teamPlacement n cs) s) ∧
  (∀ n u w s, s.toW.due = some n → (s.toW.grid n).cores = true → s.toW.nextUnit n = some u →
    s.toW.tryUnit n u = some w → exec (.coResidentPlacement n) s = .next (w.toState s)) ∧
  (∀ n s, (s.toW.due ≠ some n ∨ (s.toW.grid n).cores = false) → stays (.coResidentPlacement n) s) ∧
  (∀ n t core s, s.toW.due = some n → s.toW.nextUnit n = some (.saved [t]) →
    (s.toW.grid n).cluster ≤ 1 → s.toW.unitWhole n (.saved [t]) = true →
    s.toW.restoreFits t core 0 = true → s.toW.fill core = none →
    does (.teamRestore t core) s fun w => w.restoreTeam t core) ∧
  (∀ n t (s : State), (s.toW.grid n).cores = true → (s.toW.team t).grid = n → (s.toW.team t).st = .stopping →
    aget s.chip.slu.teams t = some (s.toW.team t) → ∀ l, s.toW.unitWhole n (.saved l) = false) ∧
  (∀ t s, (s.toW.team t).fetchw = none → stays (.mailboxWrite t) s) ∧
  (∀ t o s, (s.toW.team t).fetchw = some o → (s.toW.team t).st = .resident →
    let gr := s.toW.grid (s.toW.team t).grid
    (∀ k, gr.nextTlin = some k → gr.dimX ≠ 0 → gr.dimY ≠ 0 →
      does (.mailboxWrite t) s fun w => ((w.spStore t o (leBytes 8 k ++ leBytes 4 (k % gr.dimX) ++
          leBytes 4 (k / gr.dimX % gr.dimY) ++ leBytes 4 (k / (gr.dimX * gr.dimY)) ++ leBytes 4 0 ++
          leBytes 36 0 ++ leBytes 4 1)).modTeam t fun x =>
            { x with fetchw := none, took := x.took ++ [k] }).modGrid (s.toW.team t).grid fun g =>
              { g with withdrawn := g.withdrawn ++ [k] }) ∧
    (gr.nextTlin = none → ∃ u, exec (.mailboxWrite t) s = .next u ∧ (u.toW.team t).fetchw = none ∧
      u.mem = s.mem ∧ (u.toW.grid (s.toW.team t).grid).withdrawn = gr.withdrawn)) ∧
  (∀ t s, (s.toW.exits t = false ∨ s.toW.teamStreams t = true) → stays (.teamExit t) s) ∧
  (∀ t s, s.toW.exits t = true → s.toW.teamStreams t = false →
    ∃ u, exec (.teamExit t) s = .next u ∧ aget u.chip.slu.teams t = none)

/-- 05 R124, 18 R431, R441–R450, 19 R453. -/
def Sys2Proof.Claim.CommandsAndKillsPart : Prop :=
  (∀ a n tlin s, noTarget s a n tlin →
    does (.killTeam a n tlin) s (fun w => answered w a n tlin Cause.kill 1) ∧
    does (.preemptTeam a n tlin) s (fun w => answered w a n tlin Cause.preemptRequest 1)) ∧
  (∀ a n s, noTarget s a n 0 → does (.killGrid a n) s fun w => answered w a n 0 Cause.kill 1) ∧
  (∀ a n tlin t m s, isTarget s a n tlin →
    s.chip.slu.teams.find? (fun e => decide (e.2.grid = n) && decide (e.2.tlin = tlin)) = some (t, m) →
    does (.killTeam a n tlin) s fun w => answered (w.slayTeam t Cause.kill) a n tlin Cause.kill 0) ∧
  (∀ a n tlin s, isTarget s a n tlin →
    s.chip.slu.teams.find? (fun e => decide (e.2.grid = n) && decide (e.2.tlin = tlin)) = none →
    let gr := s.toW.grid n
    (gr.shut = false → tlin ∉ gr.placed → tlin ∉ gr.withdrawn → tlin ∉ gr.discarded →
      does (.killTeam a n tlin) s fun w => answered (((w.failGrid n Cause.kill).modGrid n fun x =>
        { x with discarded := x.discarded ++ [tlin] }).govEnd n tlin true) a n tlin Cause.kill 0) ∧
    (gr.shut = true ∨ tlin ∈ gr.placed ∨ tlin ∈ gr.withdrawn ∨ tlin ∈ gr.discarded →
      does (.killTeam a n tlin) s fun w => answered w a n tlin Cause.kill 1)) ∧
  (∀ a n s, isTarget s a n 0 →
    does (.killGrid a n) s fun w => answered (w.slayGrid n Cause.kill) a n 0 Cause.kill 0) ∧
  (∀ a s, aget s.chip.sys.ctxs a = none →
    does (.killContext a) s fun w => answered w a 0 0 Cause.kill 1) ∧
  (∀ a s, (aget s.chip.sys.ctxs a).isSome = true →
    ∃ t, exec (.killContext a) s = .next t ∧ a ∈ t.chip.slu.killing ∧
      (∀ k e, (k, e) ∈ t.chip.cch.tlb → k.1 ≠ a) ∧
      (∀ k e, (k, e) ∈ t.chip.fab.toks → e.asid ≠ a) ∧
      ∃ x, aget t.chip.sys.ctxs a = some x ∧ x.dead = true) ∧
  (∀ a s, (a ∉ s.chip.slu.killing ∨ ∃ n gr, (n, gr) ∈ s.chip.slu.grids ∧ gr.asid = a) →
    stays (.killComplete a) s) ∧
  (∀ a s, a ∈ s.chip.slu.killing → (∀ n gr, (n, gr) ∈ s.chip.slu.grids → gr.asid ≠ a) →
    does (.killComplete a) s fun w =>
      let w := w.invalidate a fun _ _ => true
      answered { w with c.slu.killing := w.c.slu.killing.filter fun b => decide (b ≠ a) } a 0 0
        Cause.kill 0) ∧
  (∀ n s, s.toW.preempts n = none → stays (.preemptionStart n) s) ∧
  (∀ n s, ((s.toW.grid n).waitSince = none ∨
      (s.toW.blk .preempt 0).getLsbD (s.toW.grid n).prio = false ∨
      ∃ b, (s.toW.grid n).waitSince = some b ∧
        s.chip.mdl.ac < b + fld (s.toW.blk .preempt 0) 8 32 * acPerUs) → stays (.preemptionStart n) s) ∧
  (∀ n ts s, s.toW.preempts n = some ts →
    does (.preemptionStart n) s fun w => w.stopTeams ts false) ∧
  (∀ a n tlin t m s, isTarget s a n tlin →
    s.chip.slu.teams.find? (fun e => decide (e.2.grid = n) && decide (e.2.tlin = tlin)) = some (t, m) →
    (m.st = .resident → (s.toW.takenWith t).length ≤ s.toW.blocksFree a →
      does (.preemptTeam a n tlin) s fun w => w.stopTeams (w.takenWith t) true) ∧
    (m.st ≠ .resident ∨ s.toW.blocksFree a < (s.toW.takenWith t).length →
      does (.preemptTeam a n tlin) s fun w => answered w a n tlin Cause.preemptRequest 1)) ∧
  (∀ t s, (s.toW.team t).st ≠ .stopping → stays (.teamSave t) s) ∧
  (∀ t w v s, (s.toW.team t).st = .stopping → s.toW.exits t = false →
    (∀ f x k, (f, x) ∈ s.chip.thr.frags → (s.toW.group x.gid).team = t → x.place ≠ .ctx k) →
    s.toW.moveRecords t = (w, true) →
    w.blockSound (s.toW.team t).asid ((s.toW.team t).block.getD 0) .write = (v, true) →
    (v.putTasks { s.toW.team t with
      sTasks := (v.core (s.toW.team t).core).tasks.filter fun y => decide (y.team = t) }).2 = true →
    ∃ u, exec (.teamSave t) s = .next u ∧ (u.toW.team t).st = .saved ∧
      t ∈ (u.toW.grid (s.toW.team t).grid).restorable) ∧
  (∀ c s, c < 1152 → s.toW.works c = true → (0, c) ∉ s.boot.excluded →
    ∃ t, exec (.machineCheck c) s = .next t ∧ (t.toW.core c).closed = true ∧
      t.boot.excluded = s.boot.excluded ++ [(0, c)]) ∧
  (∀ c s, s.toW.works c = false → stays (.machineCheck c) s) ∧
  (∀ ds s, (∀ e ∈ s.chip.mc.work, e.2 = 0) → s.chip.mc.metered = [] →
    does (.fantailMetering ds) s fun w => { w with
      c.mc.recent := (w.c.mc.recent.filter fun e => decide (w.ac < e.1 + 850000)) ++ [(w.ac, ds.sum)] }) ∧
  (∀ (w : W) n mj, let gr := w.grid n
    (gr.used + mj ≤ gr.resv → w.charge n mj = w.modGrid n fun g => { g with used := g.used + mj })) ∧
  (∀ a gen p s, ∃ t, exec (.contextCreation a gen p) s = .next t ∧
    aget t.chip.sys.ctxs a = some { gen := gen % 256, priv := p } ∧
    (∀ r, t.toW.srReg a r = srReset r) ∧ (∀ k, t.toW.td a k = 0) ∧
    (∀ b r, b ≠ a → t.toW.srReg b r = s.toW.srReg b r) ∧ ∀ b k, b ≠ a → t.toW.td b k = s.toW.td b k)

/-- Triggers, placement, pre-emption, commands and kills (R107, R108, R115, R116, R118, R119, R120,
R441, R442, R443, R449). Which free core a team takes is a free value, log entry 32. -/
def Obligations.TeamsTriggersKills : Prop :=
  TriggersAndTeamsPart ∧
  CommandsAndKillsPart

/-- Ratios, sparing, retirement, keys, apertures and the Bolter (R368, R369, R370, R371, R372, R377,
R378, R379, R380). Which sectors a copied bank holds is a free value, log entry 14. -/
def Obligations.MemoryControllers : Prop :=
  (∀ n r s, n < 16 → does (.ratioChange n r) s fun w =>
    w.setStack n { w.stack n with ratio := r.toNat, busy := true }) ∧
  (∀ n r s, 16 ≤ n → stays (.ratioChange n r) s) ∧
  (∀ n s, does (.ratioChangeComplete n) s fun w => w.setStack n { w.stack n with busy := false }) ∧
  (∀ n pch bank s, n < 16 → pch < 64 → bank < 32 →
    ((s.toW.stack n).state = 0 →
      does (.spareBank n pch bank) s (fun w => w.setStack n
        { w.stack n with state := 1, pch := pch, bank := bank, bound := 0 }) ∧
      does (.autoSparing n pch bank) s fun w => w.setStack n
        { w.stack n with state := 1, pch := pch, bank := bank, bound := 0 }) ∧
    ((s.toW.stack n).state ≠ 0 →
      stays (.spareBank n pch bank) s ∧ stays (.autoSparing n pch bank) s)) ∧
  (∀ n pch s, n < 16 → pch < 64 →
    ((s.toW.stack n).state = 0 → (s.toW.stack n).spc ≠ 0 →
      does (.retireChannel n pch) s fun w => w.setStack n
        { w.stack n with state := 2, pch := pch, bank := 0, bound := 0 }) ∧
    ((s.toW.stack n).state ≠ 0 ∨ (s.toW.stack n).spc = 0 → stays (.retireChannel n pch) s)) ∧
  (∀ n s, (s.toW.stack n).state = 1 →
    let x := s.toW.stack n
    let c := (aget s.boot.stks n).getD (0, 0)
    exec (.bankCopyComplete n) s = .next
      { s.act (fun w => (w.copyPoison n x.pch x.bank).setStack n
          { x with state := 0, spared := x.spared ++ [(x.pch, x.bank)] }) with
        boot := { s.boot with stks := aset s.boot.stks n (c.1 + 1, c.2) } }) ∧
  (∀ n s, (s.toW.stack n).state ≠ 1 → stays (.bankCopyComplete n) s) ∧
  (∀ n s, (s.toW.stack n).state = 2 → does (.channelSwap n) s fun w =>
    w.setStack n { w.stack n with state := 3, closed := true }) ∧
  (∀ n s, (s.toW.stack n).state ≠ 2 → stays (.channelSwap n) s) ∧
  (∀ n s, (s.toW.stack n).state = 3 →
    let x := s.toW.stack n
    let c := (aget s.boot.stks n).getD (0, 0)
    exec (.channelRetired n) s = .next
      { s.act (fun w => (w.setStack n { x with state := 0, closed := false, spc := x.spc - 1
                                               retired := x.retired ++ [x.pch] }).reportSys
          { cause := Cause.channelRetired, kind := 2 }) with
        boot := { s.boot with stks := aset s.boot.stks n (c.1, c.2 + 1) } }) ∧
  (∀ n s, (s.toW.stack n).state ≠ 3 → stays (.channelRetired n) s) ∧
  (∀ kid s, kid ≠ 0 → kid < 256 → s.chip.mc.purging = [] → aget s.chip.mc.keys kid = none →
    ∃ w : W, exec (.keyLoad kid) s = .next (w.toState s) ∧
      (∀ i, i < 8 → w.blk .keydata i = 0) ∧ (w.toState s).mem = s.mem ∧
      ∃ key : BitVec 512, aget w.c.mc.keys kid = some key ∧
        ∀ i, i < 8 → key.toNat / 2 ^ (64 * i) % 2 ^ 64 = (s.toW.blk .keydata i).toNat) ∧
  (∀ kid s, (kid = 0 ∨ 256 ≤ kid ∨ s.chip.mc.purging ≠ [] ∨ aget s.chip.mc.keys kid ≠ none) →
    stays (.keyLoad kid) s) ∧
  (∀ kid s, kid ≠ 0 → kid < 256 → s.chip.mc.purging = [] → ∃ w : W,
    exec (.keyDestroy kid) s = .next (w.toState s) ∧ w.c.mc.purging = [kid] ∧ (w.toState s).mem = s.mem ∧
    w.c.mc.keys = s.chip.mc.keys ∧ w.c.cch.l2 = s.chip.cch.l2.filter (fun e => e.2.key ≠ kid) ∧
    w.c.cch.l1 = s.chip.cch.l1.filter fun e => e.2.key ≠ kid) ∧
  (∀ kid s, (kid = 0 ∨ 256 ≤ kid ∨ s.chip.mc.purging ≠ []) → stays (.keyDestroy kid) s) ∧
  (∀ s, ∃ w : W, exec .keyPurgeComplete s = .next (w.toState s) ∧ w.c.mc.purging = [] ∧
    ∀ e, e ∈ w.c.mc.keys ↔ e ∈ s.chip.mc.keys ∧ e.1 ∉ s.chip.mc.purging) ∧
  (∀ reg r n x s, n < 64 → (reg, r) ∈ [(0, Reg.aprPa), (1, .aprSize), (2, .aprSide), (3, .aprCtl)] →
    exec (.apertureCtlWrite reg n x) s =
      (match s.toW.wrApr r n x with
       | .ok w => .next (w.toState s)
       | .error _ => .next s) ∧
    ((s.toW.blk .aprCtl n).getLsbD 0 = true → stays (.apertureCtlWrite reg n x) s)) ∧
  (∀ reg n x s, (64 ≤ n ∨ 3 < reg) → stays (.apertureCtlWrite reg n x) s) ∧
  (∀ n s, ((s.toW.blk .boltCtl n).getLsbD 0 = false ∨ fld (s.toW.blk .boltScan n) 0 8 = 0) →
    stays (.bolterPairVisit n) s) ∧
  (∀ n e w x s, let st := s.toW.stack n
    let cnt := fld (s.toW.blk .boltScan n) 0 8
    (s.toW.blk .boltCtl n).getLsbD 0 = true → cnt ≠ 0 → e = s.toW.scanEntry n (st.scan % cnt) →
    st.pair < e.nent / 2 → (aget s.chip.sys.ctxs e.asid).isSome = true → (s.toW.ctx e.asid).dead = false →
    let next := if st.pair + 1 < e.nent / 2 then { st with pair := st.pair + 1 }
      else { st with pair := 0, scan := (st.scan + 1) % cnt }
    (s.toW.setStack n next).boltPair n e st.pair = (w, x) →
    (x = .ok () ∨ x = .error .skip → exec (.bolterPairVisit n) s = .next (w.toState s)) ∧
    ∀ c v, x = .error (.bad c v) → exec (.bolterPairVisit n) s = .next
      ((w.reportSys { cause := c, kind := 2, asid := e.asid, addr := v }).toState s)) ∧
  (∀ n e s, let st := s.toW.stack n
    let cnt := fld (s.toW.blk .boltScan n) 0 8
    (s.toW.blk .boltCtl n).getLsbD 0 = true → cnt ≠ 0 → e = s.toW.scanEntry n (st.scan % cnt) →
    e.nent / 2 ≤ st.pair →
    does (.bolterPairVisit n) s fun w =>
      w.setStack n { st with pair := 0, scan := (st.scan + 1) % cnt }) ∧
  (∀ n s, s.chip.mc.recl.find? (fun r => r.stack = n) = none → stays (.bolterReclaim n) s) ∧
  (∀ n r s, s.chip.mc.recl.find? (fun r => r.stack = n) = some r →
    (r.asid, r.page) ∈ s.toW.heldPages ∨ (r.asid, r.other) ∈ s.toW.heldPages →
    stays (.bolterReclaim n) s) ∧
  (∀ n r w v u bs s, s.chip.mc.recl.find? (fun r => r.stack = n) = some r →
    (r.asid, r.page) ∉ s.toW.heldPages → (r.asid, r.other) ∉ s.toW.heldPages →
    s.toW.boltRead r.asid r.ring 16 = (w, .ok bs) →
    let hd := fieldLE bs 0 4
    let tl := fieldLE bs 4 4
    let lg := fieldLE bs 8 1
    lg ≤ 16 →
    (2 ^ lg ≤ (tl + 2 ^ 32 - hd) % 2 ^ 32 → exec (.bolterReclaim n) s = .next (w.toState s)) ∧
    ((tl + 2 ^ 32 - hd) % 2 ^ 32 < 2 ^ lg →
      w.write3va r.asid (r.ring + 16 + 8 * (tl % 2 ^ lg)) (leBytes 8 r.page) false = (v, .ok ()) →
      v.write3va r.asid (r.ring + 4) (leBytes 4 (tl + 1)) false = (u, .ok ()) →
      exec (.bolterReclaim n) s = .next
        (({ u with c.mc.recl := u.c.mc.recl.erase r } : W).toState s)))

/-- Heat, power, the lifetime record, boot, measurements and links (R440, R457, R458, R460, R461,
R462, R20, R21). The record's bytes and signatures are free values, log entry 39. -/
def Obligations.PowerAndBoot : Prop :=
  (∀ die s, die ∉ s.chip.mc.hot → does (.thermalLimit die) s fun w =>
    ({ w with c.mc.hot := w.c.mc.hot ++ [die] } : W).reportSys { cause := Cause.thermalLimit, kind := 2 }) ∧
  (∀ die s, die ∈ s.chip.mc.hot → stays (.thermalLimit die) s) ∧
  (∀ die s, ∃ w : W, exec (.thermalRecovery die) s = .next (w.toState s) ∧ (w.toState s).mem = s.mem ∧
    ∀ d, d ∈ w.c.mc.hot ↔ d ∈ s.chip.mc.hot ∧ d ≠ die) ∧
  (∀ s, ∃ t, exec .powerLoss s = .next t ∧ t.chip = State.reset.chip ∧ t.mem = State.reset.mem ∧
    t.boot = { s.boot with power := false, status := 0, staging := [], svn := 0, meas := [] }) ∧
  (∀ s, ∃ t, exec .thermalTrip s = .next t ∧ t.chip = State.reset.chip ∧
    t.mem = State.reset.mem ∧
    t.boot = { s.boot with power := false, status := 0, staging := [], svn := 0, meas := []
                           trips := s.boot.trips + 1 }) ∧
  (∀ port s, s.boot.power = true → stays (.powerOn port) s) ∧
  (∀ port s, s.boot.power = false → port < 4 → ∃ t, exec (.powerOn port) s = .next t ∧
    t.chip = { State.reset.chip with mc.up := [port] } ∧ t.mem = State.reset.mem ∧
    t.boot = { s.boot with power := true, status := 0, staging := [], svn := 0, meas := [] }) ∧
  (∀ h k s, ∃ t bs, exec (.lifetimeRecordWrite h k) s = .next t ∧
    t.chip = (((s.toW.put3 0 0 (fld (s.toW.blk .lifepa 0) 12 40 * 4096) bs).bumpFresh).toState s).chip ∧
    t.boot.hours = h ∧ t.boot.kwh = k ∧ t.boot.trips = s.boot.trips ∧ t.boot.boots = s.boot.boots ∧
    t.boot.stks = s.boot.stks ∧ t.boot.excluded = s.boot.excluded) ∧
  (∀ ex s, ¬ pushed s.boot → stays (.imagePush ex) s) ∧
  (∀ ex s, pushed s.boot → ¬ soundHeader s.boot →
    reboots (.imagePush ex) s (failedBoot s.boot 3)) ∧
  (∀ ex s, pushed s.boot → soundHeader s.boot → sha512 (s.boot.area 16 133) ≠ s.boot.keyHash →
    reboots (.imagePush ex) s (failedBoot s.boot 4)) ∧
  (∀ ex s, pushed s.boot → soundHeader s.boot → sha512 (s.boot.area 16 133) = s.boot.keyHash →
    leNat (s.boot.area 4 4) < s.boot.minSvn → reboots (.imagePush ex) s (failedBoot s.boot 5)) ∧
  (∀ ex s, pushed s.boot → soundHeader s.boot → sha512 (s.boot.area 16 133) = s.boot.keyHash →
    s.boot.minSvn ≤ leNat (s.boot.area 4 4) → ¬ signed s.boot →
    reboots (.imagePush ex) s (failedBoot s.boot 6)) ∧
  (∀ ex s, pushed s.boot → soundHeader s.boot → sha512 (s.boot.area 16 133) = s.boot.keyHash →
    s.boot.minSvn ≤ leNat (s.boot.area 4 4) → signed s.boot → ∃ t, exec (.imagePush ex) s = .next t ∧
    t.boot.status = 2 ∧ t.boot.svn = leNat (s.boot.area 4 4) ∧ t.boot.boots = s.boot.boots + 1 ∧
    t.boot.meas = [sha512 (s.boot.area 0 (512 + leNat (s.boot.area 8 8))), 0, 0, 0] ∧
    (∀ u, u ∈ t.boot.excluded ↔ u ∈ s.boot.excluded ∨ u ∈ ex) ∧
    fld t.boot.config 0 11 = ((List.range 1152).filter fun c => (0, c) ∉ t.boot.excluded).length ∧
    fld t.boot.config 51 9 = ((List.range 384).filter fun c => (1, c) ∉ t.boot.excluded).length ∧
    t.toW.blk .hwinBase 0 = 0 ∧ t.toW.blk .hwinLen 0 = BitVec.ofNat 64 (2 ^ 52) ∧
    (t.toW.blk .hwinCtl 0).getLsbD 0 = true ∧
    (Memory.wf s.boot.staging = true →
      leNat (t.boot.area (stagingBytes + 8) 4) = (t.toW.blk .hwinCtl 0).toNat / 2 ^ 32)) ∧
  (∀ n d s, s.boot.status = 2 → 0 < n → n ≤ 3 → ∃ m,
    reboots (.measurementExtend n d) s { s.boot with meas := m } ∧
    m.getD n 0 = sha512 (beBytes 64 (s.boot.meas.getD n 0).toNat ++ d) ∧
    ∀ i, i < 4 → i ≠ n → m.getD i 0 = s.boot.meas.getD i 0) ∧
  (∀ n d s, (s.boot.status ≠ 2 ∨ n = 0 ∨ 3 < n) → stays (.measurementExtend n d) s) ∧
  (∀ nonce s, nonce.length = 32 → s.boot.meas.length = 4 → ∃ x y,
    does (.attestationRequest nonce) s fun w =>
      w.tell (.attest nonce s.boot.meas s.boot.svn s.boot.config s.boot.serial x y)) ∧
  (∀ nonce s, nonce.length ≠ 32 → stays (.attestationRequest nonce) s) ∧
  (∀ info s, s.boot.status = 2 → does (.firmwareError info) s fun w =>
    w.reportSys { cause := Cause.firmwareError, kind := 2, addr := info.toNat }) ∧
  (∀ info s, s.boot.status ≠ 2 → stays (.firmwareError info) s) ∧
  (∀ p s, p ∉ s.chip.mc.up → stays (.hostLinkDown p) s) ∧
  (∀ p s, p < 4 → p ∈ s.chip.mc.up → does (.hostLinkDown p) s fun w =>
    let w := { w with
      c.mc.up := w.c.mc.up.filter fun q => q ≠ p
      c.mc.down := w.c.mc.down ++ [p]
      c.slu.qps := w.c.slu.qps.map fun (e : (Nat × Nat) × QpSt) => (e.1, if e.1.1 = p then .error else e.2) }
    let w := w.reportSys { cause := Cause.hostLinkDown, kind := 2
                           detail := p + if w.c.mc.up.isEmpty then 32768 else 0 }
    if fld (w.blk .ptpCfg 0) 2 2 = p then w.ptpUnlock else w) ∧
  (∀ p s, (4 ≤ p ∨ p ∈ s.chip.mc.up) → stays (.hostLinkRetrained p) s) ∧
  (∀ p s, p < 4 → p ∉ s.chip.mc.up → does (.hostLinkRetrained p) s fun w =>
    let v := { w with c.mc.up := w.c.mc.up ++ [p], c.mc.down := w.c.mc.down.filter fun q => q ≠ p }
    if p ∈ w.c.mc.down then v.reportSys { cause := Cause.hostLinkDown, kind := 2, detail := p + 256 }
    else v)

/-- The PTP clock follows a master, gains and loses lock (R424, R425). How far a servo step moves
the clock is a free value, log entry 30. -/
def Obligations.PtpClock : Prop :=
  (∀ x s, exec (.ptpCfgWrite x) s =
    (match s.toW.wrPtpCfg x with
     | .ok w => .next (w.toState s)
     | .error _ => .next s)) ∧
  (∀ m s, (s.toW.ptpHears m.port m.domain = false ∨ m.udp ≠ (s.toW.blk .ptpCfg 0).getLsbD 1 ∨ 255 ≤ m.steps) →
    stays (.ptpAnnounce m) s) ∧
  (∀ m s, s.toW.ptpHears m.port m.domain = true → m.udp = (s.toW.blk .ptpCfg 0).getLsbD 1 → m.steps < 255 →
    (s.chip.fab.ptp.master = none ∨ ∃ o, s.chip.fab.ptp.master = some o ∧ o.sender = m.sender) →
    does (.ptpAnnounce m) s fun w =>
      { w with c.fab.ptp := { w.c.fab.ptp with master := some m, lastAnn := w.ptpNow } }) ∧
  (∀ m o s, s.toW.ptpHears m.port m.domain = true → m.udp = (s.toW.blk .ptpCfg 0).getLsbD 1 → m.steps < 255 →
    s.chip.fab.ptp.master = some o → o.sender ≠ m.sender →
    (lexLt (ptpRank m) (ptpRank o) = false → stays (.ptpAnnounce m) s) ∧
    (lexLt (ptpRank m) (ptpRank o) = true → does (.ptpAnnounce m) s fun w =>
      { w with c.fab.ptp := { w.c.fab.ptp with
          master := some m, lastAnn := w.ptpNow, good := 0
          sync := none, t12 := none, delayReq := none, pathDelay := 0 } })) ∧
  (∀ port dom snd two seq org iv s, (¬ followed s port dom snd ∨ iv < -7 ∨ 0 < iv) →
    stays (.ptpSync port dom snd two seq org iv) s) ∧
  (∀ port dom snd seq org iv s, followed s port dom snd → -7 ≤ iv → iv ≤ 0 →
    let now := s.toW.ptpNow
    let run := if s.chip.fab.ptp.lastSync + 2 * (1000000000 / 2 ^ (-iv).toNat) ≤ now then 0
      else s.chip.fab.ptp.good
    (does (.ptpSync port dom snd true seq org iv) s fun w =>
      { w with c.fab.ptp := { w.c.fab.ptp with good := run, lastSync := now, sync := some (seq, now) } }) ∧
    (does (.ptpSync port dom snd false seq org iv) s fun w =>
      ({ w with c.fab.ptp := { w.c.fab.ptp with good := run, lastSync := now, sync := none } } : W).ptpOffset
        org now)) ∧
  (∀ port dom snd seq org t2 s, followed s port dom snd → s.chip.fab.ptp.sync = some (seq, t2) →
    does (.ptpFollowUp port dom snd seq org) s fun w =>
      ({ w with c.fab.ptp := { w.c.fab.ptp with sync := none } } : W).ptpOffset org t2) ∧
  (∀ port dom snd seq org s, (¬ followed s port dom snd ∨ ∀ t2, s.chip.fab.ptp.sync ≠ some (seq, t2)) →
    stays (.ptpFollowUp port dom snd seq org) s) ∧
  (∀ (w : W) (t1 t2 : Nat), let x := w.c.fab.ptp
    let ofs : Int := (t2 : Int) - t1 - x.pathDelay
    let v := (w.ptpOffset t1 t2).c.fab.ptp
    v.ofs = ofs ∧
    (ofs.natAbs ≤ 100 → v.good = min 8 (x.good + 1) ∧ v.lock = (x.lock || decide (7 ≤ x.good))) ∧
    (100 < ofs.natAbs → v.good = 0) ∧
    (100 < ofs.natAbs → ofs.natAbs ≤ 1000 → x.lock = true → v.lock = true) ∧
    (1000 < ofs.natAbs → v.lock = false)) ∧
  (∀ (w : W), w.ptpUnlock.c.fab.ptp.lock = false) ∧
  (∀ s, ((s.toW.blk .ptpStatus 0).getLsbD 0 = false ∨ s.chip.fab.ptp.t12 = none ∨ s.chip.fab.ptp.master = none) →
    stays .ptpDelayReq s) ∧
  (∀ s, (s.toW.blk .ptpStatus 0).getLsbD 0 = true → s.chip.fab.ptp.t12 ≠ none → s.chip.fab.ptp.master ≠ none →
    (∀ k t3, s.chip.fab.ptp.delayReq = some (k, t3) → t3 + ptpIv s.chip.fab.ptp.delayIv ≤ s.toW.ptpNow) →
    does .ptpDelayReq s fun w =>
      { w with
        c.fab.ptp := { w.c.fab.ptp with delayReq := some (w.c.fab.ptp.delaySeq, w.ptpNow)
                                        delaySeq := (w.c.fab.ptp.delaySeq + 1) % 65536 }
        c.fab.outbox := w.c.fab.outbox ++ [.delayReq w.c.fab.ptp.delaySeq] }) ∧
  (∀ k t3 s, s.chip.fab.ptp.delayReq = some (k, t3) →
    s.toW.ptpNow < t3 + ptpIv s.chip.fab.ptp.delayIv → stays .ptpDelayReq s) ∧
  (∀ port dom snd seq rcv iv t1 t2 t3 s, followed s port dom snd →
    s.chip.fab.ptp.delayReq = some (seq, t3) → s.chip.fab.ptp.t12 = some (t1, t2) →
    does (.ptpDelayResp port dom snd seq rcv iv) s fun w =>
      { w with c.fab.ptp := { w.c.fab.ptp with
          pathDelay := (((t2 : Int) - t1) + ((rcv : Int) - t3)) / 2
          delayIv := if -7 ≤ iv ∧ iv ≤ 5 then iv else 0 } }) ∧
  (∀ port dom snd seq rcv iv s, (¬ followed s port dom snd ∨ s.chip.fab.ptp.t12 = none ∨
      ∀ t3, s.chip.fab.ptp.delayReq ≠ some (seq, t3)) →
    stays (.ptpDelayResp port dom snd seq rcv iv) s) ∧
  (∀ s, s.chip.fab.ptp.lastSync + 2000000000 ≤ s.toW.ptpNow → does .ptpSyncTimeout s fun w =>
    ({ w with c.fab.ptp := { w.c.fab.ptp with good := 0 } } : W).ptpUnlock) ∧
  (∀ s, s.toW.ptpNow < s.chip.fab.ptp.lastSync + 2000000000 → stays .ptpSyncTimeout s) ∧
  (∀ m s, s.chip.fab.ptp.master = some m →
    (s.chip.fab.ptp.lastAnn + 3 * ptpIv m.logInterval ≤ s.toW.ptpNow → does .ptpAnnounceTimeout s fun w =>
      { w with c.fab.ptp := { w.c.fab.ptp with
          master := none, good := 0, sync := none, t12 := none, delayReq := none } }) ∧
    (s.toW.ptpNow < s.chip.fab.ptp.lastAnn + 3 * ptpIv m.logInterval → stays .ptpAnnounceTimeout s)) ∧
  (∀ s, s.chip.fab.ptp.master = none → stays .ptpAnnounceTimeout s)

/-- Every step and every instruction keeps the canonical form of the staged boot image (R98, R461,
R4). That an unwritten byte of the area reads 0x00 is the model's choice, log entry 1. -/
def Obligations.StagingForm : Prop :=
  Memory.wf State.reset.boot.staging = true ∧
  (∀ s t, Memory.wf s.boot.staging = true → step s = .next t →
    Memory.wf t.boot.staging = true) ∧
  (∀ i s t, Memory.wf s.boot.staging = true → exec i s = .next t →
    Memory.wf t.boot.staging = true)
end

