-- ==== Sys2Proof/Laws/Maps.lean ====
section
/-! SUPPORT. Maps and memory: a read after a write, and the canonical form of the memory, which every
operation on it keeps. -/

namespace Sys2Proof.Machine

section maps
variable {K V : Type} [DecidableEq K]

theorem aget_aset (m : AMap K V) (x y : K) (v : V) :
    aget (aset m x v) y = if x = y then some v else aget m y := by
  induction m with
  | nil => by_cases h : x = y <;> simp [aset, aget, h]
  | cons e m ih =>
    obtain ⟨k, u⟩ := e
    by_cases hx : k = x
    · subst hx
      by_cases hy : k = y <;> simp [aset, aget, hy]
    · by_cases hy : k = y
      · subst hy
        simp [aset, aget, hx, Ne.symm hx]
      · simp [aset, aget, hx, hy, ih]

@[simp] theorem aget_aset_same (m : AMap K V) (x : K) (v : V) : aget (aset m x v) x = some v := by
  simp [aget_aset]

theorem aget_aset_other {m : AMap K V} {x y : K} {v : V} (h : x ≠ y) :
    aget (aset m x v) y = aget m y := by simp [aget_aset, h]

theorem aget_adel (m : AMap K V) (x y : K) :
    aget (adel m x) y = if x = y then none else aget m y := by
  induction m with
  | nil => simp [adel, aget]
  | cons e m ih =>
    obtain ⟨k, u⟩ := e
    simp only [adel, ne_eq] at ih ⊢
    by_cases hk : k = x
    · subst hk
      by_cases hy : k = y
      · simp_all
      · simp_all [aget]
    · by_cases hy : k = y
      · subst hy
        simp [aget, hk, Ne.symm hk]
      · simp_all [aget]

end maps

/-! ## Memory -/

theorem Memory.wfFrom_le {lo lo' : Nat} (h : lo' ≤ lo) :
    ∀ {m : Memory}, Memory.wfFrom lo m = true → Memory.wfFrom lo' m = true
  | [], _ => rfl
  | (x, b) :: m, hm => by
    simp only [Memory.wfFrom, Bool.and_eq_true, decide_eq_true_eq] at hm ⊢
    exact ⟨⟨by omega, hm.1.2⟩, hm.2⟩

theorem Memory.wfFrom_put {lo a : Nat} (b : Byte) (h : lo ≤ a) :
    ∀ {m : Memory}, Memory.wfFrom lo m = true → Memory.wfFrom lo (m.put a b) = true
  | [], _ => by
    by_cases hb : b = 0#8 <;> simp [Memory.put, Memory.wfFrom, hb, h]
  | (x, y) :: m, hm => by
    simp only [Memory.wfFrom, Bool.and_eq_true, decide_eq_true_eq] at hm
    obtain ⟨⟨hx, hy⟩, hm⟩ := hm
    unfold Memory.put
    split
    · rename_i hlt
      split
      · simp only [Memory.wfFrom, Bool.and_eq_true, decide_eq_true_eq]
        exact ⟨⟨hx, hy⟩, hm⟩
      · rename_i hb
        simp only [Memory.wfFrom, Bool.and_eq_true, decide_eq_true_eq]
        exact ⟨⟨h, by simpa using hb⟩, ⟨by omega, hy⟩, hm⟩
    · split
      · rename_i heq
        subst heq
        split
        · exact Memory.wfFrom_le (lo := a + 1) (by omega) hm
        · rename_i hb
          simp only [Memory.wfFrom, Bool.and_eq_true, decide_eq_true_eq]
          exact ⟨⟨h, by simpa using hb⟩, hm⟩
      · simp only [Memory.wfFrom, Bool.and_eq_true, decide_eq_true_eq]
        exact ⟨⟨hx, hy⟩, Memory.wfFrom_put (lo := x + 1) b (by omega) hm⟩

/-- Every write keeps the canonical form. -/
theorem Memory.wf_put {m : Memory} (a : Nat) (b : Byte) (h : m.wf = true) :
    (m.put a b).wf = true := Memory.wfFrom_put b (Nat.zero_le a) h

theorem Memory.wf_commit {m : Memory} (h : m.wf = true) :
    ∀ log : List (Nat × Byte), (m.commit log).wf = true
  | [] => h
  | e :: log => by
    show ((Memory.commit m log).put e.1 e.2).wf = true
    exact Memory.wf_put _ _ (Memory.wf_commit h log)

theorem Memory.get_of_lt {lo a : Nat} (h : a < lo) :
    ∀ {m : Memory}, Memory.wfFrom lo m = true → m.get a = 0
  | [], _ => rfl
  | (x, b) :: m, hm => by
    simp only [Memory.wfFrom, Bool.and_eq_true, decide_eq_true_eq] at hm
    have hne : x ≠ a := by omega
    simp only [Memory.get, hne, if_false]
    exact Memory.get_of_lt (lo := x + 1) (by omega) hm.2

theorem Memory.get_putFrom {lo a : Nat} (b : Byte) (c : Nat) :
    ∀ {m : Memory}, Memory.wfFrom lo m = true →
      (m.put a b).get c = if a = c then b else m.get c
  | [], _ => by
    by_cases hb : b = 0#8 <;> by_cases hc : a = c <;> simp_all [Memory.put, Memory.get]
  | (x, y) :: m, hm => by
    simp only [Memory.wfFrom, Bool.and_eq_true, decide_eq_true_eq] at hm
    obtain ⟨⟨hx, hy⟩, hm⟩ := hm
    unfold Memory.put
    split
    · rename_i hlt
      split
      · rename_i hb
        by_cases hc : a = c
        · subst hc
          have h1 : x ≠ a := by omega
          rw [if_pos rfl, hb]
          simp only [Memory.get, h1, if_false]
          exact Memory.get_of_lt (lo := x + 1) (by omega) hm
        · simp [hc]
      · by_cases hc : a = c <;> simp [Memory.get, hc]
    · split
      · rename_i hn heq
        subst heq
        split
        · rename_i hb
          by_cases hc : a = c
          · subst hc
            rw [if_pos rfl, hb]
            exact Memory.get_of_lt (lo := a + 1) (by omega) hm
          · simp [Memory.get, hc]
        · by_cases hc : a = c <;> simp [Memory.get, hc]
      · rename_i hn hne
        by_cases hc : x = c
        · subst hc
          simp [Memory.get, hne]
        · simp [Memory.get, hc, Memory.get_putFrom b c hm]

/-- A read after a write. -/
theorem Memory.get_put {m : Memory} (h : m.wf = true) (a : Nat) (b : Byte) (c : Nat) :
    (m.put a b).get c = if a = c then b else m.get c := Memory.get_putFrom b c h

theorem Memory.get_commit {m : Memory} (h : m.wf = true) (c : Nat) :
    ∀ log : List (Nat × Byte), (m.commit log).get c = (aget log c).getD (m.get c)
  | [] => rfl
  | (a, b) :: log => by
    show ((Memory.commit m log).put a b).get c = _
    rw [Memory.get_put (Memory.wf_commit h log), Memory.get_commit h c log]
    by_cases hc : a = c <;> simp [aget, hc]

/-- The memory after a step reads at each address the byte that the step's own reads would find. -/
theorem W.toState_get (w : W) (s : State) (hm : w.m0 = s.mem) (h : s.mem.wf = true) (a : Nat) :
    (w.toState s).mem.get a = w.byte a := by
  show (s.mem.commit w.wq).get a = _
  rw [Memory.get_commit h, W.byte, hm]
  cases aget w.wq a <;> rfl

end Sys2Proof.Machine
end

