-- ==== Sys2Proof/Laws/State.lean ====
section
/-! SUPPORT. Each named update leaves every field and every reading it does not write (one line per
update and field, all by computation). -/

namespace Sys2Proof.Machine

variable (w : W)

@[simp] theorem State.toW_c (s : State) : s.toW.c = s.chip := rfl
@[simp] theorem State.toW_m0 (s : State) : s.toW.m0 = s.mem := rfl
@[simp] theorem State.toW_wq (s : State) : s.toW.wq = [] := rfl
@[simp] theorem State.toW_boot (s : State) : s.toW.boot = s.boot := rfl
@[simp] theorem W.toState_chip (s : State) : (w.toState s).chip = w.c := rfl
@[simp] theorem W.toState_mem (s : State) : (w.toState s).mem = Memory.commit s.mem w.wq := rfl
@[simp] theorem W.toState_boot (s : State) : (w.toState s).boot = s.boot := rfl

/-! ### setVr -/

@[simp] theorem W.setVr_sr (g l r : Nat) (x : Word) (f' r' : Nat) : (w.setVr g l r x).sr f' r' = w.sr f' r' := rfl
@[simp] theorem W.setVr_pr (g l r : Nat) (x : Word) (g' l' p' : Nat) : (w.setVr g l r x).pr g' l' p' = w.pr g' l' p' := rfl
@[simp] theorem W.setVr_lane (g l r : Nat) (x : Word) (g' l' : Nat) : (w.setVr g l r x).lane g' l' = w.lane g' l' := rfl
@[simp] theorem W.setVr_frag (g l r : Nat) (x : Word) (f' : Nat) : (w.setVr g l r x).frag f' = w.frag f' := rfl
@[simp] theorem W.setVr_group (g l r : Nat) (x : Word) (g' : Nat) : (w.setVr g l r x).group g' = w.group g' := rfl
@[simp] theorem W.setVr_core (g l r : Nat) (x : Word) (c' : Nat) : (w.setVr g l r x).core c' = w.core c' := rfl
@[simp] theorem W.setVr_team (g l r : Nat) (x : Word) (t' : Nat) : (w.setVr g l r x).team t' = w.team t' := rfl
@[simp] theorem W.setVr_grid (g l r : Nat) (x : Word) (n' : Nat) : (w.setVr g l r x).grid n' = w.grid n' := rfl
@[simp] theorem W.setVr_ctx (g l r : Nat) (x : Word) (a' : Nat) : (w.setVr g l r x).ctx a' = w.ctx a' := rfl
@[simp] theorem W.setVr_srReg (g l r : Nat) (x : Word) (a' : Nat) (q : Reg) : (w.setVr g l r x).srReg a' q = w.srReg a' q := rfl
@[simp] theorem W.setVr_blk (g l r : Nat) (x : Word) (q : Reg) (n' : Nat) : (w.setVr g l r x).blk q n' = w.blk q n' := rfl
@[simp] theorem W.setVr_m0 (g l r : Nat) (x : Word) : (w.setVr g l r x).m0 = w.m0 := rfl
@[simp] theorem W.setVr_wq (g l r : Nat) (x : Word) : (w.setVr g l r x).wq = w.wq := rfl
@[simp] theorem W.setVr_boot (g l r : Nat) (x : Word) : (w.setVr g l r x).boot = w.boot := rfl
@[simp] theorem W.setVr_c_thr_sr (g l r : Nat) (x : Word) : (w.setVr g l r x).c.thr.sr = w.c.thr.sr := rfl
@[simp] theorem W.setVr_c_thr_pr (g l r : Nat) (x : Word) : (w.setVr g l r x).c.thr.pr = w.c.thr.pr := rfl
@[simp] theorem W.setVr_c_thr_lanes (g l r : Nat) (x : Word) : (w.setVr g l r x).c.thr.lanes = w.c.thr.lanes := rfl
@[simp] theorem W.setVr_c_thr_frags (g l r : Nat) (x : Word) : (w.setVr g l r x).c.thr.frags = w.c.thr.frags := rfl
@[simp] theorem W.setVr_c_thr_groups (g l r : Nat) (x : Word) : (w.setVr g l r x).c.thr.groups = w.c.thr.groups := rfl
@[simp] theorem W.setVr_c_thr_pends (g l r : Nat) (x : Word) : (w.setVr g l r x).c.thr.pends = w.c.thr.pends := rfl
@[simp] theorem W.setVr_c_thr_binds (g l r : Nat) (x : Word) : (w.setVr g l r x).c.thr.binds = w.c.thr.binds := rfl
@[simp] theorem W.setVr_c_cores (g l r : Nat) (x : Word) : (w.setVr g l r x).c.cores = w.c.cores := rfl
@[simp] theorem W.setVr_c_cch (g l r : Nat) (x : Word) : (w.setVr g l r x).c.cch = w.c.cch := rfl
@[simp] theorem W.setVr_c_spd (g l r : Nat) (x : Word) : (w.setVr g l r x).c.spd = w.c.spd := rfl
@[simp] theorem W.setVr_c_eng (g l r : Nat) (x : Word) : (w.setVr g l r x).c.eng = w.c.eng := rfl
@[simp] theorem W.setVr_c_slu_teams (g l r : Nat) (x : Word) : (w.setVr g l r x).c.slu.teams = w.c.slu.teams := rfl
@[simp] theorem W.setVr_c_slu_grids (g l r : Nat) (x : Word) : (w.setVr g l r x).c.slu.grids = w.c.slu.grids := rfl
@[simp] theorem W.setVr_c_syn (g l r : Nat) (x : Word) : (w.setVr g l r x).c.syn = w.c.syn := rfl
@[simp] theorem W.setVr_c_fab (g l r : Nat) (x : Word) : (w.setVr g l r x).c.fab = w.c.fab := rfl
@[simp] theorem W.setVr_c_mc (g l r : Nat) (x : Word) : (w.setVr g l r x).c.mc = w.c.mc := rfl
@[simp] theorem W.setVr_c_sys_ctxs (g l r : Nat) (x : Word) : (w.setVr g l r x).c.sys.ctxs = w.c.sys.ctxs := rfl
@[simp] theorem W.setVr_c_sys_sr (g l r : Nat) (x : Word) : (w.setVr g l r x).c.sys.sr = w.c.sys.sr := rfl
@[simp] theorem W.setVr_c_sys_blk (g l r : Nat) (x : Word) : (w.setVr g l r x).c.sys.blk = w.c.sys.blk := rfl
@[simp] theorem W.setVr_c_sys_td (g l r : Nat) (x : Word) : (w.setVr g l r x).c.sys.td = w.c.sys.td := rfl
@[simp] theorem W.setVr_c_sys_reps (g l r : Nat) (x : Word) : (w.setVr g l r x).c.sys.reps = w.c.sys.reps := rfl
@[simp] theorem W.setVr_c_mdl (g l r : Nat) (x : Word) : (w.setVr g l r x).c.mdl = w.c.mdl := rfl

/-! ### setSr -/

@[simp] theorem W.setSr_vr (f r : Nat) (x : Word) (g' l' r' : Nat) : (w.setSr f r x).vr g' l' r' = w.vr g' l' r' := rfl
@[simp] theorem W.setSr_pr (f r : Nat) (x : Word) (g' l' p' : Nat) : (w.setSr f r x).pr g' l' p' = w.pr g' l' p' := rfl
@[simp] theorem W.setSr_lane (f r : Nat) (x : Word) (g' l' : Nat) : (w.setSr f r x).lane g' l' = w.lane g' l' := rfl
@[simp] theorem W.setSr_frag (f r : Nat) (x : Word) (f' : Nat) : (w.setSr f r x).frag f' = w.frag f' := rfl
@[simp] theorem W.setSr_group (f r : Nat) (x : Word) (g' : Nat) : (w.setSr f r x).group g' = w.group g' := rfl
@[simp] theorem W.setSr_core (f r : Nat) (x : Word) (c' : Nat) : (w.setSr f r x).core c' = w.core c' := rfl
@[simp] theorem W.setSr_team (f r : Nat) (x : Word) (t' : Nat) : (w.setSr f r x).team t' = w.team t' := rfl
@[simp] theorem W.setSr_grid (f r : Nat) (x : Word) (n' : Nat) : (w.setSr f r x).grid n' = w.grid n' := rfl
@[simp] theorem W.setSr_ctx (f r : Nat) (x : Word) (a' : Nat) : (w.setSr f r x).ctx a' = w.ctx a' := rfl
@[simp] theorem W.setSr_srReg (f r : Nat) (x : Word) (a' : Nat) (q : Reg) : (w.setSr f r x).srReg a' q = w.srReg a' q := rfl
@[simp] theorem W.setSr_blk (f r : Nat) (x : Word) (q : Reg) (n' : Nat) : (w.setSr f r x).blk q n' = w.blk q n' := rfl
@[simp] theorem W.setSr_m0 (f r : Nat) (x : Word) : (w.setSr f r x).m0 = w.m0 := rfl
@[simp] theorem W.setSr_wq (f r : Nat) (x : Word) : (w.setSr f r x).wq = w.wq := rfl
@[simp] theorem W.setSr_boot (f r : Nat) (x : Word) : (w.setSr f r x).boot = w.boot := rfl
@[simp] theorem W.setSr_c_thr_vr (f r : Nat) (x : Word) : (w.setSr f r x).c.thr.vr = w.c.thr.vr := rfl
@[simp] theorem W.setSr_c_thr_pr (f r : Nat) (x : Word) : (w.setSr f r x).c.thr.pr = w.c.thr.pr := rfl
@[simp] theorem W.setSr_c_thr_lanes (f r : Nat) (x : Word) : (w.setSr f r x).c.thr.lanes = w.c.thr.lanes := rfl
@[simp] theorem W.setSr_c_thr_frags (f r : Nat) (x : Word) : (w.setSr f r x).c.thr.frags = w.c.thr.frags := rfl
@[simp] theorem W.setSr_c_thr_groups (f r : Nat) (x : Word) : (w.setSr f r x).c.thr.groups = w.c.thr.groups := rfl
@[simp] theorem W.setSr_c_thr_pends (f r : Nat) (x : Word) : (w.setSr f r x).c.thr.pends = w.c.thr.pends := rfl
@[simp] theorem W.setSr_c_thr_binds (f r : Nat) (x : Word) : (w.setSr f r x).c.thr.binds = w.c.thr.binds := rfl
@[simp] theorem W.setSr_c_cores (f r : Nat) (x : Word) : (w.setSr f r x).c.cores = w.c.cores := rfl
@[simp] theorem W.setSr_c_cch (f r : Nat) (x : Word) : (w.setSr f r x).c.cch = w.c.cch := rfl
@[simp] theorem W.setSr_c_spd (f r : Nat) (x : Word) : (w.setSr f r x).c.spd = w.c.spd := rfl
@[simp] theorem W.setSr_c_eng (f r : Nat) (x : Word) : (w.setSr f r x).c.eng = w.c.eng := rfl
@[simp] theorem W.setSr_c_slu_teams (f r : Nat) (x : Word) : (w.setSr f r x).c.slu.teams = w.c.slu.teams := rfl
@[simp] theorem W.setSr_c_slu_grids (f r : Nat) (x : Word) : (w.setSr f r x).c.slu.grids = w.c.slu.grids := rfl
@[simp] theorem W.setSr_c_syn (f r : Nat) (x : Word) : (w.setSr f r x).c.syn = w.c.syn := rfl
@[simp] theorem W.setSr_c_fab (f r : Nat) (x : Word) : (w.setSr f r x).c.fab = w.c.fab := rfl
@[simp] theorem W.setSr_c_mc (f r : Nat) (x : Word) : (w.setSr f r x).c.mc = w.c.mc := rfl
@[simp] theorem W.setSr_c_sys_ctxs (f r : Nat) (x : Word) : (w.setSr f r x).c.sys.ctxs = w.c.sys.ctxs := rfl
@[simp] theorem W.setSr_c_sys_sr (f r : Nat) (x : Word) : (w.setSr f r x).c.sys.sr = w.c.sys.sr := rfl
@[simp] theorem W.setSr_c_sys_blk (f r : Nat) (x : Word) : (w.setSr f r x).c.sys.blk = w.c.sys.blk := rfl
@[simp] theorem W.setSr_c_sys_td (f r : Nat) (x : Word) : (w.setSr f r x).c.sys.td = w.c.sys.td := rfl
@[simp] theorem W.setSr_c_sys_reps (f r : Nat) (x : Word) : (w.setSr f r x).c.sys.reps = w.c.sys.reps := rfl
@[simp] theorem W.setSr_c_mdl (f r : Nat) (x : Word) : (w.setSr f r x).c.mdl = w.c.mdl := rfl

/-! ### setLane -/

@[simp] theorem W.setLane_vr (g l : Nat) (x : Lane) (g' l' r' : Nat) : (w.setLane g l x).vr g' l' r' = w.vr g' l' r' := rfl
@[simp] theorem W.setLane_sr (g l : Nat) (x : Lane) (f' r' : Nat) : (w.setLane g l x).sr f' r' = w.sr f' r' := rfl
@[simp] theorem W.setLane_pr (g l : Nat) (x : Lane) (g' l' p' : Nat) : (w.setLane g l x).pr g' l' p' = w.pr g' l' p' := rfl
@[simp] theorem W.setLane_frag (g l : Nat) (x : Lane) (f' : Nat) : (w.setLane g l x).frag f' = w.frag f' := rfl
@[simp] theorem W.setLane_group (g l : Nat) (x : Lane) (g' : Nat) : (w.setLane g l x).group g' = w.group g' := rfl
@[simp] theorem W.setLane_core (g l : Nat) (x : Lane) (c' : Nat) : (w.setLane g l x).core c' = w.core c' := rfl
@[simp] theorem W.setLane_team (g l : Nat) (x : Lane) (t' : Nat) : (w.setLane g l x).team t' = w.team t' := rfl
@[simp] theorem W.setLane_grid (g l : Nat) (x : Lane) (n' : Nat) : (w.setLane g l x).grid n' = w.grid n' := rfl
@[simp] theorem W.setLane_ctx (g l : Nat) (x : Lane) (a' : Nat) : (w.setLane g l x).ctx a' = w.ctx a' := rfl
@[simp] theorem W.setLane_srReg (g l : Nat) (x : Lane) (a' : Nat) (q : Reg) : (w.setLane g l x).srReg a' q = w.srReg a' q := rfl
@[simp] theorem W.setLane_blk (g l : Nat) (x : Lane) (q : Reg) (n' : Nat) : (w.setLane g l x).blk q n' = w.blk q n' := rfl
@[simp] theorem W.setLane_m0 (g l : Nat) (x : Lane) : (w.setLane g l x).m0 = w.m0 := rfl
@[simp] theorem W.setLane_wq (g l : Nat) (x : Lane) : (w.setLane g l x).wq = w.wq := rfl
@[simp] theorem W.setLane_boot (g l : Nat) (x : Lane) : (w.setLane g l x).boot = w.boot := rfl
@[simp] theorem W.setLane_c_thr_vr (g l : Nat) (x : Lane) : (w.setLane g l x).c.thr.vr = w.c.thr.vr := rfl
@[simp] theorem W.setLane_c_thr_sr (g l : Nat) (x : Lane) : (w.setLane g l x).c.thr.sr = w.c.thr.sr := rfl
@[simp] theorem W.setLane_c_thr_pr (g l : Nat) (x : Lane) : (w.setLane g l x).c.thr.pr = w.c.thr.pr := rfl
@[simp] theorem W.setLane_c_thr_frags (g l : Nat) (x : Lane) : (w.setLane g l x).c.thr.frags = w.c.thr.frags := rfl
@[simp] theorem W.setLane_c_thr_groups (g l : Nat) (x : Lane) : (w.setLane g l x).c.thr.groups = w.c.thr.groups := rfl
@[simp] theorem W.setLane_c_thr_pends (g l : Nat) (x : Lane) : (w.setLane g l x).c.thr.pends = w.c.thr.pends := rfl
@[simp] theorem W.setLane_c_thr_binds (g l : Nat) (x : Lane) : (w.setLane g l x).c.thr.binds = w.c.thr.binds := rfl
@[simp] theorem W.setLane_c_cores (g l : Nat) (x : Lane) : (w.setLane g l x).c.cores = w.c.cores := rfl
@[simp] theorem W.setLane_c_cch (g l : Nat) (x : Lane) : (w.setLane g l x).c.cch = w.c.cch := rfl
@[simp] theorem W.setLane_c_spd (g l : Nat) (x : Lane) : (w.setLane g l x).c.spd = w.c.spd := rfl
@[simp] theorem W.setLane_c_eng (g l : Nat) (x : Lane) : (w.setLane g l x).c.eng = w.c.eng := rfl
@[simp] theorem W.setLane_c_slu_teams (g l : Nat) (x : Lane) : (w.setLane g l x).c.slu.teams = w.c.slu.teams := rfl
@[simp] theorem W.setLane_c_slu_grids (g l : Nat) (x : Lane) : (w.setLane g l x).c.slu.grids = w.c.slu.grids := rfl
@[simp] theorem W.setLane_c_syn (g l : Nat) (x : Lane) : (w.setLane g l x).c.syn = w.c.syn := rfl
@[simp] theorem W.setLane_c_fab (g l : Nat) (x : Lane) : (w.setLane g l x).c.fab = w.c.fab := rfl
@[simp] theorem W.setLane_c_mc (g l : Nat) (x : Lane) : (w.setLane g l x).c.mc = w.c.mc := rfl
@[simp] theorem W.setLane_c_sys_ctxs (g l : Nat) (x : Lane) : (w.setLane g l x).c.sys.ctxs = w.c.sys.ctxs := rfl
@[simp] theorem W.setLane_c_sys_sr (g l : Nat) (x : Lane) : (w.setLane g l x).c.sys.sr = w.c.sys.sr := rfl
@[simp] theorem W.setLane_c_sys_blk (g l : Nat) (x : Lane) : (w.setLane g l x).c.sys.blk = w.c.sys.blk := rfl
@[simp] theorem W.setLane_c_sys_td (g l : Nat) (x : Lane) : (w.setLane g l x).c.sys.td = w.c.sys.td := rfl
@[simp] theorem W.setLane_c_sys_reps (g l : Nat) (x : Lane) : (w.setLane g l x).c.sys.reps = w.c.sys.reps := rfl
@[simp] theorem W.setLane_c_mdl (g l : Nat) (x : Lane) : (w.setLane g l x).c.mdl = w.c.mdl := rfl

/-! ### setFrag -/

@[simp] theorem W.setFrag_vr (f : Nat) (x : Frag) (g' l' r' : Nat) : (w.setFrag f x).vr g' l' r' = w.vr g' l' r' := rfl
@[simp] theorem W.setFrag_sr (f : Nat) (x : Frag) (f' r' : Nat) : (w.setFrag f x).sr f' r' = w.sr f' r' := rfl
@[simp] theorem W.setFrag_pr (f : Nat) (x : Frag) (g' l' p' : Nat) : (w.setFrag f x).pr g' l' p' = w.pr g' l' p' := rfl
@[simp] theorem W.setFrag_lane (f : Nat) (x : Frag) (g' l' : Nat) : (w.setFrag f x).lane g' l' = w.lane g' l' := rfl
@[simp] theorem W.setFrag_group (f : Nat) (x : Frag) (g' : Nat) : (w.setFrag f x).group g' = w.group g' := rfl
@[simp] theorem W.setFrag_core (f : Nat) (x : Frag) (c' : Nat) : (w.setFrag f x).core c' = w.core c' := rfl
@[simp] theorem W.setFrag_team (f : Nat) (x : Frag) (t' : Nat) : (w.setFrag f x).team t' = w.team t' := rfl
@[simp] theorem W.setFrag_grid (f : Nat) (x : Frag) (n' : Nat) : (w.setFrag f x).grid n' = w.grid n' := rfl
@[simp] theorem W.setFrag_ctx (f : Nat) (x : Frag) (a' : Nat) : (w.setFrag f x).ctx a' = w.ctx a' := rfl
@[simp] theorem W.setFrag_srReg (f : Nat) (x : Frag) (a' : Nat) (q : Reg) : (w.setFrag f x).srReg a' q = w.srReg a' q := rfl
@[simp] theorem W.setFrag_blk (f : Nat) (x : Frag) (q : Reg) (n' : Nat) : (w.setFrag f x).blk q n' = w.blk q n' := rfl
@[simp] theorem W.setFrag_m0 (f : Nat) (x : Frag) : (w.setFrag f x).m0 = w.m0 := rfl
@[simp] theorem W.setFrag_wq (f : Nat) (x : Frag) : (w.setFrag f x).wq = w.wq := rfl
@[simp] theorem W.setFrag_boot (f : Nat) (x : Frag) : (w.setFrag f x).boot = w.boot := rfl
@[simp] theorem W.setFrag_c_thr_vr (f : Nat) (x : Frag) : (w.setFrag f x).c.thr.vr = w.c.thr.vr := rfl
@[simp] theorem W.setFrag_c_thr_sr (f : Nat) (x : Frag) : (w.setFrag f x).c.thr.sr = w.c.thr.sr := rfl
@[simp] theorem W.setFrag_c_thr_pr (f : Nat) (x : Frag) : (w.setFrag f x).c.thr.pr = w.c.thr.pr := rfl
@[simp] theorem W.setFrag_c_thr_lanes (f : Nat) (x : Frag) : (w.setFrag f x).c.thr.lanes = w.c.thr.lanes := rfl
@[simp] theorem W.setFrag_c_thr_groups (f : Nat) (x : Frag) : (w.setFrag f x).c.thr.groups = w.c.thr.groups := rfl
@[simp] theorem W.setFrag_c_thr_pends (f : Nat) (x : Frag) : (w.setFrag f x).c.thr.pends = w.c.thr.pends := rfl
@[simp] theorem W.setFrag_c_thr_binds (f : Nat) (x : Frag) : (w.setFrag f x).c.thr.binds = w.c.thr.binds := rfl
@[simp] theorem W.setFrag_c_cores (f : Nat) (x : Frag) : (w.setFrag f x).c.cores = w.c.cores := rfl
@[simp] theorem W.setFrag_c_cch (f : Nat) (x : Frag) : (w.setFrag f x).c.cch = w.c.cch := rfl
@[simp] theorem W.setFrag_c_spd (f : Nat) (x : Frag) : (w.setFrag f x).c.spd = w.c.spd := rfl
@[simp] theorem W.setFrag_c_eng (f : Nat) (x : Frag) : (w.setFrag f x).c.eng = w.c.eng := rfl
@[simp] theorem W.setFrag_c_slu_teams (f : Nat) (x : Frag) : (w.setFrag f x).c.slu.teams = w.c.slu.teams := rfl
@[simp] theorem W.setFrag_c_slu_grids (f : Nat) (x : Frag) : (w.setFrag f x).c.slu.grids = w.c.slu.grids := rfl
@[simp] theorem W.setFrag_c_syn (f : Nat) (x : Frag) : (w.setFrag f x).c.syn = w.c.syn := rfl
@[simp] theorem W.setFrag_c_fab (f : Nat) (x : Frag) : (w.setFrag f x).c.fab = w.c.fab := rfl
@[simp] theorem W.setFrag_c_mc (f : Nat) (x : Frag) : (w.setFrag f x).c.mc = w.c.mc := rfl
@[simp] theorem W.setFrag_c_sys_ctxs (f : Nat) (x : Frag) : (w.setFrag f x).c.sys.ctxs = w.c.sys.ctxs := rfl
@[simp] theorem W.setFrag_c_sys_sr (f : Nat) (x : Frag) : (w.setFrag f x).c.sys.sr = w.c.sys.sr := rfl
@[simp] theorem W.setFrag_c_sys_blk (f : Nat) (x : Frag) : (w.setFrag f x).c.sys.blk = w.c.sys.blk := rfl
@[simp] theorem W.setFrag_c_sys_td (f : Nat) (x : Frag) : (w.setFrag f x).c.sys.td = w.c.sys.td := rfl
@[simp] theorem W.setFrag_c_sys_reps (f : Nat) (x : Frag) : (w.setFrag f x).c.sys.reps = w.c.sys.reps := rfl
@[simp] theorem W.setFrag_c_mdl (f : Nat) (x : Frag) : (w.setFrag f x).c.mdl = w.c.mdl := rfl

/-! ### setGroup -/

@[simp] theorem W.setGroup_vr (g : Nat) (x : Group) (g' l' r' : Nat) : (w.setGroup g x).vr g' l' r' = w.vr g' l' r' := rfl
@[simp] theorem W.setGroup_sr (g : Nat) (x : Group) (f' r' : Nat) : (w.setGroup g x).sr f' r' = w.sr f' r' := rfl
@[simp] theorem W.setGroup_pr (g : Nat) (x : Group) (g' l' p' : Nat) : (w.setGroup g x).pr g' l' p' = w.pr g' l' p' := rfl
@[simp] theorem W.setGroup_lane (g : Nat) (x : Group) (g' l' : Nat) : (w.setGroup g x).lane g' l' = w.lane g' l' := rfl
@[simp] theorem W.setGroup_frag (g : Nat) (x : Group) (f' : Nat) : (w.setGroup g x).frag f' = w.frag f' := rfl
@[simp] theorem W.setGroup_core (g : Nat) (x : Group) (c' : Nat) : (w.setGroup g x).core c' = w.core c' := rfl
@[simp] theorem W.setGroup_team (g : Nat) (x : Group) (t' : Nat) : (w.setGroup g x).team t' = w.team t' := rfl
@[simp] theorem W.setGroup_grid (g : Nat) (x : Group) (n' : Nat) : (w.setGroup g x).grid n' = w.grid n' := rfl
@[simp] theorem W.setGroup_ctx (g : Nat) (x : Group) (a' : Nat) : (w.setGroup g x).ctx a' = w.ctx a' := rfl
@[simp] theorem W.setGroup_srReg (g : Nat) (x : Group) (a' : Nat) (q : Reg) : (w.setGroup g x).srReg a' q = w.srReg a' q := rfl
@[simp] theorem W.setGroup_blk (g : Nat) (x : Group) (q : Reg) (n' : Nat) : (w.setGroup g x).blk q n' = w.blk q n' := rfl
@[simp] theorem W.setGroup_m0 (g : Nat) (x : Group) : (w.setGroup g x).m0 = w.m0 := rfl
@[simp] theorem W.setGroup_wq (g : Nat) (x : Group) : (w.setGroup g x).wq = w.wq := rfl
@[simp] theorem W.setGroup_boot (g : Nat) (x : Group) : (w.setGroup g x).boot = w.boot := rfl
@[simp] theorem W.setGroup_c_thr_vr (g : Nat) (x : Group) : (w.setGroup g x).c.thr.vr = w.c.thr.vr := rfl
@[simp] theorem W.setGroup_c_thr_sr (g : Nat) (x : Group) : (w.setGroup g x).c.thr.sr = w.c.thr.sr := rfl
@[simp] theorem W.setGroup_c_thr_pr (g : Nat) (x : Group) : (w.setGroup g x).c.thr.pr = w.c.thr.pr := rfl
@[simp] theorem W.setGroup_c_thr_lanes (g : Nat) (x : Group) : (w.setGroup g x).c.thr.lanes = w.c.thr.lanes := rfl
@[simp] theorem W.setGroup_c_thr_frags (g : Nat) (x : Group) : (w.setGroup g x).c.thr.frags = w.c.thr.frags := rfl
@[simp] theorem W.setGroup_c_thr_pends (g : Nat) (x : Group) : (w.setGroup g x).c.thr.pends = w.c.thr.pends := rfl
@[simp] theorem W.setGroup_c_thr_binds (g : Nat) (x : Group) : (w.setGroup g x).c.thr.binds = w.c.thr.binds := rfl
@[simp] theorem W.setGroup_c_cores (g : Nat) (x : Group) : (w.setGroup g x).c.cores = w.c.cores := rfl
@[simp] theorem W.setGroup_c_cch (g : Nat) (x : Group) : (w.setGroup g x).c.cch = w.c.cch := rfl
@[simp] theorem W.setGroup_c_spd (g : Nat) (x : Group) : (w.setGroup g x).c.spd = w.c.spd := rfl
@[simp] theorem W.setGroup_c_eng (g : Nat) (x : Group) : (w.setGroup g x).c.eng = w.c.eng := rfl
@[simp] theorem W.setGroup_c_slu_teams (g : Nat) (x : Group) : (w.setGroup g x).c.slu.teams = w.c.slu.teams := rfl
@[simp] theorem W.setGroup_c_slu_grids (g : Nat) (x : Group) : (w.setGroup g x).c.slu.grids = w.c.slu.grids := rfl
@[simp] theorem W.setGroup_c_syn (g : Nat) (x : Group) : (w.setGroup g x).c.syn = w.c.syn := rfl
@[simp] theorem W.setGroup_c_fab (g : Nat) (x : Group) : (w.setGroup g x).c.fab = w.c.fab := rfl
@[simp] theorem W.setGroup_c_mc (g : Nat) (x : Group) : (w.setGroup g x).c.mc = w.c.mc := rfl
@[simp] theorem W.setGroup_c_sys_ctxs (g : Nat) (x : Group) : (w.setGroup g x).c.sys.ctxs = w.c.sys.ctxs := rfl
@[simp] theorem W.setGroup_c_sys_sr (g : Nat) (x : Group) : (w.setGroup g x).c.sys.sr = w.c.sys.sr := rfl
@[simp] theorem W.setGroup_c_sys_blk (g : Nat) (x : Group) : (w.setGroup g x).c.sys.blk = w.c.sys.blk := rfl
@[simp] theorem W.setGroup_c_sys_td (g : Nat) (x : Group) : (w.setGroup g x).c.sys.td = w.c.sys.td := rfl
@[simp] theorem W.setGroup_c_sys_reps (g : Nat) (x : Group) : (w.setGroup g x).c.sys.reps = w.c.sys.reps := rfl
@[simp] theorem W.setGroup_c_mdl (g : Nat) (x : Group) : (w.setGroup g x).c.mdl = w.c.mdl := rfl

/-! ### setCore -/

@[simp] theorem W.setCore_vr (c : Nat) (x : Core) (g' l' r' : Nat) : (w.setCore c x).vr g' l' r' = w.vr g' l' r' := rfl
@[simp] theorem W.setCore_sr (c : Nat) (x : Core) (f' r' : Nat) : (w.setCore c x).sr f' r' = w.sr f' r' := rfl
@[simp] theorem W.setCore_pr (c : Nat) (x : Core) (g' l' p' : Nat) : (w.setCore c x).pr g' l' p' = w.pr g' l' p' := rfl
@[simp] theorem W.setCore_lane (c : Nat) (x : Core) (g' l' : Nat) : (w.setCore c x).lane g' l' = w.lane g' l' := rfl
@[simp] theorem W.setCore_frag (c : Nat) (x : Core) (f' : Nat) : (w.setCore c x).frag f' = w.frag f' := rfl
@[simp] theorem W.setCore_group (c : Nat) (x : Core) (g' : Nat) : (w.setCore c x).group g' = w.group g' := rfl
@[simp] theorem W.setCore_team (c : Nat) (x : Core) (t' : Nat) : (w.setCore c x).team t' = w.team t' := rfl
@[simp] theorem W.setCore_grid (c : Nat) (x : Core) (n' : Nat) : (w.setCore c x).grid n' = w.grid n' := rfl
@[simp] theorem W.setCore_ctx (c : Nat) (x : Core) (a' : Nat) : (w.setCore c x).ctx a' = w.ctx a' := rfl
@[simp] theorem W.setCore_srReg (c : Nat) (x : Core) (a' : Nat) (q : Reg) : (w.setCore c x).srReg a' q = w.srReg a' q := rfl
@[simp] theorem W.setCore_blk (c : Nat) (x : Core) (q : Reg) (n' : Nat) : (w.setCore c x).blk q n' = w.blk q n' := rfl
@[simp] theorem W.setCore_m0 (c : Nat) (x : Core) : (w.setCore c x).m0 = w.m0 := rfl
@[simp] theorem W.setCore_wq (c : Nat) (x : Core) : (w.setCore c x).wq = w.wq := rfl
@[simp] theorem W.setCore_boot (c : Nat) (x : Core) : (w.setCore c x).boot = w.boot := rfl
@[simp] theorem W.setCore_c_thr_vr (c : Nat) (x : Core) : (w.setCore c x).c.thr.vr = w.c.thr.vr := rfl
@[simp] theorem W.setCore_c_thr_sr (c : Nat) (x : Core) : (w.setCore c x).c.thr.sr = w.c.thr.sr := rfl
@[simp] theorem W.setCore_c_thr_pr (c : Nat) (x : Core) : (w.setCore c x).c.thr.pr = w.c.thr.pr := rfl
@[simp] theorem W.setCore_c_thr_lanes (c : Nat) (x : Core) : (w.setCore c x).c.thr.lanes = w.c.thr.lanes := rfl
@[simp] theorem W.setCore_c_thr_frags (c : Nat) (x : Core) : (w.setCore c x).c.thr.frags = w.c.thr.frags := rfl
@[simp] theorem W.setCore_c_thr_groups (c : Nat) (x : Core) : (w.setCore c x).c.thr.groups = w.c.thr.groups := rfl
@[simp] theorem W.setCore_c_thr_pends (c : Nat) (x : Core) : (w.setCore c x).c.thr.pends = w.c.thr.pends := rfl
@[simp] theorem W.setCore_c_thr_binds (c : Nat) (x : Core) : (w.setCore c x).c.thr.binds = w.c.thr.binds := rfl
@[simp] theorem W.setCore_c_cch (c : Nat) (x : Core) : (w.setCore c x).c.cch = w.c.cch := rfl
@[simp] theorem W.setCore_c_spd (c : Nat) (x : Core) : (w.setCore c x).c.spd = w.c.spd := rfl
@[simp] theorem W.setCore_c_eng (c : Nat) (x : Core) : (w.setCore c x).c.eng = w.c.eng := rfl
@[simp] theorem W.setCore_c_slu_teams (c : Nat) (x : Core) : (w.setCore c x).c.slu.teams = w.c.slu.teams := rfl
@[simp] theorem W.setCore_c_slu_grids (c : Nat) (x : Core) : (w.setCore c x).c.slu.grids = w.c.slu.grids := rfl
@[simp] theorem W.setCore_c_syn (c : Nat) (x : Core) : (w.setCore c x).c.syn = w.c.syn := rfl
@[simp] theorem W.setCore_c_fab (c : Nat) (x : Core) : (w.setCore c x).c.fab = w.c.fab := rfl
@[simp] theorem W.setCore_c_mc (c : Nat) (x : Core) : (w.setCore c x).c.mc = w.c.mc := rfl
@[simp] theorem W.setCore_c_sys_ctxs (c : Nat) (x : Core) : (w.setCore c x).c.sys.ctxs = w.c.sys.ctxs := rfl
@[simp] theorem W.setCore_c_sys_sr (c : Nat) (x : Core) : (w.setCore c x).c.sys.sr = w.c.sys.sr := rfl
@[simp] theorem W.setCore_c_sys_blk (c : Nat) (x : Core) : (w.setCore c x).c.sys.blk = w.c.sys.blk := rfl
@[simp] theorem W.setCore_c_sys_td (c : Nat) (x : Core) : (w.setCore c x).c.sys.td = w.c.sys.td := rfl
@[simp] theorem W.setCore_c_sys_reps (c : Nat) (x : Core) : (w.setCore c x).c.sys.reps = w.c.sys.reps := rfl
@[simp] theorem W.setCore_c_mdl (c : Nat) (x : Core) : (w.setCore c x).c.mdl = w.c.mdl := rfl

/-! ### setTeam -/

@[simp] theorem W.setTeam_vr (t : Nat) (x : Team) (g' l' r' : Nat) : (w.setTeam t x).vr g' l' r' = w.vr g' l' r' := rfl
@[simp] theorem W.setTeam_sr (t : Nat) (x : Team) (f' r' : Nat) : (w.setTeam t x).sr f' r' = w.sr f' r' := rfl
@[simp] theorem W.setTeam_pr (t : Nat) (x : Team) (g' l' p' : Nat) : (w.setTeam t x).pr g' l' p' = w.pr g' l' p' := rfl
@[simp] theorem W.setTeam_lane (t : Nat) (x : Team) (g' l' : Nat) : (w.setTeam t x).lane g' l' = w.lane g' l' := rfl
@[simp] theorem W.setTeam_frag (t : Nat) (x : Team) (f' : Nat) : (w.setTeam t x).frag f' = w.frag f' := rfl
@[simp] theorem W.setTeam_group (t : Nat) (x : Team) (g' : Nat) : (w.setTeam t x).group g' = w.group g' := rfl
@[simp] theorem W.setTeam_core (t : Nat) (x : Team) (c' : Nat) : (w.setTeam t x).core c' = w.core c' := rfl
@[simp] theorem W.setTeam_grid (t : Nat) (x : Team) (n' : Nat) : (w.setTeam t x).grid n' = w.grid n' := rfl
@[simp] theorem W.setTeam_ctx (t : Nat) (x : Team) (a' : Nat) : (w.setTeam t x).ctx a' = w.ctx a' := rfl
@[simp] theorem W.setTeam_srReg (t : Nat) (x : Team) (a' : Nat) (q : Reg) : (w.setTeam t x).srReg a' q = w.srReg a' q := rfl
@[simp] theorem W.setTeam_blk (t : Nat) (x : Team) (q : Reg) (n' : Nat) : (w.setTeam t x).blk q n' = w.blk q n' := rfl
@[simp] theorem W.setTeam_m0 (t : Nat) (x : Team) : (w.setTeam t x).m0 = w.m0 := rfl
@[simp] theorem W.setTeam_wq (t : Nat) (x : Team) : (w.setTeam t x).wq = w.wq := rfl
@[simp] theorem W.setTeam_boot (t : Nat) (x : Team) : (w.setTeam t x).boot = w.boot := rfl
@[simp] theorem W.setTeam_c_thr_vr (t : Nat) (x : Team) : (w.setTeam t x).c.thr.vr = w.c.thr.vr := rfl
@[simp] theorem W.setTeam_c_thr_sr (t : Nat) (x : Team) : (w.setTeam t x).c.thr.sr = w.c.thr.sr := rfl
@[simp] theorem W.setTeam_c_thr_pr (t : Nat) (x : Team) : (w.setTeam t x).c.thr.pr = w.c.thr.pr := rfl
@[simp] theorem W.setTeam_c_thr_lanes (t : Nat) (x : Team) : (w.setTeam t x).c.thr.lanes = w.c.thr.lanes := rfl
@[simp] theorem W.setTeam_c_thr_frags (t : Nat) (x : Team) : (w.setTeam t x).c.thr.frags = w.c.thr.frags := rfl
@[simp] theorem W.setTeam_c_thr_groups (t : Nat) (x : Team) : (w.setTeam t x).c.thr.groups = w.c.thr.groups := rfl
@[simp] theorem W.setTeam_c_thr_pends (t : Nat) (x : Team) : (w.setTeam t x).c.thr.pends = w.c.thr.pends := rfl
@[simp] theorem W.setTeam_c_thr_binds (t : Nat) (x : Team) : (w.setTeam t x).c.thr.binds = w.c.thr.binds := rfl
@[simp] theorem W.setTeam_c_cores (t : Nat) (x : Team) : (w.setTeam t x).c.cores = w.c.cores := rfl
@[simp] theorem W.setTeam_c_cch (t : Nat) (x : Team) : (w.setTeam t x).c.cch = w.c.cch := rfl
@[simp] theorem W.setTeam_c_spd (t : Nat) (x : Team) : (w.setTeam t x).c.spd = w.c.spd := rfl
@[simp] theorem W.setTeam_c_eng (t : Nat) (x : Team) : (w.setTeam t x).c.eng = w.c.eng := rfl
@[simp] theorem W.setTeam_c_slu_grids (t : Nat) (x : Team) : (w.setTeam t x).c.slu.grids = w.c.slu.grids := rfl
@[simp] theorem W.setTeam_c_syn (t : Nat) (x : Team) : (w.setTeam t x).c.syn = w.c.syn := rfl
@[simp] theorem W.setTeam_c_fab (t : Nat) (x : Team) : (w.setTeam t x).c.fab = w.c.fab := rfl
@[simp] theorem W.setTeam_c_mc (t : Nat) (x : Team) : (w.setTeam t x).c.mc = w.c.mc := rfl
@[simp] theorem W.setTeam_c_sys_ctxs (t : Nat) (x : Team) : (w.setTeam t x).c.sys.ctxs = w.c.sys.ctxs := rfl
@[simp] theorem W.setTeam_c_sys_sr (t : Nat) (x : Team) : (w.setTeam t x).c.sys.sr = w.c.sys.sr := rfl
@[simp] theorem W.setTeam_c_sys_blk (t : Nat) (x : Team) : (w.setTeam t x).c.sys.blk = w.c.sys.blk := rfl
@[simp] theorem W.setTeam_c_sys_td (t : Nat) (x : Team) : (w.setTeam t x).c.sys.td = w.c.sys.td := rfl
@[simp] theorem W.setTeam_c_sys_reps (t : Nat) (x : Team) : (w.setTeam t x).c.sys.reps = w.c.sys.reps := rfl
@[simp] theorem W.setTeam_c_mdl (t : Nat) (x : Team) : (w.setTeam t x).c.mdl = w.c.mdl := rfl

/-! ### setGrid -/

@[simp] theorem W.setGrid_vr (n : Nat) (x : Grid) (g' l' r' : Nat) : (w.setGrid n x).vr g' l' r' = w.vr g' l' r' := rfl
@[simp] theorem W.setGrid_sr (n : Nat) (x : Grid) (f' r' : Nat) : (w.setGrid n x).sr f' r' = w.sr f' r' := rfl
@[simp] theorem W.setGrid_pr (n : Nat) (x : Grid) (g' l' p' : Nat) : (w.setGrid n x).pr g' l' p' = w.pr g' l' p' := rfl
@[simp] theorem W.setGrid_lane (n : Nat) (x : Grid) (g' l' : Nat) : (w.setGrid n x).lane g' l' = w.lane g' l' := rfl
@[simp] theorem W.setGrid_frag (n : Nat) (x : Grid) (f' : Nat) : (w.setGrid n x).frag f' = w.frag f' := rfl
@[simp] theorem W.setGrid_group (n : Nat) (x : Grid) (g' : Nat) : (w.setGrid n x).group g' = w.group g' := rfl
@[simp] theorem W.setGrid_core (n : Nat) (x : Grid) (c' : Nat) : (w.setGrid n x).core c' = w.core c' := rfl
@[simp] theorem W.setGrid_team (n : Nat) (x : Grid) (t' : Nat) : (w.setGrid n x).team t' = w.team t' := rfl
@[simp] theorem W.setGrid_ctx (n : Nat) (x : Grid) (a' : Nat) : (w.setGrid n x).ctx a' = w.ctx a' := rfl
@[simp] theorem W.setGrid_srReg (n : Nat) (x : Grid) (a' : Nat) (q : Reg) : (w.setGrid n x).srReg a' q = w.srReg a' q := rfl
@[simp] theorem W.setGrid_blk (n : Nat) (x : Grid) (q : Reg) (n' : Nat) : (w.setGrid n x).blk q n' = w.blk q n' := rfl
@[simp] theorem W.setGrid_m0 (n : Nat) (x : Grid) : (w.setGrid n x).m0 = w.m0 := rfl
@[simp] theorem W.setGrid_wq (n : Nat) (x : Grid) : (w.setGrid n x).wq = w.wq := rfl
@[simp] theorem W.setGrid_boot (n : Nat) (x : Grid) : (w.setGrid n x).boot = w.boot := rfl
@[simp] theorem W.setGrid_c_thr_vr (n : Nat) (x : Grid) : (w.setGrid n x).c.thr.vr = w.c.thr.vr := rfl
@[simp] theorem W.setGrid_c_thr_sr (n : Nat) (x : Grid) : (w.setGrid n x).c.thr.sr = w.c.thr.sr := rfl
@[simp] theorem W.setGrid_c_thr_pr (n : Nat) (x : Grid) : (w.setGrid n x).c.thr.pr = w.c.thr.pr := rfl
@[simp] theorem W.setGrid_c_thr_lanes (n : Nat) (x : Grid) : (w.setGrid n x).c.thr.lanes = w.c.thr.lanes := rfl
@[simp] theorem W.setGrid_c_thr_frags (n : Nat) (x : Grid) : (w.setGrid n x).c.thr.frags = w.c.thr.frags := rfl
@[simp] theorem W.setGrid_c_thr_groups (n : Nat) (x : Grid) : (w.setGrid n x).c.thr.groups = w.c.thr.groups := rfl
@[simp] theorem W.setGrid_c_thr_pends (n : Nat) (x : Grid) : (w.setGrid n x).c.thr.pends = w.c.thr.pends := rfl
@[simp] theorem W.setGrid_c_thr_binds (n : Nat) (x : Grid) : (w.setGrid n x).c.thr.binds = w.c.thr.binds := rfl
@[simp] theorem W.setGrid_c_cores (n : Nat) (x : Grid) : (w.setGrid n x).c.cores = w.c.cores := rfl
@[simp] theorem W.setGrid_c_cch (n : Nat) (x : Grid) : (w.setGrid n x).c.cch = w.c.cch := rfl
@[simp] theorem W.setGrid_c_spd (n : Nat) (x : Grid) : (w.setGrid n x).c.spd = w.c.spd := rfl
@[simp] theorem W.setGrid_c_eng (n : Nat) (x : Grid) : (w.setGrid n x).c.eng = w.c.eng := rfl
@[simp] theorem W.setGrid_c_slu_teams (n : Nat) (x : Grid) : (w.setGrid n x).c.slu.teams = w.c.slu.teams := rfl
@[simp] theorem W.setGrid_c_syn (n : Nat) (x : Grid) : (w.setGrid n x).c.syn = w.c.syn := rfl
@[simp] theorem W.setGrid_c_fab (n : Nat) (x : Grid) : (w.setGrid n x).c.fab = w.c.fab := rfl
@[simp] theorem W.setGrid_c_mc (n : Nat) (x : Grid) : (w.setGrid n x).c.mc = w.c.mc := rfl
@[simp] theorem W.setGrid_c_sys_ctxs (n : Nat) (x : Grid) : (w.setGrid n x).c.sys.ctxs = w.c.sys.ctxs := rfl
@[simp] theorem W.setGrid_c_sys_sr (n : Nat) (x : Grid) : (w.setGrid n x).c.sys.sr = w.c.sys.sr := rfl
@[simp] theorem W.setGrid_c_sys_blk (n : Nat) (x : Grid) : (w.setGrid n x).c.sys.blk = w.c.sys.blk := rfl
@[simp] theorem W.setGrid_c_sys_td (n : Nat) (x : Grid) : (w.setGrid n x).c.sys.td = w.c.sys.td := rfl
@[simp] theorem W.setGrid_c_sys_reps (n : Nat) (x : Grid) : (w.setGrid n x).c.sys.reps = w.c.sys.reps := rfl
@[simp] theorem W.setGrid_c_mdl (n : Nat) (x : Grid) : (w.setGrid n x).c.mdl = w.c.mdl := rfl

/-! ### setCtx -/

@[simp] theorem W.setCtx_vr (a : Nat) (x : Ctx) (g' l' r' : Nat) : (w.setCtx a x).vr g' l' r' = w.vr g' l' r' := rfl
@[simp] theorem W.setCtx_sr (a : Nat) (x : Ctx) (f' r' : Nat) : (w.setCtx a x).sr f' r' = w.sr f' r' := rfl
@[simp] theorem W.setCtx_pr (a : Nat) (x : Ctx) (g' l' p' : Nat) : (w.setCtx a x).pr g' l' p' = w.pr g' l' p' := rfl
@[simp] theorem W.setCtx_lane (a : Nat) (x : Ctx) (g' l' : Nat) : (w.setCtx a x).lane g' l' = w.lane g' l' := rfl
@[simp] theorem W.setCtx_frag (a : Nat) (x : Ctx) (f' : Nat) : (w.setCtx a x).frag f' = w.frag f' := rfl
@[simp] theorem W.setCtx_group (a : Nat) (x : Ctx) (g' : Nat) : (w.setCtx a x).group g' = w.group g' := rfl
@[simp] theorem W.setCtx_core (a : Nat) (x : Ctx) (c' : Nat) : (w.setCtx a x).core c' = w.core c' := rfl
@[simp] theorem W.setCtx_team (a : Nat) (x : Ctx) (t' : Nat) : (w.setCtx a x).team t' = w.team t' := rfl
@[simp] theorem W.setCtx_grid (a : Nat) (x : Ctx) (n' : Nat) : (w.setCtx a x).grid n' = w.grid n' := rfl
@[simp] theorem W.setCtx_srReg (a : Nat) (x : Ctx) (a' : Nat) (q : Reg) : (w.setCtx a x).srReg a' q = w.srReg a' q := rfl
@[simp] theorem W.setCtx_blk (a : Nat) (x : Ctx) (q : Reg) (n' : Nat) : (w.setCtx a x).blk q n' = w.blk q n' := rfl
@[simp] theorem W.setCtx_m0 (a : Nat) (x : Ctx) : (w.setCtx a x).m0 = w.m0 := rfl
@[simp] theorem W.setCtx_wq (a : Nat) (x : Ctx) : (w.setCtx a x).wq = w.wq := rfl
@[simp] theorem W.setCtx_boot (a : Nat) (x : Ctx) : (w.setCtx a x).boot = w.boot := rfl
@[simp] theorem W.setCtx_c_thr_vr (a : Nat) (x : Ctx) : (w.setCtx a x).c.thr.vr = w.c.thr.vr := rfl
@[simp] theorem W.setCtx_c_thr_sr (a : Nat) (x : Ctx) : (w.setCtx a x).c.thr.sr = w.c.thr.sr := rfl
@[simp] theorem W.setCtx_c_thr_pr (a : Nat) (x : Ctx) : (w.setCtx a x).c.thr.pr = w.c.thr.pr := rfl
@[simp] theorem W.setCtx_c_thr_lanes (a : Nat) (x : Ctx) : (w.setCtx a x).c.thr.lanes = w.c.thr.lanes := rfl
@[simp] theorem W.setCtx_c_thr_frags (a : Nat) (x : Ctx) : (w.setCtx a x).c.thr.frags = w.c.thr.frags := rfl
@[simp] theorem W.setCtx_c_thr_groups (a : Nat) (x : Ctx) : (w.setCtx a x).c.thr.groups = w.c.thr.groups := rfl
@[simp] theorem W.setCtx_c_thr_pends (a : Nat) (x : Ctx) : (w.setCtx a x).c.thr.pends = w.c.thr.pends := rfl
@[simp] theorem W.setCtx_c_thr_binds (a : Nat) (x : Ctx) : (w.setCtx a x).c.thr.binds = w.c.thr.binds := rfl
@[simp] theorem W.setCtx_c_cores (a : Nat) (x : Ctx) : (w.setCtx a x).c.cores = w.c.cores := rfl
@[simp] theorem W.setCtx_c_cch (a : Nat) (x : Ctx) : (w.setCtx a x).c.cch = w.c.cch := rfl
@[simp] theorem W.setCtx_c_spd (a : Nat) (x : Ctx) : (w.setCtx a x).c.spd = w.c.spd := rfl
@[simp] theorem W.setCtx_c_eng (a : Nat) (x : Ctx) : (w.setCtx a x).c.eng = w.c.eng := rfl
@[simp] theorem W.setCtx_c_slu_teams (a : Nat) (x : Ctx) : (w.setCtx a x).c.slu.teams = w.c.slu.teams := rfl
@[simp] theorem W.setCtx_c_slu_grids (a : Nat) (x : Ctx) : (w.setCtx a x).c.slu.grids = w.c.slu.grids := rfl
@[simp] theorem W.setCtx_c_syn (a : Nat) (x : Ctx) : (w.setCtx a x).c.syn = w.c.syn := rfl
@[simp] theorem W.setCtx_c_fab (a : Nat) (x : Ctx) : (w.setCtx a x).c.fab = w.c.fab := rfl
@[simp] theorem W.setCtx_c_mc (a : Nat) (x : Ctx) : (w.setCtx a x).c.mc = w.c.mc := rfl
@[simp] theorem W.setCtx_c_sys_sr (a : Nat) (x : Ctx) : (w.setCtx a x).c.sys.sr = w.c.sys.sr := rfl
@[simp] theorem W.setCtx_c_sys_blk (a : Nat) (x : Ctx) : (w.setCtx a x).c.sys.blk = w.c.sys.blk := rfl
@[simp] theorem W.setCtx_c_sys_td (a : Nat) (x : Ctx) : (w.setCtx a x).c.sys.td = w.c.sys.td := rfl
@[simp] theorem W.setCtx_c_sys_reps (a : Nat) (x : Ctx) : (w.setCtx a x).c.sys.reps = w.c.sys.reps := rfl
@[simp] theorem W.setCtx_c_mdl (a : Nat) (x : Ctx) : (w.setCtx a x).c.mdl = w.c.mdl := rfl

/-! ### setSrReg -/

@[simp] theorem W.setSrReg_vr (a : Nat) (r : Reg) (x : Dword) (g' l' r' : Nat) : (w.setSrReg a r x).vr g' l' r' = w.vr g' l' r' := rfl
@[simp] theorem W.setSrReg_sr (a : Nat) (r : Reg) (x : Dword) (f' r' : Nat) : (w.setSrReg a r x).sr f' r' = w.sr f' r' := rfl
@[simp] theorem W.setSrReg_pr (a : Nat) (r : Reg) (x : Dword) (g' l' p' : Nat) : (w.setSrReg a r x).pr g' l' p' = w.pr g' l' p' := rfl
@[simp] theorem W.setSrReg_lane (a : Nat) (r : Reg) (x : Dword) (g' l' : Nat) : (w.setSrReg a r x).lane g' l' = w.lane g' l' := rfl
@[simp] theorem W.setSrReg_frag (a : Nat) (r : Reg) (x : Dword) (f' : Nat) : (w.setSrReg a r x).frag f' = w.frag f' := rfl
@[simp] theorem W.setSrReg_group (a : Nat) (r : Reg) (x : Dword) (g' : Nat) : (w.setSrReg a r x).group g' = w.group g' := rfl
@[simp] theorem W.setSrReg_core (a : Nat) (r : Reg) (x : Dword) (c' : Nat) : (w.setSrReg a r x).core c' = w.core c' := rfl
@[simp] theorem W.setSrReg_team (a : Nat) (r : Reg) (x : Dword) (t' : Nat) : (w.setSrReg a r x).team t' = w.team t' := rfl
@[simp] theorem W.setSrReg_grid (a : Nat) (r : Reg) (x : Dword) (n' : Nat) : (w.setSrReg a r x).grid n' = w.grid n' := rfl
@[simp] theorem W.setSrReg_ctx (a : Nat) (r : Reg) (x : Dword) (a' : Nat) : (w.setSrReg a r x).ctx a' = w.ctx a' := rfl
@[simp] theorem W.setSrReg_blk (a : Nat) (r : Reg) (x : Dword) (q : Reg) (n' : Nat) : (w.setSrReg a r x).blk q n' = w.blk q n' := rfl
@[simp] theorem W.setSrReg_m0 (a : Nat) (r : Reg) (x : Dword) : (w.setSrReg a r x).m0 = w.m0 := rfl
@[simp] theorem W.setSrReg_wq (a : Nat) (r : Reg) (x : Dword) : (w.setSrReg a r x).wq = w.wq := rfl
@[simp] theorem W.setSrReg_boot (a : Nat) (r : Reg) (x : Dword) : (w.setSrReg a r x).boot = w.boot := rfl
@[simp] theorem W.setSrReg_c_thr_vr (a : Nat) (r : Reg) (x : Dword) : (w.setSrReg a r x).c.thr.vr = w.c.thr.vr := rfl
@[simp] theorem W.setSrReg_c_thr_sr (a : Nat) (r : Reg) (x : Dword) : (w.setSrReg a r x).c.thr.sr = w.c.thr.sr := rfl
@[simp] theorem W.setSrReg_c_thr_pr (a : Nat) (r : Reg) (x : Dword) : (w.setSrReg a r x).c.thr.pr = w.c.thr.pr := rfl
@[simp] theorem W.setSrReg_c_thr_lanes (a : Nat) (r : Reg) (x : Dword) : (w.setSrReg a r x).c.thr.lanes = w.c.thr.lanes := rfl
@[simp] theorem W.setSrReg_c_thr_frags (a : Nat) (r : Reg) (x : Dword) : (w.setSrReg a r x).c.thr.frags = w.c.thr.frags := rfl
@[simp] theorem W.setSrReg_c_thr_groups (a : Nat) (r : Reg) (x : Dword) : (w.setSrReg a r x).c.thr.groups = w.c.thr.groups := rfl
@[simp] theorem W.setSrReg_c_thr_pends (a : Nat) (r : Reg) (x : Dword) : (w.setSrReg a r x).c.thr.pends = w.c.thr.pends := rfl
@[simp] theorem W.setSrReg_c_thr_binds (a : Nat) (r : Reg) (x : Dword) : (w.setSrReg a r x).c.thr.binds = w.c.thr.binds := rfl
@[simp] theorem W.setSrReg_c_cores (a : Nat) (r : Reg) (x : Dword) : (w.setSrReg a r x).c.cores = w.c.cores := rfl
@[simp] theorem W.setSrReg_c_cch (a : Nat) (r : Reg) (x : Dword) : (w.setSrReg a r x).c.cch = w.c.cch := rfl
@[simp] theorem W.setSrReg_c_spd (a : Nat) (r : Reg) (x : Dword) : (w.setSrReg a r x).c.spd = w.c.spd := rfl
@[simp] theorem W.setSrReg_c_eng (a : Nat) (r : Reg) (x : Dword) : (w.setSrReg a r x).c.eng = w.c.eng := rfl
@[simp] theorem W.setSrReg_c_slu_teams (a : Nat) (r : Reg) (x : Dword) : (w.setSrReg a r x).c.slu.teams = w.c.slu.teams := rfl
@[simp] theorem W.setSrReg_c_slu_grids (a : Nat) (r : Reg) (x : Dword) : (w.setSrReg a r x).c.slu.grids = w.c.slu.grids := rfl
@[simp] theorem W.setSrReg_c_syn (a : Nat) (r : Reg) (x : Dword) : (w.setSrReg a r x).c.syn = w.c.syn := rfl
@[simp] theorem W.setSrReg_c_fab (a : Nat) (r : Reg) (x : Dword) : (w.setSrReg a r x).c.fab = w.c.fab := rfl
@[simp] theorem W.setSrReg_c_mc (a : Nat) (r : Reg) (x : Dword) : (w.setSrReg a r x).c.mc = w.c.mc := rfl
@[simp] theorem W.setSrReg_c_sys_ctxs (a : Nat) (r : Reg) (x : Dword) : (w.setSrReg a r x).c.sys.ctxs = w.c.sys.ctxs := rfl
@[simp] theorem W.setSrReg_c_sys_blk (a : Nat) (r : Reg) (x : Dword) : (w.setSrReg a r x).c.sys.blk = w.c.sys.blk := rfl
@[simp] theorem W.setSrReg_c_sys_td (a : Nat) (r : Reg) (x : Dword) : (w.setSrReg a r x).c.sys.td = w.c.sys.td := rfl
@[simp] theorem W.setSrReg_c_sys_reps (a : Nat) (r : Reg) (x : Dword) : (w.setSrReg a r x).c.sys.reps = w.c.sys.reps := rfl
@[simp] theorem W.setSrReg_c_mdl (a : Nat) (r : Reg) (x : Dword) : (w.setSrReg a r x).c.mdl = w.c.mdl := rfl

/-! ### setBlk -/

@[simp] theorem W.setBlk_vr (r : Reg) (n : Nat) (x : Dword) (g' l' r' : Nat) : (w.setBlk r n x).vr g' l' r' = w.vr g' l' r' := rfl
@[simp] theorem W.setBlk_sr (r : Reg) (n : Nat) (x : Dword) (f' r' : Nat) : (w.setBlk r n x).sr f' r' = w.sr f' r' := rfl
@[simp] theorem W.setBlk_pr (r : Reg) (n : Nat) (x : Dword) (g' l' p' : Nat) : (w.setBlk r n x).pr g' l' p' = w.pr g' l' p' := rfl
@[simp] theorem W.setBlk_lane (r : Reg) (n : Nat) (x : Dword) (g' l' : Nat) : (w.setBlk r n x).lane g' l' = w.lane g' l' := rfl
@[simp] theorem W.setBlk_frag (r : Reg) (n : Nat) (x : Dword) (f' : Nat) : (w.setBlk r n x).frag f' = w.frag f' := rfl
@[simp] theorem W.setBlk_group (r : Reg) (n : Nat) (x : Dword) (g' : Nat) : (w.setBlk r n x).group g' = w.group g' := rfl
@[simp] theorem W.setBlk_core (r : Reg) (n : Nat) (x : Dword) (c' : Nat) : (w.setBlk r n x).core c' = w.core c' := rfl
@[simp] theorem W.setBlk_team (r : Reg) (n : Nat) (x : Dword) (t' : Nat) : (w.setBlk r n x).team t' = w.team t' := rfl
@[simp] theorem W.setBlk_grid (r : Reg) (n : Nat) (x : Dword) (n' : Nat) : (w.setBlk r n x).grid n' = w.grid n' := rfl
@[simp] theorem W.setBlk_ctx (r : Reg) (n : Nat) (x : Dword) (a' : Nat) : (w.setBlk r n x).ctx a' = w.ctx a' := rfl
@[simp] theorem W.setBlk_srReg (r : Reg) (n : Nat) (x : Dword) (a' : Nat) (q : Reg) : (w.setBlk r n x).srReg a' q = w.srReg a' q := rfl
@[simp] theorem W.setBlk_m0 (r : Reg) (n : Nat) (x : Dword) : (w.setBlk r n x).m0 = w.m0 := rfl
@[simp] theorem W.setBlk_wq (r : Reg) (n : Nat) (x : Dword) : (w.setBlk r n x).wq = w.wq := rfl
@[simp] theorem W.setBlk_boot (r : Reg) (n : Nat) (x : Dword) : (w.setBlk r n x).boot = w.boot := rfl
@[simp] theorem W.setBlk_c_thr_vr (r : Reg) (n : Nat) (x : Dword) : (w.setBlk r n x).c.thr.vr = w.c.thr.vr := rfl
@[simp] theorem W.setBlk_c_thr_sr (r : Reg) (n : Nat) (x : Dword) : (w.setBlk r n x).c.thr.sr = w.c.thr.sr := rfl
@[simp] theorem W.setBlk_c_thr_pr (r : Reg) (n : Nat) (x : Dword) : (w.setBlk r n x).c.thr.pr = w.c.thr.pr := rfl
@[simp] theorem W.setBlk_c_thr_lanes (r : Reg) (n : Nat) (x : Dword) : (w.setBlk r n x).c.thr.lanes = w.c.thr.lanes := rfl
@[simp] theorem W.setBlk_c_thr_frags (r : Reg) (n : Nat) (x : Dword) : (w.setBlk r n x).c.thr.frags = w.c.thr.frags := rfl
@[simp] theorem W.setBlk_c_thr_groups (r : Reg) (n : Nat) (x : Dword) : (w.setBlk r n x).c.thr.groups = w.c.thr.groups := rfl
@[simp] theorem W.setBlk_c_thr_pends (r : Reg) (n : Nat) (x : Dword) : (w.setBlk r n x).c.thr.pends = w.c.thr.pends := rfl
@[simp] theorem W.setBlk_c_thr_binds (r : Reg) (n : Nat) (x : Dword) : (w.setBlk r n x).c.thr.binds = w.c.thr.binds := rfl
@[simp] theorem W.setBlk_c_cores (r : Reg) (n : Nat) (x : Dword) : (w.setBlk r n x).c.cores = w.c.cores := rfl
@[simp] theorem W.setBlk_c_cch (r : Reg) (n : Nat) (x : Dword) : (w.setBlk r n x).c.cch = w.c.cch := rfl
@[simp] theorem W.setBlk_c_spd (r : Reg) (n : Nat) (x : Dword) : (w.setBlk r n x).c.spd = w.c.spd := rfl
@[simp] theorem W.setBlk_c_eng (r : Reg) (n : Nat) (x : Dword) : (w.setBlk r n x).c.eng = w.c.eng := rfl
@[simp] theorem W.setBlk_c_slu_teams (r : Reg) (n : Nat) (x : Dword) : (w.setBlk r n x).c.slu.teams = w.c.slu.teams := rfl
@[simp] theorem W.setBlk_c_slu_grids (r : Reg) (n : Nat) (x : Dword) : (w.setBlk r n x).c.slu.grids = w.c.slu.grids := rfl
@[simp] theorem W.setBlk_c_syn (r : Reg) (n : Nat) (x : Dword) : (w.setBlk r n x).c.syn = w.c.syn := rfl
@[simp] theorem W.setBlk_c_fab (r : Reg) (n : Nat) (x : Dword) : (w.setBlk r n x).c.fab = w.c.fab := rfl
@[simp] theorem W.setBlk_c_mc (r : Reg) (n : Nat) (x : Dword) : (w.setBlk r n x).c.mc = w.c.mc := rfl
@[simp] theorem W.setBlk_c_sys_ctxs (r : Reg) (n : Nat) (x : Dword) : (w.setBlk r n x).c.sys.ctxs = w.c.sys.ctxs := rfl
@[simp] theorem W.setBlk_c_sys_sr (r : Reg) (n : Nat) (x : Dword) : (w.setBlk r n x).c.sys.sr = w.c.sys.sr := rfl
@[simp] theorem W.setBlk_c_sys_td (r : Reg) (n : Nat) (x : Dword) : (w.setBlk r n x).c.sys.td = w.c.sys.td := rfl
@[simp] theorem W.setBlk_c_sys_reps (r : Reg) (n : Nat) (x : Dword) : (w.setBlk r n x).c.sys.reps = w.c.sys.reps := rfl
@[simp] theorem W.setBlk_c_mdl (r : Reg) (n : Nat) (x : Dword) : (w.setBlk r n x).c.mdl = w.c.mdl := rfl

/-! ### bumpFresh -/

@[simp] theorem W.bumpFresh_vr (g' l' r' : Nat) : (w.bumpFresh).vr g' l' r' = w.vr g' l' r' := rfl
@[simp] theorem W.bumpFresh_sr (f' r' : Nat) : (w.bumpFresh).sr f' r' = w.sr f' r' := rfl
@[simp] theorem W.bumpFresh_pr (g' l' p' : Nat) : (w.bumpFresh).pr g' l' p' = w.pr g' l' p' := rfl
@[simp] theorem W.bumpFresh_lane (g' l' : Nat) : (w.bumpFresh).lane g' l' = w.lane g' l' := rfl
@[simp] theorem W.bumpFresh_frag (f' : Nat) : (w.bumpFresh).frag f' = w.frag f' := rfl
@[simp] theorem W.bumpFresh_group (g' : Nat) : (w.bumpFresh).group g' = w.group g' := rfl
@[simp] theorem W.bumpFresh_core (c' : Nat) : (w.bumpFresh).core c' = w.core c' := rfl
@[simp] theorem W.bumpFresh_team (t' : Nat) : (w.bumpFresh).team t' = w.team t' := rfl
@[simp] theorem W.bumpFresh_grid (n' : Nat) : (w.bumpFresh).grid n' = w.grid n' := rfl
@[simp] theorem W.bumpFresh_ctx (a' : Nat) : (w.bumpFresh).ctx a' = w.ctx a' := rfl
@[simp] theorem W.bumpFresh_srReg (a' : Nat) (q : Reg) : (w.bumpFresh).srReg a' q = w.srReg a' q := rfl
@[simp] theorem W.bumpFresh_blk (q : Reg) (n' : Nat) : (w.bumpFresh).blk q n' = w.blk q n' := rfl
@[simp] theorem W.bumpFresh_m0 : (w.bumpFresh).m0 = w.m0 := rfl
@[simp] theorem W.bumpFresh_wq : (w.bumpFresh).wq = w.wq := rfl
@[simp] theorem W.bumpFresh_boot : (w.bumpFresh).boot = w.boot := rfl
@[simp] theorem W.bumpFresh_c_thr_vr : (w.bumpFresh).c.thr.vr = w.c.thr.vr := rfl
@[simp] theorem W.bumpFresh_c_thr_sr : (w.bumpFresh).c.thr.sr = w.c.thr.sr := rfl
@[simp] theorem W.bumpFresh_c_thr_pr : (w.bumpFresh).c.thr.pr = w.c.thr.pr := rfl
@[simp] theorem W.bumpFresh_c_thr_lanes : (w.bumpFresh).c.thr.lanes = w.c.thr.lanes := rfl
@[simp] theorem W.bumpFresh_c_thr_frags : (w.bumpFresh).c.thr.frags = w.c.thr.frags := rfl
@[simp] theorem W.bumpFresh_c_thr_groups : (w.bumpFresh).c.thr.groups = w.c.thr.groups := rfl
@[simp] theorem W.bumpFresh_c_thr_pends : (w.bumpFresh).c.thr.pends = w.c.thr.pends := rfl
@[simp] theorem W.bumpFresh_c_thr_binds : (w.bumpFresh).c.thr.binds = w.c.thr.binds := rfl
@[simp] theorem W.bumpFresh_c_cores : (w.bumpFresh).c.cores = w.c.cores := rfl
@[simp] theorem W.bumpFresh_c_cch : (w.bumpFresh).c.cch = w.c.cch := rfl
@[simp] theorem W.bumpFresh_c_spd : (w.bumpFresh).c.spd = w.c.spd := rfl
@[simp] theorem W.bumpFresh_c_eng : (w.bumpFresh).c.eng = w.c.eng := rfl
@[simp] theorem W.bumpFresh_c_slu_teams : (w.bumpFresh).c.slu.teams = w.c.slu.teams := rfl
@[simp] theorem W.bumpFresh_c_slu_grids : (w.bumpFresh).c.slu.grids = w.c.slu.grids := rfl
@[simp] theorem W.bumpFresh_c_syn : (w.bumpFresh).c.syn = w.c.syn := rfl
@[simp] theorem W.bumpFresh_c_fab : (w.bumpFresh).c.fab = w.c.fab := rfl
@[simp] theorem W.bumpFresh_c_mc : (w.bumpFresh).c.mc = w.c.mc := rfl
@[simp] theorem W.bumpFresh_c_sys_ctxs : (w.bumpFresh).c.sys.ctxs = w.c.sys.ctxs := rfl
@[simp] theorem W.bumpFresh_c_sys_sr : (w.bumpFresh).c.sys.sr = w.c.sys.sr := rfl
@[simp] theorem W.bumpFresh_c_sys_blk : (w.bumpFresh).c.sys.blk = w.c.sys.blk := rfl
@[simp] theorem W.bumpFresh_c_sys_td : (w.bumpFresh).c.sys.td = w.c.sys.td := rfl
@[simp] theorem W.bumpFresh_c_sys_reps : (w.bumpFresh).c.sys.reps = w.c.sys.reps := rfl

/-! ### putByte -/

@[simp] theorem W.putByte_vr (pa : Nat) (b : Byte) (g' l' r' : Nat) : (w.putByte pa b).vr g' l' r' = w.vr g' l' r' := rfl
@[simp] theorem W.putByte_sr (pa : Nat) (b : Byte) (f' r' : Nat) : (w.putByte pa b).sr f' r' = w.sr f' r' := rfl
@[simp] theorem W.putByte_pr (pa : Nat) (b : Byte) (g' l' p' : Nat) : (w.putByte pa b).pr g' l' p' = w.pr g' l' p' := rfl
@[simp] theorem W.putByte_lane (pa : Nat) (b : Byte) (g' l' : Nat) : (w.putByte pa b).lane g' l' = w.lane g' l' := rfl
@[simp] theorem W.putByte_frag (pa : Nat) (b : Byte) (f' : Nat) : (w.putByte pa b).frag f' = w.frag f' := rfl
@[simp] theorem W.putByte_group (pa : Nat) (b : Byte) (g' : Nat) : (w.putByte pa b).group g' = w.group g' := rfl
@[simp] theorem W.putByte_core (pa : Nat) (b : Byte) (c' : Nat) : (w.putByte pa b).core c' = w.core c' := rfl
@[simp] theorem W.putByte_team (pa : Nat) (b : Byte) (t' : Nat) : (w.putByte pa b).team t' = w.team t' := rfl
@[simp] theorem W.putByte_grid (pa : Nat) (b : Byte) (n' : Nat) : (w.putByte pa b).grid n' = w.grid n' := rfl
@[simp] theorem W.putByte_ctx (pa : Nat) (b : Byte) (a' : Nat) : (w.putByte pa b).ctx a' = w.ctx a' := rfl
@[simp] theorem W.putByte_srReg (pa : Nat) (b : Byte) (a' : Nat) (q : Reg) : (w.putByte pa b).srReg a' q = w.srReg a' q := rfl
@[simp] theorem W.putByte_blk (pa : Nat) (b : Byte) (q : Reg) (n' : Nat) : (w.putByte pa b).blk q n' = w.blk q n' := rfl
@[simp] theorem W.putByte_m0 (pa : Nat) (b : Byte) : (w.putByte pa b).m0 = w.m0 := rfl
@[simp] theorem W.putByte_boot (pa : Nat) (b : Byte) : (w.putByte pa b).boot = w.boot := rfl
@[simp] theorem W.putByte_c_thr_vr (pa : Nat) (b : Byte) : (w.putByte pa b).c.thr.vr = w.c.thr.vr := rfl
@[simp] theorem W.putByte_c_thr_sr (pa : Nat) (b : Byte) : (w.putByte pa b).c.thr.sr = w.c.thr.sr := rfl
@[simp] theorem W.putByte_c_thr_pr (pa : Nat) (b : Byte) : (w.putByte pa b).c.thr.pr = w.c.thr.pr := rfl
@[simp] theorem W.putByte_c_thr_lanes (pa : Nat) (b : Byte) : (w.putByte pa b).c.thr.lanes = w.c.thr.lanes := rfl
@[simp] theorem W.putByte_c_thr_frags (pa : Nat) (b : Byte) : (w.putByte pa b).c.thr.frags = w.c.thr.frags := rfl
@[simp] theorem W.putByte_c_thr_groups (pa : Nat) (b : Byte) : (w.putByte pa b).c.thr.groups = w.c.thr.groups := rfl
@[simp] theorem W.putByte_c_thr_pends (pa : Nat) (b : Byte) : (w.putByte pa b).c.thr.pends = w.c.thr.pends := rfl
@[simp] theorem W.putByte_c_thr_binds (pa : Nat) (b : Byte) : (w.putByte pa b).c.thr.binds = w.c.thr.binds := rfl
@[simp] theorem W.putByte_c_cores (pa : Nat) (b : Byte) : (w.putByte pa b).c.cores = w.c.cores := rfl
@[simp] theorem W.putByte_c_cch (pa : Nat) (b : Byte) : (w.putByte pa b).c.cch = w.c.cch := rfl
@[simp] theorem W.putByte_c_spd (pa : Nat) (b : Byte) : (w.putByte pa b).c.spd = w.c.spd := rfl
@[simp] theorem W.putByte_c_eng (pa : Nat) (b : Byte) : (w.putByte pa b).c.eng = w.c.eng := rfl
@[simp] theorem W.putByte_c_slu_teams (pa : Nat) (b : Byte) : (w.putByte pa b).c.slu.teams = w.c.slu.teams := rfl
@[simp] theorem W.putByte_c_slu_grids (pa : Nat) (b : Byte) : (w.putByte pa b).c.slu.grids = w.c.slu.grids := rfl
@[simp] theorem W.putByte_c_syn (pa : Nat) (b : Byte) : (w.putByte pa b).c.syn = w.c.syn := rfl
@[simp] theorem W.putByte_c_fab (pa : Nat) (b : Byte) : (w.putByte pa b).c.fab = w.c.fab := rfl
@[simp] theorem W.putByte_c_mc (pa : Nat) (b : Byte) : (w.putByte pa b).c.mc = w.c.mc := rfl
@[simp] theorem W.putByte_c_sys_ctxs (pa : Nat) (b : Byte) : (w.putByte pa b).c.sys.ctxs = w.c.sys.ctxs := rfl
@[simp] theorem W.putByte_c_sys_sr (pa : Nat) (b : Byte) : (w.putByte pa b).c.sys.sr = w.c.sys.sr := rfl
@[simp] theorem W.putByte_c_sys_blk (pa : Nat) (b : Byte) : (w.putByte pa b).c.sys.blk = w.c.sys.blk := rfl
@[simp] theorem W.putByte_c_sys_td (pa : Nat) (b : Byte) : (w.putByte pa b).c.sys.td = w.c.sys.td := rfl
@[simp] theorem W.putByte_c_sys_reps (pa : Nat) (b : Byte) : (w.putByte pa b).c.sys.reps = w.c.sys.reps := rfl
@[simp] theorem W.putByte_c_mdl (pa : Nat) (b : Byte) : (w.putByte pa b).c.mdl = w.c.mdl := rfl

/-! ### setPr -/

@[simp] theorem W.setPr_vr (g l p : Nat) (x : Bool) (g' l' r' : Nat) : (w.setPr g l p x).vr g' l' r' = w.vr g' l' r' := by
  unfold W.setPr; split <;> rfl
@[simp] theorem W.setPr_sr (g l p : Nat) (x : Bool) (f' r' : Nat) : (w.setPr g l p x).sr f' r' = w.sr f' r' := by
  unfold W.setPr; split <;> rfl
@[simp] theorem W.setPr_lane (g l p : Nat) (x : Bool) (g' l' : Nat) : (w.setPr g l p x).lane g' l' = w.lane g' l' := by
  unfold W.setPr; split <;> rfl
@[simp] theorem W.setPr_frag (g l p : Nat) (x : Bool) (f' : Nat) : (w.setPr g l p x).frag f' = w.frag f' := by
  unfold W.setPr; split <;> rfl
@[simp] theorem W.setPr_group (g l p : Nat) (x : Bool) (g' : Nat) : (w.setPr g l p x).group g' = w.group g' := by
  unfold W.setPr; split <;> rfl
@[simp] theorem W.setPr_core (g l p : Nat) (x : Bool) (c' : Nat) : (w.setPr g l p x).core c' = w.core c' := by
  unfold W.setPr; split <;> rfl
@[simp] theorem W.setPr_team (g l p : Nat) (x : Bool) (t' : Nat) : (w.setPr g l p x).team t' = w.team t' := by
  unfold W.setPr; split <;> rfl
@[simp] theorem W.setPr_grid (g l p : Nat) (x : Bool) (n' : Nat) : (w.setPr g l p x).grid n' = w.grid n' := by
  unfold W.setPr; split <;> rfl
@[simp] theorem W.setPr_ctx (g l p : Nat) (x : Bool) (a' : Nat) : (w.setPr g l p x).ctx a' = w.ctx a' := by
  unfold W.setPr; split <;> rfl
@[simp] theorem W.setPr_srReg (g l p : Nat) (x : Bool) (a' : Nat) (q : Reg) : (w.setPr g l p x).srReg a' q = w.srReg a' q := by
  unfold W.setPr; split <;> rfl
@[simp] theorem W.setPr_blk (g l p : Nat) (x : Bool) (q : Reg) (n' : Nat) : (w.setPr g l p x).blk q n' = w.blk q n' := by
  unfold W.setPr; split <;> rfl
@[simp] theorem W.setPr_m0 (g l p : Nat) (x : Bool) : (w.setPr g l p x).m0 = w.m0 := by
  unfold W.setPr; split <;> rfl
@[simp] theorem W.setPr_wq (g l p : Nat) (x : Bool) : (w.setPr g l p x).wq = w.wq := by
  unfold W.setPr; split <;> rfl
@[simp] theorem W.setPr_boot (g l p : Nat) (x : Bool) : (w.setPr g l p x).boot = w.boot := by
  unfold W.setPr; split <;> rfl
@[simp] theorem W.setPr_c_thr_vr (g l p : Nat) (x : Bool) : (w.setPr g l p x).c.thr.vr = w.c.thr.vr := by
  unfold W.setPr; split <;> rfl
@[simp] theorem W.setPr_c_thr_sr (g l p : Nat) (x : Bool) : (w.setPr g l p x).c.thr.sr = w.c.thr.sr := by
  unfold W.setPr; split <;> rfl
@[simp] theorem W.setPr_c_thr_lanes (g l p : Nat) (x : Bool) : (w.setPr g l p x).c.thr.lanes = w.c.thr.lanes := by
  unfold W.setPr; split <;> rfl
@[simp] theorem W.setPr_c_thr_frags (g l p : Nat) (x : Bool) : (w.setPr g l p x).c.thr.frags = w.c.thr.frags := by
  unfold W.setPr; split <;> rfl
@[simp] theorem W.setPr_c_thr_groups (g l p : Nat) (x : Bool) : (w.setPr g l p x).c.thr.groups = w.c.thr.groups := by
  unfold W.setPr; split <;> rfl
@[simp] theorem W.setPr_c_thr_pends (g l p : Nat) (x : Bool) : (w.setPr g l p x).c.thr.pends = w.c.thr.pends := by
  unfold W.setPr; split <;> rfl
@[simp] theorem W.setPr_c_thr_binds (g l p : Nat) (x : Bool) : (w.setPr g l p x).c.thr.binds = w.c.thr.binds := by
  unfold W.setPr; split <;> rfl
@[simp] theorem W.setPr_c_cores (g l p : Nat) (x : Bool) : (w.setPr g l p x).c.cores = w.c.cores := by
  unfold W.setPr; split <;> rfl
@[simp] theorem W.setPr_c_cch (g l p : Nat) (x : Bool) : (w.setPr g l p x).c.cch = w.c.cch := by
  unfold W.setPr; split <;> rfl
@[simp] theorem W.setPr_c_spd (g l p : Nat) (x : Bool) : (w.setPr g l p x).c.spd = w.c.spd := by
  unfold W.setPr; split <;> rfl
@[simp] theorem W.setPr_c_eng (g l p : Nat) (x : Bool) : (w.setPr g l p x).c.eng = w.c.eng := by
  unfold W.setPr; split <;> rfl
@[simp] theorem W.setPr_c_slu_teams (g l p : Nat) (x : Bool) : (w.setPr g l p x).c.slu.teams = w.c.slu.teams := by
  unfold W.setPr; split <;> rfl
@[simp] theorem W.setPr_c_slu_grids (g l p : Nat) (x : Bool) : (w.setPr g l p x).c.slu.grids = w.c.slu.grids := by
  unfold W.setPr; split <;> rfl
@[simp] theorem W.setPr_c_syn (g l p : Nat) (x : Bool) : (w.setPr g l p x).c.syn = w.c.syn := by
  unfold W.setPr; split <;> rfl
@[simp] theorem W.setPr_c_fab (g l p : Nat) (x : Bool) : (w.setPr g l p x).c.fab = w.c.fab := by
  unfold W.setPr; split <;> rfl
@[simp] theorem W.setPr_c_mc (g l p : Nat) (x : Bool) : (w.setPr g l p x).c.mc = w.c.mc := by
  unfold W.setPr; split <;> rfl
@[simp] theorem W.setPr_c_sys_ctxs (g l p : Nat) (x : Bool) : (w.setPr g l p x).c.sys.ctxs = w.c.sys.ctxs := by
  unfold W.setPr; split <;> rfl
@[simp] theorem W.setPr_c_sys_sr (g l p : Nat) (x : Bool) : (w.setPr g l p x).c.sys.sr = w.c.sys.sr := by
  unfold W.setPr; split <;> rfl
@[simp] theorem W.setPr_c_sys_blk (g l p : Nat) (x : Bool) : (w.setPr g l p x).c.sys.blk = w.c.sys.blk := by
  unfold W.setPr; split <;> rfl
@[simp] theorem W.setPr_c_sys_td (g l p : Nat) (x : Bool) : (w.setPr g l p x).c.sys.td = w.c.sys.td := by
  unfold W.setPr; split <;> rfl
@[simp] theorem W.setPr_c_sys_reps (g l p : Nat) (x : Bool) : (w.setPr g l p x).c.sys.reps = w.c.sys.reps := by
  unfold W.setPr; split <;> rfl
@[simp] theorem W.setPr_c_mdl (g l p : Nat) (x : Bool) : (w.setPr g l p x).c.mdl = w.c.mdl := by
  unfold W.setPr; split <;> rfl

end Sys2Proof.Machine
end

