-- ==== Sys2Proof/Laws/Issue.lean ====
section
/-! SUPPORT. What every instruction's frame does, said once: the guard, the advance, the plain end; a
body that neither faults nor waits gives the state after it (06 R151, R152). -/

namespace Sys2Proof.Machine

theorem step1_next (f : W → W) (s : State) : step1 f s = .next (s.act f) := rfl

theorem run_next (g : Guard) (b : Issue → List Nat → W → Eff) (s : State) :
    run g b s = .next (s.act (issue g b)) := rfl

theorem act_boot (f : W → W) (s : State) : (s.act f).boot = s.boot := rfl

theorem act_mem_wf (f : W → W) {s : State} (h : Memory.wf s.mem = true) :
    Memory.wf (s.act f).mem = true := Memory.wf_commit h _

theorem stepEnd_of_not_step {w w0 : W} {i : Issue} (h : (w0.frag i.frag).step = false) :
    w.stepEnd w0 i = w := by simp [W.stepEnd, h]

theorem finish_plain {i : Issue} {es : List Nat} {w0 w : W} (h : (w0.frag i.frag).step = false) :
    finish i es w0 { w := w } = w := by
  simp [finish, stepEnd_of_not_step h]

theorem foldl_modLane_frags (g pc : Nat) : ∀ (ls : List Nat) (w : W),
    (ls.foldl (fun w l => w.modLane g l fun x => { x with pc := pc }) w).c.thr.frags = w.c.thr.frags
  | [], _ => rfl
  | _ :: ls, _ => (foldl_modLane_frags g pc ls _).trans rfl

theorem advance_frags (w : W) (i : Issue) : (w.advance i).c.thr.frags = w.c.thr.frags := by
  unfold W.advance
  split
  · rfl
  · exact foldl_modLane_frags _ _ _ _

theorem moved_frag (w : W) (i : Issue) (f : Nat) :
    ((w.advance i).bumpFresh).frag f = w.frag f := by
  simp only [W.frag, W.bumpFresh, advance_frags]

/-- A body that ends plainly gives the state after it, where the fragment is not single-stepped. -/
theorem run_plain {g : Guard} {b : Issue → List Nat → W → Eff} {s : State} {w : W}
    (hl : s.toW.execLanes s.chip.mdl.cur g ≠ [])
    (hs : (s.toW.frag s.chip.mdl.cur.frag).step = false)
    (hb : b s.chip.mdl.cur (s.toW.execLanes s.chip.mdl.cur g)
      (s.toW.advance s.chip.mdl.cur).bumpFresh = { w := w }) :
    run g b s = .next (w.toState s) := by
  have h0 : (((s.toW.advance s.chip.mdl.cur).bumpFresh).frag s.chip.mdl.cur.frag).step = false := by
    rw [moved_frag]; exact hs
  simp only [run, step1, State.act, issue, show s.toW.c = s.chip from rfl]
  rw [if_neg (by simpa using hl), hb, finish_plain h0]

/-- Any body, where the fragment is not single-stepped. -/
theorem run_body {g : Guard} {b : Issue → List Nat → W → Eff} {s : State}
    (hl : s.toW.execLanes s.chip.mdl.cur g ≠ []) :
    run g b s = .next ((finish s.chip.mdl.cur (s.toW.execLanes s.chip.mdl.cur g)
      (s.toW.advance s.chip.mdl.cur).bumpFresh
      (b s.chip.mdl.cur (s.toW.execLanes s.chip.mdl.cur g)
        (s.toW.advance s.chip.mdl.cur).bumpFresh)).toState s) := by
  simp only [run, step1, State.act, issue, show s.toW.c = s.chip from rfl]
  rw [if_neg (by simpa using hl)]

/-- Where no lane executes, an instruction only advances (03 R65, 06 R151). -/
theorem run_noLane {g : Guard} {b : Issue → List Nat → W → Eff} {s : State}
    (hl : s.toW.execLanes s.chip.mdl.cur g = [])
    (hs : (s.toW.frag s.chip.mdl.cur.frag).step = false) :
    run g b s = .next (((s.toW.advance s.chip.mdl.cur).bumpFresh).toState s) := by
  have h0 : (((s.toW.advance s.chip.mdl.cur).bumpFresh).frag s.chip.mdl.cur.frag).step = false := by
    rw [moved_frag]; exact hs
  simp only [run, step1, State.act, issue, show s.toW.c = s.chip from rfl]
  rw [if_pos (by simpa using hl), stepEnd_of_not_step h0]

/-- Without a queue register nothing is popped. -/
theorem popAll_nil (w : W) (g : Nat) (es : List Nat) : w.popAll g es [] = (w, .ok ([], [])) := rfl

end Sys2Proof.Machine
end

