-- ==== Sys2Proof/Laws/PerInstr.lean ====
section
/-! SUPPORT. The decoder's build step undoes the encoder's parts, for each constructor (03 R63, R75). -/

namespace Sys2Proof.Laws

/-! ## The FN code of each modifier reads back -/

theorem dec_encCc_Cc (m : Cc) : decCc (encCc m) = .ok m := by
  cases m <;> rfl

theorem dec_encBar4_0_Bar4_0 (m : Fin 16) : decBar4 0 (encBar4 0 m) = .ok m := by
  revert m; decide

theorem dec_encMulhM_MulhM (m : MulhM) : decMulhM (encMulhM m) = .ok m := by
  cases m <;> rfl

theorem dec_encSgn_Sgn (m : Sgn) : decSgn (encSgn m) = .ok m := by
  cases m <;> rfl

theorem dec_encBfe_Sgn (m : Sgn) : decBfe (encBfe m) = .ok m := by
  cases m <;> rfl

theorem dec_encLeaM_LeaM (m : LeaM) : decLeaM (encLeaM m) = .ok m := by
  obtain ⟨x0, x1⟩ := m
  cases x0 <;> (revert x1; decide)

theorem dec_encFlag4_Flag4 (m : Bool) : decFlag4 (encFlag4 m) = .ok m := by
  cases m <;> rfl

theorem dec_encAddsM_AddsM (m : AddsM) : decAddsM (encAddsM m) = .ok m := by
  obtain ⟨x0, x1⟩ := m
  cases x0 <;> cases x1 <;> rfl

theorem dec_encDir_Dir (m : Dir) : decDir (encDir m) = .ok m := by
  cases m <;> rfl

theorem dec_encFnlM_FnlM (m : FnlM) : decFnlM (encFnlM m) = .ok m := by
  obtain ⟨x0, x1⟩ := m
  cases x0 <;> cases x1 <;> rfl

theorem dec_encWid_Wid (m : Wid) : decWid (encWid m) = .ok m := by
  cases m <;> rfl

theorem dec_encCmpM_CmpM (m : CmpM) : decCmpM (encCmpM m) = .ok m := by
  obtain ⟨x0, x1⟩ := m
  cases x0 <;> cases x1 <;> rfl

theorem dec_encIcvtM_IcvtM (m : IcvtM) : decIcvtM (encIcvtM m) = .ok m := by
  obtain ⟨x0, x1, x2⟩ := m
  cases x0 <;> cases x1 <;> cases x2 <;> rfl

theorem dec_encB8_B8 (m : BitVec 8) : decB8 (encB8 m) = .ok m := by
  revert m; decide

theorem dec_encPmovM_PmovM (m : PmovM) : decPmovM (encPmovM m) = .ok m := by
  cases m <;> rfl

theorem dec_encUmulM_UmulM (m : UmulM) : decUmulM (encUmulM m) = .ok m := by
  cases m <;> rfl

theorem dec_encUmadM_UmadM (m : UmadM) : decUmadM (encUmadM m) = .ok m := by
  cases m <;> rfl

theorem dec_encUshfM_UshfM (m : UshfM) : decUshfM (encUshfM m) = .ok m := by
  cases m <;> rfl

theorem dec_encShflM_ShflM (m : ShflM) : decShflM (encShflM m) = .ok m := by
  obtain ⟨x0, x1⟩ := m
  cases x0 <;> cases x1 <;> rfl

theorem dec_encSwapM_SwapM (m : SwapM) : decSwapM (encSwapM m) = .ok m := by
  obtain ⟨x0, x1⟩ := m
  cases x1 <;> (revert x0; decide)

theorem dec_encVoteM_VoteM (m : VoteM) : decVoteM (encVoteM m) = .ok m := by
  cases m <;> rfl

theorem dec_encRedOp_RedOp (m : RedOp) : decRedOp (encRedOp m) = .ok m := by
  cases m <;> rfl

theorem dec_encScanM_ScanM (m : ScanM) : decScanM (encScanM m) = .ok m := by
  obtain ⟨x0, x1⟩ := m
  cases x0 <;> cases x1 <;> rfl

theorem dec_encRm_Rm (m : Rnd) : decRm (encRm m) = .ok m := by
  cases m <;> rfl

theorem dec_encFcmpM_FcmpM (m : FcmpM) : decFcmpM (encFcmpM m) = .ok m := by
  obtain ⟨x0, x1⟩ := m
  cases x0 <;> cases x1 <;> rfl

theorem dec_encFdot2M_Fdot2M (m : Fdot2M) : decFdot2M (encFdot2M m) = .ok m := by
  obtain ⟨x0, x1⟩ := m
  cases x0 <;> cases x1 <;> rfl

theorem dec_encFdot4M_Fdot4M (m : Fdot4M) : decFdot4M (encFdot4M m) = .ok m := by
  obtain ⟨x0, x1, x2⟩ := m
  cases x0 <;> cases x1 <;> cases x2 <;> rfl

theorem dec_encFlagFn0_FlagFn0 (m : Bool) : decFlagFn0 (encFlagFn0 m) = .ok m := by
  cases m <;> rfl

theorem dec_encLdM_LdM (m : LdM) : decLdM (encLdM m) = .ok m := by
  obtain ⟨x0, x1⟩ := m
  cases x1 <;> (revert x0; decide)

theorem dec_encStM_StM (m : StM) : decStM (encStM m) = .ok m := by
  obtain ⟨x0, x1⟩ := m
  cases x1 <;> (revert x0; decide)

theorem dec_encRp_Rp (m : Rp) : decRp (encRp m) = .ok m := by
  revert m; decide

theorem decAfaddc_encRp (m : Rp) : decAfaddc (encRp m) = .ok m := by
  revert m; decide

theorem dec_encGathM_GathM (m : GathM) : decGathM (encGathM m) = .ok m := by
  obtain ⟨x0, x1⟩ := m
  (revert x0 x1; decide)

theorem dec_encCstM_CstM (m : CstM) : decCstM (encCstM m) = .ok m := by
  obtain ⟨x0, x1⟩ := m
  cases x1 <;> (revert x0; decide)

theorem dec_encPrefM_PrefM (m : PrefM) : decPrefM (encPrefM m) = .ok m := by
  obtain ⟨x0, x1⟩ := m
  cases x0 <;> cases x1 <;> rfl

theorem dec_encFlagFn0_Inv (m : Bool) : decInv (encFlagFn0 m) = .ok m := by
  cases m <;> rfl

theorem dec_encCasM_CasM (m : CasM) : decCasM (encCasM m) = .ok m := by
  obtain ⟨x0, x1⟩ := m
  cases x1 <;> (revert x0; decide)

theorem dec_encAfaddM_AfaddM (m : AfaddM) : decAfaddM (encAfaddM m) = .ok m := by
  obtain ⟨x0, x1⟩ := m
  cases x1 <;> (revert x0; decide)

theorem dec_encCls_Cls (m : OpClass) : decCls (encCls m) = .ok m := by
  cases m <;> rfl

theorem dec_encCopyDir_CopyDir (m : CopyDir) : decCopyDir (encCopyDir m) = .ok m := by
  cases m <;> rfl

theorem dec_encWinKind_WinKind (m : WinKind) : decWinKind (encWinKind m) = .ok m := by
  cases m <;> rfl

theorem dec_encWin5_Win5 (m : BitVec 5) : decWin5 (encWin5 m) = .ok m := by
  revert m; decide

theorem dec_encCbM_CbM (m : CbM) : decCbM (encCbM m) = .ok m := by
  obtain ⟨x0, x1, x2⟩ := m
  cases x1 <;> (revert x0 x2; decide)

theorem dec_encStreamM_StreamM (m : StreamM) : decStreamM (encStreamM m) = .ok m := by
  obtain ⟨x0, x1, x2⟩ := m
  cases x1 <;> cases x2 <;> (revert x0; decide)

theorem dec_encFin16_Fin16 (m : Fin 16) : decFin16 (encFin16 m) = .ok m := by
  revert m; decide

theorem dec_encQbindM_QbindM (m : QbindM) : decQbindM (encQbindM m) = .ok m := by
  obtain ⟨x0, x1, x2⟩ := m
  cases x1 <;> cases x2 <;> (revert x0; decide)

theorem dec_encTraceM_TraceM (m : TraceM) : decTraceM (encTraceM m) = .ok m := by
  obtain ⟨x0, x1, x2⟩ := m
  cases x0 <;> cases x1 <;> cases x2 <;> rfl

theorem dec_encHitM_HitM (m : HitM) : decHitM (encHitM m) = .ok m := by
  obtain ⟨x0, x1⟩ := m
  cases x0 <;> (revert x1; decide)

theorem dec_encSampM_SampM (m : SampM) : decSampM (encSampM m) = .ok m := by
  obtain ⟨x0, x1, x2⟩ := m
  cases x0 <;> cases x1 <;> (revert x2; decide)

theorem dec_encFilmM_FilmM (m : FilmM) : decFilmM (encFilmM m) = .ok m := by
  cases m <;> rfl

theorem dec_encVecM_VecM (m : VecM) : decVecM (encVecM m) = .ok m := by
  obtain ⟨x0, x1, x2⟩ := m
  cases x1 <;> cases x2 <;> (revert x0; decide)

theorem dec_encLdwM_LdwM (m : LdwM) : decLdwM (encLdwM m) = .ok m := by
  obtain ⟨x0, x1⟩ := m
  cases x1 <;> (revert x0; decide)

theorem dec_encHadM_HadM (m : HadM) : decHadM (encHadM m) = .ok m := by
  obtain ⟨x0, x1⟩ := m
  cases x0 <;> cases x1 <;> rfl

theorem dec_encCollM_CollM (m : CollM) : decCollM (encCollM m) = .ok m := by
  obtain ⟨x0, x1⟩ := m
  cases x0 <;> cases x1 <;> rfl

theorem dec_encFcvtM_FcvtM (m : FcvtM) (h : cvtPairOk m.dt m.st m.sat = true) :
    decFcvtM (encFcvtM m) = .ok m := by
  obtain ⟨x0, x1, x2, x3⟩ := m
  revert h
  cases x0 <;> cases x1 <;> cases x2 <;> cases x3 <;>
    first | (intro _; rfl) | (intro h; exact absurd h (by decide))
theorem dec_encAtomM_atom (m : AtomM) (h : atomOk m.op m.ty = true) :
    decAtomM atomOk (encAtomM m) = .ok m := by
  obtain ⟨x0, x1, x2⟩ := m
  cases x1 <;> cases x2 <;> (revert x0; decide)

theorem dec_encAtomM_ared (m : AtomM) (h : aredOk m.op m.ty = true) :
    decAtomM aredOk (encAtomM m) = .ok m := by
  obtain ⟨x0, x1, x2⟩ := m
  cases x1 <;> cases x2 <;> (revert x0; decide)

theorem dec_encFbM_FbM (m : FbM) (h : (m.kind == .tex || m.addr == .wrap) = true) :
    decFbM (encFbM m) = .ok m := by
  obtain ⟨x0, x1, x2⟩ := m
  cases x0 <;> cases x1 <;> cases x2 <;> first | exact absurd h (by decide) | rfl

theorem dec_encMmaM_MmaM (m : MmaM) (h : (if m.ws then !m.t else m.slot == 0#3) = true) :
    decMmaM (encMmaM m) = .ok m := by
  obtain ⟨x0, x1, x2⟩ := m
  revert h; cases x0 <;> cases x2 <;> (revert x1; decide)


/-- The opcode, FN and fields of an instruction build that instruction, for the modifiers the entry
has. -/
def BuildBack.Statement (i : Instr) : Prop :=
  ∀ p, i.parts = some p → i.modOk = true → build p.op p.fn p.fmt = .ok i

theorem BuildBack.nop (f : Alu) : BuildBack.Statement (.nop f) := by intro p h _; cases h; dsimp only; rfl
theorem BuildBack.nopEntry (f : Alu) : BuildBack.Statement (.nopEntry f) := by intro p h _; cases h; dsimp only; rfl
theorem BuildBack.bra (f : Alu) : BuildBack.Statement (.bra f) := by intro p h _; cases h; dsimp only; rfl
theorem BuildBack.brc (m : Cc) (f : Alu) : BuildBack.Statement (.brc m f) := by
  intro p h _; cases h; dsimp only
  show (decCc (encCc m)).map _ = _
  rw [dec_encCc_Cc]; rfl
theorem BuildBack.brx (f : Alu) : BuildBack.Statement (.brx f) := by intro p h _; cases h; dsimp only; rfl
theorem BuildBack.call (f : Alu) : BuildBack.Statement (.call f) := by intro p h _; cases h; dsimp only; rfl
theorem BuildBack.callx (f : Alu) : BuildBack.Statement (.callx f) := by intro p h _; cases h; dsimp only; rfl
theorem BuildBack.ret (f : Alu) : BuildBack.Statement (.ret f) := by intro p h _; cases h; dsimp only; rfl
theorem BuildBack.meet (f : Alu) : BuildBack.Statement (.meet f) := by intro p h _; cases h; dsimp only; rfl
theorem BuildBack.join (f : Alu) : BuildBack.Statement (.join f) := by intro p h _; cases h; dsimp only; rfl
theorem BuildBack.joinf (f : Alu) : BuildBack.Statement (.joinf f) := by intro p h _; cases h; dsimp only; rfl
theorem BuildBack.exit (f : Alu) : BuildBack.Statement (.exit f) := by intro p h _; cases h; dsimp only; rfl
theorem BuildBack.yield (f : Alu) : BuildBack.Statement (.yield f) := by intro p h _; cases h; dsimp only; rfl
theorem BuildBack.setlive (f : Alu) : BuildBack.Statement (.setlive f) := by intro p h _; cases h; dsimp only; rfl
theorem BuildBack.launch (f : Alu) : BuildBack.Statement (.launch f) := by intro p h _; cases h; dsimp only; rfl
theorem BuildBack.chwait (f : Alu) : BuildBack.Statement (.chwait f) := by intro p h _; cases h; dsimp only; rfl
theorem BuildBack.evsig (f : MemF) : BuildBack.Statement (.evsig f) := by intro p h _; cases h; dsimp only; rfl
theorem BuildBack.evwait (f : MemF) : BuildBack.Statement (.evwait f) := by intro p h _; cases h; dsimp only; rfl
theorem BuildBack.spawn (f : Alu) : BuildBack.Statement (.spawn f) := by intro p h _; cases h; dsimp only; rfl
theorem BuildBack.fetchw (f : Alu) : BuildBack.Statement (.fetchw f) := by intro p h _; cases h; dsimp only; rfl
theorem BuildBack.taskadd (f : Alu) : BuildBack.Statement (.taskadd f) := by intro p h _; cases h; dsimp only; rfl
theorem BuildBack.taskdone (f : Alu) : BuildBack.Statement (.taskdone f) := by intro p h _; cases h; dsimp only; rfl
theorem BuildBack.bar (m : Fin 16) (f : Alu) : BuildBack.Statement (.bar m f) := by
  intro p h _; cases h; dsimp only
  show (decBar4 0 (encBar4 0 m)).map _ = _
  rw [dec_encBar4_0_Bar4_0]; rfl
theorem BuildBack.bara (m : Fin 16) (f : Alu) : BuildBack.Statement (.bara m f) := by
  intro p h _; cases h; dsimp only
  show (decBar4 0 (encBar4 0 m)).map _ = _
  rw [dec_encBar4_0_Bar4_0]; rfl
theorem BuildBack.barw (m : Fin 16) (f : Alu) : BuildBack.Statement (.barw m f) := by
  intro p h _; cases h; dsimp only
  show (decBar4 0 (encBar4 0 m)).map _ = _
  rw [dec_encBar4_0_Bar4_0]; rfl
theorem BuildBack.cbar (m : Fin 8) (f : Alu) : BuildBack.Statement (.cbar m f) := by
  intro p h _; cases h; dsimp only
  show decCbar (encBar3 0 m) f = _
  fin_cases m <;> rfl
theorem BuildBack.cbarArr (m : Fin 8) (f : Alu) : BuildBack.Statement (.cbarArr m f) := by
  intro p h _; cases h; dsimp only
  show decCbar (encBar3 8 m) f = _
  fin_cases m <;> rfl
theorem BuildBack.cbarWt (m : Fin 8) (f : Alu) : BuildBack.Statement (.cbarWt m f) := by
  intro p h _; cases h; dsimp only
  show decCbar (encBar3 16 m) f = _
  fin_cases m <;> rfl
theorem BuildBack.ticketTake (m : Fin 16) (f : Alu) : BuildBack.Statement (.ticketTake m f) := by
  intro p h _; cases h; dsimp only
  show decTicket (encBar4 0 m) f = _
  fin_cases m <;> rfl
theorem BuildBack.ticketGive (m : Fin 16) (f : Alu) : BuildBack.Statement (.ticketGive m f) := by
  intro p h _; cases h; dsimp only
  show decTicket (encBar4 16 m) f = _
  fin_cases m <;> rfl
theorem BuildBack.handoff (m : Fin 16) (f : Alu) : BuildBack.Statement (.handoff m f) := by
  intro p h _; cases h; dsimp only
  show (decBar4 0 (encBar4 0 m)).map _ = _
  rw [dec_encBar4_0_Bar4_0]; rfl
theorem BuildBack.handwait (m : Fin 16) (f : Alu) : BuildBack.Statement (.handwait m f) := by
  intro p h _; cases h; dsimp only
  show (decBar4 0 (encBar4 0 m)).map _ = _
  rw [dec_encBar4_0_Bar4_0]; rfl
theorem BuildBack.add (f : Alu) : BuildBack.Statement (.add f) := by intro p h _; cases h; dsimp only; rfl
theorem BuildBack.sub (f : Alu) : BuildBack.Statement (.sub f) := by intro p h _; cases h; dsimp only; rfl
theorem BuildBack.mul (f : Alu) : BuildBack.Statement (.mul f) := by intro p h _; cases h; dsimp only; rfl
theorem BuildBack.mulh (m : MulhM) (f : Alu) : BuildBack.Statement (.mulh m f) := by
  intro p h _; cases h; dsimp only
  show (decMulhM (encMulhM m)).map _ = _
  rw [dec_encMulhM_MulhM]; rfl
theorem BuildBack.mad (f : Alu) : BuildBack.Statement (.mad f) := by intro p h _; cases h; dsimp only; rfl
theorem BuildBack.madw (m : Sgn) (f : Alu) : BuildBack.Statement (.madw m f) := by
  intro p h _; cases h; dsimp only
  show (decSgn (encSgn m)).map _ = _
  rw [dec_encSgn_Sgn]; rfl
theorem BuildBack.add64 (f : Alu) : BuildBack.Statement (.add64 f) := by intro p h _; cases h; dsimp only; rfl
theorem BuildBack.sub64 (f : Alu) : BuildBack.Statement (.sub64 f) := by intro p h _; cases h; dsimp only; rfl
theorem BuildBack.mad64 (f : Alu) : BuildBack.Statement (.mad64 f) := by intro p h _; cases h; dsimp only; rfl
theorem BuildBack.lea (m : LeaM) (f : Alu) : BuildBack.Statement (.lea m f) := by
  intro p h _; cases h; dsimp only
  show (decLeaM (encLeaM m)).map _ = _
  rw [dec_encLeaM_LeaM]; rfl
theorem BuildBack.imin (m : Sgn) (f : Alu) : BuildBack.Statement (.imin m f) := by
  intro p h _; cases h; dsimp only
  show (decSgn (encSgn m)).map _ = _
  rw [dec_encSgn_Sgn]; rfl
theorem BuildBack.imax (m : Sgn) (f : Alu) : BuildBack.Statement (.imax m f) := by
  intro p h _; cases h; dsimp only
  show (decSgn (encSgn m)).map _ = _
  rw [dec_encSgn_Sgn]; rfl
theorem BuildBack.iabs (m : Bool) (f : Alu) : BuildBack.Statement (.iabs m f) := by
  intro p h _; cases h; dsimp only
  show (decFlag4 (encFlag4 m)).map _ = _
  rw [dec_encFlag4_Flag4]; rfl
theorem BuildBack.adds (m : AddsM) (f : Alu) : BuildBack.Statement (.adds m f) := by
  intro p h _; cases h; dsimp only
  show (decAddsM (encAddsM m)).map _ = _
  rw [dec_encAddsM_AddsM]; rfl
theorem BuildBack.and (f : Alu) : BuildBack.Statement (.and f) := by intro p h _; cases h; dsimp only; rfl
theorem BuildBack.or (f : Alu) : BuildBack.Statement (.or f) := by intro p h _; cases h; dsimp only; rfl
theorem BuildBack.xor (f : Alu) : BuildBack.Statement (.xor f) := by intro p h _; cases h; dsimp only; rfl
theorem BuildBack.andn (f : Alu) : BuildBack.Statement (.andn f) := by intro p h _; cases h; dsimp only; rfl
theorem BuildBack.shl (f : Alu) : BuildBack.Statement (.shl f) := by intro p h _; cases h; dsimp only; rfl
theorem BuildBack.shr (f : Alu) : BuildBack.Statement (.shr f) := by intro p h _; cases h; dsimp only; rfl
theorem BuildBack.sar (f : Alu) : BuildBack.Statement (.sar f) := by intro p h _; cases h; dsimp only; rfl
theorem BuildBack.rot (m : Dir) (f : Alu) : BuildBack.Statement (.rot m f) := by
  intro p h _; cases h; dsimp only
  show (decDir (encDir m)).map _ = _
  rw [dec_encDir_Dir]; rfl
theorem BuildBack.fnl (m : FnlM) (f : Alu) : BuildBack.Statement (.fnl m f) := by
  intro p h _; cases h; dsimp only
  show (decFnlM (encFnlM m)).map _ = _
  rw [dec_encFnlM_FnlM]; rfl
theorem BuildBack.bfe (m : Sgn) (f : Alu) : BuildBack.Statement (.bfe m f) := by
  intro p h _; cases h; dsimp only
  show (decBfe (encBfe m)).map _ = _
  rw [dec_encBfe_Sgn]; rfl
theorem BuildBack.bfi (f : Alu) : BuildBack.Statement (.bfi f) := by intro p h _; cases h; dsimp only; rfl
theorem BuildBack.popc (m : Wid) (f : Alu) : BuildBack.Statement (.popc m f) := by
  intro p h _; cases h; dsimp only
  show (decWid (encWid m)).map _ = _
  rw [dec_encWid_Wid]; rfl
theorem BuildBack.clz (m : Wid) (f : Alu) : BuildBack.Statement (.clz m f) := by
  intro p h _; cases h; dsimp only
  show (decWid (encWid m)).map _ = _
  rw [dec_encWid_Wid]; rfl
theorem BuildBack.ctz (m : Wid) (f : Alu) : BuildBack.Statement (.ctz m f) := by
  intro p h _; cases h; dsimp only
  show (decWid (encWid m)).map _ = _
  rw [dec_encWid_Wid]; rfl
theorem BuildBack.brev (m : Wid) (f : Alu) : BuildBack.Statement (.brev m f) := by
  intro p h _; cases h; dsimp only
  show (decWid (encWid m)).map _ = _
  rw [dec_encWid_Wid]; rfl
theorem BuildBack.perm (f : Alu) : BuildBack.Statement (.perm f) := by intro p h _; cases h; dsimp only; rfl
theorem BuildBack.sel (f : Alu) : BuildBack.Statement (.sel f) := by intro p h _; cases h; dsimp only; rfl
theorem BuildBack.icmp (m : CmpM) (f : Alu) : BuildBack.Statement (.icmp m f) := by
  intro p h _; cases h; dsimp only
  show (decCmpM (encCmpM m)).map _ = _
  rw [dec_encCmpM_CmpM]; rfl
theorem BuildBack.icvt (m : IcvtM) (f : Alu) : BuildBack.Statement (.icvt m f) := by
  intro p h _; cases h; dsimp only
  show (decIcvtM (encIcvtM m)).map _ = _
  rw [dec_encIcvtM_IcvtM]; rfl
theorem BuildBack.mov (f : Alu) : BuildBack.Statement (.mov f) := by intro p h _; cases h; dsimp only; rfl
theorem BuildBack.movi (f : Alu) : BuildBack.Statement (.movi f) := by intro p h _; cases h; dsimp only; rfl
theorem BuildBack.plop (m : BitVec 8) (f : Alu) : BuildBack.Statement (.plop m f) := by
  intro p h _; cases h; dsimp only
  show (decB8 (encB8 m)).map _ = _
  rw [dec_encB8_B8]; rfl
theorem BuildBack.pmov (m : PmovM) (f : Alu) : BuildBack.Statement (.pmov m f) := by
  intro p h _; cases h; dsimp only
  show (decPmovM (encPmovM m)).map _ = _
  rw [dec_encPmovM_PmovM]; rfl
theorem BuildBack.uadd (m : Wid) (f : Alu) : BuildBack.Statement (.uadd m f) := by
  intro p h _; cases h; dsimp only
  show (decWid (encWid m)).map _ = _
  rw [dec_encWid_Wid]; rfl
theorem BuildBack.usub (m : Wid) (f : Alu) : BuildBack.Statement (.usub m f) := by
  intro p h _; cases h; dsimp only
  show (decWid (encWid m)).map _ = _
  rw [dec_encWid_Wid]; rfl
theorem BuildBack.umul (m : UmulM) (f : Alu) : BuildBack.Statement (.umul m f) := by
  intro p h _; cases h; dsimp only
  show (decUmulM (encUmulM m)).map _ = _
  rw [dec_encUmulM_UmulM]; rfl
theorem BuildBack.umad (m : UmadM) (f : Alu) : BuildBack.Statement (.umad m f) := by
  intro p h _; cases h; dsimp only
  show (decUmadM (encUmadM m)).map _ = _
  rw [dec_encUmadM_UmadM]; rfl
theorem BuildBack.ulop (m : BitVec 8) (f : Alu) : BuildBack.Statement (.ulop m f) := by
  intro p h _; cases h; dsimp only
  show (decB8 (encB8 m)).map _ = _
  rw [dec_encB8_B8]; rfl
theorem BuildBack.ushf (m : UshfM) (f : Alu) : BuildBack.Statement (.ushf m f) := by
  intro p h _; cases h; dsimp only
  show (decUshfM (encUshfM m)).map _ = _
  rw [dec_encUshfM_UshfM]; rfl
theorem BuildBack.ucmp (m : CmpM) (f : Alu) : BuildBack.Statement (.ucmp m f) := by
  intro p h _; cases h; dsimp only
  show (decCmpM (encCmpM m)).map _ = _
  rw [dec_encCmpM_CmpM]; rfl
theorem BuildBack.umov (m : Wid) (f : Alu) : BuildBack.Statement (.umov m f) := by
  intro p h _; cases h; dsimp only
  show (decWid (encWid m)).map _ = _
  rw [dec_encWid_Wid]; rfl
theorem BuildBack.usel (f : Alu) : BuildBack.Statement (.usel f) := by intro p h _; cases h; dsimp only; rfl
theorem BuildBack.ulea (m : LeaM) (f : Alu) : BuildBack.Statement (.ulea m f) := by
  intro p h _; cases h; dsimp only
  show (decLeaM (encLeaM m)).map _ = _
  rw [dec_encLeaM_LeaM]; rfl
theorem BuildBack.rdfl (m : Wid) (f : Alu) : BuildBack.Statement (.rdfl m f) := by
  intro p h _; cases h; dsimp only
  show (decWid (encWid m)).map _ = _
  rw [dec_encWid_Wid]; rfl
theorem BuildBack.rdln (m : Wid) (f : Alu) : BuildBack.Statement (.rdln m f) := by
  intro p h _; cases h; dsimp only
  show (decWid (encWid m)).map _ = _
  rw [dec_encWid_Wid]; rfl
theorem BuildBack.wrln (m : Wid) (f : Alu) : BuildBack.Statement (.wrln m f) := by
  intro p h _; cases h; dsimp only
  show (decWid (encWid m)).map _ = _
  rw [dec_encWid_Wid]; rfl
theorem BuildBack.shfl (m : ShflM) (f : Alu) : BuildBack.Statement (.shfl m f) := by
  intro p h _; cases h; dsimp only
  show (decShflM (encShflM m)).map _ = _
  rw [dec_encShflM_ShflM]; rfl
theorem BuildBack.swapp (m : SwapM) (f : Alu) : BuildBack.Statement (.swapp m f) := by
  intro p h _; cases h; dsimp only
  show (decSwapM (encSwapM m)).map _ = _
  rw [dec_encSwapM_SwapM]; rfl
theorem BuildBack.ballot (f : Alu) : BuildBack.Statement (.ballot f) := by intro p h _; cases h; dsimp only; rfl
theorem BuildBack.vote (m : VoteM) (f : Alu) : BuildBack.Statement (.vote m f) := by
  intro p h _; cases h; dsimp only
  show (decVoteM (encVoteM m)).map _ = _
  rw [dec_encVoteM_VoteM]; rfl
theorem BuildBack.gred (m : RedOp) (f : Alu) : BuildBack.Statement (.gred m f) := by
  intro p h _; cases h; dsimp only
  show (decRedOp (encRedOp m)).map _ = _
  rw [dec_encRedOp_RedOp]; rfl
theorem BuildBack.gscan (m : ScanM) (f : Alu) : BuildBack.Statement (.gscan m f) := by
  intro p h _; cases h; dsimp only
  show (decScanM (encScanM m)).map _ = _
  rw [dec_encScanM_ScanM]; rfl
theorem BuildBack.match (m : Wid) (f : Alu) : BuildBack.Statement (.match m f) := by
  intro p h _; cases h; dsimp only
  show (decWid (encWid m)).map _ = _
  rw [dec_encWid_Wid]; rfl
theorem BuildBack.cmprs (f : Alu) : BuildBack.Statement (.cmprs f) := by intro p h _; cases h; dsimp only; rfl
theorem BuildBack.expnd (f : Alu) : BuildBack.Statement (.expnd f) := by intro p h _; cases h; dsimp only; rfl
theorem BuildBack.fadd (m : Rnd) (f : Alu) : BuildBack.Statement (.fadd m f) := by
  intro p h _; cases h; dsimp only
  show (decRm (encRm m)).map _ = _
  rw [dec_encRm_Rm]; rfl
theorem BuildBack.fsub (m : Rnd) (f : Alu) : BuildBack.Statement (.fsub m f) := by
  intro p h _; cases h; dsimp only
  show (decRm (encRm m)).map _ = _
  rw [dec_encRm_Rm]; rfl
theorem BuildBack.fmul (m : Rnd) (f : Alu) : BuildBack.Statement (.fmul m f) := by
  intro p h _; cases h; dsimp only
  show (decRm (encRm m)).map _ = _
  rw [dec_encRm_Rm]; rfl
theorem BuildBack.ffma (m : Rnd) (f : Alu) : BuildBack.Statement (.ffma m f) := by
  intro p h _; cases h; dsimp only
  show (decRm (encRm m)).map _ = _
  rw [dec_encRm_Rm]; rfl
theorem BuildBack.fmin (m : Bool) (f : Alu) : BuildBack.Statement (.fmin m f) := by
  intro p h _; cases h; dsimp only
  show (decFlag4 (encFlag4 m)).map _ = _
  rw [dec_encFlag4_Flag4]; rfl
theorem BuildBack.fmax (m : Bool) (f : Alu) : BuildBack.Statement (.fmax m f) := by
  intro p h _; cases h; dsimp only
  show (decFlag4 (encFlag4 m)).map _ = _
  rw [dec_encFlag4_Flag4]; rfl
theorem BuildBack.fcmp (m : FcmpM) (f : Alu) : BuildBack.Statement (.fcmp m f) := by
  intro p h _; cases h; dsimp only
  show (decFcmpM (encFcmpM m)).map _ = _
  rw [dec_encFcmpM_FcmpM]; rfl
theorem BuildBack.fclass (f : Alu) : BuildBack.Statement (.fclass f) := by intro p h _; cases h; dsimp only; rfl
theorem BuildBack.frcp (f : Alu) : BuildBack.Statement (.frcp f) := by intro p h _; cases h; dsimp only; rfl
theorem BuildBack.frsq (f : Alu) : BuildBack.Statement (.frsq f) := by intro p h _; cases h; dsimp only; rfl
theorem BuildBack.fsqrt (m : Rnd) (f : Alu) : BuildBack.Statement (.fsqrt m f) := by
  intro p h _; cases h; dsimp only
  show (decRm (encRm m)).map _ = _
  rw [dec_encRm_Rm]; rfl
theorem BuildBack.fdiv (m : Rnd) (f : Alu) : BuildBack.Statement (.fdiv m f) := by
  intro p h _; cases h; dsimp only
  show (decRm (encRm m)).map _ = _
  rw [dec_encRm_Rm]; rfl
theorem BuildBack.fexp2 (f : Alu) : BuildBack.Statement (.fexp2 f) := by intro p h _; cases h; dsimp only; rfl
theorem BuildBack.flog2 (f : Alu) : BuildBack.Statement (.flog2 f) := by intro p h _; cases h; dsimp only; rfl
theorem BuildBack.fsin (f : Alu) : BuildBack.Statement (.fsin f) := by intro p h _; cases h; dsimp only; rfl
theorem BuildBack.fcos (f : Alu) : BuildBack.Statement (.fcos f) := by intro p h _; cases h; dsimp only; rfl
theorem BuildBack.fsinpi (f : Alu) : BuildBack.Statement (.fsinpi f) := by intro p h _; cases h; dsimp only; rfl
theorem BuildBack.fcospi (f : Alu) : BuildBack.Statement (.fcospi f) := by intro p h _; cases h; dsimp only; rfl
theorem BuildBack.fsincos (f : Alu) : BuildBack.Statement (.fsincos f) := by intro p h _; cases h; dsimp only; rfl
theorem BuildBack.ftanh (f : Alu) : BuildBack.Statement (.ftanh f) := by intro p h _; cases h; dsimp only; rfl
theorem BuildBack.frint (m : Rnd) (f : Alu) : BuildBack.Statement (.frint m f) := by
  intro p h _; cases h; dsimp only
  show (decRm (encRm m)).map _ = _
  rw [dec_encRm_Rm]; rfl
theorem BuildBack.ffrac (f : Alu) : BuildBack.Statement (.ffrac f) := by intro p h _; cases h; dsimp only; rfl
theorem BuildBack.fldexp (m : Rnd) (f : Alu) : BuildBack.Statement (.fldexp m f) := by
  intro p h _; cases h; dsimp only
  show (decRm (encRm m)).map _ = _
  rw [dec_encRm_Rm]; rfl
theorem BuildBack.fcvt (m : FcvtM) (f : Alu) : BuildBack.Statement (.fcvt m f) := by
  intro p h ho; cases h; dsimp only
  show (decFcvtM (encFcvtM m)).map _ = _
  rw [dec_encFcvtM_FcvtM m ho]; rfl
theorem BuildBack.fpack (m : BitVec 8) (f : Alu) : BuildBack.Statement (.fpack m f) := by
  intro p h _; cases h; dsimp only
  show (decB8 (encB8 m)).map _ = _
  rw [dec_encB8_B8]; rfl
theorem BuildBack.funpk (m : BitVec 8) (f : Alu) : BuildBack.Statement (.funpk m f) := by
  intro p h _; cases h; dsimp only
  show (decB8 (encB8 m)).map _ = _
  rw [dec_encB8_B8]; rfl
theorem BuildBack.hfma2 (m : Rnd) (f : Alu) : BuildBack.Statement (.hfma2 m f) := by
  intro p h _; cases h; dsimp only
  show (decRm (encRm m)).map _ = _
  rw [dec_encRm_Rm]; rfl
theorem BuildBack.hadd2 (m : Rnd) (f : Alu) : BuildBack.Statement (.hadd2 m f) := by
  intro p h _; cases h; dsimp only
  show (decRm (encRm m)).map _ = _
  rw [dec_encRm_Rm]; rfl
theorem BuildBack.hmul2 (m : Rnd) (f : Alu) : BuildBack.Statement (.hmul2 m f) := by
  intro p h _; cases h; dsimp only
  show (decRm (encRm m)).map _ = _
  rw [dec_encRm_Rm]; rfl
theorem BuildBack.bfma2 (m : Rnd) (f : Alu) : BuildBack.Statement (.bfma2 m f) := by
  intro p h _; cases h; dsimp only
  show (decRm (encRm m)).map _ = _
  rw [dec_encRm_Rm]; rfl
theorem BuildBack.fdot2 (m : Fdot2M) (f : Alu) : BuildBack.Statement (.fdot2 m f) := by
  intro p h _; cases h; dsimp only
  show (decFdot2M (encFdot2M m)).map _ = _
  rw [dec_encFdot2M_Fdot2M]; rfl
theorem BuildBack.fdot4 (m : Fdot4M) (f : Alu) : BuildBack.Statement (.fdot4 m f) := by
  intro p h _; cases h; dsimp only
  show (decFdot4M (encFdot4M m)).map _ = _
  rw [dec_encFdot4M_Fdot4M]; rfl
theorem BuildBack.fsrnd (m : BitVec 8) (f : Alu) : BuildBack.Statement (.fsrnd m f) := by
  intro p h _; cases h; dsimp only
  show (decB8 (encB8 m)).map _ = _
  rw [dec_encB8_B8]; rfl
theorem BuildBack.wmov (m : Bool) (f : Alu) : BuildBack.Statement (.wmov m f) := by
  intro p h _; cases h; dsimp only
  show (decFlagFn0 (encFlagFn0 m)).map _ = _
  rw [dec_encFlagFn0_FlagFn0]; rfl
theorem BuildBack.wadd (f : Alu) : BuildBack.Statement (.wadd f) := by intro p h _; cases h; dsimp only; rfl
theorem BuildBack.wmul (f : Alu) : BuildBack.Statement (.wmul f) := by intro p h _; cases h; dsimp only; rfl
theorem BuildBack.wfma (f : Alu) : BuildBack.Statement (.wfma f) := by intro p h _; cases h; dsimp only; rfl
theorem BuildBack.wmin (m : Bool) (f : Alu) : BuildBack.Statement (.wmin m f) := by
  intro p h _; cases h; dsimp only
  show (decFlag4 (encFlag4 m)).map _ = _
  rw [dec_encFlag4_Flag4]; rfl
theorem BuildBack.wmax (m : Bool) (f : Alu) : BuildBack.Statement (.wmax m f) := by
  intro p h _; cases h; dsimp only
  show (decFlag4 (encFlag4 m)).map _ = _
  rw [dec_encFlag4_Flag4]; rfl
theorem BuildBack.wrcp (f : Alu) : BuildBack.Statement (.wrcp f) := by intro p h _; cases h; dsimp only; rfl
theorem BuildBack.wexpn (f : Alu) : BuildBack.Statement (.wexpn f) := by intro p h _; cases h; dsimp only; rfl
theorem BuildBack.wsum (f : Alu) : BuildBack.Statement (.wsum f) := by intro p h _; cases h; dsimp only; rfl
theorem BuildBack.wdot (f : Alu) : BuildBack.Statement (.wdot f) := by intro p h _; cases h; dsimp only; rfl
theorem BuildBack.wlam (f : Alu) : BuildBack.Statement (.wlam f) := by intro p h _; cases h; dsimp only; rfl
theorem BuildBack.wlerp (f : Alu) : BuildBack.Statement (.wlerp f) := by intro p h _; cases h; dsimp only; rfl
theorem BuildBack.wcvt (m : Bool) (f : Alu) : BuildBack.Statement (.wcvt m f) := by
  intro p h _; cases h; dsimp only
  show (decFlagFn0 (encFlagFn0 m)).map _ = _
  rw [dec_encFlagFn0_FlagFn0]; rfl
theorem BuildBack.wfres (m : Bool) (f : Alu) : BuildBack.Statement (.wfres m f) := by
  intro p h _; cases h; dsimp only
  show (decFlagFn0 (encFlagFn0 m)).map _ = _
  rw [dec_encFlagFn0_FlagFn0]; rfl
theorem BuildBack.smuel (m : Bool) (f : Alu) : BuildBack.Statement (.smuel m f) := by
  intro p h _; cases h; dsimp only
  show (decFlagFn0 (encFlagFn0 m)).map _ = _
  rw [dec_encFlagFn0_FlagFn0]; rfl
theorem BuildBack.ld (m : LdM) (f : MemF) : BuildBack.Statement (.ld m f) := by
  intro p h _; cases h; dsimp only
  show (decLdM (encLdM m)).map _ = _
  rw [dec_encLdM_LdM]; rfl
theorem BuildBack.st (m : StM) (f : MemF) : BuildBack.Statement (.st m f) := by
  intro p h _; cases h; dsimp only
  show (decStM (encStM m)).map _ = _
  rw [dec_encStM_StM]; rfl
theorem BuildBack.ldu (m : LdM) (f : MemF) : BuildBack.Statement (.ldu m f) := by
  intro p h _; cases h; dsimp only
  show (decLdM (encLdM m)).map _ = _
  rw [dec_encLdM_LdM]; rfl
theorem BuildBack.usto (m : StM) (f : MemF) : BuildBack.Statement (.usto m f) := by
  intro p h _; cases h; dsimp only
  show (decStM (encStM m)).map _ = _
  rw [dec_encStM_StM]; rfl
theorem BuildBack.ldt (m : Rp) (f : MemF) : BuildBack.Statement (.ldt m f) := by
  intro p h _; cases h; dsimp only
  show (decRp (encRp m)).map _ = _
  rw [dec_encRp_Rp]; rfl
theorem BuildBack.stt (m : Rp) (f : MemF) : BuildBack.Statement (.stt m f) := by
  intro p h _; cases h; dsimp only
  show (decRp (encRp m)).map _ = _
  rw [dec_encRp_Rp]; rfl
theorem BuildBack.gath (m : GathM) (f : MemF) : BuildBack.Statement (.gath m f) := by
  intro p h _; cases h; dsimp only
  show (decGathM (encGathM m)).map _ = _
  rw [dec_encGathM_GathM]; rfl
theorem BuildBack.scat (m : GathM) (f : MemF) : BuildBack.Statement (.scat m f) := by
  intro p h _; cases h; dsimp only
  show (decGathM (encGathM m)).map _ = _
  rw [dec_encGathM_GathM]; rfl
theorem BuildBack.cstore (m : CstM) (f : MemF) : BuildBack.Statement (.cstore m f) := by
  intro p h _; cases h; dsimp only
  show (decCstM (encCstM m)).map _ = _
  rw [dec_encCstM_CstM]; rfl
theorem BuildBack.pref (m : PrefM) (f : MemF) : BuildBack.Statement (.pref m f) := by
  intro p h _; cases h; dsimp only
  show (decPrefM (encPrefM m)).map _ = _
  rw [dec_encPrefM_PrefM]; rfl
theorem BuildBack.resreq (f : MemF) : BuildBack.Statement (.resreq f) := by intro p h _; cases h; dsimp only; rfl
theorem BuildBack.resq (f : Alu) : BuildBack.Statement (.resq f) := by intro p h _; cases h; dsimp only; rfl
theorem BuildBack.splook (f : Alu) : BuildBack.Statement (.splook f) := by intro p h _; cases h; dsimp only; rfl
theorem BuildBack.sptag (f : Alu) : BuildBack.Statement (.sptag f) := by intro p h _; cases h; dsimp only; rfl
theorem BuildBack.spfill (f : Alu) : BuildBack.Statement (.spfill f) := by intro p h _; cases h; dsimp only; rfl
theorem BuildBack.spevict (f : Alu) : BuildBack.Statement (.spevict f) := by intro p h _; cases h; dsimp only; rfl
theorem BuildBack.fence (f : MemF) : BuildBack.Statement (.fence f) := by intro p h _; cases h; dsimp only; rfl
theorem BuildBack.cflush (m : Bool) (f : MemF) : BuildBack.Statement (.cflush m f) := by
  intro p h _; cases h; dsimp only
  show (decInv (encFlagFn0 m)).map _ = _
  rw [dec_encFlagFn0_Inv]; rfl
theorem BuildBack.cinv (f : MemF) : BuildBack.Statement (.cinv f) := by intro p h _; cases h; dsimp only; rfl
theorem BuildBack.atom (m : AtomM) (f : MemF) : BuildBack.Statement (.atom m f) := by
  intro p h ho; cases h; dsimp only
  show (decAtomM atomOk (encAtomM m)).map _ = _
  rw [dec_encAtomM_atom m ho]; rfl
theorem BuildBack.acas (m : CasM) (f : MemF) : BuildBack.Statement (.acas m f) := by
  intro p h _; cases h; dsimp only
  show (decCasM (encCasM m)).map _ = _
  rw [dec_encCasM_CasM]; rfl
theorem BuildBack.afadd (m : AfaddM) (f : MemF) : BuildBack.Statement (.afadd m f) := by
  intro p h _; cases h; dsimp only
  show (decAfaddM (encAfaddM m)).map _ = _
  rw [dec_encAfaddM_AfaddM]; rfl
theorem BuildBack.afaddc (m : Rp) (f : MemF) : BuildBack.Statement (.afaddc m f) := by
  intro p h _; cases h; dsimp only
  show (decAfaddc (encRp m)).map _ = _
  rw [decAfaddc_encRp]; rfl
theorem BuildBack.ared (m : AtomM) (f : MemF) : BuildBack.Statement (.ared m f) := by
  intro p h ho; cases h; dsimp only
  show (decAtomM aredOk (encAtomM m)).map _ = _
  rw [dec_encAtomM_ared m ho]; rfl
theorem BuildBack.waitc (m : OpClass) (f : Alu) : BuildBack.Statement (.waitc m f) := by
  intro p h _; cases h; dsimp only
  show (decCls (encCls m)).map _ = _
  rw [dec_encCls_Cls]; rfl
theorem BuildBack.tdset (f : MemF) : BuildBack.Statement (.tdset f) := by intro p h _; cases h; dsimp only; rfl
theorem BuildBack.tdget (f : MemF) : BuildBack.Statement (.tdget f) := by intro p h _; cases h; dsimp only; rfl
theorem BuildBack.tcopy (m : CopyDir) (f : EngF) : BuildBack.Statement (.tcopy m f) := by
  intro p h _; cases h; dsimp only
  show (decCopyDir (encCopyDir m)).map _ = _
  rw [dec_encCopyDir_CopyDir]; rfl
theorem BuildBack.tcopym (f : EngF) : BuildBack.Statement (.tcopym f) := by intro p h _; cases h; dsimp only; rfl
theorem BuildBack.windef (m : WinKind) (f : EngF) : BuildBack.Statement (.windef m f) := by
  intro p h _; cases h; dsimp only
  show (decWinKind (encWinKind m)).map _ = _
  rw [dec_encWinKind_WinKind]; rfl
theorem BuildBack.wincLr (m : BitVec 5) (f : Alu) : BuildBack.Statement (.wincLr m f) := by
  intro p h _; cases h; dsimp only
  show (decWin5 (encWin5 m)).map _ = _
  rw [dec_encWin5_Win5]; rfl
theorem BuildBack.cbtest (m : CbM) (f : Alu) : BuildBack.Statement (.cbtest m f) := by
  intro p h _; cases h; dsimp only
  show (decCbM (encCbM m)).map _ = _
  rw [dec_encCbM_CbM]; rfl
theorem BuildBack.cbwait (m : CbM) (f : Alu) : BuildBack.Statement (.cbwait m f) := by
  intro p h _; cases h; dsimp only
  show (decCbM (encCbM m)).map _ = _
  rw [dec_encCbM_CbM]; rfl
theorem BuildBack.stream (m : StreamM) (f : EngF) : BuildBack.Statement (.stream m f) := by
  intro p h _; cases h; dsimp only
  show (decStreamM (encStreamM m)).map _ = _
  rw [dec_encStreamM_StreamM]; rfl
theorem BuildBack.sclose (m : Fin 16) (f : Alu) : BuildBack.Statement (.sclose m f) := by
  intro p h _; cases h; dsimp only
  show (decFin16 (encFin16 m)).map _ = _
  rw [dec_encFin16_Fin16]; rfl
theorem BuildBack.qstat (m : Fin 16) (f : Alu) : BuildBack.Statement (.qstat m f) := by
  intro p h _; cases h; dsimp only
  show (decFin16 (encFin16 m)).map _ = _
  rw [dec_encFin16_Fin16]; rfl
theorem BuildBack.qbind (m : QbindM) (f : EngF) : BuildBack.Statement (.qbind m f) := by
  intro p h _; cases h; dsimp only
  show (decQbindM (encQbindM m)).map _ = _
  rw [dec_encQbindM_QbindM]; rfl
theorem BuildBack.trace (m : TraceM) (f : EngF) : BuildBack.Statement (.trace m f) := by
  intro p h _; cases h; dsimp only
  show (decTraceM (encTraceM m)).map _ = _
  rw [dec_encTraceM_TraceM]; rfl
theorem BuildBack.hitget (m : HitM) (f : Alu) : BuildBack.Statement (.hitget m f) := by
  intro p h _; cases h; dsimp only
  show (decHitM (encHitM m)).map _ = _
  rw [dec_encHitM_HitM]; rfl
theorem BuildBack.ssamp (m : SampM) (f : EngF) : BuildBack.Statement (.ssamp m f) := by
  intro p h _; cases h; dsimp only
  show (decSampM (encSampM m)).map _ = _
  rw [dec_encSampM_SampM]; rfl
theorem BuildBack.samp (m : SampM) (f : EngF) : BuildBack.Statement (.samp m f) := by
  intro p h _; cases h; dsimp only
  show (decSampM (encSampM m)).map _ = _
  rw [dec_encSampM_SampM]; rfl
theorem BuildBack.filmacc (m : FilmM) (f : EngF) : BuildBack.Statement (.filmacc m f) := by
  intro p h _; cases h; dsimp only
  show (decFilmM (encFilmM m)).map _ = _
  rw [dec_encFilmM_FilmM]; rfl
theorem BuildBack.resfb (m : FbM) (f : EngF) : BuildBack.Statement (.resfb m f) := by
  intro p h ho; cases h; dsimp only
  show (decFbM (encFbM m)).map _ = _
  rw [dec_encFbM_FbM m ho]; rfl
theorem BuildBack.mxalloc (f : Alu) : BuildBack.Statement (.mxalloc f) := by intro p h _; cases h; dsimp only; rfl
theorem BuildBack.mxfree (f : Alu) : BuildBack.Statement (.mxfree f) := by intro p h _; cases h; dsimp only; rfl
theorem BuildBack.mxzero (f : Alu) : BuildBack.Statement (.mxzero f) := by intro p h _; cases h; dsimp only; rfl
theorem BuildBack.mxmma (m : MmaM) (f : MatF) : BuildBack.Statement (.mxmma m f) := by
  intro p h ho; cases h; dsimp only
  show (decMmaM (encMmaM m)).map _ = _
  rw [dec_encMmaM_MmaM m ho]; rfl
theorem BuildBack.mxvec (m : VecM) (f : MatF) : BuildBack.Statement (.mxvec m f) := by
  intro p h _; cases h; dsimp only
  show (decVecM (encVecM m)).map _ = _
  rw [dec_encVecM_VecM]; rfl
theorem BuildBack.mxldw (m : LdwM) (f : MatF) : BuildBack.Statement (.mxldw m f) := by
  intro p h _; cases h; dsimp only
  show (decLdwM (encLdwM m)).map _ = _
  rw [dec_encLdwM_LdwM]; rfl
theorem BuildBack.mxlda (f : MatF) : BuildBack.Statement (.mxlda f) := by intro p h _; cases h; dsimp only; rfl
theorem BuildBack.mxst (f : MatF) : BuildBack.Statement (.mxst f) := by intro p h _; cases h; dsimp only; rfl
theorem BuildBack.mxhad (m : HadM) (f : MatF) : BuildBack.Statement (.mxhad m f) := by
  intro p h _; cases h; dsimp only
  show (decHadM (encHadM m)).map _ = _
  rw [dec_encHadM_HadM]; rfl
theorem BuildBack.mxqnt (f : MatF) : BuildBack.Statement (.mxqnt f) := by intro p h _; cases h; dsimp only; rfl
theorem BuildBack.mxprog (m : ProgM) (f : Alu) : BuildBack.Statement (.mxprog m f) := by
  intro p h _; cases h; dsimp only; cases m <;> rfl
theorem BuildBack.pxpush (m : Fin 16) (f : EngF) : BuildBack.Statement (.pxpush m f) := by
  intro p h _; cases h; dsimp only
  show (decFin16 (encFin16 m)).map _ = _
  rw [dec_encFin16_Fin16]; rfl
theorem BuildBack.tkmrg (f : Alu) : BuildBack.Statement (.tkmrg f) := by intro p h _; cases h; dsimp only; rfl
theorem BuildBack.tkwait (f : Alu) : BuildBack.Statement (.tkwait f) := by intro p h _; cases h; dsimp only; rfl
theorem BuildBack.coll (m : CollM) (f : EngF) : BuildBack.Statement (.coll m f) := by
  intro p h _; cases h; dsimp only
  show (decCollM (encCollM m)).map _ = _
  rw [dec_encCollM_CollM]; rfl
theorem BuildBack.trap (f : Alu) : BuildBack.Statement (.trap f) := by intro p h _; cases h; dsimp only; rfl
theorem BuildBack.svc (f : Alu) : BuildBack.Statement (.svc f) := by intro p h _; cases h; dsimp only; rfl
theorem BuildBack.brk (f : Alu) : BuildBack.Statement (.brk f) := by intro p h _; cases h; dsimp only; rfl
theorem BuildBack.eretRes (f : Alu) : BuildBack.Statement (.eretRes f) := by intro p h _; cases h; dsimp only; rfl
theorem BuildBack.eretSkip (f : Alu) : BuildBack.Statement (.eretSkip f) := by intro p h _; cases h; dsimp only; rfl
theorem BuildBack.eretStep (f : Alu) : BuildBack.Statement (.eretStep f) := by intro p h _; cases h; dsimp only; rfl
theorem BuildBack.rdsr (f : Alu) : BuildBack.Statement (.rdsr f) := by intro p h _; cases h; dsimp only; rfl
theorem BuildBack.wrsr (f : Alu) : BuildBack.Statement (.wrsr f) := by intro p h _; cases h; dsimp only; rfl
theorem BuildBack.tlbinvVa (f : MemF) : BuildBack.Statement (.tlbinvVa f) := by intro p h _; cases h; dsimp only; rfl
theorem BuildBack.tlbinvAsid (f : MemF) : BuildBack.Statement (.tlbinvAsid f) := by intro p h _; cases h; dsimp only; rfl
theorem BuildBack.tlbinvAll (f : MemF) : BuildBack.Statement (.tlbinvAll f) := by intro p h _; cases h; dsimp only; rfl
theorem BuildBack.time (m : TimeM) (f : Alu) : BuildBack.Statement (.time m f) := by
  intro p h _; cases h; dsimp only; cases m <;> rfl
theorem BuildBack.energy (m : EnergyM) (f : Alu) : BuildBack.Statement (.energy m f) := by
  intro p h _; cases h; dsimp only; cases m <;> rfl
theorem BuildBack.perfrd (f : Alu) : BuildBack.Statement (.perfrd f) := by intro p h _; cases h; dsimp only; rfl
theorem BuildBack.slotIssue (core : Nat) (slot : Nat) : BuildBack.Statement (.slotIssue core slot) := by intro p h _; cases h
theorem BuildBack.fragmentBoost (core : Nat) (ctx : Nat) : BuildBack.Statement (.fragmentBoost core ctx) := by intro p h _; cases h
theorem BuildBack.issueCountSwitch (core : Nat) (ctx : Nat) : BuildBack.Statement (.issueCountSwitch core ctx) := by intro p h _; cases h
theorem BuildBack.fetchBlockArrival (core : Nat) (asid : Nat) (block : Nat) : BuildBack.Statement (.fetchBlockArrival core asid block) := by intro p h _; cases h
theorem BuildBack.resultLanding (id : Nat) : BuildBack.Statement (.resultLanding id) := by intro p h _; cases h
theorem BuildBack.lookaheadHoldExpiry (core : Nat) (ctx : Nat) : BuildBack.Statement (.lookaheadHoldExpiry core ctx) := by intro p h _; cases h
theorem BuildBack.faultReport (ring : Ring) : BuildBack.Statement (.faultReport ring) := by intro p h _; cases h
theorem BuildBack.contextFill (core : Nat) : BuildBack.Statement (.contextFill core) := by intro p h _; cases h
theorem BuildBack.displacement (core : Nat) : BuildBack.Statement (.displacement core) := by intro p h _; cases h
theorem BuildBack.overflowLatchDrain (core : Nat) : BuildBack.Statement (.overflowLatchDrain core) := by intro p h _; cases h
theorem BuildBack.taskRipening (core : Nat) : BuildBack.Statement (.taskRipening core) := by intro p h _; cases h
theorem BuildBack.rdmaWrite (port : Nat) (qp : Nat) (rkey : Nat) (addr : Nat) (data : List Byte) : BuildBack.Statement (.rdmaWrite port qp rkey addr data) := by intro p h _; cases h
theorem BuildBack.rdmaRead (port : Nat) (qp : Nat) (rkey : Nat) (addr : Nat) (len : Nat) : BuildBack.Statement (.rdmaRead port qp rkey addr len) := by intro p h _; cases h
theorem BuildBack.rdmaCas (port : Nat) (qp : Nat) (rkey : Nat) (addr : Nat) (cmp : Dword) (swp : Dword) : BuildBack.Statement (.rdmaCas port qp rkey addr cmp swp) := by intro p h _; cases h
theorem BuildBack.rdmaFaa (port : Nat) (qp : Nat) (rkey : Nat) (addr : Nat) (addend : Dword) : BuildBack.Statement (.rdmaFaa port qp rkey addr addend) := by intro p h _; cases h
theorem BuildBack.rdmaInvalid (port : Nat) (qp : Nat) : BuildBack.Statement (.rdmaInvalid port qp) := by intro p h _; cases h
theorem BuildBack.queuePairCreate (port : Nat) (qp : Nat) : BuildBack.Statement (.queuePairCreate port qp) := by intro p h _; cases h
theorem BuildBack.queuePairDestroy (port : Nat) (qp : Nat) : BuildBack.Statement (.queuePairDestroy port qp) := by intro p h _; cases h
theorem BuildBack.hostWindowWrite (n : Nat) (reg : Nat) (value : Dword) : BuildBack.Statement (.hostWindowWrite n reg value) := by intro p h _; cases h
theorem BuildBack.tailNotice (queue : Nat) : BuildBack.Statement (.tailNotice queue) := by intro p h _; cases h
theorem BuildBack.launchRecordCopy (queue : Nat) : BuildBack.Statement (.launchRecordCopy queue) := by intro p h _; cases h
theorem BuildBack.launchRecordCheck (queue : Nat) : BuildBack.Statement (.launchRecordCheck queue) := by intro p h _; cases h
theorem BuildBack.waitTest (queue : Nat) : BuildBack.Statement (.waitTest queue) := by intro p h _; cases h
theorem BuildBack.gridStart (queue : Nat) : BuildBack.Statement (.gridStart queue) := by intro p h _; cases h
theorem BuildBack.teamPlacement (grid : Nat) (cores : List Nat) : BuildBack.Statement (.teamPlacement grid cores) := by intro p h _; cases h
theorem BuildBack.coResidentPlacement (grid : Nat) : BuildBack.Statement (.coResidentPlacement grid) := by intro p h _; cases h
theorem BuildBack.teamExit (team : Nat) : BuildBack.Statement (.teamExit team) := by intro p h _; cases h
theorem BuildBack.gridRetirement (grid : Nat) : BuildBack.Statement (.gridRetirement grid) := by intro p h _; cases h
theorem BuildBack.mailboxWrite (team : Nat) : BuildBack.Statement (.mailboxWrite team) := by intro p h _; cases h
theorem BuildBack.triggerRecordCopy (n : Nat) : BuildBack.Statement (.triggerRecordCopy n) := by intro p h _; cases h
theorem BuildBack.triggerFire (n : Nat) : BuildBack.Statement (.triggerFire n) := by intro p h _; cases h
theorem BuildBack.triggerMissed (n : Nat) : BuildBack.Statement (.triggerMissed n) := by intro p h _; cases h
theorem BuildBack.preemptionStart (grid : Nat) : BuildBack.Statement (.preemptionStart grid) := by intro p h _; cases h
theorem BuildBack.teamSave (team : Nat) : BuildBack.Statement (.teamSave team) := by intro p h _; cases h
theorem BuildBack.teamRestore (team : Nat) (core : Nat) : BuildBack.Statement (.teamRestore team core) := by intro p h _; cases h
theorem BuildBack.killTeam (asid : Nat) (grid : Nat) (team : Nat) : BuildBack.Statement (.killTeam asid grid team) := by intro p h _; cases h
theorem BuildBack.killGrid (asid : Nat) (grid : Nat) : BuildBack.Statement (.killGrid asid grid) := by intro p h _; cases h
theorem BuildBack.killContext (asid : Nat) : BuildBack.Statement (.killContext asid) := by intro p h _; cases h
theorem BuildBack.preemptTeam (asid : Nat) (grid : Nat) (team : Nat) : BuildBack.Statement (.preemptTeam asid grid team) := by intro p h _; cases h
theorem BuildBack.killComplete (asid : Nat) : BuildBack.Statement (.killComplete asid) := by intro p h _; cases h
theorem BuildBack.watchdog (record : Nat) : BuildBack.Statement (.watchdog record) := by intro p h _; cases h
theorem BuildBack.machineCheck (core : Nat) : BuildBack.Statement (.machineCheck core) := by intro p h _; cases h
theorem BuildBack.storeQueueDrain (group : Nat) : BuildBack.Statement (.storeQueueDrain group) := by intro p h _; cases h
theorem BuildBack.lineEviction (l2 : Bool) (core : Nat) (asid : Nat) (line : Nat) : BuildBack.Statement (.lineEviction l2 core asid line) := by intro p h _; cases h
theorem BuildBack.upgradeAnswer (core : Nat) (asid : Nat) (line : Nat) : BuildBack.Statement (.upgradeAnswer core asid line) := by intro p h _; cases h
theorem BuildBack.slotFillComplete (op : Nat) : BuildBack.Statement (.slotFillComplete op) := by intro p h _; cases h
theorem BuildBack.slotWritebackComplete (op : Nat) : BuildBack.Statement (.slotWritebackComplete op) := by intro p h _; cases h
theorem BuildBack.readCountExhausted (core : Nat) (slot : Nat) : BuildBack.Statement (.readCountExhausted core slot) := by intro p h _; cases h
theorem BuildBack.hoistSegmentComplete (op : Nat) (seg : Nat) : BuildBack.Statement (.hoistSegmentComplete op seg) := by intro p h _; cases h
theorem BuildBack.fixupReplay (core : Nat) : BuildBack.Statement (.fixupReplay core) := by intro p h _; cases h
theorem BuildBack.fixupUnresolved (op : Nat) (seg : Nat) : BuildBack.Statement (.fixupUnresolved op seg) := by intro p h _; cases h
theorem BuildBack.engineOperationRetire (op : Nat) : BuildBack.Statement (.engineOperationRetire op) := by intro p h _; cases h
theorem BuildBack.streamElement (core : Nat) (hq : Nat) : BuildBack.Statement (.streamElement core hq) := by intro p h _; cases h
theorem BuildBack.matrixKStep (op : Nat) : BuildBack.Statement (.matrixKStep op) := by intro p h _; cases h
theorem BuildBack.rayResult (op : Nat) (lane : Nat) : BuildBack.Statement (.rayResult op lane) := by intro p h _; cases h
theorem BuildBack.bedstoneContribution (asid : Nat) (va : Nat) (x : Word) : BuildBack.Statement (.bedstoneContribution asid va x) := by intro p h _; cases h
theorem BuildBack.stagedContributionApply (grid : Nat) : BuildBack.Statement (.stagedContributionApply grid) := by intro p h _; cases h
theorem BuildBack.bolterPairVisit (stack : Nat) : BuildBack.Statement (.bolterPairVisit stack) := by intro p h _; cases h
theorem BuildBack.bolterReclaim (stack : Nat) : BuildBack.Statement (.bolterReclaim stack) := by intro p h _; cases h
theorem BuildBack.remoteRequestArrival (req : RemReq) : BuildBack.Statement (.remoteRequestArrival req) := by intro p h _; cases h
theorem BuildBack.remoteReply (rep : RemRep) : BuildBack.Statement (.remoteReply rep) := by intro p h _; cases h
theorem BuildBack.replyTimeout (id : Nat) : BuildBack.Statement (.replyTimeout id) := by intro p h _; cases h
theorem BuildBack.tokenExpiry (dest : Nat) (seq : Nat) : BuildBack.Statement (.tokenExpiry dest seq) := by intro p h _; cases h
theorem BuildBack.landingNotice (src : Nat) (token : Nat) : BuildBack.Statement (.landingNotice src token) := by intro p h _; cases h
theorem BuildBack.failureNotice (src : Nat) (token : Nat) : BuildBack.Statement (.failureNotice src token) := by intro p h _; cases h
theorem BuildBack.holdExpiry (port : Nat) (index : Nat) : BuildBack.Statement (.holdExpiry port index) := by intro p h _; cases h
theorem BuildBack.flitResend (port : Nat) : BuildBack.Statement (.flitResend port) := by intro p h _; cases h
theorem BuildBack.forwardingBufferSend (buf : Nat) : BuildBack.Statement (.forwardingBufferSend buf) := by intro p h _; cases h
theorem BuildBack.proxyElementArrival (n : Nat) (src : Nat) (job : Nat) (x : Word) : BuildBack.Statement (.proxyElementArrival n src job x) := by intro p h _; cases h
theorem BuildBack.proxyRefuseExpiry (buf : Nat) : BuildBack.Statement (.proxyRefuseExpiry buf) := by intro p h _; cases h
theorem BuildBack.closeMarkArrival (n : Nat) : BuildBack.Statement (.closeMarkArrival n) := by intro p h _; cases h
theorem BuildBack.collComplete (comm : Nat) (parts : List CollPart) : BuildBack.Statement (.collComplete comm parts) := by intro p h _; cases h
theorem BuildBack.collJoinTimeout (comm : Nat) : BuildBack.Statement (.collJoinTimeout comm) := by intro p h _; cases h
theorem BuildBack.ratioChange (stack : Nat) (ratio : BitVec 2) : BuildBack.Statement (.ratioChange stack ratio) := by intro p h _; cases h
theorem BuildBack.ratioChangeComplete (stack : Nat) : BuildBack.Statement (.ratioChangeComplete stack) := by intro p h _; cases h
theorem BuildBack.spareBank (stack : Nat) (pch : Nat) (bank : Nat) : BuildBack.Statement (.spareBank stack pch bank) := by intro p h _; cases h
theorem BuildBack.bankCopyComplete (stack : Nat) : BuildBack.Statement (.bankCopyComplete stack) := by intro p h _; cases h
theorem BuildBack.retireChannel (stack : Nat) (pch : Nat) : BuildBack.Statement (.retireChannel stack pch) := by intro p h _; cases h
theorem BuildBack.channelSwap (stack : Nat) : BuildBack.Statement (.channelSwap stack) := by intro p h _; cases h
theorem BuildBack.channelRetired (stack : Nat) : BuildBack.Statement (.channelRetired stack) := by intro p h _; cases h
theorem BuildBack.autoSparing (stack : Nat) (pch : Nat) (bank : Nat) : BuildBack.Statement (.autoSparing stack pch bank) := by intro p h _; cases h
theorem BuildBack.keyLoad (kid : Nat) : BuildBack.Statement (.keyLoad kid) := by intro p h _; cases h
theorem BuildBack.keyDestroy (kid : Nat) : BuildBack.Statement (.keyDestroy kid) := by intro p h _; cases h
theorem BuildBack.keyPurgeComplete : BuildBack.Statement (.keyPurgeComplete) := by intro p h _; cases h
theorem BuildBack.apertureCtlWrite (reg : Nat) (n : Nat) (value : Dword) : BuildBack.Statement (.apertureCtlWrite reg n value) := by intro p h _; cases h
theorem BuildBack.srLeatsizeWrite (asid : Nat) (value : Dword) : BuildBack.Statement (.srLeatsizeWrite asid value) := by intro p h _; cases h
theorem BuildBack.srWlrangeWrite (asid : Nat) (value : Dword) : BuildBack.Statement (.srWlrangeWrite asid value) := by intro p h _; cases h
theorem BuildBack.srFpflagsWrite (group : Nat) (value : Dword) : BuildBack.Statement (.srFpflagsWrite group value) := by intro p h _; cases h
theorem BuildBack.srHintdropClear (asid : Nat) : BuildBack.Statement (.srHintdropClear asid) := by intro p h _; cases h
theorem BuildBack.faultRingLostClear (ring : Ring) : BuildBack.Statement (.faultRingLostClear ring) := by intro p h _; cases h
theorem BuildBack.tenterDropClear : BuildBack.Statement (.tenterDropClear) := by intro p h _; cases h
theorem BuildBack.fabricTkclr (asid : Nat) : BuildBack.Statement (.fabricTkclr asid) := by intro p h _; cases h
theorem BuildBack.fantailCredit (value : Dword) : BuildBack.Statement (.fantailCredit value) := by intro p h _; cases h
theorem BuildBack.fantailMetering (dies : List Nat) : BuildBack.Statement (.fantailMetering dies) := by intro p h _; cases h
theorem BuildBack.monitorSample (n : Nat) (v : Int) : BuildBack.Statement (.monitorSample n v) := by intro p h _; cases h
theorem BuildBack.monitorCapture (n : Nat) : BuildBack.Statement (.monitorCapture n) := by intro p h _; cases h
theorem BuildBack.monitorClear (n : Nat) : BuildBack.Statement (.monitorClear n) := by intro p h _; cases h
theorem BuildBack.thermalLimit (die : Nat) : BuildBack.Statement (.thermalLimit die) := by intro p h _; cases h
theorem BuildBack.thermalRecovery (die : Nat) : BuildBack.Statement (.thermalRecovery die) := by intro p h _; cases h
theorem BuildBack.thermalTrip : BuildBack.Statement (.thermalTrip) := by intro p h _; cases h
theorem BuildBack.lifetimeRecordWrite (hours : Nat) (kwh : Nat) : BuildBack.Statement (.lifetimeRecordWrite hours kwh) := by intro p h _; cases h
theorem BuildBack.powerOn (port : Nat) : BuildBack.Statement (.powerOn port) := by intro p h _; cases h
theorem BuildBack.powerLoss : BuildBack.Statement (.powerLoss) := by intro p h _; cases h
theorem BuildBack.imagePush (failedUnits : List (Nat × Nat)) : BuildBack.Statement (.imagePush failedUnits) := by intro p h _; cases h
theorem BuildBack.measurementExtend (n : Nat) (data : List Byte) : BuildBack.Statement (.measurementExtend n data) := by intro p h _; cases h
theorem BuildBack.attestationRequest (nonce : List Byte) : BuildBack.Statement (.attestationRequest nonce) := by intro p h _; cases h
theorem BuildBack.firmwareError (info : Dword) : BuildBack.Statement (.firmwareError info) := by intro p h _; cases h
theorem BuildBack.hostLinkDown (port : Nat) : BuildBack.Statement (.hostLinkDown port) := by intro p h _; cases h
theorem BuildBack.hostLinkRetrained (port : Nat) : BuildBack.Statement (.hostLinkRetrained port) := by intro p h _; cases h
theorem BuildBack.ptpCfgWrite (value : Dword) : BuildBack.Statement (.ptpCfgWrite value) := by intro p h _; cases h
theorem BuildBack.ptpAnnounce (m : PtpAnn) : BuildBack.Statement (.ptpAnnounce m) := by intro p h _; cases h
theorem BuildBack.ptpSync (port : Nat) (domain : Nat) (sender : Nat) (twoStep : Bool) (seq : Nat) (origin : Nat) (logInterval : Int) : BuildBack.Statement (.ptpSync port domain sender twoStep seq origin logInterval) := by intro p h _; cases h
theorem BuildBack.ptpFollowUp (port : Nat) (domain : Nat) (sender : Nat) (seq : Nat) (origin : Nat) : BuildBack.Statement (.ptpFollowUp port domain sender seq origin) := by intro p h _; cases h
theorem BuildBack.ptpDelayReq : BuildBack.Statement (.ptpDelayReq) := by intro p h _; cases h
theorem BuildBack.ptpDelayResp (port : Nat) (domain : Nat) (sender : Nat) (seq : Nat) (received : Nat) (logInterval : Int) : BuildBack.Statement (.ptpDelayResp port domain sender seq received logInterval) := by intro p h _; cases h
theorem BuildBack.ptpSyncTimeout : BuildBack.Statement (.ptpSyncTimeout) := by intro p h _; cases h
theorem BuildBack.ptpAnnounceTimeout : BuildBack.Statement (.ptpAnnounceTimeout) := by intro p h _; cases h
theorem BuildBack.eventWaitRetest (record : Nat) : BuildBack.Statement (.eventWaitRetest record) := by intro p h _; cases h
theorem BuildBack.contextCreation (asid : Nat) (gen : Nat) (priv : Bool) : BuildBack.Statement (.contextCreation asid gen priv) := by intro p h _; cases h

end Sys2Proof.Laws
end

