-- ==== Sys2Proof/Laws/Regs.lean ====
section
/-! SUPPORT. Reads after writes of registers, and what a write of a register leaves alone (03 R52–R54). -/

namespace Sys2Proof.Machine

theorem vr_setVr (w : W) (g l r g2 l2 r2 : Nat) (x : Word) :
    (w.setVr g l r x).vr g2 l2 r2 = if (g2, l2, r2) = (g, l, r) then x else w.vr g2 l2 r2 := by
  by_cases h : (g2, l2, r2) = (g, l, r)
  · rw [if_pos h]
    obtain ⟨rfl, rfl, rfl⟩ : g2 = g ∧ l2 = l ∧ r2 = r := by simpa using h
    simp [W.vr, W.setVr]
  · rw [if_neg h]
    simp only [W.vr, W.setVr]
    rw [aget_aset_other (fun e => h e.symm)]

theorem sr_setSr (w : W) (f r f2 r2 : Nat) (x : Word) :
    (w.setSr f r x).sr f2 r2 = if (f2, r2) = (f, r) then x else w.sr f2 r2 := by
  by_cases h : (f2, r2) = (f, r)
  · rw [if_pos h]
    obtain ⟨rfl, rfl⟩ : f2 = f ∧ r2 = r := by simpa using h
    simp [W.sr, W.setSr]
  · rw [if_neg h]
    simp only [W.sr, W.setSr]
    rw [aget_aset_other (fun e => h e.symm)]

/-- p7 is no register: it reads 1 whatever is written (03 R52, R54). -/
theorem pr_seven (w : W) (g l : Nat) : w.pr g l 7 = true := rfl

theorem setPr_seven (w : W) (g l : Nat) (x : Bool) : w.setPr g l 7 x = w := rfl

/-- A write of a vector register changes that register alone, also inside a window. -/
theorem vr_writeV_other (w : W) (g l r g2 l2 r2 : Nat) (x : Word) (h : (g2, l2, r2) ≠ (g, l, r)) :
    (w.writeV g l r x).vr g2 l2 r2 = w.vr g2 l2 r2 := by
  unfold W.writeV
  split
  · rw [W.clobV, vr_setVr, if_neg h]
    rfl
  · rw [vr_setVr, if_neg h]

theorem vr_writeV_same (w : W) (g l r : Nat) (x : Word) (h : w.coversV g l r = false) :
    (w.writeV g l r x).vr g l r = x := by
  simp [W.writeV, h, vr_setVr]

theorem sr_writeV (w : W) (g l r : Nat) (x : Word) (f k : Nat) :
    (w.writeV g l r x).sr f k = w.sr f k := by
  unfold W.writeV
  split <;> rfl

theorem pr_writeV (w : W) (g l r : Nat) (x : Word) (g2 l2 p : Nat) :
    (w.writeV g l r x).pr g2 l2 p = w.pr g2 l2 p := by
  unfold W.writeV
  split <;> rfl

end Sys2Proof.Machine
end

