-- ==== Sys2Proof/Safety.lean ====
section
/-! DEFINITION. What counts as a safe run: every step answers a next state, the package having power. -/

namespace Sys2Proof

/-- A state from which a step answers a next state. -/
def stepsOn (s : Machine.State) : Prop := ∃ t, Machine.step s = .next t

/-- A state from which the next `n` steps answer next states. -/
def safeFor : Nat → Machine.State → Prop
  | 0, _ => True
  | n + 1, s => ∃ t, Machine.step s = .next t ∧ safeFor n t

end Sys2Proof
end

