-- ==== Sys2Proof/Tests/Slice0.lean ====
section
/-! SUPPORT. Tests: words of every instruction written out from the spec's encodings, words and terms
that the checks refuse, single steps of small states against results the spec gives, and for the
statements of `Obligations.lean` states that meet their hypotheses. -/

namespace Sys2Proof.Tests

open Sys2Proof Sys2Proof.Machine Sys2Proof.Claim

-- one proof at a time: their evaluations together would fill the memory
set_option Elab.async false

/-- The unused register field, 0x000. -/
def o : Opnd := .v 0
/-- The zero source. -/
def z : Opnd := .sp .zero

/-- The fields of the memory form. -/
def mem (d a b c : Opnd) (x : BitVec 4) (ofs : BitVec 38) (dep : Dep) (tok : Bool) (tdi : BitVec 10)
    (space : Space) (atw : Atw) (evict : BitVec 3) (scope : Scope) (ord : Order) : MemF :=
  { g := .always, x := x, d := d, a := a, b := b, c := c, ofs := ofs, dep := dep, tok := tok
    tdi := tdi, space := space, atw := atw, evict := evict, scope := scope, ord := ord }

/-- The fields of the engine form. -/
def eng (d a b c : Opnd) (x : BitVec 4) (eimm : Word) (fmto : BitVec 8) (tdi : BitVec 10)
    (space : Space) (win : BitVec 5) (scope : Scope) (ord : Order) : EngF :=
  { g := .always, x := x, d := d, a := a, b := b, c := c, eimm := eimm, fmto := fmto, tdi := tdi
    space := space, win := win, scope := scope, ord := ord }

/-- The fields of the matrix form. -/
def mat (d a b c : Opnd) (x : BitVec 4) (kb : BitVec 12) (fmta fmtb : BitVec 8) (tda tdb : BitVec 10)
    (acc : BitVec 3) (spa : Space) (rnd : Rnd) (arr : Arr) (scope : Scope) (ord : Order) : MatF :=
  { g := .always, x := x, d := d, a := a, b := b, c := c, kb := kb, fmta := fmta, fmtb := fmtb
    tda := tda, tdb := tdb, acc := acc, spa := spa, rnd := rnd, arr := arr, scope := scope, ord := ord }

/-! ## Decoding -/
/-- Words of 06 R169, R180; 03 R77; 04; 05. -/
theorem test_words_control_1 :
    decodesTo 0x0040018140001C04 0x0 (.nopEntry (alu o (.v 40) (.v 24) o)) ∧
    decodesTo 0x0140102F88001C0D 0xE (.brc .ge (alu o (.sp .laneid) (.s 2) o (some 0xE))) ∧
    decodesTo 0x00000008A0001C10 0x0 (.brx (alu o (.s 20) o o)) ∧
    decodesTo 0x0000000000A01C15 0xFFFFFFFC (.call (alu (.v 40) o o o (some 0xFFFFFFFC))) ∧
    decodesTo 0x0000000040A01C18 0x0 (.callx (alu (.v 40) (.v 8) o o)) ∧
    decodesTo 0x0000000140001C1C 0x0 (.ret (alu o (.v 40) o o)) ∧
    decodesTo 0x0000000000781C21 0x13 (.meet (alu (.v 30) o o o (some 0x13))) ∧
    decodesTo 0x00000000F0001C24 0x0 (.join (alu o (.v 30) o o)) ∧
    decodesTo 0x0000000100001C28 0x0 (.joinf (alu o (.v 32) o o)) ∧
    decodesTo 0x0000000000001C30 0x0 (.yield (alu o o o o)) ∧
    decodesTo 0x00001F0000001C35 0x80018 (.setlive (alu o o z o (some 0x80018))) ∧
    decodesTo 0x0000000824281C38 0x0 (.launch (alu (.s 10) (.s 4) o o)) ∧
    decodesTo 0x0000000F842C1C3C 0x0 (.chwait (alu (.s 11) z o o)) ∧
    decodesTo 0x0000102844A01C48 0x0 (.spawn (alu (.s 40) (.s 8) (.s 2) o)) ∧
    decodesTo 0x0000000860001C4C 0x0 (.fetchw (alu o (.s 12) o o)) ∧
    decodesTo 0x0000106040501C50 0x0 (.taskadd (alu (.v 20) (.v 8) (.s 6) o)) := by
  unfold decodesTo; decide +kernel

/-- Words of 06 R169, R180; 03 R77; 04; 05. -/
theorem test_words_control_2 :
    decodesTo 0x0000000000001C54 0x0 (.taskdone (alu o o o o)) ∧
    decodesTo 0x0022DF08A001DC42 0x11E (.evsig (mem o (.s 20) z (.s 22) 7 0x0 .none false 0 .glob .a8 0 .sys .rel)) ∧
    decodesTo 0x00235038A4609C46 0x6000011D (.evwait (mem (.s 24) (.s 20) (.s 3) (.s 26) 2 0x18 .none false 0 .glob .a8 0 .sys .acq)) := by
  unfold decodesTo; decide +kernel

/-- Words of 16 R389, R393. -/
theorem test_words_barrier :
    decodesTo 0x0140103000001C58 0x0 (.bar 5 (alu o o (.s 3) o)) ∧
    decodesTo 0x01801F0004101C5C 0x0 (.bara 6 (alu (.s 4) o z o)) ∧
    decodesTo 0x01C01F0000001C61 0x21 (.barw 7 (alu o o z o (some 0x21))) ∧
    decodesTo 0x00C0000000001C64 0x0 (.cbar 3 (alu o o o o)) ∧
    decodesTo 0x0300000004141C64 0x0 (.cbarArr 4 (alu (.s 5) o o o)) ∧
    decodesTo 0x0540106000001C64 0x0 (.cbarWt 5 (alu o o (.s 6) o)) ∧
    decodesTo 0x0000000000009C68 0x0 (.ticketTake 0 (alu o o o o (x := 2))) ∧
    decodesTo 0x0400000000001C68 0x0 (.ticketGive 0 (alu o o o o)) ∧
    decodesTo 0x0240107000001C6C 0x0 (.handoff 9 (alu o o (.s 7) o)) ∧
    decodesTo 0x028010800000DC70 0x0 (.handwait 10 (alu o o (.s 8) o (x := 3))) := by
  unfold decodesTo; decide +kernel

/-- Words of 07 R184. -/
theorem test_words_arith :
    decodesTo 0x00001E3008101C84 0x0 (.sub (alu (.v 4) (.v 1) (.p 3) o)) ∧
    decodesTo 0x00001F280F881C88 0x0 (.mul (alu (.p 2) (.s 1) (.sp .gwidth) o)) ∧
    decodesTo 0x0000002008101C8C 0x0 (.mulh .s32 (alu (.v 4) (.v 1) (.v 2) o)) ∧
    decodesTo 0x0080002008101C8C 0x0 (.mulh .su (alu (.v 4) (.v 1) (.v 2) o)) ∧
    decodesTo 0x0000602008102890 0x0 (.mad (alu (.v 4) (.v 1) (.v 2) (.v 3) (g := ⟨true, 2⟩))) ∧
    decodesTo 0x0040C02008101C94 0x0 (.madw .u32 (alu (.v 4) (.v 1) (.v 2) (.v 6))) ∧
    decodesTo 0x0000108030101C98 0x0 (.add64 (alu (.v 4) (.v 6) (.s 8) o)) ∧
    decodesTo 0x0000008030101C9C 0x0 (.sub64 (alu (.v 4) (.v 6) (.v 8) o)) ∧
    decodesTo 0x0001408030101CA0 0x0 (.mad64 (alu (.v 4) (.v 6) (.v 8) (.v 10))) ∧
    decodesTo 0x0000002008101CA8 0x0 (.imin .s32 (alu (.v 4) (.v 1) (.v 2) o)) ∧
    decodesTo 0x0040002008101CAC 0x0 (.imax .u32 (alu (.v 4) (.v 1) (.v 2) o)) ∧
    decodesTo 0x0400002000101CB0 0x0 (.iabs true (alu (.v 4) o (.v 2) o)) ∧
    decodesTo 0x0440002008101CB4 0x0 (.adds ⟨.u32, true⟩ (alu (.v 4) (.v 1) (.v 2) o)) := by
  unfold decodesTo; decide +kernel

/-- Words of 07 R185, R186, R187. -/
theorem test_words_logic :
    decodesTo 0x0000002008101CB8 0x0 (.and (alu (.v 4) (.v 1) (.v 2) o)) ∧
    decodesTo 0x00001F0008101CBD 0x80000001 (.or (alu (.v 4) (.v 1) z o (some 0x80000001))) ∧
    decodesTo 0x0000002008101CC0 0x0 (.xor (alu (.v 4) (.v 1) (.v 2) o)) ∧
    decodesTo 0x0000002008101CC4 0x0 (.andn (alu (.v 4) (.v 1) (.v 2) o)) ∧
    decodesTo 0x0000002008101CC8 0x0 (.shl (alu (.v 4) (.v 1) (.v 2) o)) ∧
    decodesTo 0x0000002008101CCC 0x0 (.shr (alu (.v 4) (.v 1) (.v 2) o)) ∧
    decodesTo 0x0000002008101CD0 0x0 (.sar (alu (.v 4) (.v 1) (.v 2) o)) ∧
    decodesTo 0x0040002008101CD4 0x0 (.rot .r (alu (.v 4) (.v 1) (.v 2) o)) ∧
    decodesTo 0x0440602008101CD8 0x0 (.fnl ⟨.r, true⟩ (alu (.v 4) (.v 1) (.v 2) (.v 3))) ∧
    decodesTo 0x0000002008101CDC 0x0 (.bfe .u32 (alu (.v 4) (.v 1) (.v 2) o)) ∧
    decodesTo 0x00401F0008101CDD 0xC1C (.bfe .s32 (alu (.v 4) (.v 1) z o (some 0xC1C))) ∧
    decodesTo 0x0000602008101CE0 0x0 (.bfi (alu (.v 4) (.v 1) (.v 2) (.v 3))) ∧
    decodesTo 0x0000002000101CE4 0x0 (.popc .b32 (alu (.v 4) o (.v 2) o)) ∧
    decodesTo 0x0040002000101CE8 0x0 (.clz .b64 (alu (.v 4) o (.v 2) o)) ∧
    decodesTo 0x0000002000101CEC 0x0 (.ctz .b32 (alu (.v 4) o (.v 2) o)) ∧
    decodesTo 0x0040002000101CF0 0x0 (.brev .b64 (alu (.v 4) o (.v 2) o)) := by
  unfold decodesTo; decide +kernel

/-- Words of 07 R187 to R191. -/
theorem test_words_moves :
    decodesTo 0x003E002008101CF5 0x3210 (.perm (alu (.v 4) (.v 1) (.v 2) z (some 0x3210))) ∧
    decodesTo 0x003C602008101CF8 0x0 (.sel (alu (.v 4) (.v 1) (.v 2) (.p 3))) ∧
    decodesTo 0x0740006028101CFC 0x0 (.icmp ⟨.geu, true⟩ (alu (.v 4) (.v 5) (.v 6) o)) ∧
    decodesTo 0x3440002000101D00 0x0 (.icvt ⟨.s8, .s32, true⟩ (alu (.v 4) o (.v 2) o)) ∧
    decodesTo 0x0000102007941D04 0x0 (.mov (alu (.p 5) o (.s 2) o)) ∧
    decodesTo 0x00001F0000241D09 0x3F800000 (.movi (alu (.v 9) o z o (some 0x3F800000))) ∧
    decodesTo 0x00001F0004241D09 0x7 (.movi (alu (.s 9) o z o (some 0x7))) ∧
    decodesTo 0x3A3C9E3F17841D0C 0x0 (.plop 0xE8 (alu (.p 1) (.p 2) (.p 3) (.p 4))) ∧
    decodesTo 0x0000000000101D10 0x0 (.pmov .pack (alu (.v 4) o o o)) ∧
    decodesTo 0x0040002008001D10 0x0 (.pmov .unpack (alu o (.v 1) (.v 2) o)) := by
  unfold decodesTo; decide +kernel

/-- Words of 07 R193, R194. -/
theorem test_words_uniform :
    decodesTo 0x0040108834101D40 0x0 (.uadd .b64 (alu (.s 4) (.s 6) (.s 8) o)) ∧
    decodesTo 0x0000108F9C101D44 0x0 (.usub .b32 (alu (.s 4) (.sp .gindex) (.s 8) o)) ∧
    decodesTo 0x0080108834101D48 0x0 (.umul .hiU (alu (.s 4) (.s 6) (.s 8) o)) ∧
    decodesTo 0x0061508834101D4C 0x0 (.umad .wideS (alu (.s 4) (.s 6) (.s 8) (.s 10))) ∧
    decodesTo 0x25A1508834101D50 0x0 (.ulop 0x96 (alu (.s 4) (.s 6) (.s 8) (.s 10))) ∧
    decodesTo 0x0100108834101D54 0x0 (.ushf .rotr (alu (.s 4) (.s 6) (.s 8) o)) ∧
    decodesTo 0x0280108834101D58 0x0 (.ucmp ⟨.ltu, false⟩ (alu (.s 4) (.s 6) (.s 8) o)) ∧
    decodesTo 0x00001F7004101D5C 0x0 (.umov .b32 (alu (.s 4) o (.sp .idlemask) o)) ∧
    decodesTo 0x003ED08834101D60 0x0 (.usel (alu (.s 4) (.s 6) (.s 8) (.sp .amaskhi))) ∧
    decodesTo 0x0C001F0834101D65 0x5 (.ulea ⟨.s32, 3⟩ (alu (.s 4) (.s 6) z o (some 0x5))) ∧
    decodesTo 0x000000001C101D68 0x0 (.rdfl .b32 (alu (.s 4) (.v 3) o o)) ∧
    decodesTo 0x000000001C140968 0x0 (.rdfl .b32 (alu (.s 5) (.v 3) o o (g := ⟨false, 2⟩))) ∧
    decodesTo 0x0040108034101D6C 0x0 (.rdln .b64 (alu (.s 4) (.v 6) (.s 8) o)) ∧
    decodesTo 0x0000108830101D70 0x0 (.wrln .b32 (alu (.v 4) (.s 6) (.s 8) o)) := by
  unfold decodesTo; decide +kernel

/-- Words of 07 R197 to R202. -/
theorem test_words_lanes :
    decodesTo 0x0CC000200811DD80 0x0 (.shfl ⟨.xor, .s8⟩ (alu (.v 4) (.v 1) (.v 2) o (x := 7))) ∧
    decodesTo 0x004000280F905D80 0x0 (.shfl ⟨.up, .width⟩ (alu (.p 4) (.s 1) (.v 2) o (x := 1))) ∧
    decodesTo 0x040000002819DD84 0x0 (.swapp ⟨0, .ng⟩ (alu (.v 6) (.v 5) o o (x := 7))) ∧
    decodesTo 0x008000000F8C1D8C 0x0 (.vote .uni (alu (.p 3) (.v 1) o o)) ∧
    decodesTo 0x00C0000018341D90 0x0 (.gred .minU (alu (.v 13) (.v 3) o o)) ∧
    decodesTo 0x020000001C181D90 0x0 (.gred .addF (alu (.s 6) (.v 3) o o)) ∧
    decodesTo 0x0480000018381D94 0x0 (.gscan ⟨.maxS, true⟩ (alu (.v 14) (.v 3) o o)) ∧
    decodesTo 0x0040000030101D98 0x0 (.match .b64 (alu (.v 4) (.v 6) o o)) ∧
    decodesTo 0x003C3F00183DDD9C 0x0 (.cmprs (alu (.v 15) (.v 3) z (.p 1) (x := 7))) ∧
    decodesTo 0x003C2040183C9DA0 0x0 (.expnd (alu (.v 15) (.v 3) (.v 4) (.p 1) (x := 2))) := by
  unfold decodesTo; decide +kernel

/-- Words of 08 R203, R208 to R219. -/
theorem test_words_float_1 :
    decodesTo 0x0000002008101DC4 0x0 (.fsub .rne (alu (.v 4) (.v 1) (.v 2) o)) ∧
    decodesTo 0x8000002008101DC8 0x0 (.fmul .sr (alu (.v 4) (.v 1) (.v 2) o)) ∧
    decodesTo 0x0400002008101DD0 0x0 (.fmin true (alu (.v 4) (.v 1) (.v 2) o)) ∧
    decodesTo 0x0000002008101DD4 0x0 (.fmax false (alu (.v 4) (.v 1) (.v 2) o)) ∧
    decodesTo 0x008000602F881DD8 0x0 (.fcmp ⟨.lt, false⟩ (alu (.p 2) (.v 5) (.v 6) o)) ∧
    decodesTo 0x05C0006028101DD8 0x0 (.fcmp ⟨.uno, true⟩ (alu (.v 4) (.v 5) (.v 6) o)) ∧
    decodesTo 0x0000002000101DDC 0x0 (.fclass (alu (.v 4) o (.v 2) o)) ∧
    decodesTo 0x0000002000101DE0 0x0 (.frcp (alu (.v 4) o (.v 2) o)) ∧
    decodesTo 0x0000002000101DE4 0x0 (.frsq (alu (.v 4) o (.v 2) o)) ∧
    decodesTo 0x6000002000101DE8 0x0 (.fsqrt .rd (alu (.v 4) o (.v 2) o)) ∧
    decodesTo 0x2000002008101DEC 0x0 (.fdiv .rz (alu (.v 4) (.v 1) (.v 2) o)) ∧
    decodesTo 0x0000002000101DF0 0x0 (.fexp2 (alu (.v 4) o (.v 2) o)) ∧
    decodesTo 0x0000002000101DF4 0x0 (.flog2 (alu (.v 4) o (.v 2) o)) ∧
    decodesTo 0x0000002000101DF8 0x0 (.fsin (alu (.v 4) o (.v 2) o)) ∧
    decodesTo 0x0000002000101DFC 0x0 (.fcos (alu (.v 4) o (.v 2) o)) ∧
    decodesTo 0x0000002000101E00 0x0 (.fsinpi (alu (.v 4) o (.v 2) o)) := by
  unfold decodesTo; decide +kernel

/-- Words of 08 R203, R208 to R219. -/
theorem test_words_float_2 :
    decodesTo 0x0000002000101E04 0x0 (.fcospi (alu (.v 4) o (.v 2) o)) ∧
    decodesTo 0x0000002000101E08 0x0 (.fsincos (alu (.v 4) o (.v 2) o)) ∧
    decodesTo 0x0000002000101E0C 0x0 (.ftanh (alu (.v 4) o (.v 2) o)) ∧
    decodesTo 0x4000002000101E10 0x0 (.frint .ru (alu (.v 4) o (.v 2) o)) ∧
    decodesTo 0x0000002000101E14 0x0 (.ffrac (alu (.v 4) o (.v 2) o)) ∧
    decodesTo 0x0000002008101E18 0x0 (.fldexp .rne (alu (.v 4) (.v 1) (.v 2) o)) ∧
    decodesTo 0x0040002000201E1C 0x0 (.fcvt ⟨.f16, .f32, false, .rne⟩ (alu (.v 8) o (.v 2) o)) ∧
    decodesTo 0x24C0002000201E1C 0x0 (.fcvt ⟨.s32, .bf16, false, .rz⟩ (alu (.v 8) o (.v 2) o)) ∧
    decodesTo 0x01401F00A0A11E20 0x0 (.fpack 5 (alu (.v 40) (.v 20) z o (x := 4))) ∧
    decodesTo 0x01401F00A0A01E24 0x0 (.funpk 5 (alu (.v 40) (.v 20) z o)) ∧
    decodesTo 0x01400150A0A01E40 0x0 (.fsrnd 5 (alu (.v 40) (.v 20) (.v 21) o)) ∧
    decodesTo 0x0000602008101E28 0x0 (.hfma2 .rne (alu (.v 4) (.v 1) (.v 2) (.v 3))) ∧
    decodesTo 0x4000002008101E2C 0x0 (.hadd2 .ru (alu (.v 4) (.v 1) (.v 2) o)) ∧
    decodesTo 0x0000002008101E30 0x0 (.hmul2 .rne (alu (.v 4) (.v 1) (.v 2) o)) ∧
    decodesTo 0x0000602008101E34 0x0 (.bfma2 .rne (alu (.v 4) (.v 1) (.v 2) (.v 3))) ∧
    decodesTo 0x0040602008101E38 0x0 (.fdot2 ⟨true, .rne⟩ (alu (.v 4) (.v 1) (.v 2) (.v 3))) := by
  unfold decodesTo; decide +kernel

/-- Words of 08 R203, R208 to R219. -/
theorem test_words_float_3 :
    decodesTo 0x6080602008101E3C 0x0 (.fdot4 ⟨false, true, .rd⟩ (alu (.v 4) (.v 1) (.v 2) (.v 3))) := by
  unfold decodesTo; decide +kernel

/-- Words of 08 R224 to R229. -/
theorem test_words_spectral :
    decodesTo 0x0040001007081E80 0x0 (.wmov true (alu (.w 2) o (.v 1) o)) ∧
    decodesTo 0x0000104E07081E84 0x0 (.wadd (alu (.w 2) (.w 0) (.s 4) o)) ∧
    decodesTo 0x00001C1E07081E88 0x0 (.wmul (alu (.w 2) (.w 0) (.w 1) o)) ∧
    decodesTo 0x04001C1E07081E90 0x0 (.wmin true (alu (.w 2) (.w 0) (.w 1) o)) ∧
    decodesTo 0x00001C1E07081E94 0x0 (.wmax false (alu (.w 2) (.w 0) (.w 1) o)) ∧
    decodesTo 0x00001C1007081E98 0x0 (.wrcp (alu (.w 2) o (.w 1) o)) ∧
    decodesTo 0x00001C1E07081E9C 0x0 (.wexpn (alu (.w 2) (.w 0) (.w 1) o)) ∧
    decodesTo 0x00001C1000101EA0 0x0 (.wsum (alu (.v 4) o (.w 1) o)) ∧
    decodesTo 0x00001C1E00101EA4 0x0 (.wdot (alu (.v 4) (.w 0) (.w 1) o)) ∧
    decodesTo 0x0000000007041EA8 0x0 (.wlam (alu (.w 1) o (.v 0) o)) ∧
    decodesTo 0x00079C1E07081EAC 0x0 (.wlerp (alu (.w 2) (.w 0) (.w 1) (.v 60))) ∧
    decodesTo 0x00001C1000201EB0 0x0 (.wcvt false (alu (.v 8) o (.w 1) o)) ∧
    decodesTo 0x0040008007041EB0 0x0 (.wcvt true (alu (.w 1) o (.v 8) o)) ∧
    decodesTo 0x0048DC1E07081EB4 0x0 (.wfres true (alu (.w 2) (.w 0) (.w 1) (.v 70))) ∧
    decodesTo 0x00001CCE47101EB8 0x0 (.smuel false (alu (.w 4) (.w 8) (.w 12) o)) ∧
    decodesTo 0x0060401E47101EB8 0x0 (.smuel true (alu (.w 4) (.w 8) (.v 1) (.s 2))) := by
  unfold decodesTo; decide +kernel

/-- Words of 10 R260 to R273. -/
theorem test_words_memory :
    decodesTo 0x4140C02820201EC6 0xFFFFFFFFC0800C3A (.st ⟨2, .b64⟩ (mem (.v 8) (.s 4) (.v 2) (.v 6) 0 0x3FFFFFFFF0 .none true 0 .remote .a4 1 .pod .rel)) ∧
    decodesTo 0xE080102824205ECA 0x1808 (.ldu ⟨7, .u16⟩ (mem (.s 8) (.s 4) (.s 2) o 1 0x0 .none false 0 .uconst .a4 0 .tm .rlx)) ∧
    decodesTo 0xE120D02820001ECE 0x8 (.usto ⟨7, .b32⟩ (mem o (.s 4) (.s 2) (.s 6) 0 0x0 .none false 0 .glob .a4 0 .tm .rlx)) ∧
    decodesTo 0xE0001F082023DED2 0x13408 (.ldt 7 (mem (.v 8) (.s 4) z o 15 0x0 .none false 9 .tdrel .a4 0 .tm .rlx)) ∧
    decodesTo 0x2000DF0020001ED6 0x13408 (.stt 1 (mem o (.v 4) z (.v 6) 0 0x0 .none false 9 .tdrel .a4 0 .tm .rlx)) ∧
    decodesTo 0xE0C0002820209EDA 0xF408 (.gath ⟨7, 3⟩ (mem (.v 8) (.s 4) (.v 2) o 2 0x0 .none false 7 .tdrel .a4 0 .tm .rlx)) ∧
    decodesTo 0xE000C02020001EDE 0xF408 (.scat ⟨7, 0⟩ (mem o (.v 4) (.v 2) (.v 6) 0 0x0 .none false 7 .tdrel .a4 0 .tm .rlx)) ∧
    decodesTo 0x4100C03824241EE2 0x68 (.cstore ⟨2, .b32⟩ (mem (.s 9) (.s 4) (.v 3) (.v 6) 0 0x0 .none false 0 .glob .a4 3 .tm .rlx)) ∧
    decodesTo 0x01401F0820001EE6 0x8 (.pref ⟨.l2, true⟩ (mem o (.s 4) z o 0 0x0 .none false 0 .glob .a4 0 .tm .rlx)) ∧
    decodesTo 0x00001F0824205EEA 0x20000008 (.resreq (mem (.s 8) (.s 4) z o 1 0x8 .none false 0 .glob .a4 0 .tm .rlx)) ∧
    decodesTo 0x0000000030101EEC 0x0 (.resq (alu (.v 4) (.v 6) o o)) ∧
    decodesTo 0x00001F0824201EF1 0x1000 (.splook (alu (.s 8) (.s 4) z o (some 0x1000))) ∧
    decodesTo 0x0000106820001EF4 0x0 (.sptag (alu o (.s 4) (.s 6) o)) ∧
    decodesTo 0x0020F06820001EF8 0x0 (.spfill (alu o (.s 4) (.s 6) (.s 7))) ∧
    decodesTo 0x0000106000001EFC 0x0 (.spevict (alu o o (.s 6) o)) := by
  unfold decodesTo; decide +kernel

/-- Words of 10 R274 to R282. -/
theorem test_words_atomics :
    decodesTo 0x0000000000001F02 0x17 (.fence (mem o o o o 0 0x0 .none false 0 .glob .a4 0 .pkg .str)) ∧
    decodesTo 0x0040002820001F06 0x14 (.cflush true (mem o (.s 4) (.v 2) o 0 0x0 .none false 0 .glob .a4 0 .pkg .rlx)) ∧
    decodesTo 0x00001F0820001F0A 0xC (.cinv (mem o (.s 4) z o 0 0x0 .none false 0 .glob .a4 0 .cl .rlx)) ∧
    decodesTo 0xE000DF0850149F0E 0x76 (.atom ⟨7, .add, .u32⟩ (mem (.v 5) (.s 10) z (.v 6) 2 0x0 .none false 0 .glob .a4 3 .pkg .rel)) ∧
    decodesTo 0xE980DF0850201F0E 0x114 (.atom ⟨7, .exch, .u64⟩ (mem (.v 8) (.s 10) z (.v 6) 0 0x0 .none false 0 .glob .a8 0 .pkg .rlx)) ∧
    decodesTo 0xE8009F0850201F12 0x114 (.acas ⟨7, .b64⟩ (mem (.v 8) (.s 10) z (.v 4) 0 0x0 .none false 0 .glob .a8 0 .pkg .rlx)) ∧
    decodesTo 0xE8009F0850201F16 0x14 (.afadd ⟨7, .bf16x2⟩ (mem (.v 8) (.s 10) z (.v 4) 0 0x0 .none false 0 .glob .a4 0 .pkg .rlx)) ∧
    decodesTo 0xE0009F0850001F1A 0x114 (.afaddc 7 (mem o (.s 10) z (.v 4) 0 0x0 .none false 0 .glob .a8 0 .pkg .rlx)) ∧
    decodesTo 0xE4809F0850001F1E 0x14 (.ared ⟨7, .max, .s32⟩ (mem o (.s 10) z (.v 4) 0 0x0 .none false 0 .glob .a4 0 .pkg .rlx)) ∧
    decodesTo 0x00401F0000001F21 0x2 (.waitc .st (alu o o z o (some 0x2))) ∧
    decodesTo 0x0022000000001F26 0xA00A (.tdset (mem o o o (.s 16) 0 0x0 .none false 5 .glob .a4 0 .tm .rel)) ∧
    decodesTo 0x0000000004411F2A 0xA009 (.tdget (mem (.s 16) o o o 4 0x0 .none false 5 .glob .a4 0 .tm .acq)) := by
  unfold decodesTo; decide +kernel

/-- Words of 12 R310, R320. -/
theorem test_words_engines :
    decodesTo 0x002290E850001F46 0x810300E088 (.tcopym (eng o (.s 10) (.s 14) (.s 20) 0 0x81 3 7 .glob 4 .tm .rlx)) ∧
    decodesTo 0x002290E850001F4A 0xE088 (.windef .touch (eng o (.s 10) (.s 14) (.s 20) 0 0x0 0 7 .glob 4 .tm .rlx)) ∧
    decodesTo 0x0062800000001F4A 0x80 (.windef .recv (eng o o o (.s 20) 0 0x0 0 0 .glob 4 .th .rlx)) ∧
    decodesTo 0x2800000000001F4C 0x0 (.wincLr 5 (alu o o o o)) ∧
    decodesTo 0x2840103007881F50 0x0 (.cbtest ⟨5, false, 1⟩ (alu (.p 2) o (.s 3) o)) ∧
    decodesTo 0x2900104004081F50 0x0 (.cbtest ⟨5, true, 0⟩ (alu (.s 2) o (.s 4) o)) ∧
    decodesTo 0x28001F0000001F55 0xF (.cbwait ⟨5, false, 0⟩ (alu o o z o (some 0xF))) ∧
    decodesTo 0x04C01F0820001F5A 0xE008 (.stream ⟨3, true, false⟩ (eng o (.s 4) z o 0 0x0 0 7 .glob 0 .tm .rlx)) ∧
    decodesTo 0x08C0105820001F5A 0x200E408 (.stream ⟨3, false, true⟩ (eng o (.s 4) (.s 5) o 0 0x0 2 7 .scratch 0 .tm .rlx)) ∧
    decodesTo 0x00C0000000001F5C 0x0 (.sclose 3 (alu o o o o)) ∧
    decodesTo 0x00C0000004101F60 0x0 (.qstat 3 (alu (.s 4) o o o)) ∧
    decodesTo 0x04C0000000029F66 0x500000000 (.qbind ⟨3, .pop, false⟩ (eng o o o o 10 0x5 0 0 .glob 0 .th .rlx)) := by
  unfold decodesTo; decide +kernel

/-- Words of 14 R354. -/
theorem test_words_light :
    decodesTo 0x00C0104040001F6A 0x7F00012008 (.trace ⟨true, true, false⟩ (eng o (.v 8) (.s 4) o 0 0x7F 0 9 .glob 0 .tm .rlx)) ∧
    decodesTo 0xE040106018309F6C 0x0 (.hitget ⟨true, 7⟩ (alu (.v 12) (.v 3) (.s 6) o (x := 2))) ∧
    decodesTo 0xE1400180A70D1F72 0x18000 (.ssamp ⟨.lin, .clamp, 7⟩ (eng (.w 3) (.v 20) (.v 24) o 4 0x0 0 12 .glob 0 .th .rlx)) ∧
    decodesTo 0xE2801F00A078DF76 0x18000 (.samp ⟨.tri, .mirror, 7⟩ (eng (.v 30) (.v 20) z o 3 0x0 0 12 .glob 0 .th .rlx)) ∧
    decodesTo 0x0005228E10001F7A 0x28014 (.filmacc .resp (eng o (.w 2) (.v 40) (.v 41) 0 0x0 0 20 .glob 0 .pkg .rlx)) ∧
    decodesTo 0x0045200010001F7A 0x2801E (.filmacc .raw (eng o (.v 2) o (.v 41) 0 0x0 0 20 .glob 0 .sys .rel)) ∧
    decodesTo 0x05001040A0001F7E 0x18000 (.resfb ⟨.tex, .clamp, true⟩ (eng o (.v 20) (.s 4) o 0 0x0 0 12 .glob 0 .th .rlx)) := by
  unfold decodesTo; decide +kernel

/-- Words of 13 R329, R334. -/
theorem test_words_matrix :
    decodesTo 0x0000105004101F80 0x0 (.mxalloc (alu (.s 4) o (.s 5) o)) ∧
    decodesTo 0x0000105000001F84 0x0 (.mxfree (alu o o (.s 5) o)) ∧
    decodesTo 0x0000105000001F88 0x0 (.mxzero (alu o o (.s 5) o)) ∧
    decodesTo 0x01C0000850001F8E 0x50400024004449 (.mxmma ⟨true, 3, false⟩ (mat o (.s 10) o o 0 5 4 0 9 0 2 .scratch .rne .both .tm .acq)) ∧
    decodesTo 0x040010E850001F8E 0x5000002408E020 (.mxmma ⟨false, 0, true⟩ (mat o (.s 10) (.s 14) o 0 5 0 0 9 8 7 .glob .rne .arr1 .th .rlx)) ∧
    decodesTo 0x0080000000A11F92 0x10300000000000 (.mxvec ⟨2, .n16, false⟩ (mat (.v 40) (.v 0) o o 4 1 3 0 0 0 0 .glob .rne .arr0 .th .rlx)) ∧
    decodesTo 0x0280000850001F96 0x30005000040409 (.mxldw ⟨2, true⟩ (mat o (.s 10) o o 0 3 0 5 0 4 0 .scratch .rne .arr0 .tm .acq)) ∧
    decodesTo 0x0000000850001F9A 0x10006000 (.mxlda (mat o (.s 10) o o 0 0 0 0 4 0 3 .glob .rne .arr0 .th .rlx)) ∧
    decodesTo 0x0000000850001F9E 0x1000601E (.mxst (mat o (.s 10) o o 0 0 0 0 4 0 3 .glob .rne .arr0 .sys .rel)) ∧
    decodesTo 0x0180000000001FA2 0xA040 (.mxhad ⟨.b32, true⟩ (mat o o o o 0 0 0 0 0 0 5 .glob .rne .both .th .rlx)) ∧
    decodesTo 0x0000000850001FA6 0x10006000 (.mxqnt (mat o (.s 10) o o 0 0 0 0 4 0 3 .glob .rne .arr0 .th .rlx)) ∧
    decodesTo 0x0040000004101FA8 0x0 (.mxprog .susp (alu (.s 4) o o o)) := by
  unfold decodesTo; decide +kernel

/-- Words of 17 R412, R417, R419; 18 R432, R438. -/
theorem test_words_fabric :
    decodesTo 0x008010C850001FC2 0x1A (.pxpush 2 (eng o (.s 10) (.s 12) o 0 0x0 0 0 .glob 0 .pod .rel)) ∧
    decodesTo 0x0000000067881FC8 0x0 (.tkwait (alu (.p 2) (.v 12) o o)) ∧
    decodesTo 0x0000000000001FCE 0x30003C01A (.coll ⟨.allred, .add⟩ (eng o o o o 0 0x3 0 30 .glob 0 .pod .rel)) ∧
    decodesTo 0x050000000000DFCE 0x500030003C018 (.coll ⟨.red, .max⟩ (eng o o o o 3 0x50003 0 30 .glob 0 .pod .rlx)) ∧
    decodesTo 0x00001F0000001FE5 0x7 (.svc (alu o o z o (some 0x7))) ∧
    decodesTo 0x0000000000001FD4 0x0 (.brk (alu o o o o)) ∧
    decodesTo 0x00400008A4601FD8 0x0 (.eretSkip (alu (.s 24) (.s 20) o o)) ∧
    decodesTo 0x00800008A0001FD8 0x0 (.eretStep (alu o (.s 20) o o)) ∧
    decodesTo 0x0020B048A0001FE0 0x0 (.wrsr (alu o (.s 20) (.s 4) (.s 5))) ∧
    decodesTo 0x0021D0C850001FEA 0x0 (.tlbinvVa (mem o (.s 10) (.s 12) (.s 14) 0 0x0 .none false 0 .glob .a4 0 .th .rlx)) ∧
    decodesTo 0x007E10CF80001FEA 0x0 (.tlbinvAsid (mem o z (.s 12) z 0 0x0 .none false 0 .glob .a4 0 .th .rlx)) ∧
    decodesTo 0x00BE1F0F80001FEA 0x0 (.tlbinvAll (mem o z z z 0 0x0 .none false 0 .glob .a4 0 .th .rlx)) ∧
    decodesTo 0x0000000004A01FEC 0x0 (.time .ptp (alu (.s 40) o o o)) ∧
    decodesTo 0x0040000004A01FF0 0x0 (.energy .grid (alu (.s 40) o o o)) ∧
    decodesTo 0x0000103004A01FF4 0x0 (.perfrd (alu (.s 40) o (.s 3) o)) := by
  unfold decodesTo; decide +kernel
/-- The decoder refuses a word with this cause. -/
def refused (lo hi : Nat) (e : DecErr) : Prop :=
  decode true 256 192 (bytesLE 16 (lo + 2 ^ 64 * hi)) = .error e

/-- Words that the decoder refuses with this cause: LEN 11. -/
theorem test_refused_reserved_length :
    refused 0x0000000000000003 0x0 .reservedLength := by
  unfold refused; decide +kernel

/-- Words that the decoder refuses with this cause: a run of zero bytes (03 R74); an unassigned
slot, 0x1D; NOP in 96 bits (03 R75); NOP with FN 2 (03 R77); BRC with FN[3:0] 6 (06 R171); ICVT
with the destination type 6 (07 R189); FCVT.sat with an integer destination and a reserved source
type (08 R216); AFADDC with the defined type code 1 (10 R276); a QBIND kind of 6 (12 R318); TLBINV
of kind 3 (18 R438). -/
theorem test_refused_illegal_opcode :
    refused 0x0000000000000000 0x0 .illegalOpcode ∧
    refused 0x0000000000001C74 0x0 .illegalOpcode ∧
    refused 0x0000000000001C05 0x0 .illegalOpcode ∧
    refused 0x0080000000001C04 0x0 .illegalOpcode ∧
    refused 0x0180002008001C0D 0x0 .illegalOpcode ∧
    refused 0x0180002000101D00 0x0 .illegalOpcode ∧
    refused 0x1AC0002000101E1C 0x0 .illegalOpcode ∧
    refused 0xE4009F0850001F1A 0x114 .illegalOpcode ∧
    refused 0x18C0000000001F66 0x0 .illegalOpcode ∧
    refused 0x00FE1F0F80001FEA 0x0 .illegalOpcode := by
  unfold refused; decide +kernel

/-- Words that the decoder refuses with this cause: ADD with MOD 1 (07 R182); ADD with a third
source (03 R58); ADD in 96 bits with a register in SRCB (03 R68); ICMP with FN[5] (07 R182); FADD
with the rounding code 5 (08 R203); NOP.entry of 257 registers (03 R77); SETLIVE with IMM[9] (06
R180); LD with DEP 1 (03 R71); LD in SPACE 111 (03 R69); LD.b32 with ATW .a8 (10 R262); FENCE with
ORD 00 (10 R274); WAITC of class 111 (10 R280); TCOPY with bit 87 (03 R72); a store STREAM with
.close (12 R322); MXHAD with FN[1:0] 00 (13 R334); CBAR.arr.wt (16 R389). -/
theorem test_refused_reserved_field :
    refused 0x0000002008105C80 0x0 .reservedField ∧
    refused 0x0000602008101C80 0x0 .reservedField ∧
    refused 0x0000002008101C81 0x5 .reservedField ∧
    refused 0x0800002008101CFC 0x0 .reservedField ∧
    refused 0xA000002008101DC0 0x0 .reservedField ∧
    refused 0x0040000808001C04 0x0 .reservedField ∧
    refused 0x00001F0000001C35 0x200 .reservedField ∧
    refused 0xE100002820201EC2 0x1000008 .reservedField ∧
    refused 0xE100002820201EC2 0x1C08 .reservedField ∧
    refused 0xE100002820201EC2 0x108 .reservedField ∧
    refused 0x0000000000001F02 0x14 .reservedField ∧
    refused 0x01C0102000001F20 0x0 .reservedField ∧
    refused 0x002290E850001F42 0x80E008 .reservedField ∧
    refused 0x0CC0105820001F5A 0xE008 .reservedField ∧
    refused 0x0000000000001FA2 0x0 .reservedField ∧
    refused 0x0600000000001C64 0x0 .reservedField := by
  unfold refused; decide +kernel

/-- Words that the decoder refuses with this cause: an undefined operand code, 0x1E8 (03 R58); an
s destination of ADD (03 R59); p7 as a destination (03 R54); an odd pair of ADD64 (03 R59); one
queue register twice (03 R60); a v source of UADD (07 R192); laneid in UADD (07 R192); WMOV of a
scalar (08 R225); SMUEL on a quad that is no multiple of 4 (08 R229); LD.b128 at a register that
is no multiple of 4 (10 R262); WAITC of 64 by IMM (10 R280); HANDOFF by zero (16 R389). -/
theorem test_refused_illegal_operand :
    refused 0x0000002F40101C80 0x0 .illegalOperand ∧
    refused 0x000000200C101C80 0x0 .illegalOperand ∧
    refused 0x000000200F9C1CFC 0x0 .illegalOperand ∧
    refused 0x0000008030141C98 0x0 .illegalOperand ∧
    refused 0x00001D1E88101C80 0x0 .illegalOperand ∧
    refused 0x0000108034101D40 0x0 .illegalOperand ∧
    refused 0x0000108F8C101D40 0x0 .illegalOperand ∧
    refused 0x0000001007081E80 0x0 .illegalOperand ∧
    refused 0x00001C9E47101EB8 0x0 .illegalOperand ∧
    refused 0xE180002820181EC2 0x8 .illegalOperand ∧
    refused 0x00001F0000001F21 0x40 .illegalOperand ∧
    refused 0x00001F0000001C6C 0x0 .illegalOperand := by
  unfold refused; decide +kernel

/-! ## Well-formed terms -/

/-- One ill-formed term for each check of `wellFormed`: the form (03 R75), the modifiers (10 R276, 08
R216, 14 R354, 13 R334), a reserved field (03 R66), an unused field (03 R58), a class (03 R59), the
alignment of a run (03 R53), the vector, packet and uniform budgets (03 R56), a queue register named
twice (03 R60), an entry's own rule (05 R133) and IMM where a packet is asked for (08 R222). -/
theorem test_ill_formed :
    wellFormed 256 192 (.nop (alu o o o o (some 0))) = false ∧
    wellFormed 256 192 (.bra (alu o o o o)) = false ∧
    wellFormed 256 192 (.atom ⟨7, .exch, .s32⟩ (mem (.v 8) (.s 10) z (.v 4) 0 0 .none false 0 .glob .a4 0 .pkg
      .rlx)) = false ∧
    wellFormed 256 192 (.ared ⟨7, .inc, .u32⟩ (mem o (.s 10) z (.v 4) 0 0 .none false 0 .glob .a4 0 .pkg
      .rlx)) = false ∧
    wellFormed 256 192 (.fcvt ⟨.s32, .u32, false, .rne⟩ (alu (.v 4) o (.v 2) o)) = false ∧
    wellFormed 256 192 (.ssamp ⟨.tri, .wrap, 7⟩ (eng (.w 3) (.v 20) (.v 24) o 0 0 0 12 .glob 0 .tm .rlx)) = false ∧
    wellFormed 256 192 (.mxmma ⟨true, 3, true⟩ (mat o (.s 10) o o 0 5 4 0 9 0 2 .glob .rne .arr0 .tm .rlx)) = false ∧
    wellFormed 256 192 (.add (alu (.v 4) (.v 1) (.v 2) o none .always 1)) = false ∧
    wellFormed 256 192 (.add (alu (.v 4) (.v 1) (.v 2) (.v 1))) = false ∧
    wellFormed 256 192 (.add (alu (.w 4) (.v 1) (.v 2) o)) = false ∧
    wellFormed 256 192 (.callx (alu (.v 41) (.v 8) o o)) = false ∧
    wellFormed 32 192 (.add (alu (.v 32) (.v 1) (.v 2) o)) = false ∧
    wellFormed 32 192 (.add (alu (.v 31) (.v 1) (.v 2) o)) = true ∧
    wellFormed 32 192 (.wrcp (alu (.w 2) o (.w 0) o)) = false ∧
    wellFormed 32 192 (.wrcp (alu (.w 1) o (.w 0) o)) = true ∧
    wellFormed 32 8 (.uadd .b64 (alu (.s 8) (.s 0) (.s 2) o)) = false ∧
    wellFormed 32 8 (.uadd .b64 (alu (.s 6) (.s 0) (.s 2) o)) = true ∧
    wellFormed 256 192 (.add (alu (.q 3) (.q 3) (.v 2) o)) = false ∧
    wellFormed 256 192 (.taskadd (alu (.s 20) (.v 8) (.s 6) o)) = false ∧
    wellFormed 256 192 (.wrcp (alu (.w 1) o z o (some 1))) = false := by
  decide +kernel

/-- The registers, their instances and their privilege are said alike in the check of a selector and in
the meanings (18 R436); no register has a number above 0x1FF. -/
theorem test_registers_agree :
    (List.range 512).all (fun id => match regOf id with
      | some (r, n) => regCount id == some n && selPriv false (id * 256) == !r.anyRead &&
          selPriv true (id * 256) == !r.anyWrite
      | none => (regCount id).isNone) = true := by
  decide +kernel

/-! ## States that meet the hypotheses of the statements

Each `test_meets_<statement>` shows, for the clauses of one statement that have hypotheses, concrete
states and operands that meet them. -/

/-- A fragment of eight lanes in group 1 of core 0, issuing at 0x2000; nothing else is to be done. -/
def s0 : State :=
  let s := placeInsn [] State.reset
  { s with chip.mdl.agenda := []
           chip.mdl.cur := { core := 0, gid := 1, frag := 1, lanes := [0, 1, 2, 3, 4, 5, 6, 7], idle := []
                             conv := true, pc := 0x2000, len := 8 } }

/-- The same with one lane. -/
def s1 : State := { s0 with chip.mdl.cur.lanes := [0] }

/-- Words written to registers of the issue, from one up, in every lane. -/
def put (d : Opnd) (xs : List Word) (s : State) : State :=
  ((now s).lanes.foldl (fun w l => w.dst (now s) d l xs) s.toW).toState s

/-- The state after an instruction. -/
def then_ (i : Instr) (s : State) : State :=
  match exec i s with
  | .next t => t
  | _ => s

/-- The state after a step. -/
def onward (s : State) : State :=
  match step s with
  | .next t => t
  | _ => s

/-- An instruction takes a state to the next one. -/
def takes (i : Instr) (s t : State) : Bool :=
  match exec i s with
  | .next u => decide (u = t)
  | _ => false

/-- A lane executes, no single step is due, the row has a state after it, and the instruction takes it. -/
def rowAt (s : State) (i : Instr) (r : Option LaneRow) : Bool :=
  match r with
  | some r => runs s r.g && match r.after s with
    | some t => takes i s t
    | none => false
  | none => false

/-- Words written by lane to a register of the issue. -/
def putEach (d : Opnd) (xs : List Word) (s : State) : State :=
  ((now s).lanes.foldl (fun w l => w.dst (now s) d l [xs.getD l 0]) s.toW).toState s

/-- Eight lanes with operands at the ends of their ranges: integers in v8 to v15, words of FP32 in v16 to
v18, positions and lengths in v20. -/
def sD : State :=
  putEach (.v 8) [0x80000000, 7, 0xFFFFFFFF, 0x7FFFFFFF, 1, 0, 0xF0000000, 0x12345678] <|
  putEach (.v 9) [0xFFFFFFFF, 0, 0xFFFFFFFF, 0x7FFFFFFF, 0x80000000, 1, 5, 0x9ABCDEF0] <|
  putEach (.v 10) [1, 33, 0xFFFFFFFF, 0x80000000, 31, 32, 0x0C1C, 64] <|
  putEach (.v 11) [0, 1, 0xFFFFFFFF, 0x80000000, 0xFFFFFFFF, 3, 0x7FFFFFFF, 0x80000001] <|
  putEach (.v 12) [0, 1, 0xFFFFFFFF, 5, 0, 0x80000000, 64, 32] <|
  putEach (.v 13) [0, 0x80000000, 0xFFFFFFFF, 1, 2, 3, 4, 5] <|
  putEach (.v 16) [0x3F800000, 0x7F800000, 0x00000001, 0x80000000, 0x7F7FFFFF, 0x7FA00000, 0x3FC00000, 0x477FF000] <|
  putEach (.v 17) [0x33800000, 0xFF800000, 0x40490FDB, 0x00000000, 0x3F800001, 0x3F800000, 0x80000001, 0x42FE0000] <|
  putEach (.v 18) [0xBF800000, 0x7FC00001, 0x80000001, 0x80000000, 0xFF7FFFFF, 0x3F800000, 0x3E800000, 0xC2FE0000] <|
  putEach (.v 20) [0x0000, 0x2000, 0xFFFF, 0x0804, 0x1F01, 0x2101, 0x0C1C, 0x0020] s0

/-- Fields over the words of `sD`. -/
def ii : Alu := alu (.v 40) (.v 8) (.v 10) (.v 12)
def ib : Alu := alu (.v 40) (.v 8) (.v 20) (.v 12)
def ff : Alu := alu (.v 40) (.v 16) (.v 17) (.v 18)

/-- A grid's record with some fields set: 16 teams of one line, clusters of two, 64 KiB of scratchpad,
eight windows. -/
def record (det : Bool) : List Byte :=
  let at_ := fun (n : Nat) (bs xs : List Byte) => xs.take n ++ bs ++ xs.drop (n + bs.length)
  at_ 8 (leBytes 4 16) <| at_ 12 (leBytes 4 1) <| at_ 16 (leBytes 4 1) <| at_ 31 [2] <|
    at_ 32 [if det then 1 else 0] <| at_ 36 (leBytes 4 0x10000) <| at_ 40 [8] <| List.replicate 256 0

/-- The package `sD` with such a grid, its team the fourth, and one gigabyte of memory mapped at 0 for
the context. -/
def sG : State :=
  { sD with
    chip.slu.grids := sD.chip.slu.grids.map fun e => (e.1, { e.2 with lrec := record false })
    chip.slu.teams := sD.chip.slu.teams.map fun e => (e.1, { e.2 with tlin := 3, nwin := 8, gidx := [0] })
    chip.cch.tlb := [((1, 0, 30, 0), { size := 30, epa := 0x3FFF0000, entry := 0xFF })] }

/-- A tensor's descriptor: TYPE, FMT, sizes, strides from the second dimension on, BASE, and bits to add. -/
def desc (ty fmt : Nat) (sizes strs : List Nat) (base : Nat) (more : Nat := 0) : Td :=
  let sum := fun (xs : List Nat) (lo w : Nat) => (xs.zipIdx.map fun e => e.1 * 2 ^ (lo + w * e.2)).sum
  BitVec.ofNat 512 (1 + 2 * sizes.length + 16 * ty + 256 * fmt + base * 2 ^ 64 + sum sizes 192 24
    + sum strs 312 44 + more)

/-- A descriptor set for the context. -/
def td (n : Nat) (d : Td) (s : State) : State := { s with chip.sys.td := aset s.chip.sys.td (1, n) d }

theorem test_meets_decode_encode :
    [Instr.nop (alu o o o o), .wfma (alu (.w 15) (.w 0) (.v 255) (.w 1)),
      .call (alu (.s 190) o o o (some 6)), .exit (alu o o o o none { neg := true, p := 0 })].all
      (fun i => i.isInsn && wellFormed 256 192 i) = true := by decide +kernel

theorem test_meets_decoded_encodes :
    (match decode true 256 192 (encode (.fadd .ru (alu (.v 7) (.v 5) z o (some 0x3FC00000)))) with
      | .ok (_, n) => n
      | .error _ => 0) = 12 := by decide +kernel

/-- A first byte of each length in the last block that cannot hold it, and addresses whose next one is a
skip word: with 12 bytes at 0x2010, and with 8 bytes at 0x2014. -/
theorem test_meets_lengths_and_blocks :
    (0xFF#8 : Byte).toNat % 4 = 3 ∧ 0x2002 % 4 ≠ 0 ∧
    ([0#8, 1#8, 2#8].zip [28, 24, 20]).all (fun e =>
      e.1.toNat % 4 = 0 && 32 < e.2 + 8 || e.1.toNat % 4 = 1 && 32 < e.2 + 12 ||
        e.1.toNat % 4 = 2 && 32 < e.2 + 16) = true ∧
    (0x2010 + 12) % 32 = 28 ∧ nextPc 0x2014 8 = 0x2020 ∧ nextPc 0x2010 8 = 0x2018 := by decide +kernel

/-- The context of the issue without privilege, and a selector in s8: 0x400 names SR.FPCTL, which such a
context may not write, and 0x13000 a register of the memory controllers, which it may not read. -/
def sUser (n : Word) : State := put (.s 8) [n] { s0 with chip.sys.ctxs := [(1, {})] }

theorem test_meets_privilege :
    (Instr.tlbinvAll (mem o o o o 0 0 .none false 0 .glob .a4 0 .pkg .rlx)).isInsn = true ∧
    (Instr.eretSkip (alu (.s 24) (.s 20) o o)).isInsn = true ∧
    wellFormed 256 192 (.eretSkip (alu (.s 24) (.s 20) o o)) = true ∧
    (match decode false 256 192 (encode (.eretRes (alu (.s 24) (.s 20) o o)) ++ List.replicate 24 0) with
      | .error .privilegedOp => true
      | _ => false) = true ∧
    regOf ((0x400 : Word).toNat / 256 % 4096) = some (.fpctl, 1) ∧
    Reg.fpctl.anyWrite = false ∧ Reg.keycmd.anyRead = false := by
  decide +kernel

theorem test_meets_unprivileged_registers :
    runs (sUser 0x400) .always = true ∧ isPriv (sUser 0x400) = false ∧
    namesReg (sUser 0x400) (alu (.s 10) o (.s 8) o) .fpctl 0 ∧
    runs (sUser 0x13000) .always = true ∧ isPriv (sUser 0x13000) = false ∧
    namesReg (sUser 0x13000) (alu (.s 10) o (.s 8) o) .keycmd 0 := by
  refine ⟨?_, ?_, ⟨1, ?_⟩, ?_, ?_, ⟨1, ?_⟩⟩
  all_goals decide +kernel

theorem test_meets_sources :
    s0.chip.thr.pends = [] ∧ wellFormed 256 192 (.add (alu (.v 4) (.v 1) (.v 2) o)) = true ∧
    (∀ x : Special, (rd s0 .always).word (.sp x) 5 = specialWord s0 x 5) := by
  refine ⟨by decide +kernel, by decide +kernel, ?_⟩
  intro x
  cases x <;> decide +kernel

/-! ## A signed image

The key is that of the private number 1, so that the public point is the curve's generator; the digest is
signed with the nonce 2 (19 R461). The curve arithmetic of `signed` is too long for the kernel and stands in
no theorem. -/

def sigBytes (n : Nat) : List Byte := leBytes 66 n
def sigR : Nat := 0x433c219024277e7e682fcb288148c282747403279b1ccc06352c6e5505d769be97b3b204da6ef55507aa104a3a35c5af41cf2fa364d60fd967f43e3933ba6d783d
def sigS : Nat := 0x121a303d827d75373c6f8afb65f05a22e8efba4731c885c6719e8286efefe82f272c457ff75c54d7327736b5d5438e0033ad4a0ef6b9ceb9f68a3a3d722d06bb510
/-- A machine that waits for an image, with such an image and the start word in its staging area. -/
def sSigned : State :=
  let image : List (Nat × List Byte) :=
    [(0, leBytes 4 0x5746434F), (4, leBytes 4 9), (8, leBytes 8 8),
     (16, 4 :: (beBytes 66 p521G.1 ++ beBytes 66 p521G.2)), (152, sigBytes sigR ++ sigBytes sigS),
     (512, [1, 2, 3, 4, 5, 6, 7, 8]), (stagingBytes + 4, leBytes 4 1)]
  let b : Boot := { State.reset.boot with
    staging := image.foldl (fun m e => putAll m e.1 e.2) State.reset.boot.staging }
  { State.reset with boot := { b with keyHash := sha512 (b.area 16 133), minSvn := 9 } }

theorem test_meets_signed_key :
    pushed sSigned.boot ∧ soundHeader sSigned.boot ∧ sha512 (sSigned.boot.area 16 133) = sSigned.boot.keyHash ∧
    sSigned.boot.minSvn ≤ leNat (sSigned.boot.area 4 4) ∧ Memory.wf sSigned.boot.staging = true := by
  unfold pushed soundHeader
  decide +kernel

/-- The row has a state after it where its instruction runs. -/
def met (s : State) (r : Option LaneRow) : Bool :=
  match r with
  | some r => runs s r.g && (r.after s).isSome
  | none => false

/-- A row of the fields of an instruction. -/
def rowOf (f : Alu) (v : Rd → Nat → LOut) : LaneRow :=
  { g := f.g, srcs := aluSrcs f, d := f.d, val := v }

theorem test_meets_integer_arithmetic :
    ([Instr.add ii, .mulh .su ii, .adds ⟨.s32, true⟩ ii].all fun i => rowAt s1 i (arithRow i)) = true ∧
    ([Instr.sub ii, .mad ii, .imin .s32 ii, .imax .u32 ii, .iabs false ib, .adds ⟨.u32, false⟩ ii].all
      fun i => met sD (arithRow i)) = true ∧
    ([Instr.madw .s32 ii, .sub64 ii, .lea ⟨.u32, 15⟩ ii].all fun i => met sD (wideRow i)) = true := by
  decide +kernel

theorem test_meets_logic_shifts_fields :
    ([Instr.andn ii, .shl ii, .sar ii, .rot .r ii, .fnl ⟨.l, true⟩ ii, .bfe .s32 ib, .bfi ib].all
      fun i => met sD (shiftRow i)) = true ∧
    rowAt s1 (.shr ii) (shiftRow (.shr ii)) = true ∧
    ([Instr.popc .b64 ii, .clz .b32 ii, .ctz .b64 ii, .brev .b32 ii].all fun i => (countAlu i).isSome) =
      true := by
  decide +kernel

theorem test_meets_select_compare_convert :
    ([Instr.sel ii, .plop 0xE8 ii, .pmov .pack ii, .perm ii].all fun i => met sD (selRow i)) = true ∧
    rowAt s1 (.icvt ⟨.s32, .s8, true⟩ ii) (some (row1 ii fun x l => icvtTo ⟨.s32, .s8, true⟩ (x.b ii l))) =
      true := by
  decide +kernel

/-- Uniform operands: 0x3_8000_0001 in s8, 0x7_FFFF_FFFF in s10 and 2 in s12. -/
def sU : State :=
  put (.s 8) [0x80000001, 3] <| put (.s 10) [0xFFFFFFFF, 7] <| put (.s 12) [2] sD
def uu : Alu := alu (.s 20) (.s 8) (.s 10) (.s 12)
def ul : Alu := alu (.s 20) (.v 8) (.s 12) o

theorem test_meets_uniform_results :
    ([Instr.uadd .b64 uu, .umul .hiS uu, .umad .wideU uu, .ushf .rotr uu, .usel uu, .ulea ⟨.s32, 2⟩ uu,
      .rdfl .b64 ul, .rdln .b32 ul].all fun i => match uniVals i with
        | some (f, _) => runs sU f.g
        | none => false) = true ∧
    (match uniVals (.rdln .b64 ul) with
      | some (f, v) => takes (.rdln .b64 ul) sU (wroteOnce sU f.d (v (rd sU f.g)))
      | none => false) = true ∧
    (ub (rd sU .always) uu).toNat % 64 ∉ lanesOf sU .always ∧
    (ub (rd sU .always) ul).toNat % 64 ∈ lanesOf sU .always := by
  decide +kernel

/-- Six of eight lanes issue; lanes 5 and 7 are elsewhere. -/
def sN : State :=
  { sU with chip.mdl.cur := { core := 0, gid := 1, frag := 1, lanes := [0, 1, 2, 3, 4, 6], idle := [5, 7]
                              conv := true, pc := 0x2000, len := 8 } }
def nf : Alu := { (alu (.v 50) (.v 8) (.v 12) (.v 13)) with x := 1 }
def nff : Alu := { (alu (.v 50) (.v 16) (.v 12) (.v 13)) with x := 1 }

theorem test_meets_lane_moves :
    (List.range 8).all (fun l => (shflSrc .up 8 l 3).isSome || l < 3) = true ∧
    met sN (some (okRow nf fun x l => (x.word nf.a (l - 1), true))) = true ∧
    rowAt sN (.cmprs nf) (some (okRow nf fun x l =>
      let ks := x.es.filter fun k => x.word nf.c k ≠ 0
      match ks[x.es.idxOf l]? with
      | some k => (x.word nf.a k, true)
      | none => (x.b nf l, false))) = true := by
  decide +kernel

theorem test_meets_ballots_votes_matches :
    (∀ k ∈ (rd sN nf.g).es, k < 64) ∧
    rowAt sN (.vote .any nf) (some (row1 nf fun x _ =>
      wordOfBool (decide (∃ k ∈ x.es, x.word nf.a k ≠ 0)))) = true ∧
    rowAt sN (.ballot nf) (some (rowOf nf fun x _ =>
      { vals := [BitVec.ofNat 32 ((x.es.filter fun k => x.word nf.a k ≠ 0).map fun k => 2 ^ k).sum, 0] })) =
      true := by
  decide +kernel

theorem test_meets_reductions :
    (rd sN nf.g).width ≤ 64 ∧
    ([RedOp.addU, .minS, .maxU, .xor].all fun o => match intCombine o with
      | some c => met sN (some (row1 nf fun x _ => combined c x nf x.width))
      | none => false) = true ∧
    ([RedOp.addF, .minF, .maxF].all fun o => match floatIdent o with
      | some z => met sN (some (rowOf nff fun x _ =>
          let t := treeAt o x.ftz (contributor x nff) 6 0
          fpOut x [t.1.getD z] (t.2 ||| snanOf x nff)))
      | none => false) = true := by
  decide +kernel

theorem test_meets_float_arithmetic :
    ([Instr.fadd .ru ff, .ffma .sr ff, .fdiv .rz ff, .fsqrt .rne ff, .frint .rd ff, .fmin true ff,
      .fclass ff].all fun i => met sD (floatRow i)) = true ∧
    rowAt s1 (.fmul .rne ff) (floatRow (.fmul .rne ff)) = true := by
  decide +kernel

theorem test_meets_approximate_functions :
    ([Instr.frcp ff, .frsq ff, .fexp2 ff, .flog2 ff, .fsin ff, .fcos ff, .fsinpi ff, .fcospi ff,
      .fsincos ff, .ftanh ff].all fun i => (approxRow i).isSome && match approxFns i with
        | some (f, _) => runs sD f.g && (queueRegs (f.d :: aluSrcs f)).isEmpty
        | none => false) = true ∧
    ∀ k, 1 ≤ k → k ≤ 5 → ((moved sD).fpctl (now sD).gid).getLsbD k = false := by
  refine ⟨by decide +kernel, fun k _ h => ?_⟩
  have : k = 0 ∨ k = 1 ∨ k = 2 ∨ k = 3 ∨ k = 4 ∨ k = 5 := by omega
  rcases this with rfl | rfl | rfl | rfl | rfl | rfl <;> decide +kernel

theorem test_meets_packed_and_dot_products :
    ([Instr.hadd2 .rne ff, .bfma2 .rd ff, .fdot2 ⟨true, .rne⟩ ff, .fdot4 ⟨false, true, .ru⟩ ff].all
      fun i => met sD (packedRow i)) = true := by
  decide +kernel

theorem test_meets_float_conversions :
    ([Instr.fcvt ⟨.f16, .f32, false, .rne⟩ ff, .fcvt ⟨.s32, .f32, true, .rz⟩ ff,
      .fpack 2 { ff with x := 4 }, .funpk 4 { ff with x := 2 }, .fsrnd 2 { ff with x := 1 }].all
      fun i => met sD (convRow i)) = true := by
  decide +kernel

def ww : Alu := alu (.w 4) (.w 0) (.w 1) (.w 1)

theorem test_meets_packets_and_wavelengths :
    ([Instr.wadd ww, .wfma ww, .wlerp { ww with a := .v 16 }, .wsum { ww with d := .v 40 }].all
      fun i => met s1 (packetRow i)) = true ∧
    ([Instr.wlam { ww with b := .v 17 }, .smuel true ww].all fun i => (lightRow i).isSome) = true := by
  decide +kernel

/-- A state where an invalid operation traps: the signalling NaN of lane 5. -/
def sTrap : State := { sD with chip.sys.sr := aset sD.chip.sys.sr (1, .fpctl) 0x20 }

theorem test_meets_lane_traps :
    (match anyRow (.fadd .rne ff) with
      | some r => runs sTrap r.g && (queueRegs (r.d :: r.srcs)).isEmpty && !(rowFaults r sTrap).isEmpty &&
          takes (.fadd .rne ff) sTrap (faulting sTrap (rowKept r sTrap) (rowFaults r sTrap))
      | none => false) = true := by
  decide +kernel

/-- Targets: 0x2100 in v40 and s20 and, without its HIGH, 0x3000; 0x2102, misaligned, in v44; 0x211C, a
skip word, in v46. -/
def sC : State :=
  put (.v 40) [0x2100, 0, 0x3000, 0] <| put (.v 44) [0x2102, 0] <| put (.v 46) [0x211C, 0] <|
  put (.s 20) [0x2100, 0] sD

/-- A row each of whose executing lanes faults. -/
def allFail (s : State) (r : Option LaneRow) : Bool :=
  match r with
  | some r => runs s r.g && (lanesOf s r.g).all (fun l => (r.val (rd s r.g) l).fault.isSome) &&
      (queueRegs r.srcs).isEmpty
  | none => false

/-- A routine's first block: NOP.entry that declares 40 and 24 registers. -/
def entryBlk : List Byte := encode (.nopEntry (alu o (.v 40) (.v 24) o)) ++ List.replicate 24 0
def sCx : State :=
  { sC with chip.cores := sC.chip.cores.map fun e => (e.1, { e.2 with icache := [((1, 0x2100), entryBlk)] }) }

theorem test_meets_transfers :
    ([Instr.bra (alu o o o o (some 6)), .brc .lt (alu o (.v 8) (.v 10) o (some 6)),
      .brx (alu o (.v 40) o o), .call (alu (.v 40) o o o (some 6))].all
        fun i => met sC (transferRow i)) = true ∧
    met (then_ (.call (alu (.v 40) o o o (some 6))) sC) (transferRow (.ret (alu o (.v 40) o o))) = true ∧
    rowAt s1 (.bra (alu o o o o (some 6))) (transferRow (.bra (alu o o o o (some 6)))) = true ∧
    ([Instr.brx (alu o (.v 44) o o), .brx (alu o (.v 46) o o), .ret (alu o (.v 40) o o)].all
      fun i => allFail sC (transferRow i)) = true ∧
    rowAt sCx (.callx (alu (.v 40) (.s 20) o o)) (some (callxRow (alu (.v 40) (.s 20) o o))) = true := by
  decide +kernel

/-- All lanes expected at a meeting, and a group with a deferred fault. -/
def sMeet : State :=
  ([0, 1, 2, 3, 4, 5, 6, 7].foldl (fun w l => w.modLane 1 l fun x => { x with meet := 0x2000 }) sC.toW).toState sC
def ex : Alu := alu o o o o
def sDef : State :=
  (sC.toW.modGroup 1 fun g =>
    { g with issued := [(.ld, 2)]
             deferred := [{ cause := 5, addr := 7, iaddr := 0, cls := some .ld, no := 1 }] }).toState sC

theorem test_meets_joins_and_exits :
    runs sMeet .always = true ∧ (noJoin sMeet .always).isEmpty = true ∧
    (noJoin sC .always).isEmpty = false ∧
    ((moved sC).group (now sC).gid).deferred = [] ∧ (moved sC).suspended (now sC).gid = [] ∧
    takes (.exit ex) sC (exitEnd sC .always) = true ∧
    lastToExit sDef .always = true ∧ ((moved sDef).group (now sDef).gid).deferred ≠ [] := by
  decide +kernel

/-- The team is stopping; and other work waits while every context is full. -/
def sStop : State :=
  { sG with chip.slu.teams := sG.chip.slu.teams.map fun e => (e.1, { e.2 with st := .stopping }) }
def sBusy : State :=
  { sG with
    chip.thr.frags := (sG.chip.thr.frags.take 1).flatMap fun e =>
      (List.range 64).map fun k => (1 + k, { e.2 with place := .ctx k })
    chip.cores := sG.chip.cores.map fun e => (e.1, { e.2 with unstarted := [(1, 2)] }) }

theorem test_meets_nop_yield_setlive :
    runs sG .always = true ∧
    ((moved sG).team ((moved sG).group (now sG).gid).team).st ≠ .stopping ∧
    (moved sG).freeCtx (now sG).core ≠ none ∧
    ((moved sStop).team ((moved sStop).group (now sStop).gid).team).st = .stopping ∧
    ((moved sBusy).team ((moved sBusy).group (now sBusy).gid).team).st ≠ .stopping ∧
    (moved sBusy).otherWork (now sBusy).core = true ∧ (moved sBusy).freeCtx (now sBusy).core = none ∧
    takes (.yield ex) sG ((moved sG).toState sG) = true := by
  decide +kernel

def imm (n : Word) : Alu := alu (.s 30) o z o (some n)

/-- Barriers at 0 and 8 of 16 arrivals. -/
def sB : State :=
  { sG with chip.syn.bars := [((1, 15), { phase := 65535 }),
                              ((1, 14), { phase := 5, arr := 8, cnt := some 16 })] }

/-- Lanes that have begun nothing come back from no park. -/
theorem fresh_of_none {s : State} {g : Guard}
    (h : (lanesOf s g).all (fun l => ((moved s).lane (now s).gid l).begun.isNone) = true) : fresh s g := by
  intro l hl q hq
  have := List.all_eq_true.mp h l hl
  rw [hq] at this
  cases this

theorem test_meets_barriers :
    countIn sB (imm 16) ≤ 1024 ∧ 1024 < countIn sB (imm 1025) ∧
    phaseOfBar sB (teamBar sB 15) = 65535 ∧ 2 ≤ clusterSize sB ∧ clusterSize sD < 2 ∧
    takes (.bara 14 (imm 16)) sB (baraDone sB (teamBar sB 14) 16 (imm 16)) = true := by
  decide +kernel

theorem test_meets_barriers_arrivals :
    mayArrive sB (teamBar sB 14) 16 (lanesOf sB .always) ∧
    mayArrive sB (teamBar sB 15) 8 (lanesOf sB .always) ∧
    mayArrive sB (clusterBar sB 7) 0 (lanesOf sB .always) ∧ fresh sB .always := by
  have k : (((moved sB).releaseAt (now sB).gid .cl).group (now sB).gid).kind = .launch := by decide +kernel
  refine ⟨⟨?_, ?_, fun h => absurd h (by decide)⟩, ⟨?_, ?_, fun h => absurd h (by decide)⟩,
    ⟨?_, fun h => absurd rfl h, fun _ => ⟨fun o h => ?_, ?_⟩⟩, fresh_of_none ?_⟩ <;>
    first
    | decide +kernel
    | exact absurd (k.symm.trans h) (by intro h; cases h)

/-- Tickets whose turn it is, held, passed and not yet come; hand-offs taken, void and awaited. -/
def gG : Nat := (tm sG).grid
def sT : State :=
  { sG with
    chip.syn.seqs := [((gG, 0), { released := [0, 1, 2] }),
                      ((gG, 1), { released := [0, 1, 2], holders := [3], void := true }),
                      ((gG, 2), { released := [0, 1, 2, 3] })]
    chip.syn.hands := [(gG, [{ chain := 1, src := 2, dst := 3, void := false },
                             { chain := 1, src := 1, dst := 3, void := true }])]
    chip.syn.handed := [(gG, 3, 3)], chip.syn.handW := [(gG, 4, 3, 2)] }
def sFullHands : State :=
  { sG with chip.syn.hands := [(gG, List.replicate 4096 { chain := 1, src := 2, dst := 3, void := false })] }

theorem test_meets_tickets_handoffs :
    (tm sT).tlin = 3 ∧ 3 ∈ (ticketSeq sT 2).released ∧ 3 ∉ (ticketSeq sT 4).released ∧
    3 ∉ (ticketSeq sT 4).holders ∧ (ticketSeq sT 4).turn ≠ 3 ∧ 3 ∉ (ticketSeq sT 0).holders ∧
    (ticketSeq sT 0).turn = 3 ∧ (ticketSeq sT 0).void = false ∧ 3 ∈ (ticketSeq sT 1).holders ∧
    3 + 12 < ((moved sT).grid gG).count ∧ ((moved sT).grid gG).count ≤ 3 + 13 ∧
    (gG, 1, 3) ∉ (moved sT).c.syn.handed ∧ (gG, 3, 3) ∈ (moved sT).c.syn.handed ∧
    ((moved sT).releaseAt (now sT).gid .pkg).handCount < 4096 ∧
    4096 ≤ ((moved sFullHands).releaseAt (now sFullHands).gid .pkg).handCount ∧
    handOf (handBegun sT 1 2 .always) gG 1 2 3 = some false ∧
    handOf (handBegun sT 1 1 .always) gG 1 1 3 = some true ∧
    handOf (handBegun sT 2 2 .always) gG 2 2 3 = none := by
  decide +kernel

/-- A base of 0x1000 in s40, offsets by 8 bytes in v30, of which the last is of another page, and by 4 in v32. -/
def sM : State :=
  put (.s 40) [0x1000, 0] <| putEach (.v 30) [0, 8, 16, 24, 32, 40, 48, 4096] <|
  putEach (.v 32) [0, 4, 8, 12, 16, 20, 24, 28] sG
def mf (ord : Order := .rlx) (sp : Space := .glob) (sc : Scope := .tm) (b : Opnd := .v 30)
    (c : Opnd := .v 8) (d : Opnd := .v 60) : MemF :=
  { (mem d (.s 40) b c 0 0x40 .none false 0 sp .a4 0 sc ord) with x := 3 }
/-- Stores stand in the group's queue. -/
def sM2 : State := then_ (.st ⟨7, .b64⟩ mf) sM
def full (c : OpClass) (k : OpKind) : State :=
  ((List.range 63).foldl (fun w _ =>
    (w.newOp { gid := 1, cls := c, iaddr := 0, kind := k }).1) sM.toW).toState sM

theorem test_meets_loads_and_stores :
    runs sM2 .always = true ∧ room sM2 .ld ∧ room sM2 .st ∧
    ([LdSz.u8, .b32, .b128].all fun z => (ldReads sM2 ⟨7, z⟩ (mf .acq)).2.isSome) = true ∧
    (ldReads sM2 ⟨2, .s16⟩ (mf .str .scratch)).2.isSome = true ∧
    ([StSz.b8, .b64].all fun z => (stWrites sM2 ⟨2, z⟩ (mf .rel .glob .sys)).2.isSome) = true ∧
    (lduRead sM2 ⟨7, .b64⟩ (mf .rlx .glob .tm z o (.s 60))).2.isSome = true ∧
    (ustoWrite sM2 ⟨1, .b32⟩ (mf .str .scratch .tm z (.s 8))).2.isSome = true := by
  unfold room
  decide +kernel

theorem test_meets_loads_and_stores_full :
    ¬ room (full .ld .load) .ld ∧ ¬ room (full .st .store) .st ∧
    takes (.ld ⟨7, .b32⟩ mf) (full .ld .load)
      (allFault (full .ld .load) .always Cause.counterOverflow) = true := by
  unfold room
  decide +kernel

/-- The steps of an atomic answer, in a grid that stages none. -/
def atomMet (s : State) (i : Instr) : Bool :=
  match atomRow i with
  | some r => runs s r.f.g && decide ((moved s).count (now s).gid (if r.ret then .ld else .st) < 63) &&
      (atomSteps s r.f r.rp r.n (r.step s)).2.isSome
  | none => false

theorem test_meets_atomic_steps :
    ([Instr.atom ⟨7, .add, .u32⟩ (mf .rlx .glob .tm (.v 30) (.v 8)),
      .ared ⟨3, .min, .s64⟩ (mf .acq .glob .pkg o (.v 8)), .acas ⟨7, .b128⟩ (mf .rlx .glob .tm o (.v 8)),
      .afadd ⟨7, .f16x2⟩ (mf .rlx .glob .tm o (.v 16)), .afaddc 7 (mf .str .scratch .tm z (.v 18))].all
        (atomMet sM2)) = true ∧
    ((moved sM2).grid (grp sM2).grid).det = false := by
  decide +kernel

/-- Tensors: FP32 of 64 by 64, FP16 with stochastic rounding, one dimension of code 4, and an MX format;
a column of coordinates in v73. -/
def sTd : State :=
  td 5 (desc 0 1 [64, 64] [256] 0x10000) <| td 6 (desc 0 2 [64, 64] [128] 0x20000 (2 ^ 24 * 4)) <|
  td 7 (desc 0 4 [8] [] 0x30000) <| td 8 (desc 0 16 [64, 64] [64] 0x40000 (2 ^ 27 + 0x50000 * 2 ^ 128)) <|
  putEach (.v 72) [0, 1, 2, 3, 4, 5, 6, 63] <| putEach (.v 73) [0, 63, 2, 3, 4, 5, 6, 63] sM
def tf (n : BitVec 10) (a : Opnd) (ord : Order := .rlx) (c : Opnd := .v 16) (b : Opnd := o) : MemF :=
  { (mem (.v 60) a b c 0 0 .none false n .tdrel .a4 0 .tm ord) with x := 3 }

theorem test_meets_tensor_elements :
    room sTd .ld ∧ room sTd .st ∧ (moved sTd).tdTensor (tdOf sTd (tf 5 (.v 72))) = true ∧
    coordsFit sTd (tf 5 (.v 72)) = true ∧ (ldtReads sTd 7 (tf 5 (.v 72))).2.isSome = true ∧
    (ldtReads sTd 3 (tf 6 (.v 72) .str)).2.isSome = true ∧
    (sttWrites sTd 3 (tf 6 (.v 72) .rel)).2.isSome = true ∧
    fmtMx (tdFmt (tdOf sTd (tf 6 (.v 72)))) = false ∧ tdFmt (tdOf sTd (tf 6 (.v 72))) ≠ 0x0C ∧
    (moved sTd).tdTensor (tdOf sTd (tf 9 (.v 72))) = false ∧ coordsFit sTd (tf 5 (.v 255)) = false ∧
    fmtMx (tdFmt (tdOf sTd (tf 8 (.v 72)))) = true := by
  unfold room
  decide +kernel

/-- The column of a gather or scatter answers, and its elements are read and written. -/
def gathers (s : State) (f : MemF) : Bool :=
  match column s f with
  | some (w, x, _) => decide (w.count (now s).gid .ga < 63) && (gathReads s ⟨7, 0⟩ f x w).2.isSome &&
      (scatWrites s ⟨7, 0⟩ f x w).2.isSome
  | none => false

theorem test_meets_gathers_and_scatters :
    gathers sTd (tf 5 (.v 72) .rlx (.v 16) (.v 73)) = true ∧
    tdNdim (tdOf sTd (tf 5 (.v 72))) = 2 ∧ (column sTd (tf 7 z)).isSome = true ∧
    tdNdim (tdOf sTd (tf 7 z)) ≠ 2 := by
  decide +kernel

/-- A compress-store whose two passes answer. -/
def packs (s : State) (m : CstM) (f : MemF) : Bool :=
  match cstChecks s m f with
  | (w, some _) => (cstWrites s m f w).2.isSome
  | _ => false

theorem test_meets_compress_store :
    room sTd .st ∧ packs sTd ⟨7, .b32⟩ (mf .rlx .glob .tm (.v 12) (.v 8) (.s 60)) = true ∧
    packs sTd ⟨3, .b64⟩ (mf .str .glob .tm (.v 12) (.v 8) (.s 60)) = true ∧
    packs sTd ⟨7, .b64⟩ (mf .rel .scratch .tm z (.v 8) (.s 60)) = true := by
  unfold room
  decide +kernel

/-- Addresses of which some have no page. -/
def sR : State :=
  putEach (.v 36) [0, 0x10000, 0x20000, 0xFFFF, 0x40000000, 0x50000000, 0x40000001, 0] <|
  putEach (.v 37) [0, 0, 0, 0, 0, 0, 0, 1] sTd
def at1 (d a : Opnd) : MemF := mem d a o o 0 0 .none false 0 .glob .a4 0 .th .rlx

theorem test_meets_residency_requests :
    (eachLane (lanesOf sR .always) (resAsk sR (at1 (.v 60) (.v 36))) (moved sR)).2.isSome = true ∧
    (resAsk sR (at1 (.s 60) (.s 40)) (moved sR) 0).2.isSome = true ∧
    runs sR .always = true := by
  decide +kernel

/-- A line loaded by one lane, alone in the issue; a load and a store in flight; a fault to raise. -/
def sLine : State :=
  let t := then_ (.ld ⟨7, .b32⟩ (mf .str)) sM2
  { t with chip.mdl.cur := s1.chip.mdl.cur }
def sFly : State := then_ (.ld ⟨7, .b32⟩ mf) <| then_ (.st ⟨7, .b32⟩ mf) sM

theorem test_meets_fences_flushes_waits :
    (fenced sM2 (mf .acq)).tenterOn ((fenced sM2 (mf .acq)).group (now sM2).gid).asid = false ∧
    (fenced sM2 (mf .str)).lastRemote (now sM2).gid = none ∧
    (∀ l ∈ lanesOf sM2 .always, eaOf sM2 (mf .rlx .glob .pkg) l < 2 ^ 56) ∧
    lanesOf sLine .always = [0] ∧ 2 ≤ scopeLevel .pkg ∧ scopeLevel .tm < 2 ∧
    (aget (moved sLine).c.cch.l1 ((grp sLine).core, (grp sLine).asid,
      eaOf sLine (mf .rlx .glob .pkg) 0 / 128)).isSome = true ∧
    0 < (moved sFly).count (now sFly).gid .ld ∧ (moved sFly).count (now sFly).gid .ld ≤ 1 ∧
    coveredBy sFly .ld 1 = [] ∧ (coveredBy sDef .ld 0).length = 1 ∧
    (moved sFly).suspended (now sFly).gid = [] := by
  decide +kernel

/-- Scratchpad slots: some valid, one dirty, one being filled, one of a window, one being emptied; an
address in s50, one without a page in s54, addresses by lane in v38; the dense tensor 5. -/
def sS : State :=
  put (.s 50) [0x3000, 0] <| put (.s 52) [3] <| put (.s 54) [0x40000000, 0] <|
  putEach (.v 38) [0x0FFF, 0x1000, 0x2000, 0x3000, 0x4000, 0x5000, 0x6000, 0x7000] <|
  putEach (.v 39) [0, 0, 0, 0, 0, 0, 0, 0] <| td 5 (desc 0 1 [64, 64] [256] 0x10000)
  { sM with chip.spd.tags := [((1, 2), { tag := 3, state := 2 }), ((1, 5), { tag := 3, state := 2 }),
                              ((1, 6), { tag := 2, state := 2, dirty := true }),
                              ((1, 7), { state := 1, tag := 9 }), ((1, 8), { win := true }),
                              ((1, 9), { state := 3 })] }

/-- The operands are there, and the slot may be tagged, filled or emptied. -/
def slotMet (s : State) (f : Alu) : Bool :=
  match popped s f.g (srcB f) with
  | some (w1, x, _) =>
    let w := drainedOf s w1
    let n := slotArg x f
    let g := w.tag (teamIn s w) n
    decide (n < w.spbytes (teamIn s w) / 4096 ∧ g.win = false) && decide (addrArg x f < 2 ^ 56) &&
      decide (g.state ≠ 1 ∧ g.state ≠ 3) && decide (w.count (now s).gid .tc < 63) &&
      (w.rangeFull (w.group (now s).gid).core).isNone && decide ((x.word f.c 0).toNat ≤ 255) &&
      match (w.load (w.group (now s).gid).core (w.group (now s).gid).asid .tm
          (addrArg x f / 4096 * 4096) 4096).2 with
      | .ok (_, false) => true
      | _ => false
  | none => false

theorem test_meets_scratchpad_tags :
    runs sS .always = true ∧
    ([3, 6].all fun n => slotMet (put (.s 52) [n] sS) (alu o (.s 50) (.s 52) (.s 52))) = true ∧
    ([alu (.s 60) (.s 50) z o, alu (.v 60) (.v 38) z o].all fun f =>
      match popped sS f.g (srcB f) with
      | some (_, x, _) => (lanesOf sS f.g).all fun l => decide (lookAddr x f l < 2 ^ 56)
      | none => false) = true ∧
    (let f := alu (.v 60) (.v 8) z o
     match popped sS f.g (srcB f) with
      | some (_, x, _) => ((lanesOf sS f.g).find? fun l => decide (2 ^ 56 ≤ lookAddr x f l)).isSome
      | none => false) = true := by
  decide +kernel

/-- Origin, extents and options of a copy. -/
def sTc (og ex op : List Word) : State := put (.s 60) og <| put (.s 64) ex <| put (.s 68) op sS
def ef (win : BitVec 5 := 0) (ord : Order := .rlx) (e : Word := 0) : EngF :=
  eng o (.s 60) (.s 64) (.s 68) 0 e 0 5 .glob win .tm ord
def sCopy : State := sTc [0, 0] [16, 4] [0, 0]
/-- The tile's slots are being filled. -/
def sHit : State := then_ (.tcopy .g2s (ef)) sCopy

theorem test_meets_tile_copies :
    ([CopyDir.g2s, .s2g].all fun d => copyCheck (sTc [0, 0] [64, 64] [0, 0]) d (ef) == none) = true ∧
    copyCheck sCopy .g2s (ef 0 .str) = none ∧ (copyCheck (sTc [0, 0] [64, 0] [0, 0]) .g2s (ef)).isSome = true ∧
    (moved sCopy).rangeHit (teamNo sCopy) (copyStart sCopy (ef))
      (copyStop sCopy (ef) - copyStart sCopy (ef)) = none ∧
    room sCopy .tc ∧ (moved sCopy).rangeFull (grp sCopy).core = none ∧ copyCheck sHit .g2s (ef) = none ∧
    ((moved sHit).rangeHit (teamNo sHit) (copyStart sHit (ef))
      (copyStop sHit (ef) - copyStart sHit (ef))).isSome = true := by
  unfold room
  decide +kernel

/-- No tags; a slot and a count for a window; windows of both kinds and one with chunks. -/
def sWn : State := { sTc [0, 0] [16, 4] [2, 4, 0] with chip.spd.tags := [] }
def sWr : State := then_ (.windef .recv (ef 4)) sWn
def sWt : State := then_ (.windef .touch (ef 4)) sWn
def sWb : State :=
  match winAt sWr 4 with
  | some x => (sWr.toW.setWin 1 4 { x with bits := 0xFFFF0000FFFF, state := 1 }).toState sWr
  | none => sWr
/-- Another team of the cluster that defines the same window. -/
def sMc : State :=
  put (.s 68) [0]
  { sWr with
    chip.slu.teams := sWr.chip.slu.teams ++ [(7, { (sWr.toW.team 1) with tlin := 2, core := 3 })]
    chip.spd.wins := sWr.chip.spd.wins ++
      [((7, 4), (sWr.toW.win 1 4).getD { slot0 := 0, slots := 0, touch := true })] }

theorem test_meets_multicasts :
    ([1, 2, 3].all fun e => let f : EngF := { ef 4 .rel with eimm := e }
      (moved sMc).tileCheck (etd sMc f) (tileRuns sMc f) f.fmto.toNat (origin sMc f) (extents sMc f) 0
        (castPitch sMc f) == none && runs sMc f.g) = true ∧
    (let f : EngF := { ef 4 .rel with eimm := 3 }
     tileFormat true (etd sMc f) f.fmto.toNat (origin sMc f) (extents sMc f) = none ∧ goodCast sMc f ∧
      room sMc .tc ∧ ∀ u ∈ receivers sMc f, (moved sMc).rangeFull ((moved sMc).team u).core = none) ∧
    ¬ goodCast sMc { ef 4 .rel with eimm := 0 } := by
  unfold goodCast room
  decide +kernel

theorem test_meets_windows :
    winFree sWn (ef 4) ∧ winPitch sWn (ef 4) = 0 ∧
    (drained sWn).tileCheck (winTd sWn (ef 4)) (winRuns sWn (ef 4)) 0 (winOrigin sWn (ef 4))
      (winExtents sWn (ef 4)) 0 (winPitch sWn (ef 4)) = none ∧
    tileFormat true (winTd sWn (ef 4)) 0 (winOrigin sWn (ef 4)) (winExtents sWn (ef 4)) = none ∧
    tileBytes (spCont (winTd sWn (ef 4)) 0) (winExtents sWn (ef 4)) (winPitch sWn (ef 4)) ≤
      4096 * winCount sWn (ef 4) ∧
    winAt sWn 9 = none ∧ (winAt sWr 4).isSome = true ∧
    (match winAt sWr 4 with
      | some x => (moved sWr).filling x
      | none => true) = false ∧
    takes (.windef .recv (ef 4)) sWn sWr = true := by
  unfold winFree
  decide +kernel

/-- The chunks that a test of window 4 asks for, and whether they are there. -/
def there (s : State) (m : CbM) (f : Alu) : Option Bool :=
  match popped s f.g (srcB f), winAt s m.win.toNat with
  | some (_, x, _), some n => some (chunksThere x m f (maskLane x f) n)
  | _, _ => none

theorem test_meets_chunk_tests :
    there sWb ⟨4, false, 0⟩ (alu (.p 3) o z o (some 0xFFFF)) = some true ∧
    there sWb ⟨4, false, 0⟩ (alu (.p 3) o z o (some 0x1FFFF)) = some false ∧
    there sWr ⟨4, false, 3⟩ (alu (.p 3) o (.s 8) o (some 0)) ≠ none ∧ winAt sWb 5 = none := by
  decide +kernel

/-- Three tiles and three weight slots asked for, free and held, with tensors for the operands. -/
def sX : State := put (.s 92) [0x0303] sS
def mxf : Alu := alu (.s 94) o (.s 92) o
def sXa : State := then_ (.mxalloc mxf) sX
/-- Another team of the core holds them. -/
def sXb : State :=
  put (.s 92) [0xFF]
  { sXa with chip.thr.groups := sXa.chip.thr.groups.map fun e => (e.1, { e.2 with team := 9 })
             chip.slu.teams := sXa.chip.slu.teams ++ sXa.chip.slu.teams.map fun e => (9, e.2) }
def sXo : State :=
  td 20 (desc 0 2 [256, 256] [512] 0x100000) <| td 21 (desc 0 4 [256, 256] [256] 0x200000 (2 ^ 24 * 4)) <|
  td 22 (desc 0 16 [256, 256] [256] 0x300000 (2 ^ 27 + 0x380000 * 2 ^ 128)) <|
  td 23 (desc 0 1 [256, 256] [1024] 0x400000) <| put (.s 100) [0, 0] <| put (.s 102) [32, 128] sXa
def mtf (ta tb : BitVec 10) (acc : BitVec 3) (fa : BitVec 8 := 0) (rnd : Rnd := .rne) : MatF :=
  mat o (.s 100) (.s 102) o 0 1 fa 0 ta tb acc .glob rnd .arr0 .tm .rlx
/-- A matrix operation on tile 0 is in flight; it is suspended. -/
def sXz : State := put (.s 92) [1] (then_ (.mxmma ⟨false, 0, false⟩ (mtf 20 21 0)) sXo)
def sXsu : State :=
  { sXz with chip.eng.ops := sXz.chip.eng.ops.map fun e => (e.1, { e.2 with kind := match e.2.kind with
      | .mx m => .mx { m with susp := some (43, 0x123456789A), prog := 77 }
      | k => k }) }

theorem test_meets_matrix_tiles :
    ready sX .always = true ∧
    (∀ n ∈ namesAt (mxMask sX mxf) 0, ¬ holdsTile sX n) ∧ (∀ n ∈ namesAt (mxMask sX mxf) 8, ¬ holdsSlot sX n) ∧
    (namesAt (mxMask sX mxf) 0).length ≤ (moved sX).freeTiles (grp sX).core ∧
    (namesAt (mxMask sX mxf) 8).length ≤ (moved sX).freeSlots (grp sX).core ∧
    (∀ n ∈ namesAt (mxMask sXb mxf) 0, ¬ holdsTile sXb n) ∧
    (moved sXb).freeTiles (grp sXb).core < (namesAt (mxMask sXb mxf) 0).length ∧
    (∀ n ∈ namesAt (mxMask sXa mxf) 0, holdsTile sXa n) ∧ (∀ n ∈ namesAt (mxMask sXa mxf) 8, holdsSlot sXa n) ∧
    (moved sXz).mxUses false (((moved sXz).tileOf (teamNo sXz) 0).getD 99) = true ∧
    (moved sXa).mxUses false (((moved sXa).tileOf (teamNo sXa) 0).getD 99) = false ∧
    ((moved sXsu).mxOps.find? fun e => e.2.1.gid = (now sXsu).gid && e.2.2.susp.isSome).isSome = true := by
  unfold holdsTile holdsSlot
  decide +kernel

theorem test_meets_matrix_convergence :
    (let s := { sX with chip.mdl.cur.conv := false }
     runs s .always = true ∧ (now s).conv = false ∧ (now s).replay = false) := by
  decide +kernel

theorem test_meets_matrix_operations :
    ready sXo .always = true ∧ room sXo .mx ∧ (moved sXo).tileOf (teamNo sXo) 0 ≠ none ∧
    (moved sXo).slotOf (teamNo sXo) 0 ≠ none ∧ (moved sXo).tileOf (teamNo sXo) 5 = none ∧
    (moved sXo).slotOf (teamNo sXo) 3 = none ∧ arrayFmt (usedFmt 0 (mmaA sXo (mtf 20 21 0)).d) ∧
    arrayFmt (usedFmt 0 (mmaB sXo false (.s 102) false (mtf 20 21 0)).d) ∧
    tdFmt (tileArg sXo (mtf 23 0 0) false).d = 1 ∧ fmtMx (tdFmt (tileArg sXo (mtf 22 0 0) true).d) = true ∧
    (tileArg sXo (mtf 22 0 0) true).org.headD 0 % 32 = 0 ∧ arrayFmt (mtf 0 0 0 2).fmta.toNat := by
  unfold room arrayFmt
  decide +kernel

theorem test_meets_matrix_operands :
    mxArgOk sXo (mmaA sXo (mtf 20 21 0)) ∧ mxArgOk sXo (mmaB sXo false (.s 102) false (mtf 20 21 0)) ∧
    mxArgOk sXo (tileArg sXo (mtf 23 0 0) false) ∧ mxArgOk sXo (tileArg sXo (mtf 22 0 0) true) := by
  refine ⟨⟨?_, ?_, ⟨100, rfl, ?_⟩, ?_, ?_, ?_⟩, ⟨?_, ?_, ⟨102, rfl, ?_⟩, ?_, ?_, ?_⟩,
    ⟨?_, ?_, ⟨100, rfl, ?_⟩, ?_, ?_, ?_⟩, ⟨?_, ?_, ⟨100, rfl, ?_⟩, ?_, ?_, ?_⟩⟩ <;> decide +kernel

/-- The fields of a queue binding. -/
def qf (e : Word) (x : BitVec 4 := 0) : EngF :=
  { eng o (.s 60) o o 0 e 0 0 .glob 0 .tm .rlx with x := x }
/-- A good entry in s60, and queues: 0 pushes and 1 pops the hardware queue 3. -/
def sQ : State := put (.s 60) [0x2100, 0] sWn
def sQ1 : State := then_ (.qbind ⟨0, .push, false⟩ (qf 3)) <| then_ (.qbind ⟨1, .pop, false⟩ (qf 3 0xA)) sQ
def sfl : EngF := eng o (.s 61) (.s 62) o 0 0 0 9 .glob 0 .tm .rlx
def sQs : State := td 9 (desc 6 1 [64] [] 0x10000) <| put (.s 61) [4, 8] sQ1
/-- A stream that loads stands in the queue; elements stand in it; it is closed. -/
def sQl : State := then_ (.stream ⟨1, false, false⟩ sfl) sQs
def sQe : State := then_ (.add (alu (.q 0) (.v 8) z o)) sQ1
def sQc : State := then_ (.sclose 1 (alu o o o o)) sQ1

/-- What an instruction that names queues meets. -/
def meetsQueue (s : State) (i : Instr) : Nat :=
  match anyRow i with
  | some r => match ((moved s).popAll (now s).gid (lanesOf s r.g) (queueRegs r.srcs)).2 with
    | .ok _ => 1
    | .park _ => 2
    | .fault _ _ => 3
  | none => 0

theorem test_meets_queue_operands :
    meetsQueue sQe (.add (alu (.v 60) (.q 1) z o)) = 1 ∧ meetsQueue sQ1 (.add (alu (.v 60) (.q 1) z o)) = 2 ∧
    meetsQueue sQ1 (.add (alu (.v 60) (.q 0) z o)) = 3 ∧ meetsQueue sQ1 (.add (alu (.v 60) (.q 9) z o)) = 3 ∧
    rowAt sQe (.add (alu (.v 60) (.q 1) z o)) (arithRow (.add (alu (.v 60) (.q 1) z o))) = true ∧
    (sQe.toW.bind 1 1).kind = .pop ∧ (sQe.toW.bind 1 0).kind = .push ∧ (sQe.toW.bind 1 9).kind = .none ∧
    (queueAt sQe 3).elems.length = 8 ∧ (queueAt sQc 3).closed = true := by
  decide +kernel

theorem test_meets_queue_bindings :
    claims sQ 3 ∧ Nat.testBit (qf 3).eimm.toNat 4 = false ∧ Nat.testBit (qf 0x13).eimm.toNat 4 = true ∧
    (queueAt sQl 3).streams ≠ [] ∧ entryValid ((rd sQ .always).pair (.s 60) 0).toNat = true ∧
    tflagsOk 0 = true ∧ entryValid 0x2102 = false := by
  unfold claims
  decide +kernel

theorem test_meets_queue_close_and_status :
    (Claim.bindOf sQ1 1).kind = .pop ∧ (queueAt sQ1 3).closed = false ∧ (queueAt sQ1 3).streams = [] ∧
    (queueAt sQc 3).closed = true ∧ (∃ x ∈ (queueAt sQl 3).streams, x.store = false) ∧
    (Claim.bindOf sQ1 7).kind = .none := by
  decide +kernel

theorem test_meets_streams :
    (let s := sQs
     let f := sfl
     tdStream (etd s f) = true ∧ fmtMx f.fmto.toNat = false ∧ tdStream (streamTd s f) = true ∧
     streamFrom s f + streamLen s f ≤ streamAll s f ∧ (queueAt s 3).closed = false ∧
     (queueAt s 3).closepend = false ∧ (queueAt s 3).streams.length < 4 ∧
     (Claim.bindOf s 1).kind = .pop ∧ (streamBase s f.g).bind (now s).gid 1 = Claim.bindOf s 1) ∧
    (sfl.space == .scratch) = false := by
  decide +kernel

/-- A pod's job, a proxy ring, a communicator of two and tokens in every state. -/
def poke (pa : Nat) (bs : List Byte) (s : State) : State := (s.toW.putBytes pa bs).toState s
def sP : State :=
  poke 0x3F000000 (leBytes 2 2 ++ leBytes 2 1 ++ leBytes 2 1 ++ leBytes 2 0 ++ leBytes 8 0x3F000800) <|
  poke 0x3F000800 (leBytes 2 0 ++ leBytes 2 5) <| td 11 (desc 0 1 [64] [] 0x10000)
  { sQ with
    chip.sys.sr := aset sQ.chip.sys.sr (1, .podjob) 0x10005
    chip.sys.blk := aset (aset sQ.chip.sys.blk (.pxqCtl, 3) (BitVec.ofNat 64 (2 ^ 48 + 1)))
      (.commBase, 0) 0x3F000000
    chip.fab.next := [(0, 5), (7, 0)]
    chip.fab.toks := [((0, 1), { asid := 1, st := .outstanding, at_ := 0 }),
                      ((0, 2), { asid := 1, st := .landed, at_ := 0 }),
                      ((0, 3), { asid := 1, st := .failed, at_ := 0 })] }
def sTk : State :=
  putEach (.v 80) [1, 2, 3, 0, 2, 0, 2, 1] <| putEach (.v 81) [3, 2, 1, 1, 1, 0, 0, 2] <|
  putEach (.v 82) [0, 2, 3, 0, 2, 3, 2, 3] sP

theorem test_meets_token_merges_and_waits :
    (eachLane (lanesOf sTk .always) (fun w l =>
      match merged sTk w (tokOfLane sTk (.v 80) l) (tokOfLane sTk (.v 81) l) with
      | (w, some t) => (w.dst (now sTk) (.v 60) l [BitVec.ofNat 32 t], some ())
      | (w, none) => (w, none)) (moved sTk)).2.isSome = true ∧
    (merged sTk (moved sTk) (tokOfLane sTk (.s 9) 0) (tokOfLane sTk z 0)).2.isSome = true ∧
    (let v := fun x l => (moved sTk).tokView (grp sTk).asid ((rd sTk .always).word x l).toNat
     (∀ l ∈ lanesOf sTk .always, v (.v 82) l = .landed ∨ v (.v 82) l = .failed) ∧
     (lanesOf sTk .always).find? (fun l => v (.v 80) l = .waiting) = some 0 ∧
     ∀ k ∈ lanesOf sTk .always, v (.v 80) k ≠ .illegal) := by
  decide +kernel

/-- A queue bound to another package's ring; a run of n elements from 0x1000. -/
def sPx (n : Word) : State :=
  put (.s 55) [n] (then_ (.qbind ⟨2, .pxpush, true⟩ (qf 3)) sP)
def pxf : EngF := eng o (.s 40) (.s 55) o 0 0 0 0 .glob 0 .tm .rel

theorem test_meets_proxy_pushes :
    (moved sP).pxOwned 3 (grp sP).asid = true ∧ (moved sP).podEn (grp sP).asid = true ∧
    (moved sP).reaches 0 = true ∧
    ([1, 16].all fun n =>
      let s := sPx n
      (Claim.bindOf s 2).kind == .pxpush && ((rd s .always).pair pxf.a 0).toNat % 4 == 0 &&
        ((rd s .always).word pxf.b 0).toNat == n.toNat && (Claim.bindOf s 2).err == 0 &&
        (pushReads s pxf).2.isSome && (aget (pushReads s pxf).1.c.fab.bufs (Claim.bindOf s 2).buf).isSome) =
      true ∧ room (sPx 1) .co := by
  unfold room
  decide +kernel

def cf (td : BitVec 10) (od : Order) : EngF := eng o o o o 0 0 0 td .glob 0 .sys od

theorem test_meets_collectives :
    collOk sP ⟨.allred, .add⟩ (cf 11 .rel) ∧ collOk sP ⟨.bcast, .add⟩ (cf 11 .rlx) ∧ room sP .co := by
  unfold collOk reduces room
  decide +kernel

def la (a : Opnd) : Alu := alu (.s 70) a o o
/-- Bytes at a place of a record. -/
def at_ (n : Nat) (bs xs : List Byte) : List Byte := xs.take n ++ bs ++ xs.drop (n + bs.length)
/-- A launch record whose handle is at 0x9000: two teams of one group of eight lanes, 40 and 24 registers. -/
def lrecB : List Byte :=
  at_ 0 (leBytes 8 0x9000) <| at_ 8 (leBytes 4 2) <| at_ 12 (leBytes 4 1) <| at_ 16 (leBytes 4 1) <|
  at_ 20 (leBytes 2 8) <| at_ 22 (leBytes 2 1) <| at_ 24 (leBytes 2 1) <| at_ 26 (leBytes 2 40) <|
  at_ 28 (leBytes 2 24) <| List.replicate 256 0
def lhnd : List Byte :=
  at_ 0 (leBytes 8 0x2100) <| at_ 8 (leBytes 2 1) <| at_ 10 (leBytes 2 40) <| at_ 12 (leBytes 2 24) <|
  at_ 22 (leBytes 2 1) <| List.replicate 64 0
def sL : State :=
  let s := put (.s 72) [0x8000, 0] <| poke 0x8000 lrecB <| poke 0x9000 lhnd <| poke 0x2100 entryBlk sP
  { s with chip.sys.sr := aset s.chip.sys.sr (1, .leatsize) (BitVec.ofNat 64 (4954521600 + 2 ^ 30)) }
def sDeep : State :=
  { sL with chip.slu.grids := sL.chip.slu.grids.map fun e => (e.1, { e.2 with depth := 10 }) }
/-- Lanes that are not the leader, and a record copied before. -/
def sLate : State := { sL with chip.mdl.cur.lanes := [3, 4] }
def sCopied : State := { sL with chip.slu.copies := [((1, 2), (lrecB, lhnd))] }
/-- A child whose handle, 3, is in s70. -/
def sChild : State :=
  put (.s 70) [3] { sL with chip.slu.children :=
    [{ asid := 1, team := teamNo sL, handle := 3, grid := 50, pgrid := (grp sL).grid }] }

/-- The record that the leader names passes its checks. -/
def launches (s : State) : Bool :=
  match (moved s).launchRec (now s) (grp s).asid (launchAddr s (la (.s 72))) with
  | (w, .ok r) => match w.recCheck (grp s).asid r with
    | (w, .ok _) => decide (w.childSlots (grp s).asid < 4096)
    | _ => false
  | _ => false

theorem test_meets_launches :
    launches sL = true ∧ leadLane sL .always = some 0 ∧ ((moved sL).grid (grp sL).grid).depth ≠ 10 ∧
    ((moved sDeep).grid (grp sDeep).grid).depth = 10 ∧ leadLane sLate .always = none ∧
    (∀ k ∈ lanesOf sL .always, aget (moved sL).c.slu.copies ((now sL).gid, k) = none) ∧
    ((lanesOf sCopied .always).findSome? fun l => aget (moved sCopied).c.slu.copies (1, l)).isSome = true ∧
    (moved sCopied).childSlots (grp sCopied).asid < 4096 ∧ launchAddr sL (la (.s 40)) % 256 = 0 ∧
    launchAddr (put (.s 72) [0x8010] sL) (la (.s 72)) % 256 ≠ 0 := by
  decide +kernel

theorem test_meets_child_waits :
    (let f := alu (.s 71) (.s 70) o o
     namesAll f = false ∧ named sChild f ≠ [] ∧ named sL f = [] ∧ (∃ c ∈ named sChild f, c.status = none)) ∧
    namesAll (alu o o o o) = true ∧ (∀ c ∈ named sL (alu o o o o), c.status.isSome = true) := by
  decide +kernel

/-- A SPAWN's fields; 64 records stand; 128 groups are used; a grid of single teams, one team's FETCHW out. -/
def spf (im : Word) : Alu := { alu (.s 76) (.v 80) z o with imm := some im }
def sSpawns : State :=
  { sL with chip.cores := sL.chip.cores.map fun e =>
      (e.1, { e.2 with spawns := List.replicate 64 { team := 9, entry := 0x2100, gindex := 0, args := [] } }) }
def sGroups : State :=
  { sL with chip.cores := sL.chip.cores.map fun e =>
      (e.1, { e.2 with unstarted := (List.range 127).map fun k => (teamNo sL, k + 1) }) }
def sBox : State :=
  put (.s 78) [0x100]
  { sL with chip.slu.grids := sL.chip.slu.grids.map fun e =>
      (e.1, { e.2 with lrec := at_ 31 [1] (record false) }) }
def sBoxed : State :=
  { sBox with chip.slu.teams := sBox.chip.slu.teams.map fun e => (e.1, { e.2 with fetchw := some 0 }) }

theorem test_meets_spawns :
    fresh sL .always ∧ entryGood (spawnEntry sL (spf 0x40)) ∧ ¬ entryGood (spawnEntry sL (spf 0x47)) ∧
    (((moved sL).gindexes (teamNo sL)).length + 1) * (grp sL).width ≤ 1024 ∧
    1024 < (((moved sGroups).gindexes (teamNo sGroups)).length + 1) * (grp sGroups).width ∧
    64 ≤ ((moved sSpawns).core (grp sSpawns).core).spawns.length ∧
    ((moved sL).core (grp sL).core).spawns.length < 64 := by
  refine ⟨fresh_of_none (by decide +kernel), ?_⟩
  unfold entryGood
  decide +kernel

theorem test_meets_mailboxes :
    (let f := alu o (.s 78) o o
     mailboxGood sBox f ∧ ¬ mailboxGood sL f ∧
     ((drained sBox).spGate 1 (teamNo sBox) (mailbox sBox f + 60) 4 (lanesOf sBox .always)).2 = none ∧
     ((moved sBoxed).team (teamNo sBoxed)).fetchw.isSome = true ∧
     ((moved sBox).team (teamNo sBox)).fetchw = none) := by
  unfold mailboxGood
  decide +kernel

/-- Arguments of tasks; a pool that is full; task groups. -/
def taF (n : Word) : Alu := { alu (.v 60) (.v 84) z o with imm := some n }
def sTa : State := put (.v 84) [0x2100, 0, 0xFFFFFFFF, 1, 2, 3, 4, 5, 6, 7, 8] sL
def sTa1 : State := then_ (.taskadd (taF 0)) sTa
def sPool : State :=
  { sTa1 with chip.cores := sTa1.chip.cores.map fun e =>
      (e.1, { e.2 with tasks := (List.replicate 512 e.2.tasks).flatten }) }
def asTask (k : GroupKind) (t : Option Nat) : State :=
  ((now sTa).lanes.foldl (fun w l => w.modLane 1 l fun x => { x with task := t })
    (sTa.toW.modGroup 1 fun g => { g with kind := k })).toState sTa

theorem test_meets_tasks :
    (match popped sTa .always (srcB (taF 0)) with
      | some (_, x, _) => (lanesOf sTa .always).all (fun l => taskGood sTa x (taF 0) l) &&
          (lanesOf sTa .always).all (fun l => !taskGood sTa x { taF 0 with a := .v 8 } l)
      | none => false) = true ∧
    (lanesOf sTa .always).length ≤ 4096 - ((moved sTa).core (grp sTa).core).tasks.length ∧
    4096 - ((moved sPool).core (grp sPool).core).tasks.length < 8 ∧
    (∃ t ∈ ((moved sPool).core (grp sPool).core).tasks.take 1, t.waits = 0) ∧
    (((moved (asTask (.task none) (some 3))).releaseAt 1 .tm).group 1).kind = .task none ∧
    (((moved (asTask (.task (some 3)) (some 3))).releaseAt 1 .tm).group 1).kind = .task (some 3) ∧
    (((moved sTa).releaseAt 1 .tm).group 1).kind = .launch := by
  decide +kernel

/-- The fields of an event; a counter of 5. -/
def evf (d : Opnd) (ord : Order := .rlx) : MemF :=
  { mem d (.s 40) z (.s 88) 0 0 .none false 0 .glob .a8 0 .sys ord with x := 7 }
def sE : State := put (.s 88) [5, 0] sTa
def sE1 : State := then_ (.evsig (evf o)) sE

/-- The event's counter is read. -/
def evRead (s : State) : Option Nat :=
  match (drained s).load (grp s).core (grp s).asid .sys (evAddr s (evf (.s 90)) 0) 8 with
  | (_, .ok (bs, false)) => some (leNat (bs.take 8))
  | _ => none

theorem test_meets_event_counters :
    evPred (evf o) = 7#3 ∧ room sE .st ∧ lanesOf sE .always = [0, 1, 2, 3, 4, 5, 6, 7] ∧
    evAddr sE (evf o) 0 % 8 = 0 ∧ evAddr sE (evf o) 0 + 8 ≤ 2 ^ 56 ∧ evRead sE = some 0 ∧
    evRead sE1 = some 5 ∧ evDone (evSecond sE1 (evf o) 0) 5 ∧ ¬ evDone (evSecond sE (evf o) 0) 0 := by
  unfold room evDone
  decide +kernel

/-! Light -/

def lf (tdi : BitVec 10) (a b : Opnd) (c : Opnd := o) (d : Opnd := .v 160) : EngF :=
  { eng d a b c 3 0xFF 0 tdi .glob 0 .tm .rlx with x := 3 }
def fps (xs : List Nat) : List Byte := (xs.map fun x => leBytes 4 x).flatten
/-- A tree of one node and two triangles in descriptor 30, a texture of two channels in 31, a volume of
spectra in 32, films of three and 16 channels in 33 and 34, and a descriptor of an undefined format in 36. -/
def sLt : State :=
  td 30 (desc 2 1 [1, 2, 2] [] 0x500000) <| td 31 (desc 3 1 [2, 8, 8, 3] [] 0x510000) <|
  td 32 (desc 4 1 [16, 2, 1, 1] [64, 64, 64] 0x520000) <| td 33 (desc 5 1 [3, 16, 16] [24, 384] 0x530000) <|
  td 36 (desc 3 99 [2, 8, 8, 3] [] 0x510000) <|
  poke (0x500000 + 64) (fps [0, 0, 0, 0x3F800000, 0, 0, 0, 0x3F800000, 0, 0, 0, 0]) <|
  poke (0x500000 + 112) (fps [0, 0, 0, 0, 0, 0, 0, 0, 0, 0, 0, 0]) <|
  putEach (.v 140) [0, 0x3F000000, 0x3F800000, 0xBF000000] <|
  putEach (.v 141) [0, 0x3F000000, 0x3F800000, 0xBF000000] <|
  putEach (.v 142) [0, 0x3F000000, 0x3F800000, 0xBF000000] <| putEach (.v 143) [0, 0x3F000000, 0, 0] <|
  putEach (.v 144) [0x43B40000, 0x444F7FFF, 0x43FA0000, 0x44160000] <|
  putEach (.v 145) [0, 1, 2, 3] <| putEach (.v 146) [0, 1, 0, 1] <| put (.s 110) [30]
  { sL with chip.mdl.cur.lanes := [0, 1, 2, 3] }

theorem test_meets_light_descriptors :
    goodLight sLt (lf 30 o o) bvhOk ∧ goodLight sLt (lf 31 o o) texOk ∧ goodLight sLt (lf 32 o o) specOk ∧
    goodLight sLt (lf 33 o o) filmOk ∧ tdCommon (etd sLt (lf 36 o o)) = false ∧
    bvhOk (etd sLt (lf 31 o o)) = false ∧ texOk (etd sLt (lf 30 o o)) = false ∧
    specOk (etd sLt (lf 30 o o)) = false ∧ filmOk (etd sLt (lf 30 o o)) = false ∧ room sLt .tx := by
  unfold goodLight room
  decide +kernel

theorem test_meets_rays_and_triangles :
    runs sLt .always = true ∧ tdCommon (hitEnv sLt (alu (.v 160) (.v 146) (.s 110) o)).d = true ∧
    bvhOk (hitEnv sLt (alu (.v 160) (.v 146) (.s 110) o)).d = true ∧
    (eachLane (lanesOf sLt .always) (hitLane sLt true (alu (.v 160) (.v 146) (.s 110) o))
      (moved sLt)).2.isSome = true := by
  decide +kernel

theorem test_meets_samplers :
    160 + tdSize (etd sLt (lf 31 o o)) 0 ≤ (grp sLt).vb ∧
    (let f := lf 31 (.v 140) (.v 143)
     (eachLane (lanesOf sLt f.g) (sampledLane sLt ⟨.lin, .mirror, 7⟩ f) (lit sLt f false)).2.isSome = true) ∧
    (let f := lf 32 (.v 140) (.v 144)
     (eachLane (lanesOf sLt f.g) (fun w l =>
        match wlamOut ((moved sLt).srReg (grp sLt).asid .wlrange) ((moved sLt).ftz (now sLt).gid)
            ((rd sLt f.g).word f.b l) with
        | none => (w, none)
        | some lams => ssampledLane sLt ⟨.near, .wrap, 7⟩ f lams w l) (lit sLt f false)).2.isSome = true) := by
  decide +kernel

theorem test_meets_films :
    (let f := lf 33 (.v 16) (.v 4) (.v 145)
     tdSize (etd sLt f) 0 ≤ 16 ∧ 16 + tdSize (etd sLt f) 0 ≤ (grp sLt).vb ∧
     (eachLane (lanesOf sLt f.g) (filmLane sLt .raw f) (lit sLt f false)).2.isSome = true) ∧
    ¬ filmFits sLt .resp (lf 33 (.w 1) (.v 144) (.v 145)) := by
  refine ⟨by decide +kernel, ?_⟩
  unfold filmFits
  decide +kernel

/-! Exceptions and system registers -/

/-- A context with a fault ring and room in its Leat. -/
def ring : State :=
  { sL with
    chip.mdl.cur.lanes := [1, 3]
    chip.sys.sr := aset (aset (aset sL.chip.sys.sr (1, .fltring) 0x7000) (1, .leatbase) 0) (1, .leatsize)
      (BitVec.ofNat 64 (4954521600 + 2 ^ 28))
    chip.cch.tlb := sL.chip.cch.tlb ++ (List.range 6).map fun k => ((1, 0, 30, k + 1),
      { size := 30, epa := 0x3FFF0000 + 8 * (k + 1), entry := 0xFF + (k + 1) * 2 ^ 30 }) }
/-- The same with a FAULT record of 256 zero bytes, reported, at the start of the Leat pool. -/
def sEr : State :=
  put (.s 20) [BitVec.ofNat 32 4954521600, BitVec.ofNat 32 (4954521600 / 2 ^ 32)]
    { ring with
      chip.mdl.cur := { sL.chip.mdl.cur with lanes := [0, 2, 4] }
      chip.thr.frags := ring.chip.thr.frags ++ [(90,
        { gid := 1, place := .parked, pool := some (0, 256), wake := .fault 0x2000 false Cause.swTrap
          fr := { addr := 5, bytes := List.replicate 256 0, rep := .awaiting } })] }

theorem test_meets_traps :
    runs ring .always = true ∧ (now ring).replay = false ∧ placeFor ring (lanesOf ring .always) := by
  unfold placeFor
  decide +kernel

/-- The record that an ERET names, as the return reads it: sound, corrupted, or none. -/
def named_ (s : State) : Nat :=
  match (atSys s).awaitingAt (grp s).asid ((rd s .always).pair (.s 20) 0).toNat with
  | none => 0
  | some n =>
    let x := (atSys s).frag n
    match (atSys s).read3 ((atSys s).group x.gid).asid ((rd s .always).pair (.s 20) 0).toNat
        x.fr.bytes.length false with
    | (_, .ok bs) => if fixedFields bs = fixedFields x.fr.bytes then 1 else 2
    | _ => 3

theorem test_meets_returns :
    runs sEr .always = true ∧ named_ sEr = 1 ∧ named_ (put (.s 20) [0] sEr) = 0 ∧
    named_ (poke (4954521600 + 16) [0xFF] sEr) = 2 ∧
    ((atSys sEr).lengthAt 1 0x2000).2.isSome = true := by
  decide +kernel

/-- A block register written. -/
def setBlk (r : Reg) (n : Nat) (x : Dword) (s : State) : State :=
  { s with chip.sys.blk := aset s.chip.sys.blk (r, n) x }

/-- A selector in s124 and a value in s120. -/
def rgf : Alu := alu (.s 122) (.s 120) (.s 124) o
def sel (n : Word) (x : List Word) (s : State) : State := put (.s 124) [n] <| put (.s 120) x s
/-- The same without privilege. -/
def noPriv (s : State) : State :=
  { s with chip.sys.ctxs := s.chip.sys.ctxs.map fun e => (e.1, { e.2 with priv := false }) }

theorem test_meets_register_reads :
    runs (sel 0x400 [1, 2] sL) .always = true ∧ isPriv sL = true ∧ isPriv (noPriv sL) = false ∧
    regOf (selector (sel 0x400 [] sL) rgf / 256 % 4096) = some (.fpctl, 1) ∧
    selector (sel 0x401 [] sL) rgf % 256 = 1 ∧ selector (sel 0x100400 [] sL) rgf / 2 ^ 20 % 2048 ≠ 0 ∧
    regOf (selector (sel 0x1FF00 [] sL) rgf / 256 % 4096) = none ∧
    2 ^ 31 ≤ selector (sel 0x80000400 [] sL) rgf ∧ aget sL.chip.sys.ctxs (otherCtx sL rgf) = none := by
  decide +kernel

theorem test_meets_register_names : namesReg (sel 0x400 [] sL) rgf .fpctl 0 ∧
    inCtx (sel 0x400 [] sL) rgf .fpctl (grp (sel 0x400 [] sL)).asid := by
  refine ⟨⟨1, ?_⟩, ?_⟩
  · decide +kernel
  · have h : selector (sel 0x400 [] sL) rgf < 2 ^ 31 := by decide +kernel
    unfold inCtx
    rw [if_pos h]

theorem test_meets_register_writes :
    storeMask .fpctl ≠ none ∧
    (let x := (rd (sel 0x400 [0x3F, 0] sL) .always).pair (.s 120) 0
     (storeMask .fpctl).any fun e => decide (x &&& e.2 = 0)) = true ∧
    (let x := (rd (sel 0x400 [0, 1] sL) .always).pair (.s 120) 0
     (storeMask .fpctl).any fun e => decide (x &&& e.2 ≠ 0)) = true ∧
    headReg .resqptr ∧ fixedReg .config ∧
    leatReserved + (moved sL).leatUse 1 ≤ 4954521600 + 2 ^ 30 ∧ sL.chip.slu.cmd = none ∧
    ((setBlk .aprCtl 9 1 sL).toW.blk .aprCtl 9).getLsbD 0 = true := by
  unfold headReg fixedReg
  decide +kernel

theorem test_meets_counts_and_translations :
    perfOf sEr 0 ≠ none ∧ perfOf sEr 999 = none ∧
    (let s := put (.s 128) [0x12345, 0] <| put (.s 130) [1] <| put (.s 132) [0xFFFF] sEr
     runs s .always = true ∧ (rd s .always).word (.s 132) 0 ≠ 0 ∧
     1 ∈ (atSys s).c.sys.ctxs.map Prod.fst) := by
  decide +kernel

/-! Steps, frames and the package's own events -/

def code (is : List Instr) : List Byte :=
  (is.map encode).flatten ++ List.replicate (32 - (is.map encode).flatten.length) 0
/-- The fragment's next instructions stand in the instruction cache; 2,000 cycles have passed. -/
def sI (is : List Instr) : State :=
  { sM with
    chip.cores := sM.chip.cores.map fun e => (e.1, { e.2 with icache := [((1, 0x2000), code is)] })
    chip.mdl.ac := 2000, chip.mdl.pack := [], chip.mdl.cur := {} }
def addI : Instr := .add (alu (.v 40) (.v 8) (.v 10) o)
def sAdd : State := { sI [addI] with chip.mdl.agenda := [.slotIssue 0 0] }

theorem test_meets_step_runs_decoded :
    sAdd.boot.power = true ∧ sAdd.chip.mdl.pack = [] ∧ (1, 0) ∈ sAdd.toW.slotFrags 0 0 ∧
    (∀ x ∈ sAdd.toW.slotFrags 0 0, x = (1, 0)) ∧ (sAdd.toW.frag 1).place = .ctx 0 ∧
    (sAdd.toW.frag 1).notBefore ≤ sAdd.chip.mdl.ac ∧ sAdd.toW.latchHolds 1 = false ∧
    sAdd.chip.thr.pends = [] ∧ (sAdd.toW.nextIssue 1).any (fun i => decide (i.pc = 0x2000)) = true ∧
    (match sAdd.toW.ready 1 with
      | some (i, .ok ins n) => decide (ins = addI ∧ n = 8 ∧ i.frag = 1)
      | _ => false) = true ∧
    (sAdd.toW.frag 1).meter + weight addI ≤ (sAdd.toW.blk .ylimit 0).toNat ∧
    overBudget (sAdd.toW.group 1) addI = false ∧ sAdd.toW.slotFree 0 0 = true ∧
    (sAdd.toW.group 1).born.getD 0 < 2 ^ 64 ∧
    (step sAdd matches .next _) = true := by
  decide +kernel

theorem test_meets_no_executing_lane :
    lanesOf sD { neg := true, p := 7 } = [] ∧ calm sD = true ∧ (now sD).replay = false ∧
    (let s := { sD with chip.thr.frags := sD.chip.thr.frags.map fun e => (e.1, { e.2 with step := true }) }
     calm s = false ∧ lanesOf s .always ≠ [] ∧ (s.toW.frag 1).hold = [] ∧
     aget s.chip.thr.frags 1 = some (s.toW.frag 1)) := by
  decide +kernel

theorem test_meets_frames :
    (laneFields addI).isSome = true ∧ wellFormed 256 192 addI = true ∧
    (uniFields (.uadd .b64 uu)).isSome = true ∧ runs sU .always = true ∧
    (memFields (.ld ⟨7, .b32⟩ mf)).isSome = true ∧
    (∀ e ∈ sM2.chip.thr.frags, e.1 < sM2.chip.mdl.next) ∧
    (exec addI sD matches .next _) = true ∧ (exec (.uadd .b64 uu) sU matches .next _) = true ∧
    (exec (.ld ⟨7, .b32⟩ mf) sM2 matches .next _) = true ∧
    (let s := then_ (.ld ⟨7, .b32⟩ mf) sM
     let s : State := { s with chip.cch.l2 := s.chip.cch.l2.map fun e => (e.1, { e.2 with pw := true }) }
     (s.chip.cch.l1.any fun e => (aget s.chip.cch.l2 (e.1.2.1, e.1.2.2)).any fun l => l.pw) = true ∧
     s.chip.cch.l1.length < Config.l1Lines) := by
  decide +kernel

theorem test_meets_steps_go_on :
    State.reset.boot.power = true ∧ Memory.wf State.reset.mem = true ∧
    (let s := { State.reset with boot.power := false, chip.mdl.agenda := [.powerOn 0] }
     s.boot.power = false ∧ (step s matches .next _) = true) ∧
    State.reset.chip.mdl.agenda = [] ∧ State.reset.toW.nextInternal = none ∧
    (step State.reset matches .next _) = true := by
  decide +kernel

/-- A fragment of another lane's age; a result in flight; a line's block not there. -/
def sOld : State :=
  { sI [addI] with chip.thr.lanes := (sI [addI]).chip.thr.lanes.map fun e =>
      if e.1.2 = 3 then (e.1, { e.2 with count := 3000, pc := 0x2008 }) else e }
def sFar : State :=
  { sI [] with chip.cores := sM.chip.cores.map fun e => (e.1, { e.2 with icache := [] }) }
def sWait : State :=
  { sFly with chip.mdl.ac := 24
              chip.thr.lanes := sFly.chip.thr.lanes.map fun e => (e.1, { e.2 with st := .held }) }

/-- The first operation of a class is done. -/
def doneOp (c : OpClass) (s : State) : State :=
  { s with chip.eng.ops := s.chip.eng.ops.map fun e =>
      (e.1, if e.2.cls = c then { e.2 with done := true } else e.2) }

theorem test_meets_issue_and_landing :
    (sI [addI]).toW.inCtx 0 0 = some 1 ∧ ((sI [addI]).toW.ready 1).isSome = true ∧
    ((sI [addI]).toW.frag 1).issued + 1024 ≤ (sI [addI]).chip.mdl.ac ∧ sOld.toW.overdue 1 1 = some 3 ∧
    aget (sFar.toW.core 0).icache (1, 0x2000) = none ∧
    ((sFar.toW.fetchBlock 1 0x2000).2 matches .ok _) = true ∧
    ((({ sFar with chip.cch.tlb := [] } : State).toW.fetchBlock 1 0x2000).2 matches .bad _ _) = true ∧
    (sFly.chip.eng.ops.any fun e => decide (e.2.cls = .ld ∧ e.2.done = true) &&
      sFly.chip.eng.ops.all (fun p => !(p.2.gid = e.2.gid && p.2.cls = e.2.cls) || decide (e.1 ≤ p.1)) &&
      sFly.chip.thr.pends.all fun p => p.2.op ≠ e.1 || p.2.ready) = true ∧
    (sFly.chip.eng.ops.any fun e => !e.2.done) = true ∧ sWait.toW.inCtx 0 0 = some 1 ∧
    sWait.toW.nextIssue 1 = none ∧
    ((sWait.toW.waitsFor 1 true).find? fun e => e.2.at_ + 24 ≤ sWait.chip.mdl.ac).isSome = true := by
  decide +kernel

/-- The one operation in flight. -/
def lastOp (s : State) : Option (Nat × Op) := s.chip.eng.ops.getLast?

/-- A fill of slot 3 and the emptying of a dirty one; lines of which one lacks permission. -/
def sFill : State := then_ (.spfill (alu o (.s 50) (.s 52) (.s 52))) sS
def sEvict (tag : Nat) : State :=
  then_ (.spevict (alu o (.s 50) (.s 52) (.s 52)))
    { sS with chip.spd.tags := [((1, 3), { state := 2, dirty := true, tag := tag })] }
def sAsk : State :=
  { sFly with chip.cch.l1 := sFly.chip.cch.l1.map fun e => (e.1, { e.2 with pw := false }) }
def sSlot : State :=
  { sS with chip.spd.tags := [((1, 0), { rcnt := 256, state := 2, dirty := true })] }
/-- Contributions staged by two teams of which the first is over. -/
def sStage : State :=
  { sG with
    chip.syn.staged := [(gG, [{ asid := 1, tlin := 0, va := 0x2000, x := 0x3F800000, scope := .pkg },
                              { asid := 1, tlin := 1, va := 0x1000, x := 0x40000000, scope := .pkg }])]
    chip.slu.grids := sG.chip.slu.grids.map fun e => (e.1, { e.2 with withdrawn := [0] }) }

theorem test_meets_stores_and_lines :
    sM2.toW.sq 1 ≠ [] ∧ sM.toW.sq 1 = [] ∧ aget sM.chip.cch.l1 (0, 1, 99) = none ∧
    (sAsk.chip.cch.l1.any fun e => (sAsk.toW.upgrade2 e.1.2.1 (e.1.2.2 * 128)).2 matches .ok _) = true ∧
    (lastOp sFill).any (fun e => !e.2.done && e.2.fault.isNone && (e.2.kind matches .fill ..)) = true ∧
    (lastOp (sEvict 3)).any (fun e => !e.2.done && (e.2.kind matches .evict ..)) = true ∧
    ((sEvict 3).toW.prep 1 (3 * 4096) 4096).2 matches .ok [] ∧
    ((sEvict 0xFFFFFF).toW.prep 1 (0xFFFFFF * 4096) 4096).2 matches .bad _ _ ∧
    ((sSlot.chip.slu.teams.find? fun e => decide (e.2.core = 0) &&
      (decide (e.2.slot0 ≤ 0) && decide (0 < e.2.slot0 + e.2.slots))).map Prod.fst) = some 1 ∧
    (sStage.toW.grid gG).count = 16 ∧ sStage.toW.teamOver gG 0 = true ∧ sStage.toW.teamOver gG 1 = false := by
  decide +kernel

/-- A table entry that says a page is away; tile copies of which one meets such a page. -/
def away (s : State) : State :=
  let s := poke 0x3F200000 (leBytes 8 0x3F100001) (poke 0x3F100008 [0x1B] s)
  { s with chip.sys.sr := aset s.chip.sys.sr (1, .ttbase) 0x3F200000 }
def sAway : State :=
  then_ (.tcopy .g2s { ef with tdi := 40 })
    (away (td 40 (desc 0 1 [64, 64] [256] 0x40000000) (sTc [0, 0] [64, 64] [0, 0])))
/-- What becomes of a segment of the last operation: done 1, skipped 2, failed 3; 0 where it does not go. -/
def segOf (s : State) (seg : Nat) : Nat :=
  match lastOp s with
  | some (_, op) => match op.kind with
    | .hoist h =>
      if seg ∈ h.segs ∧ seg ∉ h.done ∧ (∀ x ∈ h.failed, x.1 ≠ seg) ∧ h.inPlace.isNone ∧ op.done = false ∧
          (s.toW.team h.team).st ≠ .saved then
        match (segTry s op h seg).2.2 with
        | .ok _ => 1
        | .skip _ => 2
        | .bad _ _ => 3
      else 0
    | _ => 0
  | none => 0
/-- A segment on the list of fix-ups of core 0. -/
def sFix (n : Nat) : State :=
  { sAway with chip.spd.fixups := [(0, List.replicate n
      { op := ((lastOp sAway).map Prod.fst).getD 0, seg := 1, va := 0x40000000, asid := 1, since := 0 })] }

theorem test_meets_hoist_steps :
    segOf sHit 0 = 1 ∧ segOf sAway 0 = 2 ∧ (sAway.toW.fixups 0).isEmpty = true ∧
    256 ≤ ((sFix 256).toW.fixups 0).length ∧
    ((sFix 1).toW.fixups 0).any (fun e => e.seg = 1) = true ∧
    (sFix 1).chip.mdl.ac < 0 + (sFix 1).toW.fixLim 1 := by
  decide +kernel

/-- The stream of queue 3 reads, or writes what it holds. -/
def sQst : State :=
  { then_ (.stream ⟨0, true, true⟩ { sfl with a := .s 61, b := .s 62 }) (td 9 (desc 6 1 [64] [] 0x10000) sQe) with
    chip.mdl.cur := sQe.chip.mdl.cur }

theorem test_meets_stream_steps :
    (sQl.toW.claimed 0)[0]? = some (1, 3) ∧
    ((sQl.toW.hq 1 3).streams.head?.any fun x => !x.store && decide (x.done < x.count) &&
      ((sQl.toW.streamRead 1 x (x.start + x.done)).2 matches .ok ..)) = true ∧
    (sQl.toW.hq 1 3).elems.length < 2048 ∧ (sQ1.toW.hq 1 3).streams.isEmpty = true ∧
    ((sQst.toW.hq 1 3).streams.head?.any fun x => x.store && decide (x.done < x.count) &&
      ((sQst.toW.streamWrite 1 x (x.start + x.done) 7).2 matches .ok ..)) = true ∧
    (sQst.toW.hq 1 3).elems.isEmpty = false := by
  decide +kernel

/-- The same operation turned into a transform, and into the zeroing of its tile. -/
def asKind (k : Mx → MxKind) : State :=
  { sXz with chip.eng.ops := sXz.chip.eng.ops.map fun e => (e.1, { e.2 with kind := match e.2.kind with
      | .mx m => .mx { m with kind := k m }
      | x => x }) }
def mxGoes (s : State) : Bool :=
  (lastOp s).any fun e => !e.2.done && match e.2.kind with
    | .mx m => m.susp.isNone && !m.isVec && decide ((s.toW.team m.team).st = .resident) &&
        match mxStepOf s e.2 m with
        | .done _ _ _ => true
        | _ => false
    | _ => false
/-- An operation whose weight slot holds nothing stops. -/
def sNoSlot : State := asKind fun _ => .mma ⟨true, 0, false⟩

theorem test_meets_matrix_steps :
    sXz.chip.eng.ops.length = 1 ∧ mxGoes (asKind fun m => .zero m.tilesOf) = true ∧
    mxGoes (asKind fun _ => .had ⟨.b32, false⟩) = true ∧
    ((lastOp sNoSlot).any fun e => match e.2.kind with
      | .mx m => (match mxStepOf sNoSlot e.2 { m with slot := some 0 } with
          | .stop _ _ (.bad _ _) => true
          | _ => false)
      | _ => false) = true := by
  decide +kernel

/-- The rays of a trace through a node without children. -/
def sRay : State :=
  then_ (.trace ⟨false, false, false⟩ (lf 30 (.v 150) (.s 4)))
    (poke (0x500000 + 48) (fps [0x7FFFFFFF, 0x7FFFFFFF]) sLt)

theorem test_meets_ray_results :
    ((lastOp sRay).any fun e => match e.2.kind with
      | .tx t => decide ((sRay.toW.team t.team).st = .resident) && (match t.kind with
          | .trace m mask => !m.task && (match t.rays.find? fun r => r.1 = 3 with
              | some (_, ray, pay) => (sRay.toW.castRay e.2 t m mask ray pay).1.bad.isNone
              | none => false)
          | _ => false)
      | _ => false) = true := by
  decide +kernel

/-- Package 0 of a pod in which job 5 is the context's. -/
def sPd : State := setBlk .fabricId 0 0x400 sL
def req (op : RemOp) (va len : Nat) (data swp : List Byte := []) : RemReq :=
  { src := 0, dst := 0, job := 5, id := 9, op := op, va := va, len := len, data := data, swp := swp
    toks := [], port := 0 }
/-- A load that waits for its reply; a store that waits for a token. -/
def sOut : State :=
  { sPd with
    chip.fab.outs := [(9, { req := req .load 0x1000 4, gid := 1, asid := 1, lane := 0, op := 3, pend := none
                            rp := none, dst := 60, ext := .b32, scope := .pod, tok := some (0, 1)
                            sent := some 5, iaddr := 0x2000 })] }
def held : Held := { req := { req .store 0x1000 4 [1, 2, 3, 4] with src := 4, port := 2 }, toks := [77], at_ := 10 }
def sHeld : State := { sPd with chip.fab.weir := [(2, [held])] }

theorem test_meets_remote_requests :
    sPd.toW.pkgValid = true ∧ sPd.toW.pkg = 0 ∧ sPd.toW.peer 5 = some 1 ∧ sPd.toW.peer 6 = none ∧
    sL.toW.pkgValid = false ∧ (∀ e ∈ sPd.chip.mc.stks, e.2.closed = false) ∧ sPd.toW.weir 0 = [] ∧
    ((sPd.toW.read3 1 0x1000 8 true).2 matches .ok _) = true ∧
    ((sPd.toW.write3va 1 0x1000 [1, 2, 3, 4] true).2 matches .ok _) = true ∧
    ((sPd.toW.write3va 1 0x40000000 [1, 2, 3, 4] true).2 matches .bad _ _) = true ∧
    (remAtom (.atom .add .u32) [1, 2, 3, 4] [] [0, 0, 0, 0]).isSome = true ∧
    remAtom .cas [1, 2, 3, 4] [9, 9, 9, 9] [0, 0, 0, 0] = none ∧
    ((sPd.toW.check3 1 0x1000 4 true).2 matches .ok _) = true := by
  decide +kernel

theorem test_meets_remote_replies :
    (aget sOut.chip.fab.outs 9).isSome = true ∧ aget sOut.chip.fab.outs 8 = none ∧
    sOut.chip.mdl.ac < 5 + sOut.toW.tmoAc ∧
    (aget sPd.chip.fab.toks (0, 1)).any (fun e => decide (e.st = .outstanding)) = true ∧
    sPd.chip.mdl.ac < 0 + sPd.toW.expAc ∧ sPd.chip.fab.weir = [] ∧ sPd.chip.fab.early = [] ∧
    (sHeld.toW.weir 2).length = 1 ∧ sHeld.chip.mdl.ac < 10 + sHeld.toW.expAc ∧
    (∀ e ∈ sOut.chip.fab.outs, e.2.sent ≠ none) := by
  decide +kernel

/-- A forwarding buffer to a package; the ring of queue 3, with room or full. -/
def buf (items : List FwdItem) (pkg : Nat := 0) (r : Option Nat := none) : FwdBuf :=
  { gid := 1, q := 2, asid := 1, job := 5, pkg := pkg, n := 3, items := items, refusedAt := r }
def sBuf (f : FwdBuf) : State := { setBlk .pxqRing 3 0x12000 sPd with chip.fab.bufs := [(6, f)] }
def sFullRing : State := setBlk .pxqPtr 3 (BitVec.ofNat 64 (64 * 2 ^ 32)) (sBuf (buf [.elem 7]))

theorem test_meets_forwarding_buffers :
    (aget (sBuf (buf [.close])).chip.fab.bufs 6).isSome = true ∧ (buf [.elem 7]).pkg = (sBuf (buf [])).toW.pkg ∧
    (buf [.elem 7] 4).pkg ≠ (sBuf (buf [])).toW.pkg ∧ (sBuf (buf [])).toW.pkgValid = true ∧
    (((sBuf (buf [])).toW.pxAppend 3 5 [7]).2 matches .taken) = true ∧
    ((sFullRing.toW.pxAppend 3 5 [7]).2 matches .refused) = true ∧
    (sFullRing.toW.blk .pxqCtl 3).getLsbD 0 = true ∧ (sFullRing.toW.blk .pxqCtl 3).getLsbD 3 = false ∧
    2 ^ (sFullRing.toW.pxRing 3).2.1 < sFullRing.toW.pxCount 3 + 1 ∧
    sFullRing.toW.podEn (sFullRing.toW.pxRing 3).2.2 = true ∧
    sFullRing.toW.podJob (sFullRing.toW.pxRing 3).2.2 = 5 ∧ (sL.toW.blk .pxqCtl 9).getLsbD 0 = false ∧
    (sBuf (buf [.elem 7] 4 (some 0))).chip.mdl.ac < 0 + sPd.toW.expAc := by
  decide +kernel

/-- A collective whose other member's part is the same, of another length, or missing. -/
def sColl : State := then_ (.coll ⟨.bcast, .add⟩ (cf 11 .rlx)) (setBlk .commBase 0 0x3F000000
  (td 11 (desc 0 1 [4] [] 0x10000) sPd))

theorem test_meets_collective_steps :
    (match sColl.toW.colls 0 with
      | [k] => k.elems.any (fun own =>
          let q := k.result fun r => if r = k.rank then own else own
          ((sColl.toW.collWrite k q.1).2 matches .ok _) && decide (k.p = 2 ∧ k.rank < 2) &&
            decide (sColl.chip.mdl.ac < k.at_ + sColl.toW.tmoAc)) &&
          k.members.any (fun p => !sColl.toW.reaches p) &&
          decide ((sColl.toW.collSpoil k).colls 0 = [k])
      | _ => false) = true := by
  decide +kernel

/-- Windows 0 and 1 open, the second for event counters; a connection that is ready and one in error. -/
def sWin : State :=
  { setBlk .hwinCtl 0 (BitVec.ofNat 64 (7 * 2 ^ 32 + 2 ^ 16 + 0xF000 + 0x1D))
      (setBlk .hwinLen 0 0x100000 (setBlk .hwinCtl 1 (BitVec.ofNat 64 (8 * 2 ^ 32 + 0xF000 + 0x3F))
        (setBlk .hwinLen 1 0x100000 sPd))) with
    chip.slu.qps := [((0, 1), .ready), ((1, 1), .error)] }

theorem test_meets_host_windows :
    sWin.toW.qpReady 0 1 = true ∧ sWin.toW.qpReady 1 1 = false ∧ 3 ∉ sWin.chip.mc.down ∧
    (sWin.toW.hwin 0 7 0x1000 8).any (fun h => h.wr && h.rd && h.at_) = true ∧
    sWin.toW.hwin 0 9 0 8 = none ∧
    (sWin.toW.hwin 0 7 0x1000 8).any (fun h =>
      ((sWin.toW.hwinMay h 0x1000 8).2 matches .ok _) && ((sWin.toW.hwinRead h 0x1000 8).2 matches .ok _) &&
        ((sWin.toW.hwinWrite h 0x1000 [1, 2]).2 matches .ok _)) = true ∧
    (sWin.toW.hwin 0 7 0x1000 8).any (fun h =>
      let w : W := ({ sWin with chip.cch.tlb := [] } : State).toW
      !((w.hwinMay h 0x1000 8).2 matches .ok _) && ((w.hwinRead h 0x1000 8).2 matches .bad _ _)) = true ∧
    sWin.boot.status ≠ 1 ∧ sWin.boot.status ≠ 2 ∧ Memory.wf sWin.boot.staging = true ∧
    (sWin.toW.blk .hwinCtl 9).getLsbD 0 = false ∧ (sWin.toW.blk .hwinCtl 0).getLsbD 0 = true := by
  decide +kernel

/-! Queues, grids, triggers, teams and commands -/

/-- An entry of a queue's table; queue 10's entry set, the account at 1000. -/
def qent (tl hd : Nat) (ctl : Nat := 8) (lg : Nat := 4) (asid : Nat := 1) : List Byte :=
  leBytes 8 0x8000 ++ leBytes 8 tl ++ leBytes 8 hd ++ leBytes 2 asid ++
    [BitVec.ofNat 8 lg, BitVec.ofNat 8 ctl] ++ List.replicate 36 0
def sTab (e : List Byte) : State :=
  let s := poke (0x3E000000 + 640) e (setBlk .qtbase 0 0x3E000000 sL)
  { s with chip.sys.ctxs := s.chip.sys.ctxs.map fun e => (e.1, { e.2 with account := 1000 }) }
/-- Whether a queue runs (0: no entry, 1: stopped, 2: stopped by its entry, 3: runs). -/
def qState (s : State) (q : Nat) : Nat :=
  match s.toW.phys 0 (s.toW.qAt q) 64 with
  | (w, .ok e) => if !qRuns e then 1 else if (qBad (w.queue q).tail e).isSome then 2 else 3
  | _ => 0
/-- Queue 10 with a record at its head, checked, and its waits met. -/
def sRec (r : List Byte) : State :=
  let s := sTab (qent 1 0)
  { s with chip.slu.queues := aset s.chip.slu.queues 10 { s.toW.queue 10 with tail := 1, recs := [r] } }
def sChk (r : List Byte) : State := then_ (.launchRecordCheck 10) (sRec r)
def sRdy : State := then_ (.waitTest 10) (sChk lrecB)
def waits (thr : Nat) : List Byte := at_ 41 [1] <| at_ 88 (leBytes 8 0xA000) <| at_ 96 (leBytes 8 thr) lrecB
/-- The outcome of the check of queue 10's head (1 ok, 2 hold, 3 invalid). -/
def checked10 (s : State) (r : List Byte) : Nat :=
  match (s.toW.recCheck (qAsid (s.toW.qEntry 10)) r).2 with
  | .ok _ => 1
  | .hold => 2
  | .invalid => 3
/-- The outcome of the test of its waits (1 met, 2 unmet, 3 failed). -/
def waited10 (s : State) : Nat :=
  let s1 : W := { s.toW with c.slu.retest := s.chip.slu.retest.filter fun y => decide (y ≠ 10) }
  match (s1.waitState (qAsid (s.toW.qEntry 10)) ((s.toW.queue 10).recs.headD []) (s.toW.queue 10).seen).2.1 with
  | .met => 1
  | .unmet => 2
  | .failed => 3

theorem test_meets_command_queues :
    qState (sTab (qent 1 0)) 10 = 3 ∧ qState (sTab (qent 1 0 0)) 10 = 1 ∧ qState (sTab (qent 17 0)) 10 = 2 ∧
    ((sTab (qent 1 0)).toW.queue 10).tail ≤ 0 ∧ ((sRec lrecB).toW.queue 10).tail = 1 ∧
    (((sRec lrecB).toW.read3 1 0x8000 256 false).2 matches .ok _) = true ∧
    aget (sTab (qent 1 0 8 4 9)).chip.sys.ctxs 9 = none := by
  decide +kernel

theorem test_meets_record_checks :
    checked10 (sRec lrecB) lrecB = 1 ∧ checked10 (sRec lrecB) (at_ 8 [0, 0] lrecB) = 3 ∧
    checked10 (away (sRec lrecB)) (at_ 184 (leBytes 8 0x40000000) lrecB) = 2 ∧
    ((sRec lrecB).toW.queue 10).checked = none ∧ ((sChk lrecB).toW.queue 10).checked.isSome = true := by
  decide +kernel

theorem test_meets_wait_tests :
    waited10 (sChk lrecB) = 1 ∧ waited10 (poke 0xA000 [5] (sChk (waits 6))) = 2 ∧
    waited10 (poke 0xA000 [0, 0, 0, 0, 0, 0, 0, 0x80] (sChk (waits 6))) = 3 ∧
    ((sChk (waits 6)).toW.queue 10).met = false := by
  decide +kernel

theorem test_meets_grid_starts :
    sRdy.toW.startReady 10 = true ∧ sRdy.toW.energyOk 10 = true ∧ sRdy.toW.nextStart = some 10 ∧
    (setBlk .edefault 0 7777 sRdy).toW.energyOk 10 = false ∧ (sRec lrecB).toW.startReady 10 = false ∧
    (aget sRdy.chip.slu.queues 10).isSome = true ∧ (sRdy.toW.queue 10).recs = [lrecB] ∧
    (sRdy.toW.queue 10).checked.isSome = true := by
  decide +kernel

/-- A child's record that no check has seen; a grid of number 50 that is over. -/
def sKid (r : List Byte) : State :=
  { sL with chip.slu.grids := sL.chip.slu.grids ++ [(50, { asid := 1, lrec := r, started := false })] }
def sOver (r : List Byte) : State :=
  { sL with chip.slu.grids := sL.chip.slu.grids ++
              [(50, { asid := 1, lrec := r, hnd := lhnd, shut := true, resv := 9, used := 4 })] }
/-- A record with a completion record at 0xB000 and one signal, of 3 at 0xA000. -/
def sigRec : List Byte :=
  at_ 184 (leBytes 8 0xB000) <| at_ 42 [1] <| at_ 152 (leBytes 8 0xA000) <| at_ 160 (leBytes 8 3) lrecB

theorem test_meets_child_checks :
    childRec (sKid lrecB) 50 ∧ ((sKid lrecB).toW.grid 50).hnd = [] ∧
    (((sKid lrecB).toW.recCheck 1 lrecB).2 matches .ok _) = true ∧
    (((sKid (at_ 8 [0, 0] lrecB)).toW.recCheck 1 (at_ 8 [0, 0] lrecB)).2 matches .invalid) = true := by
  unfold childRec
  decide +kernel

theorem test_meets_grid_retirements :
    (sOver lrecB).toW.gridOver 50 = true ∧ (sOver lrecB).toW.gridOver 1 = false ∧
    recDone ((sOver lrecB).toW.grid 50).lrec = 0 ∧ recSigs ((sOver lrecB).toW.grid 50).lrec = [] ∧
    (let r := at_ 184 (leBytes 8 0x40000000) lrecB
     recDone ((sOver r).toW.grid 50).lrec = 0x40000000 ∧
     (((away (sOver r)).toW.check3 1 0x40000000 32 false).2 matches .nonres _) = true) ∧
    (let w := (sOver sigRec).toW
     let gr := w.grid 50
     gr.wrote = 0 ∧ ((w.write3va 1 0xB000 (completion w gr) false).2 matches .ok _) = true ∧
     recDone gr.lrec = 0xB000 ∧ recSigs gr.lrec = [(0xA000, 3)] ∧
     ((w.evAdd3 1 0xA000 3).2 matches .ok _) = true) := by
  decide +kernel

/-- Trigger 3 armed for the time 100000 for queue 10, its record copied where it has waits met or is
late; the clock's lock and reading. -/
def sTrg (x : Option Trigger) (per : Nat := 0) (lock : Bool := true) (t : Nat := 100000) : State :=
  let s := setBlk .trgctl 3 (BitVec.ofNat 64 (1024 + 10)) <| setBlk .trgtime 3 100000 <|
    setBlk .trgper 3 (BitVec.ofNat 64 per) <| setBlk .trgrec 3 0x8000 (sTab (qent 0 0))
  { s with
    chip.fab.ptp.lock := lock
    chip.fab.ptp.count := t
    chip.mdl.ac := 0
    chip.slu.trigs := (x.map fun y => (3, y)).toList }
def trig (met : Bool := true) (late : Bool := false) : Trigger := { lrec := lrecB, hnd := lhnd, met := met, late := late }
/-- The same with no other grid. -/
def alone (s : State) : State :=
  { s with
    chip.slu.grids := []
    chip.slu.teams := []
    chip.thr.groups := []
    chip.thr.frags := [] }
/-- The state after the start of trigger 3's grid, were the number that the part gives it 0. -/
def fires (s : State) : W :=
  let e := s.toW.qEntry (s.toW.trgQueue 3)
  let x := (s.toW.trig 3).getD {}
  (s.toW.setGrid 0 { asid := qAsid e, lrec := x.lrec, hnd := x.hnd, prio := qPrio e
                     trig := some 3, started := false }).launchGrid 0

/-- A unit of one team fits where some core takes it, whichever core the part chooses. -/
theorem tryUnit_one {w : W} {n : Nat} {u : Machine.PUnit} (hw : w.unitWhole n u = true) (hc : ¬ 2 ≤ (w.grid n).cl)
    (hs : u.size = 1) {c : Nat} (hl : c < Config.cores) (hf : W.memberFits w w n u 0 c = true) :
    (w.tryUnit n u).isSome = true := by
  have hp : ∃ d, W.pickCore w w n u 0 = some d ∧ W.memberFits w w n u 0 d = true := by
    have hm : c ∈ (List.range Config.cores).filter fun c => W.memberFits w w n u 0 c := by simp [hl, hf]
    unfold W.pickCore
    revert hm
    generalize hx : ((List.range Config.cores).filter fun c => W.memberFits w w n u 0 c) = cs
    intro hm
    cases cs with
    | nil => simp at hm
    | cons d ds =>
      have hk : Config.choice 24 w.c.mdl.next % (d :: ds).length < (d :: ds).length := Nat.mod_lt _ (by simp)
      refine ⟨(d :: ds)[Config.choice 24 w.c.mdl.next % (d :: ds).length], ?_, ?_⟩
      · simp only [List.getD_eq_getElem _ _ hk]
      · have h := List.getElem_mem hk
        generalize (d :: ds)[Config.choice 24 w.c.mdl.next % (d :: ds).length] = y at h
        rw [← hx] at h
        exact (List.mem_filter.mp h).2
  obtain ⟨d, hd, hm⟩ := hp
  cases u with
  | fresh l => simp [W.tryUnit, hw, hc, hs, W.placeOne, hd, hm, List.range_succ]
  | saved l => simp [W.tryUnit, hw, hc, hs, W.placeOne, hd, hm, List.range_succ]

/-- The only grid that has anything to place, in the lowest level, is due when its unit fits. -/
theorem due_of_only {w : W} {n : Nat} {u : Machine.PUnit} (hr : w.planRoom = true)
    (h0 : w.levelGrids 0 = [n]) (hl : ∀ k < 7, w.levelGrids (k + 1) = [])
    (hu : w.nextUnit n = some u) (ht : (w.tryUnit n u).isSome = true) : w.due = some n := by
  cases hc : (w.grid n).cores <;> simp [W.due, hr, W.dueFrom, hl, h0, hu, ht, W.holdsLevel, minBy, hc]

theorem test_meets_trigger_copies :
    (sTrg none).toW.trgArm 3 = true ∧ (sTrg none).toW.trig 3 = none ∧ (sTrg none).toW.ptpNow = 100000 ∧
    (sTrg none 0 true 49999).toW.ptpNow + 50000 < (sTrg none).toW.trgT 3 ∧
    (((sTrg none).toW.read3 1 0x8000 256 false).2 matches .ok _) = true ∧
    (((sTrg none).toW.recCheck 1 lrecB).2 matches .ok _) = true := by
  decide +kernel

/-- The grid that cannot be placed has clusters of 17, which no core cluster holds. -/
theorem test_meets_trigger_fires :
    (sTrg (some trig)).toW.trgArm 3 = true ∧ ((sTrg (some trig)).toW.trig 3).isSome = true ∧
    (sTrg (some trig)).toW.trgT 3 ≤ (sTrg (some trig)).toW.ptpNow ∧
    ((setBlk .edefault 0 7777 (sTrg (some trig))).toW.ctx 1).account <
      (setBlk .edefault 0 7777 (sTrg (some trig))).toW.estimate lrecB ∧
    (sTrg (some trig)).toW.estimate lrecB ≤ ((sTrg (some trig)).toW.ctx 1).account ∧
    (let s := sTrg (some trig)
     ((fires s).grid 0).shut = false ∧ s.toW.ptpNow ≤ s.toW.trgT 3 + 1000) ∧
    ((fires (sTrg (some { trig with lrec := at_ 31 [17] lrecB }))).grid 0).shut = true ∧
    (sTrg none 500 true 100500).toW.trgT 3 + (sTrg none 500).toW.trgPer 3 = 100500 := by
  decide +kernel

/-- The trigger's grid, the only one, is the one that is due. -/
theorem test_meets_trigger_in_time : (fires (alone (sTrg (some trig)))).due = some 0 :=
  due_of_only (u := .fresh [0]) (by decide +kernel) (by decide +kernel) (by decide +kernel) (by decide +kernel)
    (tryUnit_one (c := 0) (by decide +kernel) (by decide +kernel) rfl (by decide) (by decide +kernel))

/-- The only grid, of number 50, with something to place. -/
def sPl (r : List Byte) (f : Grid → Grid := id) : State :=
  { alone (sTab (qent 0 0)) with chip.slu.grids := [(50, f { asid := 1, lrec := r, hnd := lhnd })] }
/-- A co-resident grid of one team; a grid with a saved team to restore. -/
def sCo : State := sPl (at_ 8 [1] (at_ 32 [2] lrecB))
def sRst (st : TeamSt := .saved) (co : Bool := false) : State :=
  { sPl (if co then at_ 32 [2] lrecB else lrecB) (fun g => { g with restorable := [7], placed := [0, 1] }) with
    chip.slu.teams := [(7, { grid := 50, asid := 1, tlin := 0, st := st, slots := 0, nwin := 0, block := some 0 })] }

theorem test_meets_team_placement :
    (sPl lrecB).toW.due = some 50 ∧ (sPl lrecB).toW.nextUnit 50 = some (.fresh [0]) ∧
    ((sPl lrecB).toW.placeUnit 50 (.fresh [0]) [5]).isSome = true ∧
    (sPl lrecB).toW.placeUnit 50 (.fresh [0]) [1152] = none ∧ (alone sL).toW.due = none := by
  refine ⟨due_of_only (u := .fresh [0]) (by decide +kernel) (by decide +kernel) (by decide +kernel)
    (by decide +kernel) (tryUnit_one (c := 0) ?_ ?_ rfl (by decide) ?_), ?_⟩ <;> decide +kernel

theorem test_meets_cluster_placement :
    (let w := (sPl (at_ 31 [2] lrecB)).toW
     (w.placeUnit 50 (.fresh [0, 1]) [0, 1]).isSome = true ∧ w.unitClusters 50 (.fresh [0, 1]) = [(0, 2)] ∧
     2 ≤ (w.grid 50).cl ∧ w.placeUnit 50 (.fresh [0, 1]) [15, 16] = none) := by
  decide +kernel

theorem test_meets_co_resident_placement :
    sCo.toW.due = some 50 ∧ (sCo.toW.grid 50).cores = true ∧ sCo.toW.nextUnit 50 = some (.fresh [0]) ∧
    (sCo.toW.tryUnit 50 (.fresh [0])).isSome = true := by
  have h : (sCo.toW.tryUnit 50 (.fresh [0])).isSome = true :=
    tryUnit_one (c := 0) (by decide +kernel) (by decide +kernel) rfl (by decide) (by decide +kernel)
  refine ⟨due_of_only (u := .fresh [0]) ?_ ?_ ?_ ?_ h, ?_, ?_, h⟩ <;> decide +kernel

theorem test_meets_team_restore :
    sRst.toW.due = some 50 ∧ sRst.toW.nextUnit 50 = some (.saved [7]) ∧ (sRst.toW.grid 50).cluster ≤ 1 ∧
    sRst.toW.unitWhole 50 (.saved [7]) = true ∧ sRst.toW.restoreFits 7 5 0 = true ∧ sRst.toW.fill 5 = none ∧
    ((sRst .stopping true).toW.grid 50).cores = true ∧ ((sRst .stopping true).toW.team 7).grid = 50 ∧
    aget (sRst .stopping true).chip.slu.teams 7 = some ((sRst .stopping true).toW.team 7) := by
  refine ⟨due_of_only (u := .saved [7]) (by decide +kernel) (by decide +kernel) (by decide +kernel)
    (by decide +kernel) (tryUnit_one (c := 0) ?_ ?_ rfl (by decide) ?_), ?_⟩ <;> decide +kernel

/-- A team with a fetch of work outstanding, with no index left to take, and one that exits. -/
def tNo : Nat := teamNo sBoxed
def sNoMore : State :=
  { sBoxed with chip.slu.grids := sBoxed.chip.slu.grids.map fun e => (e.1, { e.2 with withdrawn := List.range 16 }) }
def sExits : State :=
  { sBox with
    chip.thr.groups := []
    chip.thr.frags := [] }

theorem test_meets_mailbox_writes :
    (sBoxed.toW.team tNo).fetchw = some 0 ∧ (sBoxed.toW.team tNo).st = .resident ∧ (sBox.toW.team tNo).fetchw = none ∧
    (let gr := sBoxed.toW.grid (sBoxed.toW.team tNo).grid
     gr.nextTlin.isSome = true ∧ gr.dimX ≠ 0 ∧ gr.dimY ≠ 0) ∧
    (sNoMore.toW.grid (sNoMore.toW.team tNo).grid).nextTlin = none := by
  decide +kernel

theorem test_meets_team_exits :
    sExits.toW.exits tNo = true ∧ sExits.toW.teamStreams tNo = false ∧ sBox.toW.exits tNo = false := by
  decide +kernel

/-! Commands, kills and pre-emption -/

/-- Team 3 of the running grid; a part that takes saves; a killed context with or without grids. -/
def sSaves (s : State) : State := { s with chip.sys.sr := aset s.chip.sys.sr (1, .savesize) 0xFFFFFFFF }
def sKilled (g : Bool) : State :=
  { sL with
    chip.slu.killing := [1]
    chip.slu.grids := if g then sL.chip.slu.grids else [] }
/-- A grid of the highest level that waits since 0 for room on the one core that works. -/
def sPre (bit : Nat) (since : Option Nat := some 0) : State :=
  let s := sSaves sL
  setBlk .preempt 0 (BitVec.ofNat 64 (bit + 256 * 10))
    { s with
      chip.mdl.ac := 20000
      boot.excluded := (List.range 1151).map fun c => (0, c + 1)
      chip.slu.grids := sL.chip.slu.grids ++ [(60,
        { asid := 1, lrec := at_ 36 (leBytes 4 0x100000) lrecB, hnd := lhnd, prio := 7, waitSince := since })]
      chip.slu.teams := sL.chip.slu.teams.map fun e => (e.1, { e.2 with slots := 16 }) }
/-- The team stopping, its fragments parked. -/
def sStp : State :=
  { sSaves sL with
    chip.slu.teams := sL.chip.slu.teams.map fun e => (e.1, { e.2 with st := .stopping, block := some 0 })
    chip.thr.frags := sL.chip.thr.frags.map fun e => (e.1, { e.2 with place := .parked, pool := some (0, 1000) }) }

/-- A team without tasks has none to write to its block, wherever the part would put them. -/
theorem putTasks_nil (w : W) (tm : Team) (h : tm.sTasks = []) : (w.putTasks tm).2 = true := by
  simp [W.putTasks, h, W.write3va, W.check3, seqM, lineParts]

/-- A unit of one team fits nowhere when no core takes it. -/
theorem tryUnit_none {w : W} {n : Nat} {u : Machine.PUnit} (hc : ¬ 2 ≤ (w.grid n).cl) (hs : u.size = 1)
    (hf : ∀ c, c < Config.cores → W.memberFits w w n u 0 c = false) : w.tryUnit n u = none := by
  have hp : W.pickCore w w n u 0 = none := by
    have hm : ∀ N, (∀ c, c < N → W.memberFits w w n u 0 c = false) →
        ((List.range N).filter fun c => W.memberFits w w n u 0 c) = [] := fun N h =>
      List.filter_eq_nil_iff.mpr fun c hc => by rw [h c (List.mem_range.mp hc)]; decide
    unfold W.pickCore
    simp only [hm _ hf]
  unfold W.tryUnit
  split
  · rfl
  · simp [hs, hp, List.range_succ]

/-- The first victims are taken when the unit fits without them and not before. -/
theorem preempts_first {w : W} {n b : Nat} {u : Machine.PUnit} {l : List Nat} {r : List (List Nat)}
    (hu : w.nextUnit n = some u) (hb : (w.grid n).waitSince = some b)
    (hr : (w.blk .preempt 0).getLsbD (w.grid n).prio = true)
    (ht : b + fld (w.blk .preempt 0) 8 32 * acPerUs ≤ w.ac)
    (hg : (w.c.slu.teams.filter fun e => e.2.st = .stopping).map Prod.fst = [])
    (hn : (w.asSaved []).tryUnit n u = none) (hv : w.victims (w.grid n).prio = l :: r)
    (hl : ((w.asSaved l).tryUnit n u).isSome = true) : w.preempts n = some l := by
  have hlt : ¬ w.ac < b + fld (w.blk .preempt 0) 8 32 * acPerUs := by omega
  simp [W.preempts, hu, hb, hr, hlt, hg, hn, hv, W.enough, hl]

theorem test_meets_team_commands :
    noTarget sL 1 99 0 ∧ isTarget sL 1 gG 3 ∧ isTarget sL 1 gG 9 ∧ isTarget sL 1 gG 0 ∧
    (sL.chip.slu.teams.find? fun e => decide (e.2.grid = gG) && decide (e.2.tlin = 3)).isSome = true ∧
    (sL.chip.slu.teams.find? fun e => decide (e.2.grid = gG) && decide (e.2.tlin = 9)) = none ∧
    (let gr := sL.toW.grid gG
     gr.shut = false ∧ 9 ∉ gr.placed ∧ 9 ∉ gr.withdrawn ∧ 9 ∉ gr.discarded) ∧
    ((sSaves sL).toW.takenWith tNo).length ≤ (sSaves sL).toW.blocksFree 1 ∧
    sL.toW.blocksFree 1 < (sL.toW.takenWith tNo).length ∧ (sL.toW.team tNo).st = .resident := by
  unfold noTarget isTarget
  decide +kernel

theorem test_meets_context_kills :
    aget sL.chip.sys.ctxs 9 = none ∧ (aget sL.chip.sys.ctxs 1).isSome = true ∧ 2 ∉ sL.chip.slu.killing ∧
    1 ∈ (sKilled false).chip.slu.killing ∧ (sKilled false).chip.slu.grids = [] ∧
    ((sKilled true).chip.slu.grids.any fun e => decide (e.2.asid = 1)) = true := by
  decide +kernel

theorem test_meets_no_preemption :
    ((sPre 0x80 none).toW.grid 60).waitSince = none ∧
    ((sPre 0).toW.blk .preempt 0).getLsbD ((sPre 0).toW.grid 60).prio = false ∧
    (sPre 0x80 (some 19000)).chip.mdl.ac <
      19000 + fld ((sPre 0x80).toW.blk .preempt 0) 8 32 * acPerUs := by
  decide +kernel

set_option maxRecDepth 20000 in
/-- Every core but the first of `sPre` is excluded. -/
theorem sPre_core (k : Nat) (h : k < 1151) : ((sPre 0x80).toW.asSaved []).works (k + 1) = false := by
  have he : ((sPre 0x80).toW.asSaved []).boot.excluded = (List.range 1151).map fun c => (0, c + 1) := rfl
  have hcl : (((sPre 0x80).toW.asSaved []).core (k + 1)).closed = false := rfl
  generalize ((sPre 0x80).toW.asSaved []) = w at he hcl
  generalize hn : 1151 = n at he h
  simp [W.works, hcl, he, h]

theorem test_meets_preemption : (sPre 0x80).toW.preempts 60 = some [1] := by
  refine preempts_first (u := .fresh [0]) (b := 0) (r := []) (by decide +kernel) (by decide +kernel)
    (by decide +kernel) (by decide +kernel) (by decide +kernel) ?_ (by decide +kernel) ?_
  · refine tryUnit_none (by decide +kernel) rfl fun c h => ?_
    cases c with
    | zero => decide +kernel
    | succ k =>
      have hw := sPre_core k (Nat.lt_of_succ_lt_succ h)
      generalize ((sPre 0x80).toW.asSaved []) = w at hw
      simp [W.memberFits, W.roomFor, W.takes, hw]
  · exact tryUnit_one (c := 0) (by decide +kernel) (by decide +kernel) rfl (by decide) (by decide +kernel)

theorem test_meets_team_saves :
    (sStp.toW.team tNo).st = .stopping ∧ sStp.toW.exits tNo = false ∧ (sL.toW.team tNo).st ≠ .stopping ∧
    (sStp.chip.thr.frags.all fun e => e.2.place matches .parked) = true ∧
    (match sStp.toW.moveRecords tNo with
     | (w, b) => b && match w.blockSound (sStp.toW.team tNo).asid ((sStp.toW.team tNo).block.getD 0) .write with
       | (v, c) => c && ((v.core (sStp.toW.team tNo).core).tasks.filter fun y => decide (y.team = tNo)).isEmpty) =
      true := by
  decide +kernel

theorem test_meets_machine_checks :
    sL.toW.works 1151 = true ∧ sL.toW.works 1152 = false ∧ (0, 1151) ∉ sL.boot.excluded ∧
    (∀ e ∈ sL.chip.mc.work, e.2 = 0) ∧ sL.chip.mc.metered = [] ∧
    (sL.toW.grid gG).used + 0 ≤ (sL.toW.grid gG).resv := by
  decide +kernel

/-! Memory controllers, registers, boot and the PTP clock -/

/-- Stack 15 in a state of its repair; keys to load, and one loaded, and then destroyed. -/
def sStk (st : Nat) (spc : Nat := 2) : State :=
  (sL.toW.setStack 15 { sL.toW.stack 15 with state := st, pch := 5, bank := 3, spc := spc }).toState sL
def sKey : State := (List.range 8).foldl (fun s i => setBlk .keydata i (BitVec.ofNat 64 (i + 1)) s) sM
def orStay (r : Host.Outcome State Fault Refusal) (s : State) : State :=
  match r with
  | .next t => t
  | _ => s
def sKey1 : State := orStay (execKeyLoad 1 sKey) sKey
def sKey2 : State := orStay (execKeyDestroy 1 sKey1) sKey1
/-- Bolter 2 with a pair of pages that hold one record each, and what it has taken out. -/
def sBolt (nent : Nat := 4) (pair : Nat := 0) : State :=
  let hdr := leBytes 1 4 ++ leBytes 1 1 ++ leBytes 2 0 ++ leBytes 4 7 ++ leBytes 4 0x3F800000
  let s := setBlk .boltCtl 2 1 <| setBlk .boltScan 2 (BitVec.ofNat 64 (0x3C000000 + 1)) <|
    poke 0x3C000000 (leBytes 8 0xC000 ++ leBytes 4 nent ++ leBytes 2 1 ++ leBytes 2 0 ++ leBytes 8 0xD000 ++
      leBytes 8 0xE000) <|
    poke 0xC000 (leBytes 8 0x40001 ++ leBytes 8 0x50001) <|
    poke 0xD000 (leBytes 4 0 ++ leBytes 4 1 ++ leBytes 1 4 ++ List.replicate 7 0 ++ leBytes 8 0x60000) <|
    poke 0xE000 (leBytes 4 0 ++ leBytes 4 0 ++ leBytes 1 4) <| poke 0x40000 hdr <| poke 0x50000 hdr sL
  (s.toW.setStack 2 { s.toW.stack 2 with pair := pair }).toState s
def out : Recl := { stack := 2, asid := 1, ring := 0xE000, page := 0x40000, other := 0x50000 }
def sOutRec : State := { sBolt with chip.mc.recl := [out] }

theorem test_meets_stacks_and_keys :
    ((sStk 0).toW.stack 15).state = 0 ∧ ((sStk 0).toW.stack 15).spc ≠ 0 ∧ ((sStk 0 0).toW.stack 15).spc = 0 ∧
    ((sStk 1).toW.stack 15).state = 1 ∧ ((sStk 2).toW.stack 15).state = 2 ∧ ((sStk 3).toW.stack 15).state = 3 ∧
    sKey.chip.mc.purging = [] ∧ aget sKey.chip.mc.keys 1 = none ∧ aget sKey1.chip.mc.keys 1 ≠ none ∧
    sKey1.chip.mc.purging = [] ∧ sKey2.chip.mc.purging ≠ [] ∧
    ((setBlk .aprCtl 9 1 sL).toW.blk .aprCtl 9).getLsbD 0 = true := by
  decide +kernel

theorem test_meets_bolter :
    (sL.toW.blk .boltCtl 2).getLsbD 0 = false ∧ (sBolt.toW.blk .boltCtl 2).getLsbD 0 = true ∧
    fld (sBolt.toW.blk .boltScan 2) 0 8 = 1 ∧ (sBolt.toW.stack 2).pair < (sBolt.toW.scanEntry 2 0).nent / 2 ∧
    ((sBolt 0).toW.scanEntry 2 0).nent / 2 ≤ ((sBolt 0).toW.stack 2).pair ∧
    (aget sBolt.chip.sys.ctxs (sBolt.toW.scanEntry 2 0).asid).isSome = true ∧
    (sBolt.toW.ctx 1).dead = false ∧
    sL.chip.mc.recl.find? (fun r => decide (r.stack = 2)) = none ∧
    sOutRec.chip.mc.recl.find? (fun r => decide (r.stack = 2)) = some out ∧
    (1, 0x40000) ∉ sOutRec.toW.heldPages ∧ (1, 0x50000) ∉ sOutRec.toW.heldPages ∧
    (match sOutRec.toW.boltRead 1 0xE000 16 with
     | (w, .ok bs) => decide (fieldLE bs 8 1 = 4 ∧ fieldLE bs 0 4 = 0 ∧ fieldLE bs 4 4 = 0) &&
       match w.write3va 1 0xE010 (leBytes 8 0x40000) false with
       | (v, .ok ()) => ((v.write3va 1 0xE004 (leBytes 4 1) false).2 matches .ok _)
       | _ => false
     | _ => false) = true := by
  decide +kernel

/-- Monitor 4 that counts from LO, its source and the largest value it has seen. -/
def sMon (src : Nat) (mx : Int) : State :=
  setBlk .monCtl 4 (BitVec.ofNat 64 (1 + src * 2 ^ 58))
    { sL with chip.mc.mons := [(4, { count := 5, mn := -3, mx := mx, bins := List.replicate 16 7 })] }

theorem test_meets_register_events :
    (aget sL.chip.sys.ctxs 1).isSome = true ∧ aget sL.chip.sys.ctxs 9 = none ∧
    (aget sL.chip.thr.groups 1).isSome = true ∧ aget sL.chip.thr.groups 77 = none ∧
    fld (BitVec.ofNat 64 (2 ^ 48 + 5)) 48 16 = 1 ∧ fld (BitVec.ofNat 64 (2 ^ 48 + 5)) 40 8 = 0 ∧
    fld (BitVec.ofNat 64 (2 ^ 48 + 2 ^ 40)) 40 8 ≠ 0 ∧ (sL.toW.blk .monCtl 4).getLsbD 0 = false ∧
    (let c := (sMon 1 119).toW.blk .monCtl 4
     c.getLsbD 0 = true ∧ fld c 58 6 ≠ 3) ∧
    (let c := (sMon 3 45000).toW.blk .monCtl 4
     c.getLsbD 0 = true ∧ fld c 58 6 = 3 ∧ ((aget (sMon 3 45000).chip.mc.mons 4).getD {}).mx ≤ 45000) := by
  decide +kernel

/-- Images: the word that starts the push, with bytes of the image. -/
def img (xs : List (Nat × List Byte)) : State :=
  { sL with boot := { sL.boot with
      staging := ((stagingBytes + 4, leBytes 4 1) :: xs).foldl (fun m e => putAll m e.1 e.2) sL.boot.staging } }
def header (pub0 : Byte) : List (Nat × List Byte) :=
  [(0, leBytes 4 0x5746434F), (4, leBytes 4 9), (8, leBytes 8 8), (16, [pub0]), (512, [1, 2, 3, 4, 5, 6, 7, 8])]
/-- The same image with the fused hash that its key has, and the least version fused. -/
def keyed (pub0 : Byte) (least : Nat) : State :=
  let s := img (header pub0)
  { s with boot := { s.boot with keyHash := sha512 (s.boot.area 16 133), minSvn := least } }

theorem test_meets_pushes :
    ¬ pushed sL.boot ∧ pushed (img []).boot ∧ ¬ soundHeader (img []).boot ∧
    pushed (img (header 4)).boot := by
  unfold pushed soundHeader
  decide +kernel

theorem test_meets_image_checks :
    sha512 ((img (header 4)).boot.area 16 133) ≠ (img (header 4)).boot.keyHash ∧
    leNat ((keyed 4 10).boot.area 4 4) < (keyed 4 10).boot.minSvn ∧
    (keyed 3 9).boot.minSvn ≤ leNat ((keyed 3 9).boot.area 4 4) ∧ ¬ signed (keyed 3 9).boot := by
  refine ⟨?_, ?_, ?_, fun h => absurd h.1 ?_⟩ <;> decide +kernel

/-- Firmware runs; ports 1 and 2 are up and 3 is down. -/
def sFw : State := { sL with boot := { sL.boot with status := 2, meas := [1, 2, 3, 4] } }
def sLinks : State :=
  { sL with
    chip.mc.up := [1, 2]
    chip.mc.down := [3] }

theorem test_meets_power_and_links :
    3 ∉ sL.chip.mc.hot ∧ 3 ∈ ({ sL with chip.mc.hot := [3, 5] } : State).chip.mc.hot ∧ sL.boot.power = true ∧
    ({ sL with boot.power := false } : State).boot.power = false ∧ sFw.boot.status = 2 ∧ sL.boot.status ≠ 2 ∧
    sFw.boot.meas.length = 4 ∧ (List.replicate 32 (0 : Byte)).length = 32 ∧ 1 ∈ sLinks.chip.mc.up ∧
    3 ∉ sLinks.chip.mc.up := by
  decide +kernel

/-- The clock hears domain 3 on port 1; a master, what it has sent, the requests, and the time. -/
def ann (prio1 sender : Nat) (steps : Nat := 0) : PtpAnn :=
  { port := 1, domain := 3, udp := true, prio1 := prio1, clockClass := 1, accuracy := 1, variance := 1
    prio2 := 1, identity := 1, steps := steps, sender := sender, receiver := 1, logInterval := 1 }
def sPtp (m : Option PtpAnn) (t : Nat := 5000000000) : State :=
  let s := setBlk .ptpStatus 0 1 <| setBlk .ptpCfg 0 (BitVec.ofNat 64 (1 + 2 + 4 + 3 * 256)) sLinks
  { s with
    chip.mdl.ac := 0
    chip.fab.ptp := { s.chip.fab.ptp with
      count := t, master := m, lastAnn := 0, lastSync := 0, sync := some (7, 100), t12 := some (50, 100)
      delayReq := some (8, 0), delayIv := 0 } }

theorem test_meets_ptp_masters :
    (sPtp none).toW.ptpHears 1 3 = true ∧ (sPtp none).toW.ptpHears 2 3 = false ∧
    (ann 5 1).udp = ((sPtp none).toW.blk .ptpCfg 0).getLsbD 1 ∧ (ann 5 1).steps < 255 ∧ 255 ≤ (ann 5 1 255).steps ∧
    lexLt (ptpRank (ann 4 2)) (ptpRank (ann 5 1)) = true ∧ lexLt (ptpRank (ann 6 2)) (ptpRank (ann 5 1)) = false ∧
    0 + 3 * ptpIv (ann 5 1).logInterval ≤ (sPtp (some (ann 5 1)) 6000000000).toW.ptpNow ∧
    (sPtp (some (ann 5 1)) 1000).toW.ptpNow < 0 + 3 * ptpIv (ann 5 1).logInterval := by
  decide +kernel

theorem test_meets_ptp_messages :
    followed (sPtp (some (ann 5 1))) 1 3 1 ∧ ¬ followed (sPtp none) 1 3 1 ∧
    ((sPtp none).toW.blk .ptpStatus 0).getLsbD 0 = true ∧ (sL.toW.blk .ptpStatus 0).getLsbD 0 = false ∧
    0 + ptpIv 0 ≤ (sPtp none).toW.ptpNow ∧ (sPtp none 1000).toW.ptpNow < 0 + ptpIv 0 ∧
    0 + 2000000000 ≤ (sPtp none).toW.ptpNow ∧ (sPtp none 1000).toW.ptpNow < 0 + 2000000000 ∧
    (sPtp none).chip.fab.ptp.sync = some (7, 100) ∧ (sPtp none).chip.fab.ptp.t12 = some (50, 100) ∧
    (sPtp none).chip.fab.ptp.delayReq = some (8, 0) := by
  unfold followed
  decide +kernel

/-! ## Steps on values that the spec works out

The word that an instruction leaves in v40 of lane 0, from words in v8 on; its sources are the spec's
examples. -/

def gives (i : Instr) (xs : List Word) : Word :=
  (rd (then_ i (put (.v 8) xs s1)) .always).word (.v 40) 0
def v40 (x : BitVec 4 := 0) : Alu := { alu (.v 40) (.v 8) (.v 9) (.v 10) with x := x }
def v40b : Alu := alu (.v 40) o (.v 9) o

/-- 07 R186, R187, R189, R190: BFE of a field past bit 31, PERM's selectors, ICVT of 400. -/
theorem test_integer_examples :
    gives (.bfe .s32 v40) [0xF0000000, 0x00000C1C] = 0xFFFFFFFF ∧
    gives (.perm v40) [0x12345678, 0x9ABCDEF0, 0x3210] = 0x12345678 ∧
    gives (.perm v40) [0x12345678, 0x9ABCDEF0, 0x0123] = 0x78563412 ∧
    gives (.perm v40) [0x123456F8, 0x9ABCDEF0, 0x8880] = 0xFFFFFFF8 ∧
    gives (.icvt ⟨.s8, .s32, true⟩ v40b) [0, 0x190] = 0x7F ∧
    gives (.icvt ⟨.s8, .s32, false⟩ v40b) [0, 0x190] = 0xFFFFFF90 := by
  decide +kernel

/-- 08 R216, R217, R220: FCVT of 65520, FPACK of four numbers, FDOT2 of a tie. -/
theorem test_float_examples :
    gives (.fcvt ⟨.f16, .f32, false, .rne⟩ v40b) [0, 0x477FF000] = 0x7C00 ∧
    gives (.fcvt ⟨.f16, .f32, true, .rne⟩ v40b) [0, 0x477FF000] = 0x7BFF ∧
    gives (.fcvt ⟨.bf16, .f32, false, .rne⟩ v40b) [0, 0xFFC12345] = 0xFFC1 ∧
    gives (.fcvt ⟨.f16, .f32, false, .rne⟩ v40b) [0, 0x7F800001] = 0x7E00 := by
  decide +kernel

/-- 08 R217, R220: FPACK of the worked example, FDOT2 of a tie in two modes. -/
theorem test_packed_examples :
    ((then_ (.fpack 4 { v40 with b := z, c := o }) (put (.v 8) [0x3F800000, 0x43FA0000, 0xBE99999A, 0x7FC00000] s1)) |>
      fun s => (rd s .always).word (.v 40) 0) = 0x7FAA7E38 ∧
    gives (.fdot2 ⟨false, .rne⟩ v40) [0x0C003C00, 0x0C003C00, 0] = 0x3F800000 ∧
    gives (.fdot2 ⟨false, .ru⟩ v40) [0x0C003C00, 0x0C003C00, 0] = 0x3F800001 := by
  decide +kernel

/-- 07, the worked example: a converged issue of lanes 0–4 and 6 with lanes 5 and 7 idle. -/
def sIdle : State :=
  putEach (.v 3) [3, 5, 7, 2, 4, 0, 9, 0]
    { s0 with chip.mdl.cur := { s0.chip.mdl.cur with lanes := [0, 1, 2, 3, 4, 6], idle := [5, 7] } }
def idles (i : Instr) (r : Fin 256) : Word := (rd (then_ i sIdle) .always).word (.v r) 6

theorem test_converged_example :
    idles (.ballot (alu (.v 10) (.v 3) o o)) 10 = 0x5F ∧ idles (.ballot (alu (.v 10) (.v 3) o o)) 11 = 0 ∧
    idles (.gred .addU (alu (.v 12) (.v 3) o o)) 12 = 30 ∧ idles (.gred .minU (alu (.v 13) (.v 3) o o)) 13 = 0 := by
  decide +kernel

/-- 02 R31, R32 and R42, the worked examples: code 0xD2 with bias 1 of 5.3 and −9.0, with and without its
NAN flag; an accumulator of 1.0 and two products of 2^−24; the same sums by Neumaier's rule. -/
theorem test_number_examples :
    ((nfFmt 0xD2 1 false).conv .rne 0 (fp32.dec 0x40A9999A)).code = 0x0D ∧
    ((nfFmt 0xD2 1 false).conv .rne 0 (fp32.dec 0xC1100000)).code = 0x1F ∧
    ((nfFmt 0xD2 1 true).conv .rne 0 (fp32.dec 0x40A9999A)).code = 0x0D ∧
    ((nfFmt 0xD2 1 true).conv .rne 0 (fp32.dec 0xC1100000)).code = 0x1E ∧
    (blockSum false 0x3F800000 (List.replicate 2 (fp32.dec 0x39800000, fp32.dec 0x39800000))).1 = 0x3F800001 := by
  decide +kernel

end Sys2Proof.Tests
end

namespace Sys2Proof.Machine

/-! # What a step can answer, and the canonical form of memory

Every meaning works on a `W` and commits its log of writes, so all of them keep the form of memory for one
reason. `exec_answer` and `Auto.run_answer` say once what an answer can be; `step_cases` and
`runLatched_cases` say how a step is made of answers. -/

/-! ## Canonical memories are told apart by what they read -/

/-- A canonical memory's first address is not below that of one that reads the same there: an address
below the first reads 0x00, which no entry holds. -/
theorem Memory.head_le_of_get_eq {x y lo : Nat} {b c : Byte} {m n : Memory}
    (hm : Memory.wfFrom lo ((x, b) :: m) = true) (hn : Memory.wfFrom lo ((y, c) :: n) = true)
    (h : Memory.get ((x, b) :: m) x = Memory.get ((y, c) :: n) x) : y ≤ x := by
  simp only [Memory.wfFrom, Bool.and_eq_true, bne_iff_ne] at hm hn
  obtain ⟨⟨-, hb⟩, -⟩ := hm
  obtain ⟨-, hn⟩ := hn
  by_contra hlt
  have hx : y ≠ x := by omega
  simp only [Memory.get, if_true, hx, if_false, Memory.get_of_lt (show x < y + 1 by omega) hn] at h
  exact hb h

theorem Memory.eq_of_wfFrom_of_get_eq : ∀ {lo : Nat} {m n : Memory}, Memory.wfFrom lo m = true →
    Memory.wfFrom lo n = true → (∀ a, Memory.get m a = Memory.get n a) → m = n
  | _, [], [], _, _, _ => rfl
  | _, [], (y, c) :: n, _, hn, h => by
    have hc : 0 = c := by simpa [Memory.get] using h y
    simp [Memory.wfFrom, ← hc] at hn
  | _, (x, b) :: m, [], hm, _, h => by
    have hb : b = 0 := by simpa [Memory.get] using h x
    simp [Memory.wfFrom, hb] at hm
  | lo, (x, b) :: m, (y, c) :: n, hm, hn, h => by
    obtain rfl : x = y :=
      le_antisymm (Memory.head_le_of_get_eq hn hm (h y).symm) (Memory.head_le_of_get_eq hm hn (h x))
    obtain rfl : b = c := by simpa [Memory.get] using h x
    simp only [Memory.wfFrom, Bool.and_eq_true] at hm hn
    have htail : ∀ a, Memory.get m a = Memory.get n a := fun a => by
      by_cases ha : x = a
      · rw [Memory.get_of_lt (by omega) hm.2, Memory.get_of_lt (by omega) hn.2]
      · simpa [Memory.get, ha] using h a
    rw [Memory.eq_of_wfFrom_of_get_eq hm.2 hn.2 htail]

/-! ## What a meaning can answer -/

/-- The answer is one working step, which leaves the boot state alone. -/
def Works (s : State) (o : Out1) : Prop := ∃ f, o = .next (s.act f)

/-- The events whose meanings can write the boot state. -/
def writesBoot : Instr → Bool
  | .rdmaWrite .. | .powerLoss | .thermalTrip | .powerOn .. | .lifetimeRecordWrite .. | .imagePush ..
  | .measurementExtend .. | .bankCopyComplete .. | .channelRetired .. | .machineCheck .. => true
  | _ => false

theorem works_self (s : State) : Works s (.next s) := ⟨id, rfl⟩

theorem execResq_works (f : Alu) (s : State) : Works s (execResq f s) := by
  unfold execResq
  cases f.d <;> exact ⟨_, rfl⟩

/-- Every instruction, and every event that writes no boot state, is one working step. -/
theorem exec_works (i : Instr) (s : State) (h : writesBoot i = false) : Works s (exec i s) := by
  cases i with
  | rdmaWrite | powerLoss | thermalTrip | powerOn | lifetimeRecordWrite | imagePush | measurementExtend
  | bankCopyComplete | channelRetired | machineCheck => cases h
  | pmov m | uadd m | usub m | umad m | umov m => cases m <;> exact ⟨_, rfl⟩
  | resq f => exact execResq_works f s
  | rdmaRead =>
    exact iteInduction (motive := Works s) (fun _ => works_self s) fun _ =>
      iteInduction (motive := Works s) (fun _ => ⟨_, rfl⟩) fun _ => ⟨_, rfl⟩
  | attestationRequest | firmwareError =>
    exact iteInduction (motive := Works s) (fun _ => works_self s) fun _ => ⟨_, rfl⟩
  | _ => exact ⟨_, rfl⟩

/-- The answers of all meanings: a working step beside which the boot state may change, or a package
whose memory was lost with its power (19 R457, R460). -/
inductive Answer (s : State) : Out1 → Prop
  | act (f : W → W) (b : Boot) : Answer s (.next { s.act f with boot := b })
  | dark (c : Chip) (b : Boot) : Answer s (.next { chip := c, mem := [], boot := b })

theorem Works.answer {s : State} {o : Out1} (h : Works s o) : Answer s o := by
  obtain ⟨f, rfl⟩ := h
  exact .act f s.boot

theorem exec_answer (i : Instr) (s : State) : Answer s (exec i s) := by
  cases i with
  | powerLoss | thermalTrip => exact .dark _ _
  | powerOn =>
    exact iteInduction (motive := Answer s) (fun _ => (works_self s).answer) fun _ => .dark _ _
  | lifetimeRecordWrite | bankCopyComplete | channelRetired | machineCheck => exact .act _ _
  | rdmaWrite =>
    exact iteInduction (motive := Answer s) (fun _ => (works_self s).answer) fun _ =>
      iteInduction (motive := Answer s) (fun _ => Works.answer ⟨_, rfl⟩) fun _ =>
      iteInduction (motive := Answer s) (fun _ => .act _ _) fun _ => Works.answer ⟨_, rfl⟩
  | imagePush =>
    exact iteInduction (motive := Answer s) (fun _ => (works_self s).answer) fun _ =>
      iteInduction (motive := Answer s) (fun _ => .act id _) fun _ => .act _ _
  | measurementExtend =>
    exact iteInduction (motive := Answer s) (fun _ => (works_self s).answer) fun _ => .act id _
  | _ => exact (exec_works _ s rfl).answer

theorem Auto.run_answer (a : Auto) (s : State) : Answer s (a.run s) := by
  cases a with
  | bankDone n => exact exec_answer (.bankCopyComplete n) s
  | retired n => exact exec_answer (.channelRetired n) s
  | _ => exact Works.answer ⟨_, rfl⟩

/-! ## What a step can do -/

/-- The state that a step's choice hands on. -/
def Todo.state (s : State) : Todo → State
  | .off => s
  | .tick t | .event _ t | .auto _ t => t

/-- The choice of a step moves nothing but the model's own bookkeeping. -/
theorem nextStep_state (s : State) : ∃ x, (nextStep s).state s = { s with chip.mdl := x } := by
  unfold nextStep
  split
  · split <;> exact ⟨_, rfl⟩
  · split
    · exact ⟨_, rfl⟩
    · split <;> exact ⟨_, rfl⟩

theorem nextStep_state_mem (s : State) : ((nextStep s).state s).mem = s.mem := by
  obtain ⟨x, hx⟩ := nextStep_state s
  rw [hx]

/-- What becomes of an answer: it settles, after the instruction that an issue latched, if it did. -/
theorem runLatched_cases {o : Out1} {t : State} (h : runLatched o = .next t) :
    ∃ s, o = .next s ∧ ((s.chip.mdl.dec = none ∧ t = settle none s) ∨
      ∃ i u, s.chip.mdl.dec = some i ∧ exec i { s with chip.mdl.dec := none } = .next u ∧
        t = settle (some i) u) := by
  cases o with
  | next s =>
    refine ⟨s, rfl, ?_⟩
    unfold runLatched at h
    dsimp only at h
    split at h
    · next hd => exact .inl ⟨hd, (Host.Outcome.next.inj h).symm⟩
    · next i hd =>
      split at h
      · next u hu => exact .inr ⟨i, u, hd, hu, (Host.Outcome.next.inj h).symm⟩
      · next hno => exact absurd h (hno t)
  | fault r => cases h
  | refused r => cases h

/-- A step is a tick of the clock, an input, or an event of the package. -/
theorem step_cases {s t : State} (h : step s = .next t) :
    (∃ u, nextStep s = .tick u ∧ t = settle none u) ∨
    (∃ e u, nextStep s = .event e u ∧ runLatched (exec e u) = .next t) ∨
    ∃ a u, nextStep s = .auto a u ∧ runLatched (a.run u) = .next t := by
  unfold step at h
  split at h
  · cases h
  · next u hu => exact .inl ⟨u, hu, (Host.Outcome.next.inj h).symm⟩
  · next e u hu => exact .inr (.inl ⟨e, u, hu, h⟩)
  · next a u hu => exact .inr (.inr ⟨a, u, hu, h⟩)

/-! ## The form of memory along a step -/

theorem Answer.mem_wf {s t : State} {o : Out1} (h : Answer s o) (hs : Memory.wf s.mem = true)
    (ho : o = .next t) : Memory.wf t.mem = true := by
  cases h with
  | act f b => cases ho; exact act_mem_wf f hs
  | dark c b => cases ho; rfl

theorem exec_mem_wf {i : Instr} {s t : State} (hs : Memory.wf s.mem = true)
    (h : exec i s = .next t) : Memory.wf t.mem = true := (exec_answer i s).mem_wf hs h

theorem Answer.runLatched_mem_wf {s t : State} {o : Out1} (h : Answer s o)
    (hs : Memory.wf s.mem = true) (ho : runLatched o = .next t) : Memory.wf t.mem = true := by
  obtain ⟨u, hu, hend⟩ := runLatched_cases ho
  have hwf : Memory.wf u.mem = true := h.mem_wf hs hu
  obtain ⟨-, rfl⟩ | ⟨i, v, -, hv, rfl⟩ := hend
  · exact act_mem_wf _ hwf
  · exact act_mem_wf _ (exec_mem_wf (s := { u with chip.mdl.dec := none }) hwf hv)

theorem step_mem_wf {s t : State} (hs : Memory.wf s.mem = true) (h : step s = .next t) :
    Memory.wf t.mem = true := by
  rw [← nextStep_state_mem s] at hs
  obtain ⟨u, hu, rfl⟩ | ⟨e, u, hu, ht⟩ | ⟨a, u, hu, ht⟩ := step_cases h <;> rw [hu] at hs
  · exact act_mem_wf _ hs
  · exact (exec_answer e u).runLatched_mem_wf hs ht
  · exact (a.run_answer u).runLatched_mem_wf hs ht

/-- Settles O9: every answer commits a log of writes to a canonical memory, or leaves it empty. -/
theorem stepKeepsMemoryForm : Obligations.StepKeepsMemoryForm :=
  ⟨fun _ _ => step_mem_wf, fun _ _ _ => exec_mem_wf,
    fun _ a b c h => by simp only [Memory.get_put h, eq_comm],
    fun _ _ => Memory.eq_of_wfFrom_of_get_eq⟩

end Sys2Proof.Machine

namespace Sys2Proof.Machine

/-! # What the registers read after reset

At reset no table lists an entry, so a register as stored holds the reset value of its own rule. -/

/-- A block register's value as RDSR reads it after reset: the two registers of a stack read from the
stack's own record (15 R368), and every other one reads its stored reset value. -/
def rdBlkReset : Reg → Dword
  | .memcCfg => 2
  | .memcSpare => 0x02000000
  | r => blkReset r

@[simp] theorem chip_reset : State.reset.chip = {} := rfl

@[simp] theorem blk_reset (r : Reg) (n : Nat) : State.reset.toW.blk r n = blkReset r := rfl

@[simp] theorem srReg_reset (a : Nat) (r : Reg) : State.reset.toW.srReg a r = srReset r := rfl

@[simp] theorem stack_reset (n : Nat) : State.reset.toW.stack n = {} := rfl

@[simp] theorem rdSpare_reset (n : Nat) : State.reset.toW.rdSpare n = 0x02000000 := by
  simp only [W.rdSpare, stack_reset]
  decide

@[simp] theorem rdPtpStatus_reset : State.reset.toW.rdPtpStatus = 0 := by
  simp [W.rdPtpStatus, fld, bits, blkReset]

/-- Besides a stack's registers, those that RDSR does not read as stored read 0: no command runs, no key
is being purged, and the PTP clock is unlocked with no offset. -/
@[simp] theorem rdBlk_reset (r : Reg) (n : Nat) : State.reset.toW.rdBlk r n = rdBlkReset r := by
  cases r with
  | memcCfg => simp [W.rdBlk, rdBlkReset]
  | memcSpare => exact rdSpare_reset n
  | cmd | keycmd => simp [W.rdBlk, rdBlkReset, blkReset]
  | keydata | fabricTkclr | fantailCredit => rfl
  | ptpStatus => exact rdPtpStatus_reset
  | _ => exact blk_reset _ n

/-- Settles O10: the stated values are those of `rdBlkReset` and `srReset`, and the rest is `State.reset`
as defined. -/
theorem resetValues : Obligations.ResetValues := by
  unfold Obligations.ResetValues
  refine ⟨rfl, rfl, rfl, rfl, rfl, ?_⟩
  simp [rdBlkReset, blkReset, srReset]

end Sys2Proof.Machine

namespace Sys2Proof.Machine

/-! # The canonical form of the staged boot image

Three kinds of answers: the boot state is left alone, or its staging area is written byte by byte
(RDMA_WRITE, IMAGE_PUSH), or it is lost with the power. -/

theorem putAll_wf {m : Memory} (h : Memory.wf m = true) :
    ∀ (bs : List Byte) (a : Nat), Memory.wf (putAll m a bs) = true
  | [], _ => h
  | b :: bs, a => putAll_wf (Memory.wf_put a b h) bs (a + 1)

/-- An answer whose staging area is canonical where that of the state before was. -/
def KeepsStaging (s : State) (o : Out1) : Prop :=
  ∀ t, o = .next t → Memory.wf s.boot.staging = true → Memory.wf t.boot.staging = true

theorem keepsStaging_next {s t : State}
    (h : Memory.wf s.boot.staging = true → Memory.wf t.boot.staging = true) :
    KeepsStaging s (.next t) := by
  rintro u ⟨rfl⟩
  exact h

theorem Works.keepsStaging {s : State} {o : Out1} (h : Works s o) : KeepsStaging s o := by
  obtain ⟨f, rfl⟩ := h
  exact keepsStaging_next id

theorem execRdmaWrite_keepsStaging (port qp rkey addr : Nat) (data : List Byte) (s : State) :
    KeepsStaging s (execRdmaWrite port qp rkey addr data s) :=
  iteInduction (motive := KeepsStaging s) (fun _ => (works_self s).keepsStaging) fun _ =>
    iteInduction (motive := KeepsStaging s) (fun _ => Works.keepsStaging ⟨_, rfl⟩) fun _ =>
    iteInduction (motive := KeepsStaging s)
      (fun _ => keepsStaging_next fun h => putAll_wf h data addr) fun _ =>
      Works.keepsStaging ⟨_, rfl⟩

theorem execImagePush_keepsStaging (ex : List (Nat × Nat)) (s : State) :
    KeepsStaging s (execImagePush ex s) :=
  iteInduction (motive := KeepsStaging s) (fun _ => (works_self s).keepsStaging) fun _ =>
    iteInduction (motive := KeepsStaging s) (fun _ => keepsStaging_next fun h => putAll_wf h _ _)
      fun _ => keepsStaging_next fun h => putAll_wf (putAll_wf h _ _) _ _

theorem exec_keepsStaging (i : Instr) (s : State) : KeepsStaging s (exec i s) := by
  cases i with
  | rdmaWrite => exact execRdmaWrite_keepsStaging _ _ _ _ _ s
  | imagePush => exact execImagePush_keepsStaging _ s
  | powerLoss | thermalTrip => exact keepsStaging_next fun _ => rfl
  | powerOn =>
    exact iteInduction (motive := KeepsStaging s) (fun _ => (works_self s).keepsStaging) fun _ =>
      keepsStaging_next fun _ => rfl
  | measurementExtend =>
    exact iteInduction (motive := KeepsStaging s) (fun _ => (works_self s).keepsStaging) fun _ =>
      keepsStaging_next id
  | bankCopyComplete | channelRetired =>
    refine keepsStaging_next fun h => ?_
    dsimp only
    split <;> exact h
  | lifetimeRecordWrite | machineCheck => exact keepsStaging_next id
  | _ => exact (exec_works _ s rfl).keepsStaging

theorem Auto.run_keepsStaging (a : Auto) (s : State) : KeepsStaging s (a.run s) := by
  cases a with
  | bankDone n => exact exec_keepsStaging (.bankCopyComplete n) s
  | retired n => exact exec_keepsStaging (.channelRetired n) s
  | _ => exact Works.keepsStaging ⟨_, rfl⟩

theorem nextStep_state_boot (s : State) : ((nextStep s).state s).boot = s.boot := by
  obtain ⟨x, hx⟩ := nextStep_state s
  rw [hx]

theorem KeepsStaging.runLatched {s : State} {o : Out1} (h : KeepsStaging s o) :
    KeepsStaging s (runLatched o) := by
  intro t ht hs
  obtain ⟨u, hu, hend⟩ := runLatched_cases ht
  have hwf : Memory.wf u.boot.staging = true := h u hu hs
  obtain ⟨-, rfl⟩ | ⟨i, v, -, hv, rfl⟩ := hend
  · exact hwf
  · exact exec_keepsStaging i { u with chip.mdl.dec := none } v hv hwf

theorem step_keepsStaging (s : State) : KeepsStaging s (step s) := by
  intro t h hs
  rw [← nextStep_state_boot s] at hs
  obtain ⟨u, hu, rfl⟩ | ⟨e, u, hu, ht⟩ | ⟨a, u, hu, ht⟩ := step_cases h <;> rw [hu] at hs
  · exact hs
  · exact (exec_keepsStaging e u).runLatched t ht hs
  · exact (a.run_keepsStaging u).runLatched t ht hs

/-- Settles O60: a step is made of answers, each of which keeps the form of the staging area. -/
theorem stagingForm : Obligations.StagingForm :=
  ⟨rfl, fun s t hs h => step_keepsStaging s t h hs, fun i s t hs h => exec_keepsStaging i s t h hs⟩

end Sys2Proof.Machine

namespace Sys2Proof.Machine

/-! # Steps of the package as working steps -/

@[simp] theorem State.toW_toState (s : State) : s.toW.toState s = s := rfl

/-- A step is known by what it makes of the package. -/
theorem step1_eq {f : W → W} {s : State} {w : W} (h : f s.toW = w) :
    step1 f s = .next (w.toState s) := by
  rw [← h]; rfl

/-- A step that leaves the package as it is leaves the state as it is. -/
theorem step1_stays {f : W → W} {s : State} (h : f s.toW = s.toW) : step1 f s = .next s := step1_eq h

end Sys2Proof.Machine

namespace Sys2Proof.Machine

open Sys2Proof.Claim

/-! # Command queues and the life of grids (04 R94–R112) -/

/-! ## The entry of a queue -/

theorem W.onQueue_of_runs {s : State} {q : Nat} {w : W} {e : List Byte} (h : queueRuns s q w e)
    (f : W → List Byte → W) : s.toW.onQueue q f = f w e := by
  obtain ⟨hq, hp, hr, hb⟩ := h
  simp [W.onQueue, Nat.not_le.2 hq, hp, hr, hb]

theorem W.onQueue_of_bad {w v : W} {q c : Nat} {e : List Byte} (hq : q < 1024)
    (hp : w.phys 0 (w.qAt q) 64 = (v, .ok e)) (hr : qRuns e = true) (hb : qBad (v.queue q).tail e = some c)
    (f : W → List Byte → W) : w.onQueue q f = v.qStop q e c := by
  simp [W.onQueue, Nat.not_le.2 hq, hp, hr, hb]

section copies
variable {s : State} {q : Nat} {w : W} {e : List Byte}

theorem copyRecord_none (h : queueRuns s q w e) (ht : (w.queue q).tail ≤ qHead e) :
    s.toW.copyRecord q = w := by
  simp [W.copyRecord, W.onQueue_of_runs h, ht]

theorem copyRecord_read {v : W} {r : List Byte} (h : queueRuns s q w e) (ht : qHead e < (w.queue q).tail)
    (hc : (aget w.c.sys.ctxs (qAsid e)).isSome = true)
    (ha : qRing e + 256 * (qHead e % 2 ^ qLog e) + 256 ≤ 2 ^ 56)
    (hv : w.read3 (qAsid e) (qRing e + 256 * (qHead e % 2 ^ qLog e)) 256 false = (v, .ok r)) :
    s.toW.copyRecord q = (v.setQueue q { w.queue q with recs := (w.queue q).recs ++ [r] }).qPut q 16
      (leBytes 8 (qHead e + 1)) := by
  have hgo : ((aget w.c.sys.ctxs (qAsid e)).isNone ||
      decide (2 ^ 56 < qRing e + 256 * (qHead e % 2 ^ qLog e) + 256)) = false := by
    simp only [Bool.or_eq_false_iff, decide_eq_false_iff_not, Option.isNone_eq_false_iff]
    exact ⟨hc, Nat.not_lt.2 ha⟩
  simp only [W.copyRecord, W.onQueue_of_runs h, if_neg (Nat.not_le.2 ht), hgo, hv]
  rfl

theorem copyRecord_noCtx (h : queueRuns s q w e) (ht : qHead e < (w.queue q).tail)
    (hc : aget w.c.sys.ctxs (qAsid e) = none) : s.toW.copyRecord q = w.qStop q e 3 := by
  simp [W.copyRecord, W.onQueue_of_runs h, Nat.not_le.2 ht, hc]

end copies

/-! ## The check and the waits of heads of queues and of children -/

theorem head_of_headRec {s : State} {q : Nat} {r : List Byte} (h : headRec s q r) :
    s.toW.head q = some r := by
  obtain ⟨-, hr, hh⟩ := h
  simp [W.head, hr, hh]

section heads
variable {s : State} {q : Nat} {r : List Byte} {w : W}

theorem checkHead_ok {h : List Byte} (hr : headRec s q r) (hc : (s.toW.queue q).checked = none)
    (hk : s.toW.recCheck (qAsid (s.toW.qEntry q)) r = (w, .ok h)) :
    s.toW.checkHead q = w.setQueue q { w.queue q with checked := some h } := by
  have hq : ¬ 2048 ≤ q := by have := hr.1; omega
  simp [W.checkHead, hq, head_of_headRec hr, hc, hk]

theorem checkHead_hold (hr : headRec s q r) (hc : (s.toW.queue q).checked = none)
    (hk : s.toW.recCheck (qAsid (s.toW.qEntry q)) r = (w, .hold)) : s.toW.checkHead q = w := by
  have hq : ¬ 2048 ≤ q := by have := hr.1; omega
  simp [W.checkHead, hq, head_of_headRec hr, hc, hk]

theorem checkHead_invalid (hr : headRec s q r) (hc : (s.toW.queue q).checked = none)
    (hk : s.toW.recCheck (qAsid (s.toW.qEntry q)) r = (w, .invalid)) :
    s.toW.checkHead q = w.refuseHead q [] Cause.launchInvalid := by
  have hq : ¬ 2048 ≤ q := by have := hr.1; omega
  simp [W.checkHead, hq, head_of_headRec hr, hc, hk]

/-- The package as a test of the waits of `q` begins: `q` need not be tested at once any more. -/
def W.testing (w : W) (q : Nat) : W :=
  { w with c.slu.retest := w.c.slu.retest.filter fun y => decide (y ≠ q) }

theorem waitTest_queue {h : List Byte} (hr : headRec s q r) (hc : (s.toW.queue q).checked = some h)
    (hm : (s.toW.queue q).met = false) {x : WaitSt} {seen : List Nat}
    (hx : (s.toW.testing q).waitState (qAsid (s.toW.qEntry q)) r (s.toW.queue q).seen = (w, x, seen)) :
    s.toW.waitTest q = if x = .failed then w.refuseHead q h Cause.dependenceFailed
      else w.setQueue q { w.queue q with seen := seen, met := x = .met } := by
  have hq : ¬ 2048 ≤ q ∧ ¬ 1024 ≤ q := by have := hr.1; omega
  have hh : (s.toW.testing q).head q = some r := head_of_headRec hr
  have hc' : ((s.toW.testing q).queue q).checked = some h := hc
  have hm' : ((s.toW.testing q).queue q).met = false := hm
  have hx' : (s.toW.testing q).waitState (qAsid ((s.toW.testing q).qEntry q)) r
    ((s.toW.testing q).queue q).seen = (w, x, seen) := hx
  have hw : ({ s.toW with c.slu.retest := s.toW.c.slu.retest.filter fun y => decide (y ≠ q) } : W) =
    s.toW.testing q := rfl
  simp only [W.waitTest, if_neg hq.1, if_neg hq.2, hw, hh, hc', hm', hx']
  cases x <;> rfl

end heads

theorem checkHead_child_ok {s : State} {n : Nat} {w : W} {h : List Byte} (hn : childRec s n)
    (hh : (s.toW.grid n).hnd = [])
    (hk : s.toW.recCheck (s.toW.grid n).asid (s.toW.grid n).lrec = (w, .ok h)) :
    s.toW.checkHead (2048 + n) = w.modGrid n fun g => { g with hnd := h } := by
  simp [W.checkHead, hn.1, hh, hk]

theorem checkHead_child_invalid {s : State} {n : Nat} {w : W} (hn : childRec s n)
    (hh : (s.toW.grid n).hnd = [])
    (hk : s.toW.recCheck (s.toW.grid n).asid (s.toW.grid n).lrec = (w, .invalid)) :
    s.toW.checkHead (2048 + n) = refused w n Cause.launchInvalid := by
  simp [W.checkHead, hn.1, hh, hk, W.refuseGrid, refused]

/-! ## Lists in the order of a key -/

theorem insertBy_eq_orderedInsert {α : Type} (key : α → Nat) (x : α) (ys : List α) :
    insertBy key x ys = ys.orderedInsert (fun a b => key a ≤ key b) x := by
  induction ys with
  | nil => rfl
  | cons y ys ih => simp only [insertBy, List.orderedInsert, ih]

theorem sortBy_eq_insertionSort {α : Type} (key : α → Nat) (xs : List α) :
    sortBy key xs = xs.insertionSort (fun a b => key a ≤ key b) := by
  induction xs with
  | nil => rfl
  | cons x xs ih => rw [List.insertionSort_cons, sortBy, ih, insertBy_eq_orderedInsert]

theorem pairwise_sortBy {α : Type} (key : α → Nat) (xs : List α) :
    (sortBy key xs).Pairwise fun a b => key a ≤ key b := by
  rw [sortBy_eq_insertionSort]
  have : Std.Total fun a b : α => key a ≤ key b := ⟨fun a b => Nat.le_total _ _⟩
  have : IsTrans α fun a b => key a ≤ key b := ⟨fun _ _ _ => Nat.le_trans⟩
  exact List.pairwise_insertionSort _ xs

@[simp] theorem mem_sortBy {α : Type} {key : α → Nat} {x : α} {xs : List α} :
    x ∈ sortBy key xs ↔ x ∈ xs := by
  rw [sortBy_eq_insertionSort]
  exact List.mem_insertionSort _

/-- `minBy` takes the first of the least: what stands before it is greater, what stands after it is not
less. -/
theorem minBy_split {α : Type} {key : α → Nat} {p : α} :
    ∀ {xs : List α}, minBy key xs = some p → ∃ l r, xs = l ++ p :: r ∧
      (∀ x ∈ l, key p < key x) ∧ ∀ x ∈ r, key p ≤ key x
  | x :: xs, h => by
    unfold minBy at h
    cases hm : minBy key xs with
    | none =>
      rw [hm] at h
      obtain rfl := Option.some.inj h
      cases xs with
      | nil => exact ⟨[], [], rfl, by simp, by simp⟩
      | cons y ys =>
        exfalso
        unfold minBy at hm
        split at hm
        · cases hm
        · split at hm <;> cases hm
    | some y =>
      rw [hm] at h
      obtain ⟨l, r, rfl, hl, hr⟩ := minBy_split hm
      by_cases hyx : key y < key x
      · obtain rfl : y = p := by simpa [hyx] using h
        exact ⟨x :: l, r, rfl, by simpa [hyx] using hl, hr⟩
      · obtain rfl : x = p := by simpa [hyx] using h
        refine ⟨[], l ++ y :: r, rfl, by simp, fun z hz => ?_⟩
        obtain hz | rfl | hz : z ∈ l ∨ z = y ∨ z ∈ r := by simpa using hz
        · have := hl z hz; omega
        · omega
        · have := hr z hz; omega

/-! ## The start of records (04 R100, R105, R111, 05 R122) -/

theorem popHead_of_recs {w : W} {q n : Nat} {r : List Byte} {rest : List (List Byte)}
    (hl : (w.queue q).recs = r :: rest) :
    w.popHead q n = w.setQueue q { w.queue q with
      recs := rest, checked := none, seen := [], met := false, starved := false, last := some n } := by
  simp only [W.popHead, hl, List.drop_succ_cons, List.drop_zero]

section starts
variable {w : W} {id : Nat}

theorem gridStart_unready (h : w.startReady id = false) : w.gridStart id = w := by
  simp [W.gridStart, h]

theorem gridStart_starved (h : w.startReady id = true) (he : w.energyOk id = false) :
    w.gridStart id = w.starve id := by
  simp [W.gridStart, h, he]

theorem gridStart_child {n : Nat} (h : w.startReady (2048 + n) = true) (he : w.energyOk (2048 + n) = true)
    (hn : w.nextStart = some (2048 + n)) : w.gridStart (2048 + n) = w.launchGrid n := by
  simp [W.gridStart, h, he, hn]

theorem gridStart_queue {q : Nat} {r h : List Byte} {rest : List (List Byte)} (hq : q < 1024)
    (hr : w.startReady q = true) (he : w.energyOk q = true) (hn : w.nextStart = some q)
    (hl : (w.queue q).recs = r :: rest) (hc : (w.queue q).checked = some h) :
    w.gridStart q =
      let e := w.qEntry q
      let n := w.newGridNo
      let w := w.setGrid n
        { asid := qAsid e, lrec := r, hnd := h, prio := qPrio e, queue := some q, started := false }
      let w := (w.setQueue q { w.queue q with
        recs := rest, checked := none, seen := [], met := false, starved := false, last := some n }).launchGrid n
      { w with c.slu.lastQueue := aset w.c.slu.lastQueue (qPrio e) q } := by
  have hq' : ¬ 2048 ≤ q := by omega
  have hl' : ∀ g, ((w.setGrid w.newGridNo g).queue q).recs = r :: rest := fun _ => hl
  simp only [W.gridStart, hr, he, hn, ne_eq, not_true_eq_false, Bool.not_true,
    if_neg Bool.false_ne_true, if_false, if_neg hq', hl, hc, popHead_of_recs (hl' _)]

end starts

theorem qPrio_le (e : List Byte) : qPrio e ≤ 7 := by
  have : qPrio e < 2 ^ 3 := Nat.mod_lt _ (by decide)
  omega

theorem mem_of_aget {K V : Type} [DecidableEq K] {k : K} {v : V} :
    ∀ {m : AMap K V}, aget m k = some v → (k, v) ∈ m
  | (x, u) :: m, h => by
    by_cases hx : x = k
    · subst hx
      obtain rfl : u = v := by simpa [aget] using h
      exact List.mem_cons_self
    · exact List.mem_cons_of_mem _ (mem_of_aget (by simpa [aget, hx] using h))

/-- Of the records that may start, those of queues stand in the order of their turns. -/
theorem startIds_pairwise (w : W) :
    w.startIds.Pairwise fun p q => p < 1024 → q < 1024 → w.turnOf p ≤ w.turnOf q := by
  have hkid : ∀ p ∈ (sortBy (fun e => e.2.startAt) (w.c.slu.grids.filter fun e => !e.2.started)).map
      (fun e => 2048 + e.1), ¬ p < 1024 := by
    intro p hp
    obtain ⟨e, -, rfl⟩ := List.mem_map.1 hp
    omega
  refine List.pairwise_append.2 ⟨List.pairwise_iff_forall_sublist.2 fun {p q} h hp => ?_, ?_, ?_⟩
  · exact absurd hp (hkid p (h.subset List.mem_cons_self))
  · exact (pairwise_sortBy _ _).imp fun h _ _ => h
  · exact fun p hp _ _ hp' => absurd hp' (hkid p hp)

/-- The queue that starts next has the highest PRIO of those that may start, and of its PRIO the first
turn (04 R100). -/
theorem nextStart_first {w : W} {p q : Nat} (hp : w.nextStart = some p) (hr : w.startReady q = true)
    (he : w.energyOk q = true) (hp' : p < 1024) (hq : q < 1024)
    (hm : (aget w.c.slu.queues q).isSome = true) :
    qPrio (w.qEntry q) ≤ qPrio (w.qEntry p) ∧
      (qPrio (w.qEntry q) = qPrio (w.qEntry p) → w.turnOf p ≤ w.turnOf q) := by
  obtain ⟨l, r, hl, hbefore, hafter⟩ := minBy_split hp
  have hprio : ∀ k < 1024, w.startPrio k = qPrio (w.qEntry k) := fun k hk => by
    simp [W.startPrio, show ¬ 2048 ≤ k by omega]
  have hmem : q ∈ w.startIds.filter fun id => w.startReady id && w.energyOk id := by
    obtain ⟨x, hx⟩ := Option.isSome_iff_exists.1 hm
    refine List.mem_filter.2 ⟨List.mem_append_right _ (mem_sortBy.2 ?_), by simp [hr, he]⟩
    exact List.mem_map.2 ⟨(q, x), mem_of_aget hx, rfl⟩
  have hsorted := (startIds_pairwise w).filter fun id => w.startReady id && w.energyOk id
  rw [hl] at hmem hsorted
  have hle := qPrio_le (w.qEntry p)
  have hle' := qPrio_le (w.qEntry q)
  obtain hq' | rfl | hq' : q ∈ l ∨ q = p ∨ q ∈ r := by simpa using hmem
  · have := hbefore q hq'
    rw [hprio p hp', hprio q hq] at this
    exact ⟨by omega, by omega⟩
  · exact ⟨le_rfl, fun _ => le_rfl⟩
  · have := hafter q hq'
    rw [hprio p hp', hprio q hq] at this
    have hturn := List.rel_of_pairwise_cons (List.pairwise_append.1 hsorted).2.1 hq'
    exact ⟨by omega, fun _ => hturn hp' hq⟩

/-! ## The writes of a retirement (04 R106, R486) -/

theorem retireGrid_going {w : W} {n : Nat} (h : w.gridOver n = false) : w.retireGrid n = w := by
  simp [W.retireGrid, h]

/-- A record that names no address has nothing to write. -/
theorem retireWrites_none {w : W} {n : Nat} (hd : recDone (w.grid n).lrec = 0)
    (hs : recSigs (w.grid n).lrec = []) : w.retireWrites n = (w, true) := by
  simp [W.retireWrites, retireAddrs, hd, hs]

theorem foldl_not_yet {α : Type} (f : W × Bool → α → W × Bool) (h : ∀ w x, f (w, false) x = (w, false))
    (w : W) : ∀ xs : List α, xs.foldl f (w, false) = (w, false)
  | [] => rfl
  | x :: xs => by rw [List.foldl_cons, h, foldl_not_yet f h w xs]

theorem retireWrites_held {w v : W} {n a : Nat} (hd : recDone (w.grid n).lrec ≠ 0)
    (hal : recDone (w.grid n).lrec % 32 = 0) (hc : recDone (w.grid n).lrec + 32 ≤ 2 ^ 56)
    (hw : (w.grid n).wrote = 0)
    (hk : w.check3 (w.grid n).asid (recDone (w.grid n).lrec) 32 false = (v, .nonres a)) :
    w.retireWrites n = (v.sluiceRequest (w.grid n).asid a, false) := by
  have hgood : (decide (recDone (w.grid n).lrec % 32 ≠ 0) ||
      decide (2 ^ 56 < recDone (w.grid n).lrec + 32)) = false := by
    simp only [hal, ne_eq, not_true_eq_false, decide_false, Bool.false_or, decide_eq_false_iff_not]
    exact Nat.not_lt.2 hc
  simp only [W.retireWrites, retireAddrs, if_neg hd, hw, List.cons_append, List.nil_append,
    List.zipIdx_cons, List.drop_zero, List.foldl_cons, Bool.not_true, if_neg Bool.false_ne_true, hgood,
    hk]
  exact foldl_not_yet _ (fun _ _ => rfl) _ _

theorem retireGrid_held {w v : W} {n : Nat} (h : w.gridOver n = true)
    (hr : w.retireWrites n = (v, false)) : w.retireGrid n = v := by
  simp [W.retireGrid, h, hr]

/-- A grid without writes leaves at once: what it did not use goes back to its context, its children's
entry takes its status. -/
theorem retireGrid_plain {w : W} {n : Nat} (h : w.gridOver n = true)
    (hd : recDone (w.grid n).lrec = 0) (hs : recSigs (w.grid n).lrec = [])
    (hc : (aget w.c.sys.ctxs (w.grid n).asid).isSome = true) :
    w.retireGrid n =
      let gr := w.grid n
      let w := w.modCtx gr.asid fun x => { x with
        account := min (x.account + (gr.resv - gr.used)) (2 ^ 40 - 1) }
      let w := { w with c.slu.children := w.c.slu.children.map fun (c : Child) =>
        if c.grid = n && c.status.isNone then { c with status := some gr.status } else c }
      (w.dropGrid n).settleKids := by
  have hc' : (aget w.c.sys.ctxs (w.grid n).asid).isNone = false := by
    rw [Option.isNone_eq_false_iff, hc]
  simp only [W.retireGrid, h, Bool.not_true, if_neg Bool.false_ne_true, retireWrites_none hd hs, hc']

/-- A write of a retirement that is performed. -/
theorem retirePut_done {w v : W} {a va al : Nat} {f : W → W × Bool} (hal : va % al = 0)
    (hc : va + al ≤ 2 ^ 56) (hf : f w = (v, true)) : w.retirePut a va al f = v := by
  have hgood : (decide (va % al ≠ 0) || decide (2 ^ 56 < va + al)) = false := by
    simp only [hal, ne_eq, not_true_eq_false, decide_false, Bool.false_or, decide_eq_false_iff_not]
    exact Nat.not_lt.2 hc
  simp only [W.retirePut, hgood, if_neg Bool.false_ne_true, hf]

theorem complete_record {w v : W} {gr : Grid} (hd : recDone gr.lrec ≠ 0) (hal : recDone gr.lrec % 32 = 0)
    (hc : recDone gr.lrec + 32 ≤ 2 ^ 56)
    (hv : w.write3va gr.asid (recDone gr.lrec) (completion w gr) false = (v, .ok ())) :
    w.complete gr 0 = v := by
  have hb : w.doneBytes gr = completion w gr := rfl
  simp only [W.complete, if_neg hd, if_pos]
  exact retirePut_done hal hc (by rw [hb, hv])

theorem complete_signal {w v : W} {gr : Grid} {e : Nat × Nat} {old : Dword} (hd : recDone gr.lrec ≠ 0)
    (he : (recSigs gr.lrec)[0]? = some e) (hal : e.1 % 8 = 0) (hc : e.1 + 8 ≤ 2 ^ 56)
    (hv : w.evAdd3 gr.asid e.1 (BitVec.ofNat 64 e.2 |||
      if gr.fail.isSome then BitVec.ofNat 64 (2 ^ 63) else 0) = (v, .ok old)) :
    w.complete gr 1 = v := by
  simp only [W.complete, if_neg hd, if_neg Nat.one_ne_zero, Nat.sub_self, he]
  exact retirePut_done hal hc (by rw [hv])

/-- Settles O55, clause by clause. -/
theorem queuesAndGrids : Obligations.QueuesAndGrids := by
  refine ⟨fun q w e s h => ⟨step1_eq (W.onQueue_of_runs h _), fun ht => step1_eq (copyRecord_none h ht),
      fun v r ht hc ha hv => step1_eq (copyRecord_read h ht hc ha hv),
      fun ht hc => step1_eq (copyRecord_noCtx h ht hc)⟩,
    fun q w e c s hq hp hr hb => ⟨step1_eq (W.onQueue_of_bad hq hp hr hb _),
      step1_eq (W.onQueue_of_bad hq hp hr hb _)⟩,
    fun q r w x s hr hc hk => ⟨?_, ?_, ?_⟩, fun n w x s hn hh hk => ⟨?_, ?_⟩,
    fun q r h w x seen s hr hc hm => ?_,
    fun id s hr he => step1_eq (gridStart_starved hr he),
    fun id s hr => step1_stays (gridStart_unready hr),
    fun n s hr he hn => step1_eq (gridStart_child hr he hn),
    fun q r rest h s hq hr he hn hl hc => step1_eq (gridStart_queue hq hr he hn hl hc),
    fun p q s hp hr he hp' hq hm => nextStart_first hp hr he hp' hq hm,
    fun n s h => step1_stays (retireGrid_going h),
    fun n s h hd hs hc => step1_eq (retireGrid_plain h hd hs hc),
    fun n v w s h hd hal hc hw hk => step1_eq (retireGrid_held h (retireWrites_held hd hal hc hw hk)),
    fun gr w v hd hal hc hv => complete_record hd hal hc hv,
    fun gr w v e old hd he hal hc hv => complete_signal hd he hal hc hv⟩
  · rintro h rfl
    exact step1_eq (checkHead_ok hr hc hk)
  · rintro rfl
    exact step1_eq (checkHead_hold hr hc hk)
  · rintro rfl
    exact step1_eq (checkHead_invalid hr hc hk)
  · rintro h rfl
    exact step1_eq (checkHead_child_ok hn hh hk)
  · rintro rfl
    exact step1_eq (checkHead_child_invalid hn hh hk)
  · intro s1 hx
    have htest := waitTest_queue hr hc hm hx
    exact ⟨by rintro rfl; exact step1_eq htest, by rintro rfl; exact step1_eq htest,
      by rintro rfl; exact step1_eq htest⟩

end Sys2Proof.Machine

namespace Sys2Proof.Machine

open Sys2Proof.Claim

/-! # Requests of the host (04 R97, R98) -/

/-! ## Queue pairs -/

theorem queuePairCreate_does {port qp : Nat} {s : State} (hp : port < 4) (hd : port ∉ s.chip.mc.down)
    (hn : (aget s.chip.slu.qps (port, qp)).isSome = true ∨
      (s.chip.slu.qps.filter fun e => decide (e.1.1 = port)).length < 1024) :
    does (.queuePairCreate port qp) s fun w => { w with
      c.slu.qps := aset w.c.slu.qps (port, qp) .ready } := by
  have hgo : (decide (4 ≤ port) || s.chip.mc.down.contains port ||
      ((aget s.chip.slu.qps (port, qp)).isNone &&
        decide (1024 ≤ (s.chip.slu.qps.filter fun e => decide (e.1.1 = port)).length))) = false := by
    have h4 : ¬ 4 ≤ port := by omega
    obtain hn | hn := hn
    · simp [h4, hd, Option.isSome_iff_ne_none.1 hn]
    · simp [h4, hd, Nat.not_le.2 hn]
  exact step1_eq (if_neg (Bool.eq_false_iff.1 hgo))

/-- A request on a pair that is not in service is ignored (log entry 38). -/
theorem rdma_unready {port qp : Nat} {s : State} (h : s.toW.qpReady port qp = false) (rkey addr : Nat) :
    (∀ data, stays (.rdmaWrite port qp rkey addr data) s) ∧
    (∀ len, stays (.rdmaRead port qp rkey addr len) s) ∧
    (∀ c x, stays (.rdmaCas port qp rkey addr c x) s) ∧ ∀ x, stays (.rdmaFaa port qp rkey addr x) s := by
  have hr : (!s.toW.qpReady port qp) = true := by rw [h]; rfl
  exact ⟨fun _ => if_pos hr, fun _ => if_pos hr, fun _ _ => step1_stays (if_pos hr),
    fun _ => step1_stays (if_pos hr)⟩

/-! ## Requests through a window -/

section windows
variable {port qp rkey addr : Nat} {s : State} {w : W} (h : s.toW.qpReady port qp = true) (hk : rkey ≠ 1)
include h hk

theorem rdmaWrite_window {data : List Byte} (hw : s.toW.rdmaWrite port qp rkey addr data = w) :
    exec (.rdmaWrite port qp rkey addr data) s = .next (w.toState s) := by
  have hr : ¬ (!s.toW.qpReady port qp) = true := by rw [h]; decide
  exact (if_neg hr).trans ((if_pos hk).trans (step1_eq hw))

theorem rdmaRead_window {len : Nat} (hw : s.toW.rdmaRead port qp rkey addr len = w) :
    exec (.rdmaRead port qp rkey addr len) s = .next (w.toState s) := by
  have hr : ¬ (!s.toW.qpReady port qp) = true := by rw [h]; decide
  exact (if_neg hr).trans ((if_pos hk).trans (step1_eq hw))

theorem rdmaCas_window {c x : Dword}
    (hw : s.toW.rdmaAtomic port qp rkey addr (rdmaCasStep c x) = w) :
    exec (.rdmaCas port qp rkey addr c x) s = .next (w.toState s) := by
  have hr : ¬ (!s.toW.qpReady port qp) = true := by rw [h]; decide
  exact step1_eq ((if_neg hr).trans ((if_neg hk).trans hw))

theorem rdmaFaa_window {x : Dword} (hw : s.toW.rdmaAtomic port qp rkey addr (rdmaFaaStep x) = w) :
    exec (.rdmaFaa port qp rkey addr x) s = .next (w.toState s) := by
  have hr : ¬ (!s.toW.qpReady port qp) = true := by rw [h]; decide
  exact step1_eq ((if_neg hr).trans ((if_neg hk).trans hw))

end windows

section through
variable {w v : W} {port qp rkey addr : Nat} {h : Hwin}

theorem rdmaWrite_refused {data : List Byte}
    (hw : ∀ h, w.hwin port rkey addr data.length = some h → h.wr = false) :
    w.rdmaWrite port qp rkey addr data = w.rdmaNak port qp false := by
  unfold W.rdmaWrite
  split
  · rfl
  · next h hh => simp [hw h hh]

theorem rdmaWrite_done {data : List Byte} (hh : w.hwin port rkey addr data.length = some h)
    (hp : h.wr = true) (hv : w.hwinWrite h addr data = (v, .ok ())) :
    w.rdmaWrite port qp rkey addr data = v.tell (.rdmaAck port qp []) := by
  simp [W.rdmaWrite, hh, hp, hv]

theorem rdmaRead_done {len : Nat} {bs : List Byte} (hh : w.hwin port rkey addr len = some h)
    (hp : h.rd = true) (hv : w.hwinRead h addr len = (v, .ok bs)) :
    w.rdmaRead port qp rkey addr len = v.tell (.rdmaAck port qp bs) := by
  simp [W.rdmaRead, hh, hp, hv]

theorem rdmaRead_bad {len c a : Nat} (hh : w.hwin port rkey addr len = some h)
    (hp : h.rd = true) (hv : w.hwinRead h addr len = (v, .bad c a)) :
    w.rdmaRead port qp rkey addr len = v.rdmaNak port qp (poisoned c) := by
  simp [W.rdmaRead, hh, hp, hv]

variable {step : Hwin → Dword → Option Dword}

theorem rdmaAtomic_noWindow (hh : w.hwin port rkey addr 8 = none) :
    w.rdmaAtomic port qp rkey addr step = w.rdmaNak port qp false := by
  simp [W.rdmaAtomic, hh]

theorem rdmaAtomic_forbidden {y : MRes Unit} (hh : w.hwin port rkey addr 8 = some h) (ha : h.at_ = true)
    (h8 : addr % 8 = 0) (hm : w.hwinMay h addr 8 = (v, y)) (hy : y ≠ .ok ()) :
    w.rdmaAtomic port qp rkey addr step = v.rdmaNak port qp false := by
  cases y with
  | ok u => exact absurd rfl hy
  | _ => simp [W.rdmaAtomic, hh, ha, h8, hm]

section reads
variable {u : W} {bs : List Byte} (hh : w.hwin port rkey addr 8 = some h) (ha : h.at_ = true)
  (h8 : addr % 8 = 0) (hm : w.hwinMay h addr 8 = (u, .ok ())) (hr : u.hwinRead h addr 8 = (v, .ok bs))
include hh ha h8 hm hr

theorem rdmaAtomic_keeps (hs : step h (evOf bs) = none) :
    w.rdmaAtomic port qp rkey addr step = v.tell (.rdmaAck port qp bs) := by
  simp [W.rdmaAtomic, hh, ha, h8, hm, hr, hs]

theorem rdmaAtomic_writes {x : Dword} {z : W} (hs : step h (evOf bs) = some x)
    (hw : v.hwinWrite h addr (evBytes x) = (z, .ok ())) :
    w.rdmaAtomic port qp rkey addr step = z.eventsMoved.tell (.rdmaAck port qp bs) := by
  simp [W.rdmaAtomic, hh, ha, h8, hm, hr, hs, hw]

end reads
end through

/-! ## The staging area (19 R461) -/

theorem get_putAll {m : Memory} (h : Memory.wf m = true) (c : Nat) :
    ∀ (bs : List Byte) (a : Nat), Memory.get (putAll m a bs) c =
      if a ≤ c ∧ c < a + bs.length then bs.getD (c - a) 0 else Memory.get m c
  | [], a => by
    rw [if_neg (by simp), putAll]
  | b :: bs, a => by
    rw [putAll, get_putAll (Memory.wf_put a b h) c bs (a + 1), Memory.get_put h]
    by_cases hac : a = c
    · subst hac
      simp
    · by_cases hin : a + 1 ≤ c ∧ c < a + 1 + bs.length
      · have hin' : a ≤ c ∧ c < a + (b :: bs).length := by simp only [List.length_cons]; omega
        rw [if_pos hin, if_pos hin', show c - a = c - (a + 1) + 1 by omega, List.getD_cons_succ]
      · have hout : ¬ (a ≤ c ∧ c < a + (b :: bs).length) := by simp only [List.length_cons]; omega
        rw [if_neg hin, if_neg hac, if_neg hout]

theorem rdmaWrite_staged {port qp addr : Nat} {data : List Byte} {s : State}
    (h : s.toW.qpReady port qp = true) (h1 : s.boot.status ≠ 1) (h2 : s.boot.status ≠ 2)
    (ha : addr + data.length ≤ 0x2000000) :
    exec (.rdmaWrite port qp 1 addr data) s =
      .next { s.act (fun w => w.tell (.rdmaAck port qp [])) with
        boot.staging := putAll s.boot.staging addr data } := by
  have hr : ¬ (!s.toW.qpReady port qp) = true := by rw [h]; decide
  have hw : stagingWritable s.boot addr data.length = true := by
    simp [stagingWritable, stagingBytes, h1, h2, ha]
  exact (if_neg hr).trans ((if_neg (by decide)).trans (if_pos hw))

theorem rdmaWrite_unstaged {port qp addr : Nat} {data : List Byte} {s : State}
    (h : s.toW.qpReady port qp = true) (hs : s.boot.status = 1 ∨ s.boot.status = 2) :
    does (.rdmaWrite port qp 1 addr data) s fun w => w.rdmaNak port qp false := by
  have hr : ¬ (!s.toW.qpReady port qp) = true := by rw [h]; decide
  have hw : ¬ stagingWritable s.boot addr data.length = true := by
    obtain hs | hs := hs <;> simp [stagingWritable, hs]
  exact (if_neg hr).trans ((if_neg (by decide)).trans (if_neg hw))

/-! ## The registers of a window (04 R97) -/

theorem keep_eq_and_fieldMask (x : Dword) (hi lo : Nat) : keep x hi lo = x &&& fieldMask hi lo := rfl

section registers
variable {w : W} {n : Nat} {r : Reg} {x : Dword}

theorem wrHwin_enabled (h : (w.blk .hwinCtl n).getLsbD 0 = true)
    (hx : r = .hwinCtl → x.getLsbD 0 = true) : w.wrHwin r n x = .error Cause.illegalOperand := by
  refine if_pos ?_
  rw [h]
  by_cases hr : r = .hwinCtl
  · rw [hx hr, Bool.not_true, Bool.and_false]; rfl
  · simp [hr]

theorem wrHwin_base (h : (w.blk .hwinCtl n).getLsbD 0 = false) :
    w.wrHwin .hwinBase n x = .ok (w.setBlk .hwinBase n (x &&& fieldMask 55 12)) :=
  if_neg (by rw [h]; exact Bool.false_ne_true)

theorem wrHwin_len (h : (w.blk .hwinCtl n).getLsbD 0 = false) :
    w.wrHwin .hwinLen n x = .ok (w.setBlk .hwinLen n (x &&& fieldMask 39 0)) :=
  if_neg (by rw [h]; exact Bool.false_ne_true)

/-- A write of CTL that disables the window is taken whatever the window was. -/
theorem wrHwin_disable (hx : x.getLsbD 0 = false) :
    w.wrHwin .hwinCtl n x = .ok (w.setBlk .hwinCtl n (x &&& (fieldMask 63 12 ||| fieldMask 5 0))) := by
  refine (if_neg (by rw [hx]; simp)).trans ((if_neg (by rw [hx]; exact Bool.false_ne_true)).trans ?_)
  rw [keep_eq_and_fieldMask, keep_eq_and_fieldMask, BitVec.and_or_distrib_left]

end registers

/-- A write that its rule takes, and one that it refuses. -/
theorem trying_ok {f : W → Wr} {s : State} {w : W} (h : f s.toW = .ok w) :
    trying f s = .next (w.toState s) := step1_eq (by rw [h])

theorem trying_error {f : W → Wr} {s : State} {c : Nat} (h : f s.toW = .error c) :
    trying f s = .next s := step1_stays (by rw [h])

section windowWrites
variable {n : Nat} {s : State}

theorem hostWindowWrite_setup {reg : Nat} (x : Dword) (hreg : reg = 0 ∨ reg = 1) (hn : n < 256)
    (h : (s.toW.blk .hwinCtl n).getLsbD 0 = false) :
    does (.hostWindowWrite n reg x) s fun w =>
      if reg = 0 then w.setBlk .hwinBase n (x &&& fieldMask 55 12)
      else w.setBlk .hwinLen n (x &&& fieldMask 39 0) := by
  obtain rfl | rfl := hreg
  · exact trying_ok ((if_pos hn).trans (wrHwin_base h))
  · exact trying_ok ((if_pos hn).trans (wrHwin_len h))

theorem hostWindowWrite_disable {x : Dword} (hn : n < 256) (hx : x.getLsbD 0 = false) :
    does (.hostWindowWrite n 2 x) s fun w =>
      w.setBlk .hwinCtl n (x &&& (fieldMask 63 12 ||| fieldMask 5 0)) :=
  trying_ok ((if_pos hn).trans (wrHwin_disable hx))

theorem hostWindowWrite_enabled {reg : Nat} {x : Dword} (hn : n < 256)
    (h : (s.toW.blk .hwinCtl n).getLsbD 0 = true) (hx : reg = 2 → x.getLsbD 0 = true) :
    stays (.hostWindowWrite n reg x) s := by
  match reg with
  | 0 => exact trying_error ((if_pos hn).trans (wrHwin_enabled h (by simp)))
  | 1 => exact trying_error ((if_pos hn).trans (wrHwin_enabled h (by simp)))
  | 2 => exact trying_error ((if_pos hn).trans (wrHwin_enabled h fun _ => hx rfl))
  | _ + 3 => exact trying_ok rfl

end windowWrites

/-- The host's requests and its writes of window registers. -/
theorem hostWindowsPart : HostWindowsPart := by
  refine ⟨fun _ _ _ hp hd hn => queuePairCreate_does hp hd hn, fun _ _ _ => rfl, fun port qp s => ?_,
    fun port qp rkey addr data len c x s h => ?_, fun port qp rkey addr s h hk => ?_,
    fun port qp addr data s h => ⟨fun h1 h2 hm ha => ?_, fun hs => rdmaWrite_unstaged h hs⟩,
    fun _ _ x _ hreg hn h => hostWindowWrite_setup x hreg hn h,
    fun _ _ _ hn hx => hostWindowWrite_disable hn hx,
    fun _ _ _ _ hn h hx => hostWindowWrite_enabled hn h hx⟩
  · have hfab : (s.toW.qpFail port qp).c.fab = s.toW.c.fab := by unfold W.qpFail; split <;> rfl
    exact step1_eq (by rw [W.tell, hfab])
  · obtain ⟨hw, hr, hc, hf⟩ := rdma_unready h rkey addr
    exact ⟨hw data, hr len, hc c x, hf x⟩
  · refine ⟨fun data hh => rdmaWrite_window h hk (rdmaWrite_refused hh),
      fun data v w hh hp hv => rdmaWrite_window h hk (rdmaWrite_done hh hp hv),
      fun len v w bs hh hp hv => rdmaRead_window h hk (rdmaRead_done hh hp hv),
      fun len v w c a hh hp hv => rdmaRead_window h hk (rdmaRead_bad hh hp hv),
      fun c x hh => ⟨rdmaCas_window h hk (rdmaAtomic_noWindow hh), rdmaFaa_window h hk (rdmaAtomic_noWindow hh)⟩,
      fun v w y c x hh ha h8 hm hy => ⟨rdmaCas_window h hk (rdmaAtomic_forbidden hh ha h8 hm hy),
        rdmaFaa_window h hk (rdmaAtomic_forbidden hh ha h8 hm hy)⟩,
      fun v u w bs c x hh ha h8 hm hr => ⟨fun hne => ?_, fun z heq hz => ?_, fun z hz => ?_⟩⟩
    · exact rdmaCas_window h hk (rdmaAtomic_keeps hh ha h8 hm hr (if_neg hne))
    · exact rdmaCas_window h hk (rdmaAtomic_writes hh ha h8 hm hr (if_pos heq) hz)
    · exact rdmaFaa_window h hk (rdmaAtomic_writes hh ha h8 hm hr rfl hz)
  · refine ⟨_, rdmaWrite_staged h h1 h2 ha, rfl, rfl, fun k hk => ?_, fun a hout => ?_⟩
    · rw [get_putAll hm, if_pos (by omega), Nat.add_sub_cancel_left]
    · rw [get_putAll hm, if_neg (by omega)]

/-! # Register writes that arrive as steps (16 R400, 17 R402, R408, 18 R431, R436, 19 R453–R456) -/

/-! ## Fields of registers -/

theorem getLsbD_fieldMask (lo len i : Nat) (h : lo + (len + 1) ≤ 64) :
    (fieldMask (lo + len) lo).getLsbD i = (decide (lo ≤ i) && decide (i - lo < len + 1)) := by
  have hm : 2 ^ (lo + len + 1) - 2 ^ lo = (2 ^ (len + 1) - 1) * 2 ^ lo := by
    rw [Nat.sub_mul, ← pow_add, one_mul, show len + 1 + lo = lo + len + 1 by omega]
  rw [fieldMask, hm, BitVec.getLsbD_ofNat, Nat.testBit_mul_two_pow, Nat.testBit_two_pow_sub_one]
  by_cases hi : i < 64
  · simp [hi]
  · have : ¬ i - lo < len + 1 := by omega
    simp [hi, this]

theorem toNat_and_fieldMask (x : Dword) {lo len : Nat} (h : lo + (len + 1) ≤ 64) :
    (x &&& fieldMask (lo + len) lo).toNat = fld x lo (len + 1) * 2 ^ lo := by
  refine Nat.eq_of_testBit_eq fun i => ?_
  rw [BitVec.testBit_toNat, BitVec.getLsbD_and, getLsbD_fieldMask lo len i h, Nat.testBit_mul_two_pow, fld,
    bits, Nat.testBit_mod_two_pow, Nat.testBit_div_two_pow, BitVec.testBit_toNat]
  by_cases hi : lo ≤ i
  · rw [Nat.sub_add_cancel hi, Bool.and_comm, Bool.and_assoc]
  · simp [hi]

theorem keep_eq_zero_iff (x : Dword) {lo len : Nat} (h : lo + (len + 1) ≤ 64) :
    keep x (lo + len) lo = 0 ↔ fld x lo (len + 1) = 0 := by
  rw [← BitVec.toNat_inj, show keep x (lo + len) lo = x &&& fieldMask (lo + len) lo from rfl,
    toNat_and_fieldMask x h]
  simp

theorem setFld_zero (x : Dword) {lo len : Nat} (h : lo + (len + 1) ≤ 64) :
    setFld x lo (len + 1) 0 = x &&& ~~~ fieldMask (lo + len) lo := by
  have hz : (x &&& ~~~ fieldMask (lo + len) lo) &&& (x &&& fieldMask (lo + len) lo) = 0 := by
    ext i
    simp only [BitVec.getElem_and, BitVec.getElem_not]
    cases (fieldMask (lo + len) lo)[i] <;> simp
  have hsum : (x &&& ~~~ fieldMask (lo + len) lo) + (x &&& fieldMask (lo + len) lo) = x := by
    rw [BitVec.add_eq_or_of_and_eq_zero _ _ hz]
    ext i
    simp only [BitVec.getElem_and, BitVec.getElem_not, BitVec.getElem_or]
    cases (fieldMask (lo + len) lo)[i] <;> simp
  have hnat := congrArg BitVec.toNat hsum
  rw [BitVec.toNat_add_of_and_eq_zero hz, toNat_and_fieldMask x h] at hnat
  rw [setFld, Nat.zero_mod, Nat.zero_mul, Nat.add_zero, ← hnat, Nat.add_sub_cancel, BitVec.ofNat_toNat,
    BitVec.setWidth_eq]

/-! ## Registers of a context and of a group -/

theorem forCtx_here {a : Nat} {f : W → Wr} {s : State} (h : (aget s.chip.sys.ctxs a).isSome = true) :
    forCtx a f s = trying f s := by
  cases hw : f s.toW with
  | ok w => exact (trying_ok ((if_pos h).trans hw)).trans (trying_ok hw).symm
  | error c => exact (trying_error ((if_pos h).trans hw)).trans (trying_error hw).symm

theorem forCtx_nowhere {a : Nat} {f : W → Wr} {s : State} (h : aget s.chip.sys.ctxs a = none) :
    forCtx a f s = .next s := by
  have hn : ¬ (aget s.chip.sys.ctxs a).isSome = true := by rw [h]; exact Bool.false_ne_true
  exact trying_ok (w := s.toW) (if_neg hn)

/-! ## Credits of energy (19 R453) -/

theorem credit_reserved {w : W} {x : Dword} (h : fld x 40 8 ≠ 0) :
    w.credit x = .error Cause.reservedField :=
  if_pos fun h0 => h ((keep_eq_zero_iff x (lo := 40) (len := 7) (by decide)).1 h0)

theorem credit_noCtx {s : State} {x : Dword} {a : Nat} (ha : fld x 48 16 = a)
    (h : aget s.chip.sys.ctxs a = none) : stays (.fantailCredit x) s := by
  by_cases h8 : fld x 40 8 = 0
  · have h0 := (keep_eq_zero_iff x (lo := 40) (len := 7) (by decide)).2 h8
    refine trying_error (c := Cause.illegalOperand) ((if_neg (not_not_intro h0)).trans (if_pos ?_))
    rw [State.toW_c, ha, h]
    rfl
  · exact trying_error (credit_reserved h8)

/-- A credit goes to the account; every record that was held back may be told of again. -/
theorem credit_taken {s : State} {x : Dword} {a : Nat} (hc : (aget s.chip.sys.ctxs a).isSome = true)
    (ha : fld x 48 16 = a) (h8 : fld x 40 8 = 0) :
    ∃ w : W, exec (.fantailCredit x) s = .next (w.toState s) ∧ (w.toState s).mem = s.mem ∧
      w.c.sys = (s.toW.modCtx a fun y => { y with
        account := min (y.account + fld x 0 40) (2 ^ 40 - 1), dry := false }).c.sys ∧
      (∀ e ∈ w.c.slu.queues, e.2.starved = false) ∧ ∀ e ∈ w.c.slu.grids, e.2.starved = false := by
  subst ha
  have h0 := (keep_eq_zero_iff x (lo := 40) (len := 7) (by decide)).2 h8
  have hn : ¬ (aget s.toW.c.sys.ctxs (fld x 48 16)).isNone = true := by
    rw [State.toW_c, Option.isNone_iff_eq_none]
    exact Option.isSome_iff_ne_none.1 hc
  refine ⟨_, trying_ok ((if_neg (not_not_intro h0)).trans (if_neg hn)), rfl, rfl, ?_, ?_⟩
  · intro e he
    obtain ⟨y, -, rfl⟩ := List.mem_map.1 he
    rfl
  · intro e he
    obtain ⟨y, -, rfl⟩ := List.mem_map.1 he
    rfl

/-! ## Monitors (19 R455, R456) -/

/-- The bin of a sample of monitor `n`. -/
def W.binOf (w : W) (n : Nat) (v : Int) : Nat :=
  min 15 (max 0 ((v - ((BitVec.ofNat 32 (fld (w.blk .monCtl n) 15 32)).toInt : Int)) /
    2 ^ fld (w.blk .monCtl n) 47 5)).toNat

/-- Monitor `n` with a sample counted. -/
def W.monCounted (w : W) (n : Nat) (v : Int) : Monitor :=
  let m := (aget w.c.mc.mons n).getD {}
  { bins := (List.range 16).map fun i => m.bins.getD i 0 + if i = w.binOf n v then 1 else 0
    count := m.count + 1
    mn := if m.count = 0 then v else min m.mn v
    mx := if m.count = 0 then v else max m.mx v }

section monitors
variable {w : W} {n : Nat} {v : Int}

theorem monSample_off (h : (w.blk .monCtl n).getLsbD 0 = false) : w.monSample n v = w :=
  if_pos (by rw [h]; rfl)

theorem monCapture_off (h : (w.blk .monCtl n).getLsbD 0 = false) : w.monCapture n = w :=
  if_pos (by rw [h]; rfl)

/-- A sample that is no inlet temperature above 45 °C is counted. -/
theorem monSample_cool (h : (w.blk .monCtl n).getLsbD 0 = true)
    (hc : fld (w.blk .monCtl n) 58 6 ≠ 3 ∨ v ≤ 45000) :
    w.monSample n v = { w with c.mc.mons := aset w.c.mc.mons n (w.monCounted n v) } := by
  refine (if_neg (by rw [h]; decide)).trans (if_neg ?_)
  obtain hc | hc := hc
  · simp [hc]
  · simp [Int.not_lt.2 hc]

/-- The first inlet temperature above 45 °C of a capture is reported too (19 R463). -/
theorem monSample_hot (h : (w.blk .monCtl n).getLsbD 0 = true) (h3 : fld (w.blk .monCtl n) 58 6 = 3)
    (hv : 45000 < v)
    (hm : ((aget w.c.mc.mons n).getD {}).count = 0 ∨ ((aget w.c.mc.mons n).getD {}).mx ≤ 45000) :
    w.monSample n v = ({ w with c.mc.mons := aset w.c.mc.mons n (w.monCounted n v) } : W).reportSys
      { cause := Cause.thermalLimit, kind := 2 } :=
  (if_neg (by rw [h]; decide)).trans (if_pos (by simpa [h3, hv] using hm))

theorem monCapture_on (h : (w.blk .monCtl n).getLsbD 0 = true) :
    w.monCapture n =
      let m := (aget w.c.mc.mons n).getD {}
      w.put3 0 0 (fld (w.blk .monBase n) 6 46 * 64)
        (((List.range 16).flatMap fun i => leBytes 8 (m.bins.getD i 0)) ++
          leBytes 4 (m.mn % 2 ^ 32).toNat ++ leBytes 4 (m.mx % 2 ^ 32).toNat ++ leBytes 8 m.count ++
          List.replicate 112 0) :=
  if_neg (by rw [h]; decide)

theorem monCounted_bins {i : Nat} (hi : i < 16) :
    (w.monCounted n v).bins.getD i 0 =
      ((aget w.c.mc.mons n).getD {}).bins.getD i 0 + if i = w.binOf n v then 1 else 0 := by
  simp [W.monCounted, List.getElem?_range hi]

end monitors

/-- The register writes and the samples that arrive as steps. -/
theorem registerEventsPart : RegisterEventsPart := by
  refine ⟨fun a x s h => ⟨?_, ?_, (forCtx_here h).trans (trying_ok rfl)⟩,
    fun a x s h => ⟨forCtx_nowhere h, forCtx_nowhere h, forCtx_nowhere h, fun ha => credit_noCtx ha h⟩,
    fun gid x s h => step1_eq (if_pos h), fun gid x s h => ?_,
    fun r s => step1_eq (congrArg (s.toW.setRingBase r) (setFld_zero _ (lo := 4) (len := 7) (by decide))),
    fun s => step1_eq (congrArg (s.toW.setBlk .tenterCtl 0)
      (setFld_zero _ (lo := 32) (len := 15) (by decide))), fun a s => ?_,
    fun a x s hc ha h8 => credit_taken hc ha h8, fun x s h => trying_error (credit_reserved h),
    fun n s => rfl, fun n v s h => ⟨step1_stays (monSample_off h), step1_stays (monCapture_off h)⟩,
    fun n v s => ?_, fun n v s => ?_, fun n s => ?_⟩
  · split
    · next w hw => exact (forCtx_here h).trans (trying_ok hw)
    · next c hw => exact (forCtx_here h).trans (trying_error hw)
  · split
    · next w hw => exact (forCtx_here h).trans (trying_ok hw)
    · next c hw => exact (forCtx_here h).trans (trying_error hw)
  · refine step1_stays (if_neg ?_)
    rw [State.toW_c, h]
    exact Bool.false_ne_true
  · refine ⟨s.toW.tkClear a, rfl, rfl, fun e => ?_⟩
    simp [W.tkClear, imp_iff_not_or]
  · intro c m lo k hon hcool
    refine ⟨s.toW.monCounted n v, step1_eq (monSample_cool hon hcool), rfl, by simp [W.monCounted],
      fun i hi => monCounted_bins hi, fun h0 => ⟨if_pos h0, if_pos h0⟩,
      fun h0 => ⟨if_neg h0, if_neg h0⟩⟩
  · intro c m hon h3 hv hm
    exact ⟨s.toW.monCounted n v, step1_eq (monSample_hot hon h3 hv hm)⟩
  · intro m hon
    exact step1_eq (monCapture_on hon)

/-- Settles O54: `hostWindowsPart` and `registerEventsPart`. -/
theorem outsideWrites : Obligations.OutsideWrites := ⟨hostWindowsPart, registerEventsPart⟩

end Sys2Proof.Machine

section
/-! SUPPORT. What an instruction that acts once gives: its plain end, its faults, a wait of all its
lanes, and a wait in the middle of the instruction; with O44 settled from it: LAUNCH and CHWAIT, SPAWN
and FETCHW, TASKADD and TASKDONE (04 R109–R112, 05 R127–R136). -/

namespace Sys2Proof.Machine

open Sys2Proof.Claim

/-! ## The ends of an instruction, where its fragment is not single-stepped -/

section ends
variable {s : State} {g : Guard} {b : Issue → List Nat → W → Eff}

theorem lanesOf_ne_nil_of_runs (hr : runs s g = true) : lanesOf s g ≠ [] := by
  intro h
  simp [runs, h] at hr

theorem calm_of_runs (hr : runs s g = true) : (s.toW.frag (now s).frag).step = false := by
  simp only [runs, calm, Bool.and_eq_true, Bool.not_eq_true'] at hr
  exact hr.1

theorem stepEnd_of_runs (hr : runs s g = true) (w : W) : w.stepEnd (moved s) (now s) = w :=
  stepEnd_of_not_step ((congrArg Frag.step (moved_frag _ _ _)).trans (calm_of_runs hr))

/-- A body that neither faults nor waits. -/
theorem run_ends {w : W} (hr : runs s g = true) (hb : b (now s) (lanesOf s g) (moved s) = { w := w }) :
    run g b s = .next (w.toState s) :=
  run_plain (lanesOf_ne_nil_of_runs hr) (calm_of_runs hr) hb

/-- Any body. -/
theorem run_finishes {e : Eff} (hr : runs s g = true) (hb : b (now s) (lanesOf s g) (moved s) = e) :
    run g b s = .next ((finish (now s) (lanesOf s g) (moved s) e).toState s) := by
  rw [← hb]
  exact run_body (lanesOf_ne_nil_of_runs hr)

/-- A body that waits with all its lanes does nothing else (06 R152). -/
theorem run_waits {w : W} {k : Wake} (hr : runs s g = true)
    (hb : b (now s) (lanesOf s g) (moved s) = { w := w, park := some k }) :
    run g b s = .next (allWait s g k) := by
  rw [run_finishes hr hb]
  simp [finish, stepEnd_of_runs hr, allWait, leaving]

/-- A body whose lanes fault (06 R164, 18 R427). -/
theorem run_faulting {w : W} {fs : List LFault} (hr : runs s g = true) (hf : fs ≠ [])
    (hb : b (now s) (lanesOf s g) (moved s) = { w := w, faults := fs }) :
    run g b s = .next (faulting s w fs) := by
  rw [run_finishes hr hb]
  simp [finish, hf, stepEnd_of_runs hr, faulting, leaving, W.parkEach]

/-- A body whose lanes all fault alike. -/
theorem run_allFault {c a : Nat} (hr : runs s g = true)
    (hb : b (now s) (lanesOf s g) (moved s) = Eff.allFault (moved s) (lanesOf s g) c a) :
    run g b s = .next (allFault s g c a) :=
  run_faulting hr (by simpa using lanesOf_ne_nil_of_runs hr) hb

theorem addPark_same {k : Wake} (hk : joinWakes k k = some k) (ls : List Nat) (l : Nat) :
    addPark [(ls, k)] l k = [(ls ++ [l], k)] := by simp [addPark, hk]

theorem foldl_addPark_same {k : Wake} (hk : joinWakes k k = some k) (es ls : List Nat) :
    (es.map fun l => (l, k)).foldl (fun rs p => addPark rs p.1 p.2) [(ls, k)] = [(ls ++ es, k)] := by
  induction es generalizing ls with
  | nil => simp
  | cons e es ih => simp [addPark_same hk, ih]

/-- Lanes that wait for one thing leave as one record. -/
theorem parkEach_same {k : Wake} (hk : joinWakes k k = some k) {es : List Nat} (he : es ≠ [])
    (w : W) (i : Issue) : w.parkEach i (es.map fun l => (l, k)) = w.parkSome i es k := by
  cases es with
  | nil => exact absurd rfl he
  | cons e es =>
    have h := foldl_addPark_same hk es [e]
    simp only [W.parkEach, List.map_cons, List.foldl_cons, addPark]
    rw [h]
    rfl

/-- A body all of whose lanes wait for a slot in the middle of the instruction. -/
theorem run_midWaits {w : W} {k : Nat} (hr : runs s g = true)
    (hb : b (now s) (lanesOf s g) (moved s) =
      { w := begun s g w true, parks := (lanesOf s g).map fun l => (l, .slot k) }) :
    run g b s = .next (midWait s g w (.slot k)) := by
  have hl := lanesOf_ne_nil_of_runs hr
  have hp := parkEach_same (k := .slot k) (by simp [joinWakes]) hl
  rw [run_finishes hr hb]
  simp [finish, hl, stepEnd_of_runs hr, midWait, leaving, W.takeFaults, hp, W.parkLanes, uniq, sortBy]

/-- An instruction starts afresh when none of its lanes comes back from a park at it. -/
theorem begunAt_isEmpty_iff :
    ((moved s).begunAt (now s) (lanesOf s g)).isEmpty = true ↔ fresh s g := by
  simp only [W.begunAt, List.isEmpty_iff, List.filter_eq_nil_iff, fresh]
  refine forall₂_congr fun l _ => ?_
  cases ((moved s).lane (now s).gid l).begun <;> simp

end ends

/-! ## LAUNCH and CHWAIT -/

section children
variable {s : State} {f : Alu}

/-- A LAUNCH that waited for a child slot goes on with the record that it had copied (04 R110, R111). -/
theorem launches_copy {l : Nat} {rc h : List Byte} (hr : runs s f.g = true)
    (hc : (lanesOf s f.g).findSome? (fun l =>
      (aget (moved s).c.slu.copies ((now s).gid, l)).map fun x => (l, x)) = some (l, rc, h))
    (hn : (moved s).childSlots (grp s).asid < 4096) :
    exec (.launch f) s = .next (launched s f l (moved s) rc h) := by
  refine run_ends hr ?_
  simp only [hc]
  exact if_neg (Nat.not_le.2 hn)

/-- No executing lane keeps the copy of a launch record. -/
def NoCopy (s : State) (g : Guard) : Prop :=
  ∀ k ∈ lanesOf s g, aget (moved s).c.slu.copies ((now s).gid, k) = none

theorem NoCopy.findSome? (hc : NoCopy s f.g) :
    (lanesOf s f.g).findSome? (fun l =>
      (aget (moved s).c.slu.copies ((now s).gid, l)).map fun x => (l, x)) = none := by
  rw [List.findSome?_eq_none_iff]
  exact fun l hl => by rw [hc l hl]; rfl

theorem leadLane_eq_some_iff {g : Guard} {l : Nat} : leadLane s g = some l ↔
    (moved s).leader (teamNo s) = some ((now s).gid, l) ∧ l ∈ lanesOf s g := by
  unfold leadLane
  split
  · next g2 k hk =>
    simp only [hk, Option.ite_none_right_eq_some, Option.some.injEq, Prod.mk.injEq]
    grind
  · next hk => simp [hk]

theorem leader_not_executing {g : Guard} (hl : leadLane s g = none) {g2 l : Nat}
    (hk : (moved s).leader (teamNo s) = some (g2, l)) : ¬ (g2 = (now s).gid ∧ l ∈ lanesOf s g) := by
  rintro ⟨rfl, hm⟩
  rw [leadLane_eq_some_iff.2 ⟨hk, hm⟩] at hl
  exact absurd hl (Option.some_ne_none l)

/-- Without the leader among its lanes a LAUNCH answers 0 (04 R111). -/
theorem launch_withoutLeader (hr : runs s f.g = true) (hc : NoCopy s f.g) (hl : leadLane s f.g = none) :
    exec (.launch f) s = .next (((moved s).dst (now s) f.d 0 [0]).toState s) := by
  refine run_ends hr ?_
  simp only [hc.findSome?]
  cases hk : (moved s).leader (teamNo s) with
  | none => simp only [show (moved s).leader ((moved s).group (now s).gid).team = none from hk]
  | some p =>
    obtain ⟨g2, l⟩ := p
    have hno := leader_not_executing hl hk
    simp only [show (moved s).leader ((moved s).group (now s).gid).team = some (g2, l) from hk]
    rw [if_neg (by simpa using hno)]

/-- The leader's LAUNCH in a grid of the deepest nesting faults. -/
theorem launch_tooDeep {l : Nat} (hr : runs s f.g = true) (hc : NoCopy s f.g)
    (hl : leadLane s f.g = some l) (hd : ((moved s).grid (grp s).grid).depth = 10) :
    exec (.launch f) s = .next (faulting s (moved s)
      [{ lane := l, cause := Cause.nestDepth, addr := launchAddr s f }]) := by
  obtain ⟨hk, hm⟩ := leadLane_eq_some_iff.1 hl
  refine run_faulting hr (List.cons_ne_nil _ _) ?_
  simp only [hc.findSome?, show (moved s).leader ((moved s).group (now s).gid).team = _ from hk]
  rw [if_pos (by simpa using hm)]
  exact if_pos hd

/-- The leader's LAUNCH below that depth reads its record and checks it. -/
theorem launch_recordBad {l c : Nat} {w : W} (hr : runs s f.g = true) (hc : NoCopy s f.g)
    (hl : leadLane s f.g = some l) (hd : ((moved s).grid (grp s).grid).depth ≠ 10)
    (he : (moved s).launchRec (now s) (grp s).asid (launchAddr s f) = (w, .error c)) :
    exec (.launch f) s = .next (faulting s w [{ lane := l, cause := c, addr := launchAddr s f }]) := by
  obtain ⟨hk, hm⟩ := leadLane_eq_some_iff.1 hl
  refine run_faulting hr (List.cons_ne_nil _ _) ?_
  simp only [hc.findSome?, show (moved s).leader ((moved s).group (now s).gid).team = _ from hk]
  rw [if_pos (by simpa using hm)]
  refine (if_neg hd).trans ?_
  split
  · next he' => cases he.symm.trans he'; rfl
  · next he' => cases he.symm.trans he'

theorem launchRec_misaligned {w : W} {i : Issue} {a addr : Nat} (h : addr % 256 ≠ 0) :
    w.launchRec i a addr = (w, .error Cause.launchInvalid) := if_pos (by simp [h])

/-- The leader's LAUNCH whose record passes its checks, with a child slot free. -/
theorem launch_ok {l : Nat} {w w2 : W} {r h : List Byte} (hr : runs s f.g = true) (hc : NoCopy s f.g)
    (hl : leadLane s f.g = some l) (hd : ((moved s).grid (grp s).grid).depth ≠ 10)
    (he : (moved s).launchRec (now s) (grp s).asid (launchAddr s f) = (w, .ok r))
    (hv : w.recCheck (grp s).asid r = (w2, .ok h)) (hn : w2.childSlots (grp s).asid < 4096) :
    exec (.launch f) s = .next (launched s f l w2 r h) := by
  obtain ⟨hk, hm⟩ := leadLane_eq_some_iff.1 hl
  refine run_ends hr ?_
  simp only [hc.findSome?, show (moved s).leader ((moved s).group (now s).gid).team = _ from hk]
  rw [if_pos (by simpa using hm)]
  refine (if_neg hd).trans ?_
  split
  · next he' => cases he.symm.trans he'
  · next he' =>
    cases he.symm.trans he'
    split
    · next hv' => cases hv.symm.trans hv'
    · next hv' =>
      cases hv.symm.trans hv'
      exact if_neg (Nat.not_le.2 hn)
    · next hv' => cases hv.symm.trans hv'

/-! CHWAIT (04 R112). -/

/-- A CHWAIT that names a handle of none of the team's children faults. -/
theorem chwait_noChild (hr : runs s f.g = true) (ha : namesAll f = false) (hn : named s f = []) :
    exec (.chwait f) s = .next (allFault s f.g Cause.launchInvalid) := by
  refine run_allFault hr (if_pos ?_)
  show ((named s f).isEmpty && !namesAll f) = true
  rw [hn, ha]
  rfl

theorem chwait_names (h : namesAll f = true ∨ named s f ≠ []) :
    ¬ ((named s f).isEmpty && !namesAll f) = true := by
  rcases h with h | h <;> simp [h]

/-- A CHWAIT whose children all have a status completes. -/
theorem chwait_done (hr : runs s f.g = true) (h : namesAll f = true ∨ named s f ≠ [])
    (hd : ∀ c ∈ named s f, c.status.isSome = true) :
    exec (.chwait f) s = .next (childrenSeen s f) := by
  refine run_ends hr ((if_neg (chwait_names h)).trans ((if_pos (List.all_eq_true.2 hd)).trans ?_))
  simp only [Bool.and_eq_true, Bool.or_eq_true, decide_eq_true_eq, noDst]
  rfl

/-- A CHWAIT one of whose children has no status yet waits. -/
theorem chwait_waits (hr : runs s f.g = true) (h : namesAll f = true ∨ named s f ≠ [])
    (hd : ∃ c ∈ named s f, c.status = none) :
    exec (.chwait f) s = .next (allWait s f.g (.child (namesAll f)
      (if namesAll f then 0 else ((rd s f.g).word f.a 0).toNat))) := by
  obtain ⟨c, hc, hs⟩ := hd
  refine run_waits hr ((if_neg (chwait_names h)).trans ((if_neg fun ha => ?_).trans rfl))
  have hsome := List.all_eq_true.1 ha c hc
  rw [hs] at hsome
  cases hsome

end children

/-- LAUNCH and CHWAIT. -/
theorem launchesChildrenPart : LaunchesChildrenPart := fun _ _ hr =>
  ⟨fun _ _ _ hc hn => launches_copy hr hc hn, fun hc =>
    ⟨launch_withoutLeader hr hc, fun _ hl =>
      ⟨launch_tooDeep hr hc hl,
       fun hd ha => launch_recordBad hr hc hl hd (launchRec_misaligned ha),
       fun _ _ _ _ hd he hv hn => launch_ok hr hc hl hd he hv hn⟩⟩⟩

theorem childWaitsPart : ChildWaitsPart := fun _ _ hr =>
  ⟨chwait_noChild hr, fun h => ⟨chwait_done hr h, chwait_waits hr h⟩⟩

/-! ## SPAWN and FETCHW -/

theorem entryValid_iff {e : Nat} : entryValid e = true ↔ entryGood e := by
  simp [entryValid, entryGood, and_assoc]

/-- Some number up to the length of a list is not in it. -/
theorem exists_not_mem_range (xs : List Nat) : ∃ n ∈ List.range (xs.length + 1), n ∉ xs := by
  by_contra h
  push Not at h
  have := (List.nodup_range.subperm h).length_le
  simp at this

theorem isLowest_lowestOut (xs : List Nat) : isLowest xs (lowestOut xs) := by
  obtain ⟨n, hn, hx⟩ := exists_not_mem_range xs
  cases hf : (List.range (xs.length + 1)).find? fun n => !xs.contains n with
  | none => exact absurd (List.find?_eq_none.1 hf n hn) (by simpa using hx)
  | some k =>
    rw [List.find?_range_eq_some] at hf
    rw [lowestOut, List.find?_range_eq_some.2 hf]
    simpa [isLowest] using And.intro hf.1 hf.2.2

theorem offTarget_eq_labelOf (i : Issue) (f : Alu) : offTarget i f = labelOf i f := by
  simp [offTarget, labelOf, BitVec.signExtend, BitVec.ofInt_add, BitVec.ofInt_mul]

section spawn
variable {s : State} {f : Alu}

/-- The entry that the machine computes. -/
theorem spawnEntry_eq : (if f.imm.isSome = true then offTarget (now s) f
    else ({ w := moved s, i := now s, es := lanesOf s f.g } : Rd).pair f.b 0).toNat = spawnEntry s f := by
  rw [offTarget_eq_labelOf, apply_ite BitVec.toNat]
  rfl

/-- Whether a SPAWN goes to its record at all: it comes back from a wait for one, or it passed its tests. -/
def SpawnGoes (s : State) (f : Alu) : Prop :=
  ¬ fresh s f.g ∨ (entryGood (spawnEntry s f) ∧
    (((moved s).gindexes (teamNo s)).length + 1) * (grp s).width ≤ 1024)

/-- A SPAWN whose entry fails its checks faults (05 R127). -/
theorem spawn_badEntry (hr : runs s f.g = true) (hf : fresh s f.g) (he : ¬ entryGood (spawnEntry s f)) :
    exec (.spawn f) s = .next (allFault s f.g Cause.spawnInvalid (spawnEntry s f)) := by
  refine run_allFault hr ?_
  simp only [spawnEntry_eq, begunAt_isEmpty_iff.2 hf]
  exact if_pos (by simpa using mt entryValid_iff.1 he)

/-- A SPAWN beyond the threads of a team answers −1. -/
theorem spawn_full (hr : runs s f.g = true) (hf : fresh s f.g) (he : entryGood (spawnEntry s f))
    (hw : 1024 < (((moved s).gindexes (teamNo s)).length + 1) * (grp s).width) :
    exec (.spawn f) s = .next (((moved s).dst (now s) f.d 0 [0xFFFFFFFF]).toState s) := by
  refine run_ends hr ?_
  simp only [spawnEntry_eq, begunAt_isEmpty_iff.2 hf, entryValid_iff.2 he]
  exact (if_neg (by decide)).trans (if_pos (decide_eq_true hw))

/-- The tests of a SPAWN let it go on. -/
theorem SpawnGoes.tests (h : SpawnGoes s f) :
    (!!((moved s).begunAt (now s) (lanesOf s f.g)).isEmpty && !entryValid (spawnEntry s f)) = false ∧
    (!!((moved s).begunAt (now s) (lanesOf s f.g)).isEmpty &&
      decide (1024 < (((moved s).gindexes (teamNo s)).length + 1) * (grp s).width)) = false := by
  rcases h with h | ⟨he, hw⟩
  · simp [Bool.eq_false_iff.2 (mt begunAt_isEmpty_iff.1 h)]
  · simp [entryValid_iff.2 he, Nat.not_lt.2 hw]

/-- A SPAWN waits while the core's spawn records are all in use. -/
theorem spawn_waits (hr : runs s f.g = true) (h : SpawnGoes s f)
    (hn : 64 ≤ ((moved s).core (grp s).core).spawns.length) :
    exec (.spawn f) s = .next (midWait s f.g (moved s) (.slot 0)) := by
  obtain ⟨he, hw⟩ := h.tests
  refine run_midWaits hr ?_
  simp only [spawnEntry_eq, he]
  exact (if_neg (by decide)).trans ((if_neg (Bool.eq_false_iff.1 hw)).trans (if_pos hn))

/-- A SPAWN with a record to spare starts a group of the lowest free index. -/
theorem spawn_ok (hr : runs s f.g = true) (h : SpawnGoes s f)
    (hn : ((moved s).core (grp s).core).spawns.length < 64) :
    exec (.spawn f) s = .next (spawned s f (lowestOut ((moved s).gindexes (teamNo s)))) := by
  obtain ⟨he, hw⟩ := h.tests
  refine run_ends hr ?_
  simp only [spawnEntry_eq, he]
  exact (if_neg (by decide)).trans
    ((if_neg (Bool.eq_false_iff.1 hw)).trans (if_neg (Nat.not_le.2 hn)))

end spawn

section mailboxes
variable {s : State} {f : Alu}

/-- The check of FETCHW in the words of the machine. -/
theorem mailbox_check : (mailbox s f % 64 ≠ 0 || (moved s).spbytes (teamNo s) < mailbox s f + 64 ||
    ((moved s).grid (grp s).grid).det || 2 ≤ ((moved s).grid (grp s).grid).cluster) = true ↔
    ¬ mailboxGood s f := by
  simp only [mailboxGood, Bool.or_eq_true, decide_eq_true_eq, Bool.eq_false_iff]
  grind

/-- A FETCHW whose mailbox fails its checks faults (05 R129). -/
theorem fetchw_bad (hr : runs s f.g = true) (hf : fresh s f.g) (hm : ¬ mailboxGood s f) :
    exec (.fetchw f) s = .next (allFault s f.g Cause.fetchwInvalid) := by
  refine run_allFault hr ?_
  simp only [begunAt_isEmpty_iff.2 hf]
  exact (if_neg (by decide)).trans (if_pos (mailbox_check.2 hm))

/-- What a FETCHW does once its READY word stands, or when it comes back from its wait. -/
def fetchwAsks (s : State) (f : Alu) (w : W) : Eff :=
  if (w.team (teamNo s)).fetchw.isSome then
    { w := begun s f.g w true, parks := (lanesOf s f.g).map fun l => (l, .slot 3) }
  else { w := (begun s f.g w false).modTeam (teamNo s) fun x => { x with fetchw := some (mailbox s f) } }

/-- A FETCHW has stored its READY word, with the state `w` after it, or comes back from its wait. -/
def FetchwReady (s : State) (f : Alu) (w : W) : Prop :=
  (¬ fresh s f.g ∧ w = moved s) ∨ (fresh s f.g ∧ mailboxGood s f ∧ ∃ v,
    (drained s).spGate (now s).gid (teamNo s) (mailbox s f + 60) 4 (lanesOf s f.g) = (v, none) ∧
    w = v.spStore (teamNo s) (mailbox s f + 60) [0, 0, 0, 0])

/-- After its READY word a FETCHW does what one does that comes back from its wait. -/
theorem fetchw_asks {w : W} (hr : runs s f.g = true) (hw : FetchwReady s f w) :
    exec (.fetchw f) s = run f.g (fun _ _ _ => fetchwAsks s f w) s := by
  refine (run_finishes hr ?_).trans (run_finishes hr rfl).symm
  rcases hw with ⟨hf, rfl⟩ | ⟨hf, hm, v, hv, rfl⟩
  · exact if_pos (by simp [Bool.eq_false_iff.2 (mt begunAt_isEmpty_iff.1 hf)])
  · simp only [begunAt_isEmpty_iff.2 hf]
    refine (if_neg (by decide)).trans ((if_neg (mt mailbox_check.1 (not_not.2 hm))).trans ?_)
    split
    · next he => cases hv.symm.trans he
    · next he => cases hv.symm.trans he
    · next he => cases hv.symm.trans he; rfl

/-- A FETCHW waits while an earlier mailbox of its team is outstanding. -/
theorem fetchw_waits {w : W} (hr : runs s f.g = true) (hw : FetchwReady s f w)
    (hs : (w.team (teamNo s)).fetchw.isSome = true) :
    exec (.fetchw f) s = .next (midWait s f.g w (.slot 3)) :=
  (fetchw_asks hr hw).trans (run_midWaits hr (if_pos hs))

/-- Else it makes its request. -/
theorem fetchw_ok {w : W} (hr : runs s f.g = true) (hw : FetchwReady s f w)
    (hs : (w.team (teamNo s)).fetchw = none) :
    exec (.fetchw f) s = .next (((begun s f.g w false).modTeam (teamNo s) fun x =>
      { x with fetchw := some (mailbox s f) }).toState s) :=
  (fetchw_asks hr hw).trans (run_ends hr (if_neg (by simp [hs])))

end mailboxes

/-- SPAWN and FETCHW. -/
theorem spawnsAndMailboxesPart : SpawnsAndMailboxesPart := by
  refine ⟨fun f s hr => ?_, fun f s hr => ⟨fetchw_bad hr, fun w hw => ⟨fetchw_waits hr hw, fetchw_ok hr hw⟩⟩⟩
  intro used
  exact ⟨spawn_badEntry hr, spawn_full hr, spawn_waits hr, fun h hn =>
    ⟨_, isLowest_lowestOut used, spawn_ok hr h hn⟩⟩

/-! ## TASKADD and TASKDONE -/

section tasks
variable {s : State} {f : Alu}

theorem endPreds_noLanes (w : W) (g : Nat) (zs : List (Nat × List Nat)) : w.endPreds g [] zs = w := by
  simp [W.endPreds]

theorem endPreds_noZeros (w : W) (g : Nat) (es : List Nat) : w.endPreds g es [] = w := by
  simp [W.endPreds, uniq]

theorem queueRegs_srcB : queueRegs (srcB f) = if f.imm.isSome then [] else queueRegs [f.b] := by
  unfold srcB
  split <;> rfl

/-- The pops of an instruction's sources, in the machine's words. -/
theorem popAll_of_popped {srcs : List Opnd} {w : W} {x : Rd} {zs : List (Nat × List Nat)} {g : Guard}
    (h : popped s g srcs = some (w, x, zs)) :
    ∃ pops, (moved s).popAll (now s).gid (lanesOf s g) (queueRegs srcs) = (w, .ok (pops, zs)) ∧
      x = { w := moved s, i := now s, pops := pops, es := lanesOf s g } := by
  unfold popped at h
  split at h
  · next hq => cases h; exact ⟨[], by rw [hq]; rfl, rfl⟩
  · split at h
    · next hp => cases h; exact ⟨_, hp, rfl⟩
    · cases h

/-- The end predicates of the pops of all executing lanes. -/
theorem endPreds_of_popped {srcs : List Opnd} {w : W} {x : Rd} {zs : List (Nat × List Nat)} {g : Guard}
    (h : popped s g srcs = some (w, x, zs)) (v : W) :
    v.endPreds (now s).gid (lanesOf s g) zs = endedBy s g srcs zs v := by
  unfold endedBy
  split
  · next hq =>
    simp only [popped, hq] at h
    cases h
    exact endPreds_noZeros _ _ _
  · rfl

/-- Whether the task record of a TASKADD lies in uniform registers, one for all its lanes. -/
def oneRecord (f : Alu) : Bool := match f.a with | .s _ => true | _ => false

/-- The lanes whose task records a TASKADD takes. -/
def taskLanes (s : State) (f : Alu) : List Nat :=
  if oneRecord f then (lanesOf s f.g).take 1 else lanesOf s f.g

theorem taskLanes_eq :
    taskLanes s f = match f.a with | .s _ => (lanesOf s f.g).take 1 | _ => lanesOf s f.g := by
  unfold taskLanes oneRecord
  cases f.a <;> rfl

theorem taskLanes_ne_nil (hr : runs s f.g = true) : taskLanes s f ≠ [] := by
  have := lanesOf_ne_nil_of_runs hr
  unfold taskLanes
  split <;> simpa

/-- The lanes for which lanes of records stand: all where one record serves them all. -/
def spreadLanes (s : State) (f : Alu) (ls : List Nat) : List Nat :=
  if oneRecord f && !ls.isEmpty then lanesOf s f.g else ls

@[simp] theorem spreadLanes_nil : spreadLanes s f [] = [] := by simp [spreadLanes]

theorem spreadLanes_taskLanes (hr : runs s f.g = true) :
    spreadLanes s f (taskLanes s f) = lanesOf s f.g := by
  simp [spreadLanes, taskLanes_ne_nil hr]
  exact fun h => by simp [taskLanes, h]

/-- A TASKADD after its pops, `good` being the lanes whose records pass the checks. -/
def taskaddEff (s : State) (f : Alu) (x : Rd) (w : W) (zs : List (Nat × List Nat)) (good : List Nat) :
    Eff :=
  let bad := (taskLanes s f).filter fun l => !good.contains l
  let faulted := fun (ls : List Nat) (c : Nat) =>
    (spreadLanes s f ls).map fun l => ({ lane := l, cause := c } : LFault)
  let room := 4096 - ((moved s).core (grp s).core).tasks.length
  if room < good.length && ((moved s).poolReady (grp s).core ||
      (good.take room).any fun l => bits (x.b f l).toNat 16 8 = 0) then
    if bad.isEmpty then { w := moved s, park := some (.slot 1) }
    else { w := moved s, faults := faulted bad Cause.taskRecordInvalid
           parks := good.map fun l => (l, .slot 1) }
  else
    let gone := good.take room
    let v := if gone.isEmpty then moved s else w.releaseAt (now s).gid .tm
    let v := gone.foldl (fun w l =>
      let p := w.addTask (now s).gid (x.pair f.a l).toNat (x.b f l).toNat
        (x.run f.a 2 l).toNat ((List.range 8).map fun k => x.run f.a (3 + k) l)
      p.1.dst (now s) f.d l [BitVec.ofNat 32 p.2]) v
    { w := v.endPreds (now s).gid (spreadLanes s f gone) zs
      faults := faulted bad Cause.taskRecordInvalid ++ faulted (good.drop room) Cause.taskQueueFull }

/-- TASKADD in terms of the lanes whose records pass. -/
theorem taskadd_eff {w : W} {x : Rd} {zs : List (Nat × List Nat)} (hr : runs s f.g = true)
    (hp : popped s f.g (srcB f) = some (w, x, zs)) :
    exec (.taskadd f) s = run f.g (fun _ _ _ =>
      taskaddEff s f x w zs ((taskLanes s f).filter (taskGood s x f))) s := by
  refine (run_finishes hr ?_).trans (run_finishes hr rfl).symm
  obtain ⟨pops, ha, rfl⟩ := popAll_of_popped hp
  rw [queueRegs_srcB] at ha
  simp only [ha]
  rfl

theorem filter_not_mem_self (ls : List Nat) : (ls.filter fun l => !decide (l ∈ ls)) = [] := by
  simp

/-- TASKADD of records that all pass, with room for them. -/
theorem taskadd_ok {w : W} {x : Rd} {zs : List (Nat × List Nat)} (hr : runs s f.g = true)
    (hp : popped s f.g (srcB f) = some (w, x, zs)) (hg : ∀ l ∈ taskLanes s f, taskGood s x f l = true)
    (hn : (taskLanes s f).length ≤ 4096 - ((moved s).core (grp s).core).tasks.length) :
    exec (.taskadd f) s =
      .next ((endedBy s f.g (srcB f) zs (tasksAdded s x f (taskLanes s f) w)).toState s) := by
  refine (taskadd_eff hr hp).trans (run_ends hr ?_)
  rw [List.filter_eq_self.2 hg]
  simp [taskaddEff, Nat.not_lt.2 hn, List.take_of_length_le hn, List.drop_of_length_le hn,
    taskLanes_ne_nil hr, spreadLanes_taskLanes hr, endPreds_of_popped hp, tasksAdded, filter_not_mem_self]

/-- TASKADD of records that all pass, without room for them while tasks are or become ready. -/
theorem taskadd_waits {w : W} {x : Rd} {zs : List (Nat × List Nat)} (hr : runs s f.g = true)
    (hp : popped s f.g (srcB f) = some (w, x, zs)) (hg : ∀ l ∈ taskLanes s f, taskGood s x f l = true)
    (hn : 4096 - ((moved s).core (grp s).core).tasks.length < (taskLanes s f).length)
    (hy : (∃ t ∈ ((moved s).core (grp s).core).tasks, t.waits = 0) ∨
      ∃ l ∈ (taskLanes s f).take (4096 - ((moved s).core (grp s).core).tasks.length),
        (x.b f l).toNat / 65536 % 256 = 0) :
    exec (.taskadd f) s = .next (allWait s f.g (.slot 1)) := by
  refine (taskadd_eff hr hp).trans (run_waits hr ((if_pos ?_).trans (if_pos ?_)))
  · rw [List.filter_eq_self.2 hg, Bool.and_eq_true, Bool.or_eq_true]
    exact ⟨decide_eq_true hn,
      hy.imp (fun ⟨t, ht, h0⟩ => List.any_eq_true.2 ⟨t, ht, decide_eq_true h0⟩)
        fun ⟨l, hl, h0⟩ => List.any_eq_true.2 ⟨l, hl, decide_eq_true h0⟩⟩
  · simp [List.filter_eq_self.2 hg]

/-- TASKADD of records none of which passes. -/
theorem taskadd_bad {w : W} {x : Rd} {zs : List (Nat × List Nat)} (hr : runs s f.g = true)
    (hp : popped s f.g (srcB f) = some (w, x, zs))
    (hg : ∀ l ∈ taskLanes s f, taskGood s x f l = false) :
    exec (.taskadd f) s = .next (allFault s f.g Cause.taskRecordInvalid) := by
  refine (taskadd_eff hr hp).trans (run_allFault hr ?_)
  rw [List.filter_eq_nil_iff.2 fun l hl => by simp [hg l hl]]
  simp [taskaddEff, spreadLanes_taskLanes hr, endPreds_noLanes, Eff.allFault]

end tasks

section taskdone
variable {s : State} {f : Alu}

/-- The package after TASKDONE's release. -/
def doneFrom (s : State) : W := (moved s).releaseAt (now s).gid .tm

/-- TASKDONE in a group of one task for each lane (05 R136). -/
theorem taskdone_ofLanes (hr : runs s f.g = true)
    (hk : ((doneFrom s).group (now s).gid).kind = .task none) :
    exec (.taskdone f) s = .next
      (((lanesOf s f.g).foldl (fun w l => w.laneTaskDone (now s).gid l) (doneFrom s)).toState s) := by
  refine run_ends hr ?_
  dsimp only
  split
  · next hk' => cases hk.symm.trans hk'
  · rfl
  · next _ h => exact absurd hk h

/-- TASKDONE in a group of one task. -/
theorem taskdone_ofGroup {t : Nat} (hr : runs s f.g = true)
    (hk : ((doneFrom s).group (now s).gid).kind = .task (some t))
    (hl : ∃ l ∈ (doneFrom s).allLanes (now s).gid,
      ((doneFrom s).lane (now s).gid l).task.isSome = true) :
    exec (.taskdone f) s = .next (((((doneFrom s).allLanes (now s).gid).foldl (fun w l =>
      w.modLane (now s).gid l fun x => { x with task := none }) (doneFrom s)).taskDone
        ((doneFrom s).group (now s).gid).core ((doneFrom s).group (now s).gid).team t).toState s) := by
  refine run_ends hr ?_
  dsimp only
  split
  · next hk' =>
    cases hk.symm.trans hk'
    exact if_pos (List.any_eq_true.2 hl)
  · next hk' => cases hk.symm.trans hk'
  · next h _ => exact absurd hk (h _)

/-- A TASKDONE of a group whose task is done already does nothing. -/
theorem taskdone_again {t : Nat} (hr : runs s f.g = true)
    (hk : ((doneFrom s).group (now s).gid).kind = .task (some t))
    (hl : ∀ l ∈ (doneFrom s).allLanes (now s).gid, ((doneFrom s).lane (now s).gid l).task = none) :
    exec (.taskdone f) s = .next ((doneFrom s).toState s) := by
  refine run_ends hr ?_
  dsimp only
  split
  · refine if_neg fun ha => ?_
    obtain ⟨l, hm, hs⟩ := List.any_eq_true.1 ha
    exact Option.isSome_iff_ne_none.1 hs (hl l hm)
  · next hk' => cases hk.symm.trans hk'
  · rfl

/-- Nor does one outside a group of tasks. -/
theorem taskdone_elsewhere (hr : runs s f.g = true)
    (hk : ∀ o, ((doneFrom s).group (now s).gid).kind ≠ .task o) :
    exec (.taskdone f) s = .next ((doneFrom s).toState s) := by
  refine run_ends hr ?_
  dsimp only
  split
  · next hk' => exact absurd hk' (hk _)
  · next hk' => exact absurd hk' (hk _)
  · rfl

end taskdone

/-- TASKADD and TASKDONE. -/
theorem tasksAddedAndDonePart : TasksAddedAndDonePart := by
  refine ⟨fun f s w x zs hr hp => ?_, fun f s hr => ?_⟩
  · intro ls free
    rw [← show taskLanes s f = ls from taskLanes_eq]
    exact ⟨taskadd_ok hr hp, taskadd_waits hr hp, taskadd_bad hr hp⟩
  · exact ⟨taskdone_ofLanes hr, fun _ => taskdone_again hr, taskdone_elsewhere hr,
      fun _ => taskdone_ofGroup hr⟩

/-- Settles O44: LAUNCH and CHWAIT, SPAWN and FETCHW, TASKADD and TASKDONE. -/
theorem childrenAndTasks : Obligations.ChildrenAndTasks :=
  ⟨launchesChildrenPart, childWaitsPart, spawnsAndMailboxesPart, tasksAddedAndDonePart⟩

end Sys2Proof.Machine
end

section
/-! SUPPORT. What TRIGGER_RECORD_COPY, TRIGGER_FIRE and TRIGGER_MISSED do, case by case (04 R107, R108). -/

namespace Sys2Proof.Machine

open Sys2Proof.Claim

section triggers
variable {w : W} {n : Nat}

/-! ## The copy of the record -/

theorem trgCopy_idle (h : 64 ≤ n ∨ w.trgArm n = false ∨ w.trig n ≠ none ∨ w.ptpNow + 50000 < w.trgT n) :
    w.trgCopy n = w := by
  refine if_pos ?_
  rw [← Option.isSome_iff_ne_none] at h
  rcases h with h | h | h | h <;> simp [h]

theorem trgCopy_ok {v u : W} {r h : List Byte} (hn : n < 64) (ha : w.trgArm n = true)
    (ht : w.trig n = none) (hT : w.trgT n ≤ w.ptpNow + 50000)
    (hc : (aget w.c.sys.ctxs (qAsid (w.qEntry (w.trgQueue n)))).isSome = true)
    (hr : w.read3 (qAsid (w.qEntry (w.trgQueue n))) ((w.blk .trgrec n).toNat / 256 % 2 ^ 48 * 256) 256
      false = (v, .ok r))
    (hv : v.recCheck (qAsid (w.qEntry (w.trgQueue n))) r = (u, .ok h)) :
    w.trgCopy n = u.setTrig n { lrec := r, hnd := h, late := u.trgT n < u.ptpNow } := by
  refine (if_neg (by simp [hn, ha, ht, hT])).trans ((if_neg ?_).trans ?_)
  · rw [Option.isNone_iff_eq_none]
    exact Option.isSome_iff_ne_none.1 hc
  · split
    · next he => cases hr.symm.trans he
    · next he => cases hr.symm.trans he
    · next he =>
      cases hr.symm.trans he
      split
      · next hv' => cases hv.symm.trans hv'; rfl
      · next hv' => cases hv.symm.trans hv'
      · next hv' => cases hv.symm.trans hv'

/-! ## The fire -/

variable {x : Trigger}

/-- The time of a trigger's occurrence has come. -/
def TrgDue (w : W) (n : Nat) : Prop :=
  w.trgArm n = true ∧ w.c.fab.ptp.lock = true ∧ w.trgT n ≤ w.ptpNow

theorem TrgDue.not_early (h : TrgDue w n) :
    ¬ (!w.trgArm n || !w.c.fab.ptp.lock || w.ptpNow < w.trgT n) = true := by
  obtain ⟨ha, hl, hT⟩ := h
  simp [ha, hl, Nat.not_lt.2 hT]

/-- The package after the grid of a trigger's record has started. -/
def trgStarted (w : W) (n : Nat) (x : Trigger) : W :=
  (w.setGrid w.newGridNo
    { asid := qAsid (w.qEntry (w.trgQueue n)), lrec := x.lrec, hnd := x.hnd
      prio := qPrio (w.qEntry (w.trgQueue n)), trig := some n, started := false }).launchGrid w.newGridNo

theorem trgFire_early (hx : w.trig n = some x)
    (h : w.trgArm n = false ∨ w.c.fab.ptp.lock = false ∨ w.ptpNow < w.trgT n) : w.trgFire n = w := by
  unfold W.trgFire
  rw [hx]
  refine if_pos ?_
  rcases h with h | h | h <;> simp [h]

theorem trgFire_unmet (hx : w.trig n = some x) (hd : TrgDue w n) (hm : x.met = false) :
    w.trgFire n = w.setTrig n { x with late := true } := by
  unfold W.trgFire
  rw [hx]
  exact (if_neg hd.not_early).trans (if_pos (by rw [hm]; rfl))

theorem trgFire_starved (hx : w.trig n = some x) (hd : TrgDue w n) (hm : x.met = true)
    (he : (w.ctx (qAsid (w.qEntry (w.trgQueue n)))).account < w.estimate x.lrec) :
    w.trgFire n = w.trgStarve n (qAsid (w.qEntry (w.trgQueue n))) x := by
  unfold W.trgFire
  rw [hx]
  exact (if_neg hd.not_early).trans ((if_neg (by rw [hm]; decide)).trans (if_pos he))

/-- An occurrence with its energy: its grid starts, and is late, placed, or put off. -/
theorem trgFire_met (hx : w.trig n = some x) (hd : TrgDue w n) (hm : x.met = true)
    (he : w.estimate x.lrec ≤ (w.ctx (qAsid (w.qEntry (w.trgQueue n)))).account) :
    w.trgFire n =
      if ((trgStarted w n x).grid w.newGridNo).shut then (trgStarted w n x).trgNext n
      else if x.late || w.trgT n + 1000 < w.ptpNow then
        ((if (trgStarted w n x).due = some w.newGridNo then (trgStarted w n x).placeDue
          else trgStarted w n x).trgCount n 32).trgNext n
      else if (trgStarted w n x).due = some w.newGridNo then (trgStarted w n x).placeDue.trgNext n
      else w.setTrig n { x with late := true } := by
  unfold W.trgFire
  rw [hx]
  exact (if_neg hd.not_early).trans ((if_neg (by rw [hm]; decide)).trans (if_neg (Nat.not_lt.2 he)))

/-! ## Occurrences missed -/

theorem trgMiss_due (hn : n < 64) (ha : w.trgArm n = true) (hl : w.c.fab.ptp.lock = true)
    (hp : w.trgPer n ≠ 0) (hT : w.trgT n + w.trgPer n ≤ w.ptpNow) :
    w.trgMiss n = (w.trgSkip n).reportSys
      { cause := Cause.triggerMissed, kind := 3, asid := qAsid (w.qEntry (w.trgQueue n)) } :=
  (if_neg (by simp [hn, ha])).trans ((if_neg (by simp [hl])).trans (if_neg (by simp [hp, hT])))

theorem trgMiss_idle (h : w.trgArm n = false ∨ w.ptpNow < w.trgT n) : w.trgMiss n = w := by
  rcases h with h | h
  · exact if_pos (by simp [h])
  · have hT : ¬ w.trgT n + w.trgPer n ≤ w.ptpNow := by omega
    simp [W.trgMiss, h, hT]

end triggers

/-- The copies of trigger records. -/
theorem triggerRecordCopy_stays {n : Nat} {s : State} (h : 64 ≤ n ∨ s.toW.trgArm n = false ∨
    s.toW.trig n ≠ none ∨ s.toW.ptpNow + 50000 < s.toW.trgT n) : stays (.triggerRecordCopy n) s :=
  step1_stays (trgCopy_idle h)

/-- TRIGGER_FIRE at its time, with the waits met and the energy there. -/
theorem triggerFire_met {n : Nat} {x : Trigger} {s : State} (hx : s.toW.trig n = some x)
    (hd : TrgDue s.toW n) (hm : x.met = true)
    (he : s.toW.estimate x.lrec ≤ (s.toW.ctx (qAsid (s.toW.qEntry (s.toW.trgQueue n)))).account) :
    let g := s.toW.newGridNo
    let w := trgStarted s.toW n x
    ((w.grid g).shut = true → exec (.triggerFire n) s = .next ((w.trgNext n).toState s)) ∧
    ((w.grid g).shut = false → x.late = false → s.toW.ptpNow ≤ s.toW.trgT n + 1000 →
      (w.due = some g → exec (.triggerFire n) s = .next ((w.placeDue.trgNext n).toState s)) ∧
      (w.due ≠ some g → does (.triggerFire n) s fun w => w.setTrig n { x with late := true })) ∧
    ((w.grid g).shut = false → x.late = true ∨ s.toW.trgT n + 1000 < s.toW.ptpNow →
      exec (.triggerFire n) s = .next
        (((if w.due = some g then w.placeDue else w).trgCount n 32).trgNext n |>.toState s)) := by
  intro g w
  have hf := trgFire_met hx hd hm he
  refine ⟨fun hs => step1_eq (hf.trans (if_pos hs)), fun hs hl hT => ?_, fun hs hl => ?_⟩
  · have hlate : ¬ (x.late || s.toW.trgT n + 1000 < s.toW.ptpNow) = true := by
      simp [hl, Nat.not_lt.2 hT]
    have hgo := hf.trans ((if_neg (Bool.eq_false_iff.1 hs)).trans (if_neg hlate))
    exact ⟨fun hg => step1_eq (hgo.trans (if_pos hg)), fun hg => step1_eq (hgo.trans (if_neg hg))⟩
  · have hlate : (x.late || s.toW.trgT n + 1000 < s.toW.ptpNow) = true := by simpa using hl
    exact step1_eq (hf.trans ((if_neg (Bool.eq_false_iff.1 hs)).trans (if_pos hlate)))

end Sys2Proof.Machine
end

section
/-! SUPPORT. Which unit is placed next and on which cores (05 R115–R120), mailboxes (05 R130, R131). -/

namespace Sys2Proof.Machine

open Sys2Proof.Claim

/-! ## Lists without repeats -/

@[simp] theorem mem_uniq {α : Type} [DecidableEq α] {x : α} : ∀ {xs : List α}, x ∈ uniq xs ↔ x ∈ xs
  | [] => Iff.rfl
  | y :: ys => by by_cases h : x = y <;> simp [uniq, h, mem_uniq (xs := ys)]

theorem nodup_uniq {α : Type} [DecidableEq α] : ∀ xs : List α, (uniq xs).Nodup
  | [] => List.nodup_nil
  | y :: ys => by simpa [uniq] using (nodup_uniq ys).filter _

/-! ## The cores of a unit -/

section cores
variable {w : W} {n k m : Nat} {u : PUnit} {cs : List Nat}

theorem length_unitKeys : (w.unitKeys n u).length = u.size := by
  cases u <;> simp [W.unitKeys, PUnit.size]

/-- A unit of one cluster is that cluster as a whole. -/
theorem size_of_oneCluster (h : w.unitClusters n u = [(k, m)]) : m = u.size := by
  obtain ⟨j, hj, hf⟩ := List.map_eq_singleton_iff.1 h
  simp only [Prod.mk.injEq] at hf
  have hall : ∀ x ∈ w.unitKeys n u, x = j := fun x hx => by
    have := mem_uniq.2 hx
    rw [hj] at this
    simpa using this
  rw [← hf.2, List.filter_eq_self.2 fun x hx => decide_eq_true (hall x hx), length_unitKeys]

/-- Cores that may take the members of a cluster of two and more. -/
theorem clusterCores_spread (h : w.clusterCores n k cs = true) (hcl : 2 ≤ (w.grid n).cl) :
    cs.Nodup ∧ ∀ c ∈ cs, clusterOf c = clusterOf (cs.headD 0) ∧
      (w.grid n).cl ≤ w.clusterWorks (clusterOf c) := by
  simp only [W.clusterCores, Bool.or_eq_true, decide_eq_true_eq, Bool.and_eq_true, List.all_eq_true] at h
  obtain ⟨⟨hu, hsame⟩, hworks⟩ := h.resolve_left (by omega)
  refine ⟨?_, fun c hc => ?_⟩
  · have := nodup_uniq (w.clusterHome n k ++ cs)
    rw [hu] at this
    exact this.of_append_right
  · have hhead : cs.headD 0 ∈ cs := by cases cs <;> simp_all
    rw [hsame c (List.mem_append_right _ hc), hsame _ (List.mem_append_right _ hhead)]
    exact ⟨rfl, hworks⟩

/-- A cluster of one team may take any core. -/
theorem clusterCores_single (hcl : (w.grid n).cl ≤ 1) : w.clusterCores n k cs = true := by
  simp [W.clusterCores, hcl]

theorem foldl_clusterCores_single (hcl : (w.grid n).cl ≤ 1) (es : List (Nat × Nat)) :
    (es.foldl (fun (p : Bool × List Nat) e =>
      (p.1 && w.clusterCores n e.1 (p.2.take e.2), p.2.drop e.2)) (true, cs)).1 = true := by
  induction es generalizing cs with
  | nil => rfl
  | cons e es ih =>
    rw [List.foldl_cons, Bool.true_and, clusterCores_single hcl]
    exact ih

theorem unitCores_single (hcl : (w.grid n).cl ≤ 1) : w.unitCores n u cs = true :=
  foldl_clusterCores_single hcl _

/-- What a unit that is placed says of the cores it was given. -/
theorem placeUnit_some {v : W} (h : w.placeUnit n u cs = some v) :
    cs.length = u.size ∧ w.unitWhole n u = true ∧ w.unitCores n u cs = true := by
  unfold W.placeUnit at h
  split at h
  · cases h
  · next hc => simpa [and_assoc] using hc

theorem placeUnit_oneCluster {v : W} (h : w.placeUnit n u cs = some v)
    (hu : w.unitClusters n u = [(k, m)]) (hcl : 2 ≤ (w.grid n).cl) :
    cs.Nodup ∧ ∀ c ∈ cs, clusterOf c = clusterOf (cs.headD 0) ∧
      (w.grid n).cl ≤ w.clusterWorks (clusterOf c) := by
  obtain ⟨hl, -, hc⟩ := placeUnit_some h
  have hm : cs.length ≤ m := by rw [hl, size_of_oneCluster hu]
  simp only [W.unitCores, hu, List.foldl_cons, List.foldl_nil, Bool.true_and,
    List.take_of_length_le hm] at hc
  exact clusterCores_spread hc hcl

/-- A saved team alone goes to a core on which it fits. -/
theorem placeUnit_restore {t core : Nat} (hcl : (w.grid n).cl ≤ 1)
    (hw : w.unitWhole n (.saved [t]) = true) (hf : w.restoreFits t core 0 = true)
    (hi : w.fill core = none) :
    w.placeUnit n (.saved [t]) [core] = some (w.restoreTeam t core) := by
  have hm : W.memberFits w w n (.saved [t]) 0 core = true := by
    simp [W.memberFits, hf, hi]
  refine (if_neg (by simp [hw, unitCores_single hcl, PUnit.size])).trans ?_
  simp [PUnit.size, W.placeOne, hm]

/-- A unit of saved teams is not whole while a team that goes with them is being saved. -/
theorem unitWhole_stopping {t : Nat} {l : List Nat} (hc : (w.grid n).cores = true)
    (hg : (w.team t).grid = n) (hs : (w.team t).st = .stopping)
    (ht : aget w.c.slu.teams t = some (w.team t)) : w.unitWhole n (.saved l) = false := by
  have hany : (w.c.slu.teams.any fun e => e.2.grid = n && e.2.st = .stopping
      && ((w.grid n).cores || (w.unitKeys n (.saved l)).contains (e.2.tlin / (w.grid n).cl))) = true :=
    List.any_eq_true.2 ⟨_, mem_of_aget ht, by simp [hg, hs, hc]⟩
  exact congrArg (!·) hany

end cores

/-! ## The placements that are steps -/

section steps
variable {n : Nat} {u : PUnit} {s : State}

theorem teamPlacement_idle {cs : List Nat} (hd : s.toW.due ≠ some n) : stays (.teamPlacement n cs) s := by
  refine step1_stays ?_
  split
  · next hk _ => exact if_neg fun h => hd (hk.trans (congrArg some h))
  · rfl

theorem teamPlacement_due {cs : List Nat} (hd : s.toW.due = some n) (hu : s.toW.nextUnit n = some u) :
    exec (.teamPlacement n cs) s = .next (((s.toW.placeUnit n u cs).getD s.toW).toState s) := by
  refine step1_eq ?_
  rw [hd, hu]
  exact if_pos rfl

theorem coResidentPlacement_idle (h : s.toW.due ≠ some n ∨ (s.toW.grid n).cores = false) :
    stays (.coResidentPlacement n) s :=
  step1_stays (if_neg (by rcases h with h | h <;> simp [h]))

theorem coResidentPlacement_due {w : W} (hd : s.toW.due = some n) (hc : (s.toW.grid n).cores = true)
    (hu : s.toW.nextUnit n = some u) (ht : s.toW.tryUnit n u = some w) :
    exec (.coResidentPlacement n) s = .next (w.toState s) := by
  refine step1_eq ((if_pos (by simp [hd, hc])).trans ?_)
  simp [W.placeDue, hd, hu, ht]

theorem teamRestore_due {t core : Nat} (hd : s.toW.due = some n)
    (hu : s.toW.nextUnit n = some (.saved [t])) (hcl : (s.toW.grid n).cluster ≤ 1)
    (hw : s.toW.unitWhole n (.saved [t]) = true) (hf : s.toW.restoreFits t core 0 = true)
    (hi : s.toW.fill core = none) : does (.teamRestore t core) s fun w => w.restoreTeam t core := by
  refine step1_eq ?_
  rw [hd]
  refine (if_pos hu).trans ?_
  rw [placeUnit_restore (by simp [Grid.cl, hcl]) hw hf hi]
  rfl

end steps

/-! ## Mailboxes -/

section mailbox
variable {w : W} {t : Nat}

/-- A value that each step of a fold keeps is kept. -/
theorem foldl_keeps {α β σ : Type} {f : σ → α → σ} (p : σ → β) (h : ∀ s a, p (f s a) = p s)
    (l : List α) (s : σ) : p (l.foldl f s) = p s := by
  induction l generalizing s with
  | nil => rfl
  | cons a l ih => exact (ih _).trans (h s a)

/-- A scratchpad store keeps what the marking of slots and the store of bytes keep. -/
theorem spStore_keeps {β : Type} (p : W → β) (hb : ∀ w t o bs, p (W.spRaw w t o bs) = p w)
    (ht : ∀ w t k x, p (W.setTag w t k x) = p w) (w : W) (t o : Nat) (bs : List Byte) :
    p (w.spStore t o bs) = p w := by
  unfold W.spStore
  split
  · exact hb _ _ _ _
  · refine (foldl_keeps p (fun v k => ?_) _ _).trans (hb _ _ _ _)
    split
    · exact ht _ _ _ _
    · rfl

@[simp] theorem spStore_c_slu (w : W) (t o : Nat) (bs : List Byte) :
    (w.spStore t o bs).c.slu = w.c.slu :=
  spStore_keeps (fun w => w.c.slu) (fun _ _ _ _ => rfl) (fun _ _ _ _ => rfl) w t o bs

@[simp] theorem spStore_wq (w : W) (t o : Nat) (bs : List Byte) : (w.spStore t o bs).wq = w.wq :=
  spStore_keeps W.wq (fun _ _ _ _ => rfl) (fun _ _ _ _ => rfl) w t o bs

/-- The words of a mailbox that hands a team on: its linear index and its place in the grid. -/
theorem mailbox_team {o k : Nat} (ho : (w.team t).fetchw = some o) (hs : (w.team t).st = .resident)
    (hk : (w.grid (w.team t).grid).nextTlin = some k)
    (hx : (w.grid (w.team t).grid).dimX ≠ 0) (hy : (w.grid (w.team t).grid).dimY ≠ 0) :
    let gr := w.grid (w.team t).grid
    w.mailbox t = ((w.spStore t o (leBytes 8 k ++ leBytes 4 (k % gr.dimX) ++
          leBytes 4 (k / gr.dimX % gr.dimY) ++ leBytes 4 (k / (gr.dimX * gr.dimY)) ++ leBytes 4 0 ++
          leBytes 36 0 ++ leBytes 4 1)).modTeam t fun x =>
            { x with fetchw := none, took := x.took ++ [k] }).modGrid (w.team t).grid fun g =>
              { g with withdrawn := g.withdrawn ++ [k] } := by
  have hX : max 1 (w.grid (w.team t).grid).dimX = (w.grid (w.team t).grid).dimX :=
    max_eq_right (Nat.one_le_iff_ne_zero.2 hx)
  have hY : max 1 (w.grid (w.team t).grid).dimY = (w.grid (w.team t).grid).dimY :=
    max_eq_right (Nat.one_le_iff_ne_zero.2 hy)
  have hXY := max_eq_right (Nat.one_le_iff_ne_zero.2 (Nat.mul_ne_zero hx hy))
  simp only [W.mailbox, ho, hs, hk, hX, hY, hXY]
  rfl

/-- The package after a mailbox has been filled with no team to hand on. -/
def boxFilled (w : W) (t o : Nat) (bs : List Byte) : W :=
  ((w.spStore t o bs).modTeam t fun x => { x with fetchw := none, took := x.took ++ [] }).modGrid
    (w.team t).grid fun g => { g with withdrawn := g.withdrawn ++ [] }

theorem boxFilled_keeps (o : Nat) (bs : List Byte) :
    ((boxFilled w t o bs).team t).fetchw = none ∧ (boxFilled w t o bs).wq = w.wq ∧
      ((boxFilled w t o bs).grid (w.team t).grid).withdrawn = (w.grid (w.team t).grid).withdrawn := by
  refine ⟨?_, ?_, ?_⟩
  · simp [boxFilled, W.modGrid, W.modTeam, W.team, W.setTeam]
  · simp [boxFilled, W.modGrid, W.modTeam]
  · simp [boxFilled, W.modGrid, W.modTeam, W.grid, W.setGrid]

theorem mailbox_none {o : Nat} (ho : (w.team t).fetchw = some o) (hs : (w.team t).st = .resident)
    (hk : (w.grid (w.team t).grid).nextTlin = none) :
    w.mailbox t = boxFilled w t o (leBytes 20 0 ++ leBytes 4 1 ++ leBytes 36 0 ++ leBytes 4 1) := by
  simp only [W.mailbox, ho, hs, hk]
  rfl

end mailbox

/-! ## The exit of a team -/

section exits
variable {w : W}

/-- A report changes the rings and what waits for them, and nothing beside. -/
theorem report_keeps {β : Type} (p : W → β) (h : ∀ (w : W) x, p { w with c.sys := x } = p w) (r : Ring)
    (x : Report) : p (w.report r x) = p w := by
  unfold W.report
  dsimp only
  split
  · cases r <;> exact h _ _
  · exact h _ _

@[simp] theorem report_c_slu (r : Ring) (x : Report) : (w.report r x).c.slu = w.c.slu :=
  report_keeps (fun w : W => w.c.slu) (fun _ _ => rfl) r x

@[simp] theorem reportSys_c_slu (x : Report) : (w.reportSys x).c.slu = w.c.slu := report_c_slu _ _

@[simp] theorem clkEdge_c_slu (t u : Nat) : (w.clkEdge t u).c.slu = w.c.slu := by
  unfold W.clkEdge
  split <;> rfl

@[simp] theorem setBar_c_slu (x : BKey) (b : Barrier) : (w.setBar x b).c.slu = w.c.slu := by
  cases x <;> rfl

@[simp] theorem barDone_c_slu (x : BKey) : (w.barDone x).c.slu = w.c.slu := by
  cases x with
  | tm t n => rfl
  | cl g k n =>
    refine (setBar_c_slu _ _).trans (foldl_keeps (fun w : W => w.c.slu) (fun v t => ?_) _ _)
    exact foldl_keeps (fun w : W => w.c.slu) (fun v u => clkEdge_c_slu t u) _ _

@[simp] theorem barRecheck_c_slu (x : BKey) : (w.barRecheck x).c.slu = w.c.slu := by
  unfold W.barRecheck
  dsimp only
  split
  · exact barDone_c_slu x
  · rfl

@[simp] theorem clusterLeft_c_slu (grid tlin : Nat) : (w.clusterLeft grid tlin).c.slu = w.c.slu := by
  unfold W.clusterLeft
  dsimp only
  split
  · rfl
  · exact foldl_keeps (fun w : W => w.c.slu) (fun v n => barRecheck_c_slu _) (List.range 8) w

@[simp] theorem settleKids_teams : w.settleKids.c.slu.teams = w.c.slu.teams := by
  refine foldl_keeps (fun w : W => w.c.slu.teams) (fun v c => ?_) _ _
  dsimp only
  split
  · rfl
  · simp [W.modGrid]

@[simp] theorem orphan_teams (t : Nat) : (w.orphan t).c.slu.teams = w.c.slu.teams := settleKids_teams

@[simp] theorem cmdTeam_teams (t : Nat) (tm : Team) (d : Nat) :
    (w.cmdTeam t tm d).c.slu.teams = w.c.slu.teams := by
  unfold W.cmdTeam W.cmdRecord
  dsimp only
  split <;> simp

theorem teamExit_idle {t : Nat} (h : w.exits t = false ∨ w.teamStreams t = true) : w.teamExit t = w :=
  if_pos (by rcases h with h | h <;> simp [h])

/-- What follows a team's leaving of the table keeps the table. -/
theorem teams_after_leaving (v : W) (g k t : Nat) (tm : Team) (d : Nat) :
    (if tm.byCmd then ((v.clusterLeft g k).orphan t).cmdTeam t tm d
      else (v.clusterLeft g k).orphan t).c.slu.teams = v.c.slu.teams := by
  split <;> simp

/-- A team that exits leaves the table. -/
theorem teamExit_gone {t : Nat} (he : w.exits t = true) (hs : w.teamStreams t = false) :
    aget (w.teamExit t).c.slu.teams t = none := by
  unfold W.teamExit
  rw [if_neg (by simp [he, hs])]
  refine (congrArg (aget · t) (teams_after_leaving _ _ _ _ _ _)).trans ?_
  exact (aget_adel _ _ _).trans (if_pos rfl)

end exits

end Sys2Proof.Machine
end

section
/-! SUPPORT. The statements of triggers, placement, mailboxes and exits put together (04 R107, R108,
05 R115–R120, R130, R131, R137). -/

namespace Sys2Proof.Machine

open Sys2Proof.Claim

/-- TRIGGER_FIRE at its time. -/
theorem triggerFire_due (n : Nat) (x : Trigger) (s : State) (hx : s.toW.trig n = some x)
    (hd : TrgDue s.toW n) :
    let a := qAsid (s.toW.qEntry (s.toW.trgQueue n))
    (x.met = false → does (.triggerFire n) s fun w => w.setTrig n { x with late := true }) ∧
    (x.met = true → (s.toW.ctx a).account < s.toW.estimate x.lrec →
      does (.triggerFire n) s fun w => w.trgStarve n a x) :=
  ⟨fun hm => step1_eq (trgFire_unmet hx hd hm), fun hm he => step1_eq (trgFire_starved hx hd hm he)⟩

/-- A mailbox of a resident team. -/
theorem mailboxWrite_resident (t o : Nat) (s : State) (ho : (s.toW.team t).fetchw = some o)
    (hs : (s.toW.team t).st = .resident)
    (hk : (s.toW.grid (s.toW.team t).grid).nextTlin = none) :
    ∃ u, exec (.mailboxWrite t) s = .next u ∧ (u.toW.team t).fetchw = none ∧ u.mem = s.mem ∧
      (u.toW.grid (s.toW.team t).grid).withdrawn = (s.toW.grid (s.toW.team t).grid).withdrawn := by
  obtain ⟨hf, hq, hw⟩ := boxFilled_keeps (w := s.toW) (t := t) o
    (leBytes 20 0 ++ leBytes 4 1 ++ leBytes 36 0 ++ leBytes 4 1)
  rw [← mailbox_none ho hs hk] at hf hq hw
  exact ⟨_, step1_eq rfl, hf, by rw [W.toState_mem, hq]; rfl, hw⟩

/-- Triggers, placement, mailboxes and exits. -/
theorem triggersAndTeamsPart : TriggersAndTeamsPart := by
  refine ⟨fun n s h => triggerRecordCopy_stays h,
    fun n w v r h s hn ha ht hT => ?_,
    fun n x s hx h => step1_stays (trgFire_early hx h),
    fun n x s hx ha hl hT => ?_,
    fun n s hn ha hl hp hT => ?_,
    fun n s h => step1_stays (trgMiss_idle h),
    fun n u cs s hd hu => ⟨fun w hw => ?_, fun hw => ?_⟩,
    fun n u cs k m w v h => ⟨(placeUnit_some h).1, placeUnit_oneCluster h⟩,
    fun n cs s hd => teamPlacement_idle hd,
    fun n u w s hd hc hu ht => coResidentPlacement_due hd hc hu ht,
    fun n s h => coResidentPlacement_idle h,
    fun n t core s hd hu hcl hw hf hi => teamRestore_due hd hu hcl hw hf hi,
    fun n t s hc hg hs ht l => unitWhole_stopping hc hg hs ht,
    fun t s h => step1_stays ?_,
    fun t o s ho hs => ?_,
    fun t s h => step1_stays (teamExit_idle h),
    fun t s he hs => ⟨_, step1_eq rfl, teamExit_gone he hs⟩⟩
  · intro a hc hr hv
    exact step1_eq (trgCopy_ok hn ha ht hT hc hr hv)
  · intro e a g w
    have hd : TrgDue s.toW n := ⟨ha, hl, hT⟩
    exact ⟨(triggerFire_due n x s hx hd).1, (triggerFire_due n x s hx hd).2,
      fun hm he => triggerFire_met hx hd hm he⟩
  · intro go
    refine step1_eq ((trgMiss_due hn ha hl hp hT).trans ?_)
    rfl
  · rw [teamPlacement_due hd hu, hw]
    rfl
  · show exec _ s = _
    rw [teamPlacement_due hd hu, hw]
    rfl
  · simp only [W.mailbox, h]
  · intro gr
    exact ⟨fun k hk hx hy => step1_eq (mailbox_team ho hs hk hx hy), mailboxWrite_resident t o s ho hs⟩

end Sys2Proof.Machine
end

section
/-! SUPPORT. Commands, pre-emption and kills, case by case (05 R124, 18 R441–R450). -/

namespace Sys2Proof.Machine

open Sys2Proof.Claim

/-! ## The commands -/

section commands
variable {s : State} {a n tlin t : Nat} {m : Team}

theorem cmdEnd_eq_answered (w : W) (a n tlin cause detail : Nat) :
    w.cmdEnd a n tlin cause detail = answered w a n tlin cause detail := by
  unfold W.cmdEnd W.cmdRecord answered
  generalize w.reportSys _ = v
  cases hc : v.c.slu.cmd <;> simp only [hc]

theorem target442_of_isTarget (h : isTarget s a n tlin) : s.toW.target442 a n tlin = true := by
  obtain ⟨gr, hg, rfl, hs, hc⟩ := h
  unfold W.target442
  rw [State.toW_c, hg]
  simp [hs, hc]

theorem target442_of_noTarget (h : noTarget s a n tlin) : s.toW.target442 a n tlin = false := by
  unfold W.target442
  rw [State.toW_c]
  cases hg : aget s.chip.slu.grids n with
  | none => rfl
  | some gr =>
    refine Bool.eq_false_iff.2 fun ht => h gr hg ?_
    simpa [and_assoc] using ht

theorem killTeam_noTarget (h : noTarget s a n tlin) :
    does (.killTeam a n tlin) s fun w => answered w a n tlin Cause.kill 1 :=
  step1_eq ((if_pos (by rw [target442_of_noTarget h]; rfl)).trans (cmdEnd_eq_answered _ _ _ _ _ _))

theorem preemptTeam_noTarget (h : noTarget s a n tlin) :
    does (.preemptTeam a n tlin) s fun w => answered w a n tlin Cause.preemptRequest 1 :=
  step1_eq ((if_pos (by rw [target442_of_noTarget h]; rfl)).trans (cmdEnd_eq_answered _ _ _ _ _ _))

theorem killGrid_noTarget (h : noTarget s a n 0) :
    does (.killGrid a n) s fun w => answered w a n 0 Cause.kill 1 :=
  step1_eq ((if_neg (by rw [target442_of_noTarget h]; decide)).trans (cmdEnd_eq_answered _ _ _ _ _ _))

theorem killGrid_target (h : isTarget s a n 0) :
    does (.killGrid a n) s fun w => answered (w.slayGrid n Cause.kill) a n 0 Cause.kill 0 :=
  step1_eq ((if_pos (target442_of_isTarget h)).trans (cmdEnd_eq_answered _ _ _ _ _ _))

/-- The command of a target goes past the first test. -/
theorem not_noTarget (h : isTarget s a n tlin) : ¬ (!s.toW.target442 a n tlin) = true := by
  rw [target442_of_isTarget h]
  decide

theorem killTeam_held (h : isTarget s a n tlin) (ht : s.toW.teamOf n tlin = some (t, m)) :
    does (.killTeam a n tlin) s fun w =>
      answered (w.slayTeam t Cause.kill) a n tlin Cause.kill 0 := by
  refine step1_eq ((if_neg (not_noTarget h)).trans ?_)
  rw [ht]
  exact cmdEnd_eq_answered _ _ _ _ _ _

/-- KILL_TEAM discards a team that is not placed yet. -/
theorem killTeam_discards (h : isTarget s a n tlin) (ht : s.toW.teamOf n tlin = none)
    (hs : (s.toW.grid n).shut = false) (hp : tlin ∉ (s.toW.grid n).placed)
    (hw : tlin ∉ (s.toW.grid n).withdrawn) (hd : tlin ∉ (s.toW.grid n).discarded) :
    does (.killTeam a n tlin) s fun w => answered (((w.failGrid n Cause.kill).modGrid n fun x =>
      { x with discarded := x.discarded ++ [tlin] }).govEnd n tlin true) a n tlin Cause.kill 0 := by
  refine step1_eq ((if_neg (not_noTarget h)).trans ?_)
  rw [ht]
  exact (if_neg (by simp [hs, hp, hw, hd])).trans (cmdEnd_eq_answered _ _ _ _ _ _)

/-- KILL_TEAM finds no team where the grid is shut or the team has gone its way. -/
theorem killTeam_gone (h : isTarget s a n tlin) (ht : s.toW.teamOf n tlin = none)
    (hg : (s.toW.grid n).shut = true ∨ tlin ∈ (s.toW.grid n).placed ∨ tlin ∈ (s.toW.grid n).withdrawn ∨
      tlin ∈ (s.toW.grid n).discarded) :
    does (.killTeam a n tlin) s fun w => answered w a n tlin Cause.kill 1 := by
  refine step1_eq ((if_neg (not_noTarget h)).trans ?_)
  rw [ht]
  exact (if_pos (by simpa [or_assoc] using hg)).trans (cmdEnd_eq_answered _ _ _ _ _ _)

/-- PREEMPT_TEAM of a resident team with save blocks for all that are taken with it. -/
theorem preemptTeam_stops (h : isTarget s a n tlin) (ht : s.toW.teamOf n tlin = some (t, m))
    (hs : m.st = .resident) (hb : (s.toW.takenWith t).length ≤ s.toW.blocksFree a) :
    does (.preemptTeam a n tlin) s fun w => w.stopTeams (w.takenWith t) true := by
  refine step1_eq ((if_neg (not_noTarget h)).trans ?_)
  rw [ht]
  exact if_neg (by simp [hs, Nat.not_lt.2 hb])

theorem preemptTeam_refused (h : isTarget s a n tlin) (ht : s.toW.teamOf n tlin = some (t, m))
    (hs : m.st ≠ .resident ∨ s.toW.blocksFree a < (s.toW.takenWith t).length) :
    does (.preemptTeam a n tlin) s fun w => answered w a n tlin Cause.preemptRequest 1 := by
  refine step1_eq ((if_neg (not_noTarget h)).trans ?_)
  rw [ht]
  exact (if_pos (by simpa using hs)).trans (cmdEnd_eq_answered _ _ _ _ _ _)

theorem killContext_noCtx (h : aget s.chip.sys.ctxs a = none) :
    does (.killContext a) s fun w => answered w a 0 0 Cause.kill 1 :=
  step1_eq ((if_pos (by rw [State.toW_c, h]; rfl)).trans (cmdEnd_eq_answered _ _ _ _ _ _))

end commands

/-! ## KILL_CONTEXT and KILL_COMPLETE -/

section contexts
variable {w : W} {s : State} {a : Nat}

/-- The fabric's messages are no business of the caches. -/
theorem send_cch (d : Nat) (out : Out) : (w.send d out).c.cch = w.c.cch := by
  unfold W.send
  split <;> rfl

theorem notices_cch (k : Nat × Nat) (watch : List Nat) (landed : Bool) :
    (w.notices k watch landed).c.cch = w.c.cch := by
  refine foldl_keeps (fun w : W => w.c.cch) (fun v d => ?_) _ _
  cases landed <;> exact send_cch _ _

theorem tokStep_cch (k : Nat × Nat) (landed : Bool) : (w.tokStep k landed).1.c.cch = w.c.cch := by
  unfold W.tokStep
  split
  · rfl
  · split
    · rfl
    · dsimp only
      split <;> exact notices_cch _ _ _

theorem tokEnd_cch (landed : Bool) : ∀ (j : Nat) (w : W) (ks : List (Nat × Nat)),
    (w.tokEnd j ks landed).c.cch = w.c.cch
  | 0, _, _ => rfl
  | _ + 1, _, [] => rfl
  | j + 1, _, k :: _ => (tokEnd_cch landed j _ _).trans (tokStep_cch k landed)

theorem killFabric_cch (a : Nat) : (w.killFabric a).c.cch = w.c.cch :=
  foldl_keeps (fun w : W => w.c.cch) (fun _ _ => tokEnd_cch false _ _ _) _ _

theorem killWatch_tlb (a : Nat) : (w.killWatch a).c.cch.tlb = w.c.cch.tlb := by
  unfold W.killWatch
  dsimp only
  split <;> rfl

theorem killWatch_toks (a : Nat) : (w.killWatch a).c.fab.toks = w.c.fab.toks := by
  unfold W.killWatch
  dsimp only
  split <;> rfl

theorem killWatch_dead (a : Nat) : ∃ x, aget (w.killWatch a).c.sys.ctxs a = some x ∧ x.dead = true :=
  ⟨_, aget_aset_same _ _ _, rfl⟩

/-- No translation of the context is left. -/
theorem invalidate_all_tlb {k : Nat × Nat × Nat × Nat} {e : Tlb}
    (h : (k, e) ∈ (w.invalidate a fun _ _ => true).c.cch.tlb) : k.1 ≠ a := by
  have := (List.mem_filter.1 h).2
  simpa using this

/-- The last acts of KILL_CONTEXT. -/
def killedLast (w : W) (a : Nat) : W :=
  ((w.invalidate a fun _ _ => true).killFabric a).killWatch a

theorem killCtx_last (h : (aget w.c.sys.ctxs a).isSome = true) : ∃ v, w.killCtx a =
    if (killedLast v a).c.slu.killing.contains a then killedLast v a
    else { killedLast v a with c.slu.killing := (killedLast v a).c.slu.killing ++ [a] } :=
  ⟨_, if_neg (by simpa using Option.isSome_iff_ne_none.1 h)⟩

/-- KILL_CONTEXT of a context leaves no translation and no token of it, and marks it. -/
theorem killContext_done (h : (aget s.chip.sys.ctxs a).isSome = true) :
    ∃ t, exec (.killContext a) s = .next t ∧ a ∈ t.chip.slu.killing ∧
      (∀ k e, (k, e) ∈ t.chip.cch.tlb → k.1 ≠ a) ∧
      (∀ k e, (k, e) ∈ t.chip.fab.toks → e.asid ≠ a) ∧
      ∃ x, aget t.chip.sys.ctxs a = some x ∧ x.dead = true := by
  obtain ⟨v, hv⟩ := killCtx_last (w := s.toW) h
  have htlb : ∀ k e, (k, e) ∈ (killedLast v a).c.cch.tlb → k.1 ≠ a := fun k e he => by
    rw [killedLast, killWatch_tlb, killFabric_cch] at he
    exact invalidate_all_tlb he
  have htok : ∀ k e, (k, e) ∈ (killedLast v a).c.fab.toks → e.asid ≠ a := fun k e he => by
    rw [killedLast, killWatch_toks] at he
    simpa using (List.mem_filter.1 he).2
  have hdead := killWatch_dead (w := (v.invalidate a fun _ _ => true).killFabric a) a
  refine ⟨_, step1_eq hv, ?_⟩
  split
  · next hk => exact ⟨by simpa using hk, htlb, htok, hdead⟩
  · exact ⟨List.mem_append_right _ List.mem_cons_self, htlb, htok, hdead⟩

theorem killComplete_waits (h : a ∉ s.chip.slu.killing ∨ ∃ n gr, (n, gr) ∈ s.chip.slu.grids ∧ gr.asid = a) :
    stays (.killComplete a) s := by
  refine step1_stays (if_neg fun hd => ?_)
  simp only [W.killDone, Bool.and_eq_true, List.contains_eq_mem, decide_eq_true_eq, List.all_eq_true] at hd
  rcases h with h | ⟨n, gr, hm, ha⟩
  · exact h hd.1
  · exact hd.2 _ hm ha

theorem killComplete_done (hk : a ∈ s.chip.slu.killing)
    (hg : ∀ n gr, (n, gr) ∈ s.chip.slu.grids → gr.asid ≠ a) :
    does (.killComplete a) s fun w =>
      let w := w.invalidate a fun _ _ => true
      answered { w with c.slu.killing := w.c.slu.killing.filter fun b => decide (b ≠ a) } a 0 0
        Cause.kill 0 := by
  refine step1_eq (if_pos ?_)
  simp only [W.killDone, Bool.and_eq_true, List.contains_eq_mem, decide_eq_true_eq, List.all_eq_true]
  exact ⟨hk, fun e he => hg e.1 e.2 he⟩

end contexts

/-! ## Pre-emption -/

section preemption
variable {w : W} {n t : Nat}

theorem preempts_not_now (h : (w.grid n).waitSince = none ∨
    (w.blk .preempt 0).getLsbD (w.grid n).prio = false ∨
    ∃ b, (w.grid n).waitSince = some b ∧ w.ac < b + fld (w.blk .preempt 0) 8 32 * acPerUs) :
    w.preempts n = none := by
  unfold W.preempts
  dsimp only
  split
  · next hu hs =>
    rcases h with h | h | ⟨b, hb, hlt⟩
    · cases h.symm.trans hs
    · exact if_pos (by rw [h]; rfl)
    · cases hb.symm.trans hs
      exact if_pos (by simp [hlt])
  · rfl

@[simp] theorem cmdTeam_grids (t : Nat) (tm : Team) (d : Nat) :
    (w.cmdTeam t tm d).c.slu.grids = w.c.slu.grids := by
  unfold W.cmdTeam W.cmdRecord
  dsimp only
  split <;> simp

/-- No fragment of a team is in a context. -/
def NoneInCtx (w : W) (t : Nat) : Prop :=
  ∀ f x k, (f, x) ∈ w.c.thr.frags → (w.group x.gid).team = t → x.place ≠ .ctx k

theorem saveTeam_idle (h : (w.team t).st ≠ .stopping) : w.saveTeam t = w :=
  if_pos (by simp [h])

/-- The last acts of a save, on the team's table, its core, its grid and the command. -/
def savedLast (w : W) (t c n : Nat) (tm : Team) (h : Team → Team) (k : Core → Core) : W :=
  (((w.modTeam t h).modCore c k).modGrid n fun x => { x with restorable := x.restorable ++ [t] }).cmdTeam
    t tm 0

theorem savedLast_team (c : Nat) (tm : Team) (h : Team → Team) (k : Core → Core) :
    (savedLast w t c n tm h k).team t = h (w.team t) := by
  simp [savedLast, W.team, W.modGrid, W.modCore, W.modTeam, W.setTeam]

theorem savedLast_restorable (c : Nat) (tm : Team) (h : Team → Team) (k : Core → Core) :
    t ∈ ((savedLast w t c n tm h k).grid n).restorable := by
  simp [savedLast, W.grid, W.modGrid, W.setGrid]

theorem not_inCtx (hf : NoneInCtx w t) :
    (w.c.thr.frags.any fun e => (w.group e.2.gid).team = t && (match e.2.place with
      | .ctx _ => true
      | _ => false)) = false := by
  rw [List.any_eq_false]
  rintro ⟨f, x⟩ hx hc
  simp only [Bool.and_eq_true, decide_eq_true_eq] at hc
  obtain ⟨ht, hp⟩ := hc
  split at hp
  · next k hk => exact hf f x k hx ht hk
  · cases hp

/-- A team whose records, whose block and whose tasks are written is saved and can be restored. -/
theorem saveTeam_done {u v : W} (hs : (w.team t).st = .stopping) (he : w.exits t = false)
    (hf : NoneInCtx w t) (hm : w.moveRecords t = (u, true))
    (hb : u.blockSound (w.team t).asid ((w.team t).block.getD 0) .write = (v, true))
    (hp : (v.putTasks { w.team t with
      sTasks := (v.core (w.team t).core).tasks.filter fun y => decide (y.team = t) }).2 = true) :
    ((w.saveTeam t).team t).st = .saved ∧ t ∈ ((w.saveTeam t).grid (w.team t).grid).restorable := by
  have hgo : ¬ ((w.team t).st ≠ .stopping || (w.c.thr.frags.any fun e =>
      (w.group e.2.gid).team = t && (match e.2.place with
        | .ctx _ => true
        | _ => false)) || w.exits t) = true := by
    rw [not_inCtx hf, he, hs]
    decide
  rw [show w.saveTeam t = _ from if_neg hgo, hm]
  dsimp only
  rw [hb]
  dsimp only
  generalize v.putTasks _ = p at hp ⊢
  obtain ⟨z, ok⟩ := p
  obtain rfl : ok = true := hp
  exact ⟨congrArg Team.st (savedLast_team _ _ _ _), savedLast_restorable _ _ _ _⟩

end preemption

end Sys2Proof.Machine
end

section
/-! SUPPORT. Units lost, energy and new contexts (18 R431, R450, 05 R122, 19 R453), with O56 settled from
the parts before. -/

namespace Sys2Proof.Machine

open Sys2Proof.Claim

/-! ## Machine checks -/

@[simp] theorem reportSys_c_cores (w : W) (x : Report) : (w.reportSys x).c.cores = w.c.cores :=
  report_keeps (fun w : W => w.c.cores) (fun _ _ => rfl) _ _

theorem machineCheck_closes (w : W) (c : Nat) : ((w.machineCheck c).core c).closed = true := by
  simp [W.machineCheck, W.core, W.modCore, W.setCore]

theorem machineCheck_lost {c : Nat} {s : State} (hc : c < 1152) (hw : s.toW.works c = true)
    (hx : (0, c) ∉ s.boot.excluded) :
    ∃ t, exec (.machineCheck c) s = .next t ∧ (t.toW.core c).closed = true ∧
      t.boot.excluded = s.boot.excluded ++ [(0, c)] := by
  have hlost : (c < Config.cores && s.toW.works c && !s.boot.excluded.contains (0, c)) = true := by
    simp [hw, hx, show c < Config.cores from hc]
  refine ⟨_, rfl, ?_, ?_⟩
  · show (((if _ then s.toW.machineCheck c else s.toW)).core c).closed = true
    rw [if_pos hlost]
    exact machineCheck_closes _ _
  · show s.boot.excluded ++ (if _ then _ else _) = _
    rw [if_pos hlost]

theorem machineCheck_notWorking {c : Nat} {s : State} (hw : s.toW.works c = false) :
    stays (.machineCheck c) s := by
  have hlost : (c < Config.cores && s.toW.works c && !s.boot.excluded.contains (0, c)) = false := by
    simp [hw]
  show Host.Outcome.next _ = _
  simp only [hlost, Bool.false_eq_true, if_false, List.append_nil]
  rfl

/-! ## Energy -/

/-- A die on which nothing ran meters nothing. -/
theorem meterDie_idle {w : W} (hw : ∀ e ∈ w.c.mc.work, e.2 = 0) (hm : w.c.mc.metered = []) (d mj : Nat) :
    w.meterDie d mj = w := by
  have hkeep : adel w.c.mc.metered d = w.c.mc.metered := by rw [hm]; rfl
  refine (if_pos ?_).trans ?_
  · refine List.sum_eq_zero_iff.2 fun x hx => ?_
    obtain ⟨e, he, rfl⟩ := List.mem_map.1 hx
    exact hw e (List.mem_filter.1 he).1
  · rw [hkeep]

theorem foldl_meterDie_idle {w : W} (hw : ∀ e ∈ w.c.mc.work, e.2 = 0) (hm : w.c.mc.metered = [])
    (es : List (Nat × Nat)) : es.foldl (fun w e => w.meterDie e.2 e.1) w = w := by
  induction es with
  | nil => rfl
  | cons e es ih => rw [List.foldl_cons, meterDie_idle hw hm, ih]

theorem fantailMetering_idle {ds : List Nat} {s : State} (hw : ∀ e ∈ s.chip.mc.work, e.2 = 0)
    (hm : s.chip.mc.metered = []) :
    does (.fantailMetering ds) s fun w => { w with
      c.mc.recent := (w.c.mc.recent.filter fun e => decide (w.ac < e.1 + 850000)) ++
        [(w.ac, ds.sum)] } := by
  refine step1_eq ?_
  dsimp only
  rw [foldl_meterDie_idle hw hm]
  rfl

/-- What lies within the reservation of a grid is charged to it alone. -/
theorem charge_reserved {w : W} {n mj : Nat} (h : (w.grid n).used + mj ≤ (w.grid n).resv) :
    w.charge n mj = w.modGrid n fun g => { g with used := g.used + mj } :=
  if_pos (by omega)

/-! ## New contexts -/

/-- The values of a map's keys once those of one context are dropped. -/
theorem aget_filter_fst_ne {K V : Type} [DecidableEq K] (m : AMap (Nat × K) V) (a b : Nat) (r : K) :
    aget (m.filter fun e => e.1.1 ≠ a) (b, r) = if b = a then none else aget m (b, r) := by
  induction m with
  | nil => simp [aget]
  | cons e m ih =>
    obtain ⟨⟨c, q⟩, v⟩ := e
    by_cases hc : c = a
    · subst hc
      by_cases hb : b = c
      · simpa [hb] using ih
      · simpa [aget, hb, Ne.symm hb] using ih
    · by_cases hk : (c, q) = (b, r)
      · obtain ⟨rfl, rfl⟩ := Prod.mk.inj hk
        simp [aget, hc]
      · simpa [List.filter_cons, hc, aget, hk] using ih

section newContext
variable {v w : W} {a : Nat}

theorem srReg_of_dropped (h : v.c.sys.sr = w.c.sys.sr.filter fun e => e.1.1 ≠ a) (b : Nat) (r : Reg) :
    v.srReg b r = if b = a then srReset r else w.srReg b r := by
  rw [W.srReg, h, aget_filter_fst_ne]
  split <;> rfl

theorem td_of_dropped (h : v.c.sys.td = w.c.sys.td.filter fun e => e.1.1 ≠ a) (b k : Nat) :
    v.td b k = if b = a then 0 else w.td b k := by
  rw [W.td, h, aget_filter_fst_ne]
  split <;> rfl

end newContext

theorem contextCreation_new (a gen : Nat) (p : Bool) (s : State) :
    ∃ t, exec (.contextCreation a gen p) s = .next t ∧
    aget t.chip.sys.ctxs a = some { gen := gen % 256, priv := p } ∧
    (∀ r, t.toW.srReg a r = srReset r) ∧ (∀ k, t.toW.td a k = 0) ∧
    (∀ b r, b ≠ a → t.toW.srReg b r = s.toW.srReg b r) ∧ ∀ b k, b ≠ a → t.toW.td b k = s.toW.td b k :=
  ⟨_, rfl, aget_aset_same _ _ _,
    fun _ => (srReg_of_dropped (w := s.toW) rfl _ _).trans (if_pos rfl),
    fun _ => (td_of_dropped (w := s.toW) rfl _ _).trans (if_pos rfl),
    fun _ _ hb => (srReg_of_dropped (w := s.toW) rfl _ _).trans (if_neg hb),
    fun _ _ hb => (td_of_dropped (w := s.toW) rfl _ _).trans (if_neg hb)⟩

/-! ## The statement -/

/-- Commands, pre-emption, kills, units lost, energy and new contexts. -/
theorem commandsAndKillsPart : CommandsAndKillsPart := by
  refine ⟨fun a n tlin s h => ⟨killTeam_noTarget h, preemptTeam_noTarget h⟩,
    fun a n s h => killGrid_noTarget h,
    fun a n tlin t m s h ht => killTeam_held h ht,
    fun a n tlin s h ht => ⟨killTeam_discards h ht, killTeam_gone h ht⟩,
    fun a n s h => killGrid_target h,
    fun a s h => killContext_noCtx h,
    fun a s h => killContext_done h,
    fun a s h => killComplete_waits h,
    fun a s hk hg => killComplete_done hk hg,
    fun n s h => step1_stays ?_,
    fun n s h => step1_stays ?_,
    fun n ts s h => step1_eq ?_,
    fun a n tlin t m s h ht => ⟨preemptTeam_stops h ht, preemptTeam_refused h ht⟩,
    fun t s h => step1_stays (saveTeam_idle h),
    fun t w v s hs he hf hm hb hp => ⟨_, step1_eq rfl, saveTeam_done hs he hf hm hb hp⟩,
    fun c s hc hw hx => machineCheck_lost hc hw hx,
    fun c s hw => machineCheck_notWorking hw,
    fun ds s hw hm => fantailMetering_idle hw hm,
    fun w n mj => charge_reserved,
    fun a gen p s => contextCreation_new a gen p s⟩
  · rw [h]
  · rw [preempts_not_now h]
  · rw [h]

/-- Settles O56: triggers, placement, mailboxes and exits, and commands, pre-emption and kills. -/
theorem teamsTriggersKills : Obligations.TeamsTriggersKills :=
  ⟨triggersAndTeamsPart, commandsAndKillsPart⟩

end Sys2Proof.Machine
end

section
/-! SUPPORT. The functions of words that the integer and lane instructions compute, said in integers and in
bits as 07 R184–R191 and R199 say them. -/

namespace Sys2Proof.Machine

open Sys2Proof.Claim

/-! ## The halves of a pair (03 R59) -/

theorem lo32_eq (x : Dword) : lo32 x = x.setWidth 32 := by
  ext j hj
  simp [lo32]

theorem hi32_eq (x : Dword) : hi32 x = (x >>> 32).setWidth 32 := by
  ext j hj
  simp [hi32]

theorem toNat_dword (a b : Word) : (dword a b).toNat = b.toNat * 2 ^ 32 + a.toNat := by
  rw [dword, BitVec.toNat_append, ← Nat.shiftLeft_add_eq_or_of_lt a.isLt, Nat.shiftLeft_eq]

/-! ## Arithmetic (07 R184) -/

section arithmetic
variable (t : Sgn) (a b : Word)

theorem ofInt_toInt_add {n : Nat} (x y : BitVec n) :
    x + y = BitVec.ofInt n (x.toInt + y.toInt) := by
  rw [BitVec.ofInt_add, BitVec.ofInt_toInt, BitVec.ofInt_toInt]

theorem ofInt_toInt_sub {n : Nat} (x y : BitVec n) :
    x - y = BitVec.ofInt n (x.toInt - y.toInt) := by
  rw [Int.sub_eq_add_neg, BitVec.ofInt_add, BitVec.ofInt_neg, BitVec.ofInt_toInt, BitVec.ofInt_toInt,
    BitVec.sub_eq_add_neg]

theorem ofInt_toInt_mul {n : Nat} (x y : BitVec n) :
    x * y = BitVec.ofInt n (x.toInt * y.toInt) := by
  rw [BitVec.ofInt_mul, BitVec.ofInt_toInt, BitVec.ofInt_toInt]

theorem ofInt_toInt_mul_add {n : Nat} (x y z : BitVec n) :
    x * y + z = BitVec.ofInt n (x.toInt * y.toInt + z.toInt) := by
  rw [BitVec.ofInt_add, ← ofInt_toInt_mul, BitVec.ofInt_toInt]

theorem extBy_eq_ext (x : Word) : extBy t x = ext t x := by cases t <;> rfl

theorem ext_inj {a b : Word} (h : ext t a = ext t b) : a = b := by
  cases t with
  | s32 => exact BitVec.eq_of_toInt_eq h
  | u32 => exact BitVec.eq_of_toNat_eq (Int.ofNat.inj h)

theorem hi32_word64 (x : Int) : hi32 (word64 x) = tr32 (x / 2 ^ 32) := by
  apply BitVec.eq_of_toNat_eq
  simp only [hi32_eq, word64, tr32, BitVec.toNat_setWidth, BitVec.toNat_ushiftRight,
    BitVec.toNat_ofInt, Nat.shiftRight_eq_div_pow]
  omega

theorem mulHigh_s32 : mulHigh .s32 a b = tr32 (a.toInt * b.toInt / 2 ^ 32) := hi32_word64 _

theorem mulHigh_u32 : mulHigh .u32 a b = BitVec.ofNat 32 (a.toNat * b.toNat / 2 ^ 32) :=
  (hi32_word64 _).trans (congrArg tr32 (by norm_cast))

theorem mulHigh_su : mulHigh .su a b = tr32 (a.toInt * b.toNat / 2 ^ 32) := hi32_word64 _

theorem madWide_eq (c : Dword) : madWide t a b c = tr64 (ext t a * ext t b + c.toInt) := by
  rw [madWide, word64, tr64, BitVec.ofInt_add, BitVec.ofInt_toInt, extBy_eq_ext, extBy_eq_ext]

theorem leaOf_eq (m : LeaM) (x : Dword) :
    leaOf m x b = tr64 (x.toInt + ext m.ext b * 2 ^ m.sh.toNat) := by
  rw [leaOf, word64, tr64, BitVec.ofInt_add, BitVec.ofInt_toInt, extBy_eq_ext]

theorem minBySgn_eq : minBySgn t a b = if ext t a < ext t b then a else b := by
  simp only [minBySgn, extBy_eq_ext]
  rcases lt_trichotomy (ext t a) (ext t b) with h | h | h
  · rw [if_pos h, if_pos h.le]
  · rw [ext_inj t h, ite_self, ite_self]
  · rw [if_neg h.not_ge, if_neg h.not_gt]

theorem maxBySgn_eq : maxBySgn t a b = if ext t a < ext t b then b else a := by
  simp only [maxBySgn, extBy_eq_ext]
  rcases lt_or_ge (ext t a) (ext t b) with h | h
  · rw [if_neg h.not_ge, if_pos h]
  · rw [if_pos h, if_neg h.not_gt]

theorem abs_toInt_le {b : Word} (h : b ≠ 0x80000000) : |b.toInt| ≤ 2 ^ 31 - 1 := by
  have hne : b.toInt ≠ -2 ^ 31 := fun he => h (BitVec.eq_of_toInt_eq he)
  have hlo := BitVec.le_toInt b
  have hhi := BitVec.toInt_lt (x := b)
  rw [abs_le]
  omega

theorem absWord_eq_of_ne {sat : Bool} {b : Word} (h : b ≠ 0x80000000) :
    absWord sat b = tr32 |b.toInt| := by
  unfold absWord
  rw [if_neg h]
  rcases lt_or_ge b.toInt 0 with hb | hb
  · rw [if_pos hb, abs_of_neg hb, tr32, BitVec.ofInt_neg, BitVec.ofInt_toInt]
  · rw [if_neg hb.not_gt, abs_of_nonneg hb, tr32, BitVec.ofInt_toInt]

theorem absWord_false_eq : absWord false b = tr32 |b.toInt| := by
  by_cases h : b = 0x80000000
  · subst h; decide
  · exact absWord_eq_of_ne h

theorem absWord_true_eq : absWord true b = tr32 (min |b.toInt| (2 ^ 31 - 1)) := by
  by_cases h : b = 0x80000000
  · subst h; decide
  · rw [min_eq_left (abs_toInt_le h), absWord_eq_of_ne h]

theorem addSat_s32 (sub : Bool) : addSat ⟨.s32, sub⟩ a b = tr32 (max (-2 ^ 31) (min (2 ^ 31 - 1)
    (if sub then ext .s32 a - ext .s32 b else ext .s32 a + ext .s32 b))) := rfl

theorem addSat_u32 (sub : Bool) : addSat ⟨.u32, sub⟩ a b = tr32 (max 0 (min (2 ^ 32 - 1)
    (if sub then ext .u32 a - ext .u32 b else ext .u32 a + ext .u32 b))) := rfl

end arithmetic

/-! ## Shifts, rotations and funnels (07 R185) -/

section shifts
variable (t : Sgn) (a b c : Word)

theorem shlWord_eq : shlWord a b =
    BitVec.ofNat 32 (if 32 ≤ b.toNat then 0 else a.toNat * 2 ^ b.toNat) := by
  unfold shlWord
  split_ifs with h
  · rfl
  · exact BitVec.eq_of_toNat_eq (by simp [Nat.shiftLeft_eq])

theorem shrWord_eq : shrWord a b =
    BitVec.ofNat 32 (if 32 ≤ b.toNat then 0 else a.toNat / 2 ^ b.toNat) := by
  unfold shrWord
  split_ifs with h
  · rfl
  · refine BitVec.eq_of_toNat_eq ?_
    rw [BitVec.toNat_ushiftRight, Nat.shiftRight_eq_div_pow, BitVec.toNat_ofNat,
      Nat.mod_eq_of_lt ((Nat.div_le_self _ _).trans_lt a.isLt)]

theorem sarWord_eq : sarWord a b = tr32 (a.toInt / 2 ^ min b.toNat 31) := by
  rw [sarWord, tr32, ← BitVec.ofInt_toInt (x := a.sshiftRight _), BitVec.toInt_sshiftRight,
    Int.shiftRight_eq_div_pow]
  norm_cast

/-- The sum of a word moved up by `k`, cut to 32 bits, and of a number below `2 ^ k` is their union. -/
theorem add_mod_eq_or {k q : Nat} (x : Nat) (hk : k ≤ 32) (hq : q < 2 ^ k) :
    (x * 2 ^ k + q) % 2 ^ 32 = x * 2 ^ k % 2 ^ 32 ||| q := by
  obtain ⟨m, hm⟩ := Nat.exists_eq_add_of_le hk
  have hx : x * 2 ^ k % 2 ^ 32 = 2 ^ k * (x % 2 ^ m) := by
    rw [hm, pow_add, mul_comm x, Nat.mul_mod_mul_left]
  have hlt : 2 ^ k * (x % 2 ^ m) + q < 2 ^ 32 := by
    rw [hm, pow_add]
    have := Nat.mod_lt x (Nat.two_pow_pos m)
    nlinarith
  rw [Nat.add_mod, hx, ← Nat.two_pow_add_eq_or_of_lt hq, Nat.add_mod_mod, Nat.mod_eq_of_lt hlt]

theorem rotWord_l : rotWord .l a b = BitVec.ofNat 32
    (a.toNat * 2 ^ (b.toNat % 32) + a.toNat / 2 ^ (32 - b.toNat % 32)) := by
  have hn : b.toNat % 32 < 32 := Nat.mod_lt _ (by norm_num)
  refine BitVec.eq_of_toNat_eq ?_
  rw [rotWord, BitVec.toNat_rotateLeft, BitVec.toNat_ofNat, Nat.mod_mod, Nat.shiftLeft_eq,
    Nat.shiftRight_eq_div_pow, add_mod_eq_or _ hn.le]
  rw [Nat.div_lt_iff_lt_mul (Nat.two_pow_pos _), ← pow_add, Nat.add_sub_cancel' hn.le]
  exact a.isLt

theorem rotWord_r : rotWord .r a b = BitVec.ofNat 32
    (a.toNat / 2 ^ (b.toNat % 32) + a.toNat * 2 ^ (32 - b.toNat % 32)) := by
  have hn : b.toNat % 32 < 32 := Nat.mod_lt _ (by norm_num)
  refine BitVec.eq_of_toNat_eq ?_
  rw [rotWord, BitVec.toNat_rotateRight, BitVec.toNat_ofNat, Nat.mod_mod, Nat.shiftLeft_eq,
    Nat.shiftRight_eq_div_pow, Nat.add_comm, add_mod_eq_or _ (Nat.sub_le _ _), Nat.or_comm]
  rw [Nat.div_lt_iff_lt_mul (Nat.two_pow_pos _), ← pow_add, Nat.sub_add_cancel hn.le]
  exact a.isLt

theorem funnel_r (clamp : Bool) : funnel ⟨.r, clamp⟩ a b c =
    BitVec.ofNat 32 ((b.toNat * 2 ^ 32 + a.toNat) /
      2 ^ (if clamp then min c.toNat 32 else c.toNat % 32)) := by
  refine BitVec.eq_of_toNat_eq ?_
  rw [funnel, lo32_eq, BitVec.toNat_setWidth, BitVec.toNat_ushiftRight, Nat.shiftRight_eq_div_pow,
    toNat_dword, BitVec.toNat_ofNat]

theorem funnel_l (clamp : Bool) : funnel ⟨.l, clamp⟩ a b c =
    BitVec.ofNat 32 ((b.toNat * 2 ^ 32 + a.toNat) *
      2 ^ (if clamp then min c.toNat 32 else c.toNat % 32) / 2 ^ 32) := by
  refine BitVec.eq_of_toNat_eq ?_
  rw [funnel, hi32_eq, BitVec.toNat_setWidth, BitVec.toNat_ushiftRight, Nat.shiftRight_eq_div_pow,
    BitVec.toNat_shiftLeft, Nat.shiftLeft_eq, toNat_dword, BitVec.toNat_ofNat]
  dsimp only
  omega

/-! ## Bit fields (07 R186) -/

theorem fieldLen_eq : fieldLen b = min (b.toNat / 256 % 256) 32 := rfl

theorem fieldPos_eq : fieldPos b = b.toNat % 256 := by
  simp [fieldPos, bits]

/-- The top bit of a number of `n` bits says whether it is in the upper half. -/
theorem testBit_top_iff {y n : Nat} (hn : n ≠ 0) (hy : y < 2 ^ n) :
    y.testBit (n - 1) = true ↔ 2 ^ (n - 1) ≤ y := by
  obtain ⟨m, rfl⟩ := Nat.exists_eq_succ_of_ne_zero hn
  refine ⟨Nat.ge_two_pow_of_testBit, fun h => ?_⟩
  have hd : y / 2 ^ m = 1 := by
    rw [Nat.succ_eq_add_one, pow_succ] at hy
    rw [Nat.succ_sub_one] at h
    rw [Nat.div_eq_iff (Nat.two_pow_pos m)]
    omega
  simp [Nat.testBit_eq_decide_div_mod_eq, hd]

/-- The field of a word as an integer. -/
def fieldOf (t : Sgn) (a b : Word) : Int :=
  ext t a / 2 ^ (b.toNat % 256) % 2 ^ min (b.toNat / 256 % 256) 32

theorem fieldOf_eq : ext t a / 2 ^ (b.toNat % 256) % 2 ^ min (b.toNat / 256 % 256) 32 =
    fieldOf t a b := rfl

/-- The field as the natural number that BFE takes. -/
theorem fieldOf_toNat : (((fieldOf t a b).toNat : Nat) : Int) = fieldOf t a b :=
  Int.toNat_of_nonneg (Int.emod_nonneg _ (by positivity))

theorem fieldOf_toNat_lt : (fieldOf t a b).toNat < 2 ^ min (b.toNat / 256 % 256) 32 := by
  have h : fieldOf t a b < 2 ^ min (b.toNat / 256 % 256) 32 := Int.emod_lt_of_pos _ (by positivity)
  rw [← fieldOf_toNat] at h
  exact_mod_cast h

theorem bitExtract_u32 : bitExtract .u32 a b =
    if min (b.toNat / 256 % 256) 32 = 0 then 0 else tr32 (fieldOf .u32 a b) := by
  rw [← fieldOf_toNat .u32 a b]
  simp only [bitExtract, fieldLen_eq, fieldPos_eq, extBy_eq_ext, fieldOf_eq]
  rfl

theorem bitExtract_s32 : bitExtract .s32 a b =
    if min (b.toNat / 256 % 256) 32 = 0 then 0
    else tr32 (if 2 ^ (min (b.toNat / 256 % 256) 32 - 1) ≤ fieldOf .s32 a b
      then fieldOf .s32 a b - 2 ^ min (b.toNat / 256 % 256) 32 else fieldOf .s32 a b) := by
  have htop := testBit_top_iff (hy := fieldOf_toNat_lt .s32 a b)
  rw [← fieldOf_toNat .s32 a b]
  generalize hn : (fieldOf .s32 a b).toNat = n at htop
  simp only [bitExtract, fieldLen_eq, fieldPos_eq, extBy_eq_ext, fieldOf_eq, hn]
  split_ifs with h0 ht hy hy
  · rfl
  · rfl
  · exact absurd (by exact_mod_cast (htop h0).1 ht) hy
  · exact absurd ((htop h0).2 (by exact_mod_cast hy)) ht
  · rfl

theorem bitInsert_eq : bitInsert a b c =
    (a &&& ~~~BitVec.ofNat 32 ((2 ^ min (b.toNat / 256 % 256) 32 - 1) * 2 ^ (b.toNat % 256))) |||
      (BitVec.ofNat 32 (c.toNat * 2 ^ (b.toNat % 256)) &&&
        BitVec.ofNat 32 ((2 ^ min (b.toNat / 256 % 256) 32 - 1) * 2 ^ (b.toNat % 256))) := by
  rw [bitInsert, fieldPos_eq, fieldLen_eq]

end shifts

/-! ## Counts (07 R187) -/

theorem isClz_leadZeros {k y : Nat} (hy : y < 2 ^ k) : isClz k y (leadZeros k y) := by
  refine ⟨fun h => if_pos h, fun h => ?_⟩
  have hlog : y.log2 < k := (Nat.log2_lt h).2 hy
  have hn : leadZeros k y = k - 1 - y.log2 := if_neg h
  refine ⟨by omega, ?_, fun j hj => ?_⟩
  · rw [hn, show k - 1 - (k - 1 - y.log2) = y.log2 by omega]
    exact Nat.testBit_log2 h
  · refine Nat.testBit_lt_two_pow ((Nat.log2_lt h).1 ?_)
    omega

theorem isCtz_trailZeros {k y : Nat} (hy : y < 2 ^ k) : isCtz k y (trailZeros k y) := by
  unfold trailZeros
  cases hf : (List.range k).find? fun i => y.testBit i with
  | none =>
    have h0 : y = 0 := Nat.zero_of_testBit_eq_false fun i => by
      rcases lt_or_ge i k with hi | hi
      · simpa using List.find?_eq_none.1 hf i (List.mem_range.2 hi)
      · exact Nat.testBit_lt_two_pow (hy.trans_le (Nat.pow_le_pow_right (by norm_num) hi))
    exact ⟨fun _ => rfl, fun h => absurd h0 h⟩
  | some n =>
    obtain ⟨hn, hmem, hlow⟩ := List.find?_range_eq_some.1 hf
    refine ⟨fun h => ?_, fun _ => ⟨List.mem_range.1 hmem, hn, fun j hj => by simpa using hlow j hj⟩⟩
    rw [h, Nat.zero_testBit] at hn
    cases hn

/-- The low `m` of `n` bits reversed: they fill the places from `n - m` up. -/
theorem testBit_revFold {n m : Nat} (x : Nat) (hm : m ≤ n) :
    let y := (List.range m).foldl (fun y i => if x.testBit i then y + 2 ^ (n - 1 - i) else y) 0
    2 ^ (n - m) ∣ y ∧ ∀ j, y.testBit j = (decide (n - m ≤ j ∧ j < n) && x.testBit (n - 1 - j)) := by
  induction m with
  | zero =>
    refine ⟨by simp, fun j => ?_⟩
    have : ¬ (n ≤ j ∧ j < n) := by omega
    simp [this]
  | succ m ih =>
    obtain ⟨⟨z, hz⟩, hbit⟩ := ih (by omega)
    have hpow : 2 ^ (n - m) = 2 * 2 ^ (n - (m + 1)) := by
      rw [← pow_succ', show n - m = n - (m + 1) + 1 by omega]
    have hpos := Nat.two_pow_pos (n - (m + 1))
    have hnew (j : Nat) (hj : n - (m + 1) ≠ j) :
        decide (n - m ≤ j ∧ j < n) = decide (n - (m + 1) ≤ j ∧ j < n) := by
      rw [decide_eq_decide]
      omega
    simp only [List.range_succ, List.foldl_append, List.foldl_cons, List.foldl_nil]
    rw [hz] at hbit ⊢
    rw [show n - 1 - m = n - (m + 1) by omega]
    split_ifs with hx
    · refine ⟨⟨2 * z + 1, by rw [hpow]; ring⟩, fun j => ?_⟩
      rw [Nat.two_pow_add_eq_or_of_lt (by omega), Nat.testBit_or, hbit, Nat.testBit_two_pow]
      by_cases hj : n - (m + 1) = j
      · subst hj
        have : n - (m + 1) < n := by omega
        simp [show n - 1 - (n - (m + 1)) = m by omega, hx, this]
      · rw [decide_eq_false hj, Bool.or_false, hnew j hj]
    · refine ⟨⟨2 * z, by rw [hpow]; ring⟩, fun j => ?_⟩
      rw [hbit]
      by_cases hj : n - (m + 1) = j
      · subst hj
        simp [show n - 1 - (n - (m + 1)) = m by omega, hx]
      · rw [hnew j hj]

theorem testBit_revBits (n x j : Nat) :
    (revBits n x).testBit j = (decide (j < n) && x.testBit (n - 1 - j)) := by
  rw [revBits, (testBit_revFold x le_rfl).2]
  simp

/-! ## Bits of words -/

theorem getLsbD_ofNat_of_lt {w j : Nat} (n : Nat) (hj : j < w) :
    (BitVec.ofNat w n).getLsbD j = n.testBit j := by
  rw [BitVec.getLsbD_ofNat, decide_eq_true hj, Bool.true_and]

theorem getLsbD_lo32 (x : Dword) {j : Nat} (hj : j < 32) : (lo32 x).getLsbD j = x.getLsbD j := by
  rw [lo32, BitVec.getLsbD_extractLsb', decide_eq_true hj, Bool.true_and, Nat.zero_add]

theorem getLsbD_hi32 (x : Dword) {j : Nat} (hj : j < 32) :
    (hi32 x).getLsbD j = x.getLsbD (32 + j) := by
  rw [hi32, BitVec.getLsbD_extractLsb', decide_eq_true hj, Bool.true_and]

theorem getLsbD_revBits {n j : Nat} (x : Nat) (hj : j < n) (hn : n ≤ 64) :
    (BitVec.ofNat 64 (revBits n x)).getLsbD j = x.testBit (n - 1 - j) := by
  rw [getLsbD_ofNat_of_lt _ (hj.trans_le hn), testBit_revBits, decide_eq_true hj, Bool.true_and]

/-! ## Masks of lanes and of predicates -/

theorem testBit_foldl_or (ls : List Nat) (m j : Nat) :
    (ls.foldl (fun m l => m ||| 2 ^ l) m).testBit j = (m.testBit j || decide (j ∈ ls)) := by
  induction ls generalizing m with
  | nil => simp
  | cons l ls ih => simp [ih, Nat.testBit_or, Nat.testBit_two_pow, Bool.or_assoc, eq_comm]

theorem testBit_laneMask (ls : List Nat) (j : Nat) :
    (laneMask ls).testBit j = decide (j ∈ ls) := by
  rw [laneMask, testBit_foldl_or, Nat.zero_testBit, Bool.false_or]

theorem maskPair_maskWords {p : Nat → Prop} {ls : List Nat} (h : ∀ k, k < 64 → (k ∈ ls ↔ p k)) :
    maskPair p (maskWords (laneMask ls)) := by
  refine ⟨_, _, rfl, fun j hj => ⟨?_, ?_⟩⟩
  · rw [getLsbD_ofNat_of_lt _ hj, testBit_laneMask, decide_eq_true_iff, h j (by omega)]
  · rw [getLsbD_ofNat_of_lt _ hj, Nat.testBit_div_two_pow, testBit_laneMask, decide_eq_true_iff,
      h _ (by omega)]

/-- A mask of places below `n` is the sum of their powers of two. -/
theorem laneMask_filter_range (p : Nat → Bool) (n : Nat) :
    laneMask ((List.range n).filter p) < 2 ^ n ∧ laneMask ((List.range n).filter p) =
      ((List.range n).map fun i => if p i then 2 ^ i else 0).sum := by
  induction n with
  | zero => simp [laneMask]
  | succ n ih =>
    obtain ⟨hlt, hsum⟩ := ih
    have hstep : laneMask ((List.range (n + 1)).filter p) =
        laneMask ((List.range n).filter p) + if p n then 2 ^ n else 0 := by
      rw [List.range_succ, List.filter_append, laneMask, List.foldl_append, ← laneMask]
      cases hp : p n with
      | false => simp [hp]
      | true =>
        have h := Nat.two_pow_add_eq_or_of_lt hlt 1
        rw [Nat.mul_one] at h
        simp [hp, Nat.or_comm _ (2 ^ n), ← h, Nat.add_comm]
    refine ⟨?_, ?_⟩
    · rw [hstep, pow_succ]
      split_ifs <;> omega
    · rw [hstep, List.range_succ, List.map_append, List.sum_append, ← hsum]
      simp

/-! ## PERM (07 R187) -/

/-- The byte of 07 R187 that a selector names. -/
theorem permByte_eq {x n : Nat} (hn : n < 16) : permByte x n =
    (if n / 8 = 0 then x / 2 ^ (8 * (n % 8)) % 256
     else if 128 ≤ x / 2 ^ (8 * (n % 8)) % 256 then 255 else 0) := by
  have h3 : n.testBit 3 = true ↔ ¬ n / 8 = 0 := by
    rw [testBit_top_iff (n := 4) (by norm_num) hn]
    omega
  have hbyte : x / 2 ^ (8 * (n % 8)) % 2 ^ 8 < 2 ^ 8 := Nat.mod_lt _ (by norm_num)
  have h7 := testBit_top_iff (by norm_num) hbyte
  simp only [permByte, bits, h3, h7, ite_not]
  rfl

theorem permWord_eq (a b c : Word) : permWord a b c = BitVec.ofNat 32 (((List.range 4).map fun k =>
      permByte (b.toNat * 2 ^ 32 + a.toNat) (c.toNat / 16 ^ k % 16) * 256 ^ k).sum) := by
  simp only [permWord, toNat_dword, bits, pow_mul]
  rfl

/-! ## Comparison, conversion and truth tables (07 R188–R190) -/

theorem ccHolds_iff (c : Cc) (a b : Word) : ccHolds c a b = true ↔ holds c a b := by
  cases c with
  | eq | ne => simp [ccHolds, holds, BitVec.toNat_inj]
  | lt | gt => exact BitVec.slt_iff_toInt_lt
  | le | ge => exact BitVec.sle_iff_toInt_le
  | ltu | gtu => exact BitVec.ult_iff_toNat_lt
  | leu | geu => exact BitVec.ule_iff_toNat_le

theorem isCmp_cmpWord (m : CmpM) (a b : Word) : isCmp m a b (cmpWord m a b) := by
  rw [isCmp, ← ccHolds_iff]
  exact ⟨fun hc => if_pos hc, fun hc => if_neg hc⟩

theorem readAs_of_signed {t : IType} (h : itSigned t = true) (x : Int) : readAs t x =
    if 2 ^ (itWidth t - 1) ≤ x % 2 ^ itWidth t then x % 2 ^ itWidth t - 2 ^ itWidth t
    else x % 2 ^ itWidth t := by
  simp [readAs, h]

theorem readAs_eq_asType (t : IType) (x : Int) : readAs t x = asType t x := by
  cases t with
  | u8 | u16 | u32 => rfl
  | s8 | s16 | s32 =>
    rw [readAs_of_signed (by rfl)]
    simp only [asType, itWidth]
    split_ifs <;> omega

theorem icvtWord_eq_icvtTo (m : IcvtM) (b : Word) : icvtWord m b = icvtTo m b := by
  simp only [icvtWord, icvtTo, readAs_eq_asType, word32, tr32, clampTo]
  cases m.dt <;> rfl

/-- A truth table is read at the place that its three inputs spell. -/
theorem lutBit_eq (t : BitVec 8) (a b c : Bool) :
    lutBit t a b c = t.getLsbD (4 * a.toNat + 2 * b.toNat + c.toNat) := by
  cases a <;> cases b <;> cases c <;> rfl

theorem toNat_getLsbD_zero (a : Word) : (a.getLsbD 0).toNat = a.toNat % 2 := by
  rw [BitVec.getLsbD, Nat.testBit_zero]
  rcases Nat.mod_two_eq_zero_or_one a.toNat with h | h <;> simp [h]

theorem plopWord_eq (t : BitVec 8) (a b c : Word) : plopWord t a b c = BitVec.ofNat 32
    (t.toNat / 2 ^ (4 * (a.toNat % 2) + 2 * (b.toNat % 2) + c.toNat % 2) % 2) := by
  rw [plopWord, lutBit_eq, toNat_getLsbD_zero, toNat_getLsbD_zero, toNat_getLsbD_zero, BitVec.getLsbD,
    Nat.testBit_eq_decide_div_mod_eq]
  generalize t.toNat / _ = q
  rcases Nat.mod_two_eq_zero_or_one q with h | h <;> simp [h, wordOfBool]

end Sys2Proof.Machine
end

section
/-! SUPPORT. A lane instruction completes as its row says: its body where no lane traps, and the shapes of
one destination operand, of one word and of a register pair for each lane (06 R151, 12 R319, R320). -/

namespace Sys2Proof.Machine

open Sys2Proof.Claim

/-- The package after the writes, the conditions, the draws and the end predicates of lanes none of which
traps. -/
def laneWrites (wr : Issue → W → Nat → List Word → W) (k : Rd → Nat → LOut) (x : Rd)
    (zeros : List (Nat × List Nat)) (w : W) : W :=
  let w := x.es.foldl (fun w l => wr x.i w l (k x l).vals) w
  let w := w.orFlags x.i.gid (x.es.foldl (fun y l => y ||| (k x l).flags) 0)
  let w := (x.es.filter fun l => (k x l).draw).foldl (fun w l => w.bumpSeq x.i.gid l) w
  w.endPreds x.i.gid x.es zeros

/-- The end of such lanes: the push of their results where the destination is a queue register. -/
def pushWords (dq : Option Nat) (i : Issue) (es : List Nat) (w0 : W) (xs : List Word) (w : W) : Eff :=
  match dq with
  | none => { w := w }
  | some q => match w.push i.gid q xs with
    | (w, .ok ()) => { w := w }
    | (_, .fault c a) => Eff.allFault w0 es c a
    | (_, .park wk) => { w := w0, park := some wk }

theorem pushWords_ok {i : Issue} {es : List Nat} {w0 w w2 : W} {q : Nat} {xs : List Word}
    (h : w.push i.gid q xs = (w2, .ok ())) : pushWords (some q) i es w0 xs w = { w := w2 } := by
  simp only [pushWords, h]

section bodies
variable {srcs : List Opnd} {dq : Option Nat} {wr : Issue → W → Nat → List Word → W}
  {k : Rd → Nat → LOut} {i : Issue} {es : List Nat} {w0 w1 : W}
  {pops : List (Nat × List (Nat × Word))} {zeros : List (Nat × List Nat)}

theorem laneBodyW_noTrap (hp : w0.popAll i.gid es (queueRegs srcs) = (w1, .ok (pops, zeros)))
    (hes : es ≠ []) (hf : ∀ l ∈ es, (k ⟨w0, i, pops, es⟩ l).fault = none) :
    laneBodyW srcs dq wr k i es w0 =
      pushWords dq i es w0 (es.map fun l => (k ⟨w0, i, pops, es⟩ l).vals.headD 0)
        (laneWrites wr k ⟨w0, i, pops, es⟩ zeros w1) := by
  have hgood : (es.filter fun l => (k ⟨w0, i, pops, es⟩ l).fault.isNone) = es :=
    List.filter_eq_self.2 fun l hl => by simp [hf l hl]
  simp only [laneBodyW, hp, List.filter_map, List.filterMap_map, Function.comp_def, List.foldl_map,
    hgood, List.isEmpty_map, List.isEmpty_iff, hes, if_false, List.map_map, List.map_id']
  rw [List.filterMap_eq_nil_iff.2 fun l hl => ?_]
  · cases dq <;> rfl
  · simp [hf l hl]

end bodies

/-- An instruction whose body is its row's function of each lane completes as the row says. -/
theorem completes_of_run {i : Instr} {r : LaneRow}
    (h : ∀ s, exec i s = run r.g (laneBodyW r.srcs (queueOf r.d) r.wr r.val) s) : completes i r := by
  intro s t hr ht
  have hes := lanesOf_ne_nil_of_runs hr
  simp only [LaneRow.after] at ht
  split at ht
  next w1 pops zeros hp =>
    split_ifs at ht with hf
    have hbody := laneBodyW_noTrap (dq := queueOf r.d) (wr := r.wr) (k := r.val) hp hes
      fun l hl => by simpa using fun hx => hf (List.any_eq_true.2 ⟨l, hl, hx⟩)
    rw [h]
    revert ht hbody
    cases queueOf r.d with
    | none => exact fun ht hbody => (run_ends hr hbody).trans (congrArg _ (Option.some.inj ht))
    | some q =>
      intro ht hbody
      dsimp only at ht
      split at ht
      next w6 hq =>
        exact (run_ends hr (hbody.trans (pushWords_ok hq))).trans
          (congrArg _ (Option.some.inj ht))
      next => cases ht
  next => cases ht

/-- The same, of an instruction with one destination operand. -/
theorem completes_of_laneBody {i : Instr} {g : Guard} {srcs : List Opnd} {d : Opnd}
    {k v : Rd → Nat → LOut} (h : exec i = run g (laneBody srcs d k)) (hk : ∀ x l, k x l = v x l) :
    completes i { g := g, srcs := srcs, d := d, val := v } := by
  obtain rfl : k = v := funext fun x => funext (hk x)
  exact completes_of_run fun s => congrFun h s

theorem completes_of_laneOp {i : Instr} {f : Alu} {k v : Rd → Nat → LOut}
    (h : exec i = laneOp f k) (hk : ∀ x l, k x l = v x l) :
    completes i { g := f.g, srcs := aluSrcs f, d := f.d, val := v } :=
  completes_of_laneBody h hk

/-- The same, of one word for each lane. -/
theorem completes_row1 {i : Instr} {f : Alu} {k v : Rd → Nat → Word}
    (h : exec i = lane1 f k) (hk : ∀ x l, k x l = v x l) : completes i (row1 f v) :=
  completes_of_laneOp h fun x l => by rw [hk]

/-- The same, of a register pair for each lane. -/
theorem completes_row2 {i : Instr} {f : Alu} {k v : Rd → Nat → Dword}
    (h : exec i = lane2 f k) (hk : ∀ x l, k x l = v x l) : completes i (row2 f v) :=
  completes_of_laneOp h fun x l => by rw [hk, lo32_eq, hi32_eq]

end Sys2Proof.Machine
end

section
/-! SUPPORT. The integer instructions complete with the results of 07 R184–R191; O16, O17 and O18 settled
from it. -/

namespace Sys2Proof.Machine

open Sys2Proof.Claim

theorem integerArithmeticPart : IntegerArithmeticPart := by
  intro i r h
  cases i with
  | add f => cases h; exact completes_row1 rfl fun _ _ => ofInt_toInt_add _ _
  | sub f => cases h; exact completes_row1 rfl fun _ _ => ofInt_toInt_sub _ _
  | mul f => cases h; exact completes_row1 rfl fun _ _ => ofInt_toInt_mul _ _
  | mulh m f =>
    cases m with
    | s32 => cases h; exact completes_row1 rfl fun _ _ => mulHigh_s32 _ _
    | u32 => cases h; exact completes_row1 rfl fun _ _ => mulHigh_u32 _ _
    | su => cases h; exact completes_row1 rfl fun _ _ => mulHigh_su _ _
  | mad f => cases h; exact completes_row1 rfl fun _ _ => ofInt_toInt_mul_add _ _ _
  | imin t f => cases h; exact completes_row1 rfl fun _ _ => minBySgn_eq t _ _
  | imax t f => cases h; exact completes_row1 rfl fun _ _ => maxBySgn_eq t _ _
  | iabs sat f =>
    cases sat with
    | false => cases h; exact completes_row1 rfl fun _ _ => absWord_false_eq _
    | true => cases h; exact completes_row1 rfl fun _ _ => absWord_true_eq _
  | adds m f =>
    obtain ⟨ty, sub⟩ := m
    cases h
    cases ty with
    | s32 => exact completes_row1 rfl fun _ _ => addSat_s32 _ _ sub
    | u32 => exact completes_row1 rfl fun _ _ => addSat_u32 _ _ sub
  | _ => cases h

theorem wideArithmeticPart : WideArithmeticPart := by
  intro i r h
  cases i with
  | madw t f => cases h; exact completes_row2 rfl fun _ _ => madWide_eq t _ _ _
  | add64 f => cases h; exact completes_row2 rfl fun _ _ => ofInt_toInt_add _ _
  | sub64 f => cases h; exact completes_row2 rfl fun _ _ => ofInt_toInt_sub _ _
  | mad64 f => cases h; exact completes_row2 rfl fun _ _ => ofInt_toInt_mul_add _ _ _
  | lea m f => cases h; exact completes_row2 rfl fun _ _ => leaOf_eq _ m _
  | _ => cases h

/-- Settles O16: each function of R184 is the model's, and a lane function's row completes. -/
theorem integerArithmetic : Obligations.IntegerArithmetic :=
  ⟨integerArithmeticPart, wideArithmeticPart⟩

theorem logicShiftsFieldsPart : LogicShiftsFieldsPart := by
  intro i r h
  cases i with
  | and f | or f | xor f | andn f => cases h; exact completes_row1 rfl fun _ _ => rfl
  | shl f => cases h; exact completes_row1 rfl fun _ _ => shlWord_eq _ _
  | shr f => cases h; exact completes_row1 rfl fun _ _ => shrWord_eq _ _
  | sar f => cases h; exact completes_row1 rfl fun _ _ => sarWord_eq _ _
  | rot m f =>
    cases m with
    | l => cases h; exact completes_row1 rfl fun _ _ => rotWord_l _ _
    | r => cases h; exact completes_row1 rfl fun _ _ => rotWord_r _ _
  | fnl m f =>
    obtain ⟨dir, clamp⟩ := m
    cases h
    cases dir with
    | r => exact completes_row1 rfl fun _ _ => funnel_r _ _ _ clamp
    | l => exact completes_row1 rfl fun _ _ => funnel_l _ _ _ clamp
  | bfe t f =>
    cases h
    cases t with
    | u32 => exact completes_row1 rfl fun _ _ => bitExtract_u32 _ _
    | s32 => exact completes_row1 rfl fun _ _ => bitExtract_s32 _ _
  | bfi f => cases h; exact completes_row1 rfl fun _ _ => bitInsert_eq _ _ _
  | _ => cases h

theorem wideB_lt (m : Wid) (f : Alu) (x : Rd) (l : Nat) : wideB m f x l < 2 ^ widBits m := by
  cases m
  · exact (x.b f l).isLt
  · exact (x.bPair f l).isLt

/-- The words that a counting instruction writes. -/
def countWords : Instr → Rd → Nat → List Word
  | .popc m f, x, l => [BitVec.ofNat 32 (popCount (widBits m) (wideB m f x l))]
  | .clz m f, x, l => [BitVec.ofNat 32 (leadZeros (widBits m) (wideB m f x l))]
  | .ctz m f, x, l => [BitVec.ofNat 32 (trailZeros (widBits m) (wideB m f x l))]
  | .brev .b32 f, x, l => [lo32 (BitVec.ofNat 64 (revBits 32 (x.b f l).toNat))]
  | .brev .b64 f, x, l =>
    let y := BitVec.ofNat 64 (revBits 64 (x.bPair f l).toNat)
    [lo32 y, hi32 y]
  | _, _, _ => []

theorem bitCountsPart : BitCountsPart := by
  intro i f h
  refine ⟨countWords i, ?_⟩
  cases i with
  | popc m f =>
    cases h
    exact ⟨fun x l => by cases m <;> rfl, completes_of_laneOp rfl fun _ _ => rfl⟩
  | clz m f =>
    cases h
    refine ⟨fun x l => ⟨_, rfl, ?_⟩, completes_of_laneOp rfl fun _ _ => rfl⟩
    have hc := isClz_leadZeros (wideB_lt m f x l)
    cases m <;> exact hc
  | ctz m f =>
    cases h
    refine ⟨fun x l => ⟨_, rfl, ?_⟩, completes_of_laneOp rfl fun _ _ => rfl⟩
    have hc := isCtz_trailZeros (wideB_lt m f x l)
    cases m <;> exact hc
  | brev m f =>
    cases m <;> cases h
    · refine ⟨fun x l => ⟨_, rfl, fun j hj => ?_⟩, completes_of_laneOp rfl fun _ _ => rfl⟩
      rw [getLsbD_lo32 _ hj, getLsbD_revBits _ hj (by norm_num)]
      rfl
    · refine ⟨fun x l => ⟨_, _, rfl, fun j hj => ⟨?_, ?_⟩⟩,
        completes_of_laneOp rfl fun _ _ => rfl⟩
      · rw [getLsbD_lo32 _ hj, getLsbD_revBits _ (by omega) (by norm_num)]
        rfl
      · rw [getLsbD_hi32 _ hj, getLsbD_revBits _ (by omega) (by norm_num), BitVec.getLsbD]
        congr 1
        omega
  | _ => cases h

/-- Settles O17: each function of R185, R186 and the counts of R187 is the model's. -/
theorem logicShiftsFields : Obligations.LogicShiftsFields :=
  ⟨logicShiftsFieldsPart, bitCountsPart⟩

theorem predWord_eq (w : W) (g l : Nat) : predWord w g l = BitVec.ofNat 32
    (((List.range 8).map fun p => if w.readP g l p then 2 ^ p else 0).sum) :=
  congrArg _ (laneMask_filter_range _ 8).2

theorem selWord_eq (a b c : Word) : (if c ≠ 0 then a else b) = if c.toNat = 0 then b else a := by
  rw [ite_not]
  exact if_congr (BitVec.toNat_inj (y := 0#32)).symm rfl rfl

theorem selectMovePermutePart : SelectMovePermutePart := by
  intro i r h
  cases i with
  | sel f => cases h; exact completes_row1 rfl fun _ _ => selWord_eq _ _ _
  | mov f | movi f => cases h; exact completes_row1 rfl fun _ _ => rfl
  | plop t f => cases h; exact completes_row1 rfl fun _ _ => plopWord_eq t _ _ _
  | pmov m _ =>
    cases m <;> cases h
    exact completes_row1 rfl fun x l => predWord_eq x.w x.i.gid l
  | perm f =>
    cases h
    refine completes_of_laneBody rfl fun x l => ?_
    rw [permWord_eq]
    simp only [permByte_eq (Nat.mod_lt _ (show 16 > 0 by norm_num))]
  | _ => cases h

theorem compareConvertPart : CompareConvertPart :=
  ⟨fun m f => ⟨fun x l => cmpWord m (x.word f.a l) (x.b f l), fun _ _ => isCmp_cmpWord m _ _,
    completes_row1 rfl fun _ _ => rfl⟩,
    fun m _ => completes_row1 rfl fun _ _ => icvtWord_eq_icvtTo m _⟩

/-- Settles O18: selection, moves, PLOP, PMOV.pack, PERM, ICMP and ICVT compute what R187 to R191 say. -/
theorem selectCompareConvert : Obligations.SelectCompareConvert :=
  ⟨selectMovePermutePart, compareConvertPart⟩

end Sys2Proof.Machine
end

section
/-! SUPPORT. O19 and O20 refuted: WRLN of `idlemask` in a lane from 32 up (07 R192, R194), and a lane move
whose destination is a queue register (03 R60, 12 R320). -/

namespace Sys2Proof.Machine

open Sys2Proof.Claim

/-! ## WRLN of idlemask -/

/-- A group of 64 lanes whose lane 3 is idle and whose lane 32 issues. -/
def laneThreeIdle : State :=
  let s := placeInsn [] State.reset
  { s with
    chip.thr.groups := s.chip.thr.groups.map fun e => (e.1, { e.2 with width := 64 })
    chip.thr.lanes := [((1, 3), { st := .idle }), ((1, 32), { st := .live, pc := 0x2000, frag := 1 })]
    chip.mdl.cur := { gid := 1, frag := 1, lanes := [32], pc := 0x2000, len := 12 } }

/-- The fields of WRLN v4, idlemask, 32. -/
def idlemaskToLane32 : Alu := alu (.v 4) (.sp .idlemask) (.sp .zero) (.v 0) (some 32)

theorem idlemaskToLane32_wellFormed : wellFormed 256 192 (.wrln .b32 idlemaskToLane32) = true := by
  decide +kernel

theorem runs_laneThreeIdle : runs laneThreeIdle .always = true := by
  decide +kernel

/-- A vector register after an answer. -/
def vrAfter (g l r : Nat) : Out1 → Word
  | .next t => t.toW.vr g l r
  | _ => 0

/-- The uniform read of idlemask is its bits [31:0] (07 R192): bit 3 for the idle lane. -/
theorem vrAfter_wrln : vrAfter 1 32 4 (exec (.wrln .b32 idlemaskToLane32) laneThreeIdle) = 8 := by
  decide +kernel

/-- Refutes O19: WRLN takes the uniform value of SRCA, and the statement takes the value of the lane it
names. The two differ for idlemask, of which a lane from 32 up reads the high half (03 R55). -/
theorem not_uniformResults : ¬ Obligations.UniformResults := by
  rintro ⟨-, -, hwrln⟩
  have h := congrArg (vrAfter 1 32 4) (hwrln .b32 idlemaskToLane32 laneThreeIdle runs_laneThreeIdle)
  rw [vrAfter_wrln] at h
  exact absurd h (by decide +kernel)

/-! ## CMPRS into a queue -/

/-- A lane that issues in a group whose q0 is bound to push to queue 0 of its team. -/
def pushBound : State :=
  let s := placeInsn [] State.reset
  { s with
    chip.thr.binds := [((1, 0), { kind := .push })]
    chip.mdl.cur := { gid := 1, frag := 1, lanes := [0], pc := 0x2000, len := 8 } }

/-- The fields of CMPRS q0, v1, v2, v3 without a predicate. -/
def cmprsToQueue : Alu := alu (.q 0) (.v 1) (.v 2) (.v 3) (x := 7)

theorem cmprsToQueue_wellFormed : wellFormed 256 192 (.cmprs cmprsToQueue) = true := by
  decide +kernel

theorem runs_pushBound : runs pushBound .always = true := by
  decide +kernel

/-- The elements of a team's queue after an answer. -/
def elemsAfter (t q : Nat) : Out1 → List Word
  | .next u => (u.toW.hq t q).elems
  | _ => []

theorem elemsAfter_of_completes {i : Instr} {r : LaneRow} {s : State} {t q : Nat} {xs : List Word}
    (h : completes i r) (hr : runs s r.g = true)
    (hafter : (r.after s).map (fun u => (u.toW.hq t q).elems) = some xs) :
    elemsAfter t q (exec i s) = xs := by
  obtain ⟨u, hu, hxs⟩ := Option.map_eq_some_iff.1 hafter
  rw [h s u hr hu, elemsAfter, hxs]

/-- CMPRS pushes the lane's word. -/
theorem elemsAfter_cmprs : elemsAfter 1 0 (exec (.cmprs cmprsToQueue) pushBound) = [0] := by
  decide +kernel

/-- Refutes O20: a lane move into a queue register pushes its results (03 R60), and the row of the statement
names no queue destination, so that no push follows in its state after the instruction. -/
theorem not_laneMoves : ¬ Obligations.LaneMoves := by
  rintro ⟨-, hcmprs, -⟩
  have h := elemsAfter_of_completes (t := 1) (q := 0) (xs := []) (hcmprs cmprsToQueue)
    runs_pushBound (by decide +kernel)
  rw [elemsAfter_cmprs] at h
  cases h

end Sys2Proof.Machine
end

section
/-! SUPPORT. Ballots, votes and matches complete with the masks and truth values of 07 R199; O21 settled
from it. -/

namespace Sys2Proof.Machine

open Sys2Proof.Claim

theorem ballot_completes (f : Alu) : ∃ v : Rd → Nat → List Word,
    (∀ x l, (∀ k ∈ x.es, k < 64) → maskPair (fun k => k ∈ x.es ∧ x.word f.a k ≠ 0) (v x l)) ∧
    completes (.ballot f)
      { g := f.g, srcs := aluSrcs f, d := f.d, val := fun x l => { vals := v x l } } :=
  ⟨_, fun x l _ => maskPair_maskWords fun k _ => by simp, completes_of_laneOp rfl fun _ _ => rfl⟩

theorem voteHolds_all (xs : List Nat) (y : Nat → Word) :
    voteHolds .all (xs.map y) = decide (∀ k ∈ xs, y k ≠ 0) := by
  simp [voteHolds, List.all_eq]

theorem voteHolds_any (xs : List Nat) (y : Nat → Word) :
    voteHolds .any (xs.map y) = decide (∃ k ∈ xs, y k ≠ 0) := by
  simp [voteHolds, List.any_eq]

/-- All agree with the first exactly where any two agree. -/
theorem voteHolds_uni (xs : List Nat) (y : Nat → Word) :
    voteHolds .uni (xs.map y) = decide (∀ k ∈ xs, ∀ j ∈ xs, y k = y j) := by
  rw [voteHolds, Bool.eq_iff_iff, List.all_eq_true, decide_eq_true_iff]
  cases xs with
  | nil => simp
  | cons x xs =>
    simp only [decide_eq_true_eq, List.forall_mem_map]
    exact ⟨fun h k hk j hj => (h k hk).trans (h j hj).symm, fun h k hk => h k hk x List.mem_cons_self⟩

theorem run_zero (x : Rd) (o : Opnd) (l : Nat) : x.run o 0 l = x.word o l := by
  cases o <;> rfl

theorem dword_inj {a b c d : Word} : dword a b = dword c d ↔ a = c ∧ b = d := by
  refine ⟨fun h => ?_, fun ⟨h1, h2⟩ => by rw [h1, h2]⟩
  have h := congrArg BitVec.toNat h
  rw [toNat_dword, toNat_dword] at h
  constructor <;> apply BitVec.eq_of_toNat_eq <;> omega

theorem match_completes (m : Wid) (f : Alu) : ∃ v : Rd → Nat → List Word,
    (∀ x l, (∀ k ∈ x.es, k < 64) →
      maskPair (fun k => k ∈ x.es ∧ x.run f.a 0 k = x.run f.a 0 l ∧
        (m = .b64 → x.run f.a 1 k = x.run f.a 1 l)) (v x l)) ∧
    completes (.match m f)
      { g := f.g, srcs := aluSrcs f, d := f.d, val := fun x l => { vals := v x l } } := by
  refine ⟨_, fun x l _ => maskPair_maskWords fun k _ => ?_, completes_of_laneOp rfl fun _ _ => rfl⟩
  rw [List.mem_filter, decide_eq_true_iff]
  cases m with
  | b32 => simp [run_zero, BitVec.toNat_inj]
  | b64 => simp [Rd.pair, BitVec.toNat_inj, dword_inj]

/-- Settles O21: the masks and votes of R199 are the model's, over the executing lanes. -/
theorem ballotsVotesMatches : Obligations.BallotsVotesMatches := by
  refine ⟨ballot_completes, fun m f => ?_, match_completes⟩
  cases m with
  | all => exact completes_row1 rfl fun x _ => congrArg wordOfBool (voteHolds_all x.es (x.word f.a))
  | any => exact completes_row1 rfl fun x _ => congrArg wordOfBool (voteHolds_any x.es (x.word f.a))
  | uni => exact completes_row1 rfl fun x _ => congrArg wordOfBool (voteHolds_uni x.es (x.word f.a))

end Sys2Proof.Machine
end

section
/-! SUPPORT. The tree and the scan of 07 R200 and R201: the model's tree over lists is the tree by positions,
an associative combination may be taken in any grouping, and an absent operand may be taken as its
identity; O22 settled from them. -/

namespace Sys2Proof.Machine

open Sys2Proof.Claim

/-! ## The contributors -/

theorem redInputs_eq (x : Rd) (f : Alu) :
    redInputs x f = (List.range x.width).map (contributor x f) := by
  refine List.map_congr_left fun k hk => ?_
  have hw : ¬ x.width ≤ k := by simpa using hk
  simp only [contributor, if_neg hw, List.contains_iff_mem]

theorem contributor_of_width_le {x : Rd} {k : Nat} (f : Alu) (h : x.width ≤ k) :
    contributor x f k = none := if_pos h

theorem getD_redInputs (x : Rd) (f : Alu) (k : Nat) :
    (redInputs x f).getD k none = contributor x f k := by
  rw [redInputs_eq, List.getD_eq_getElem?_getD, List.getElem?_map]
  rcases lt_or_ge k x.width with h | h
  · simp [h]
  · simp [h, contributor_of_width_le]

theorem length_redInputs (x : Rd) (f : Alu) : (redInputs x f).length = x.width := by
  rw [redInputs_eq, List.length_map, List.length_range]

/-! ## The tree by positions -/

section tree
variable (o : RedOp) (ftz : Bool)

theorem redOpt_eq_combine2 (a b : Option Word) : redOpt o ftz a b = combine2 o ftz (a, 0) (b, 0) := by
  cases a <;> cases b <;> simp [redOpt, combine2]

/-- The conditions that the operands bring join those of the step. -/
theorem combine2_or (a b : Option Word) (p q y z : BitVec 5) :
    combine2 o ftz (a, p ||| y) (b, q ||| z) =
      ((combine2 o ftz (a, y) (b, z)).1, p ||| q ||| (combine2 o ftz (a, y) (b, z)).2) := by
  cases a <;> cases b <;> simp only [combine2] <;> ac_rfl

/-- The conditions of `n` positions from one up. -/
def orFrom (p : Nat → BitVec 5) : Nat → Nat → BitVec 5
  | _, 0 => 0
  | i, n + 1 => p i ||| orFrom p (i + 1) n

theorem orFrom_add (p : Nat → BitVec 5) (i m n : Nat) :
    orFrom p i (m + n) = orFrom p i m ||| orFrom p (i + m) n := by
  induction m generalizing i with
  | zero => simp [orFrom]
  | succ m ih =>
    rw [show m + 1 + n = m + n + 1 by omega, orFrom, ih, orFrom, BitVec.or_assoc,
      show i + 1 + m = i + (m + 1) by omega]

theorem orFrom_succ (p : Nat → BitVec 5) (i n : Nat) :
    orFrom p (i + 1) n = orFrom (fun j => p (j + 1)) i n := by
  induction n generalizing i with
  | zero => rfl
  | succ n ih => rw [orFrom, orFrom, ih]

theorem orFrom_zero {p : Nat → BitVec 5} (h : ∀ i, p i = 0) (i n : Nat) : orFrom p i n = 0 := by
  induction n generalizing i with
  | zero => rfl
  | succ n ih => rw [orFrom, h, ih, BitVec.or_self]

/-- Neighbours combined: position `i` of the next level. -/
def pairAt (v : Nat → Option Word) (i : Nat) : Option Word × BitVec 5 :=
  redOpt o ftz (v (2 * i)) (v (2 * i + 1))

/-- A tree over operands is the tree one level lower over their pairs, with the conditions of the pairs. -/
theorem treeAt_succ_pairs (v : Nat → Option Word) (k i : Nat) :
    treeAt o ftz v (k + 1) (2 * i) =
      ((treeAt o ftz (fun j => (pairAt o ftz v j).1) k i).1,
        orFrom (fun j => (pairAt o ftz v j).2) i (2 ^ k) |||
          (treeAt o ftz (fun j => (pairAt o ftz v j).1) k i).2) := by
  induction k generalizing i with
  | zero => simp [treeAt, pairAt, redOpt_eq_combine2, orFrom]
  | succ k ih =>
    rw [treeAt, show 2 * i + 2 ^ (k + 1) = 2 * (i + 2 ^ k) by ring, ih, ih, combine2_or,
      show 2 ^ (k + 1) = 2 ^ k + 2 ^ k by ring, orFrom_add]
    rfl

theorem pairAt_nil (i : Nat) :
    pairAt o ftz (fun j => ([] : List (Option Word)).getD j none) i = (none, 0) := by
  simp [pairAt, redOpt]

theorem redOpt_none (x : Option Word) : redOpt o ftz x none = (x, 0) := by
  cases x <;> rfl

theorem getD_redPairs : ∀ (xs : List (Option Word)) (i : Nat),
    (redPairs o ftz xs).1.getD i none = (pairAt o ftz (fun j => xs.getD j none) i).1
  | [], i => by rw [pairAt_nil]; rfl
  | [x], 0 => by simp [redPairs, pairAt, redOpt_none]
  | [x], i + 1 => rfl
  | x :: y :: xs, 0 => rfl
  | x :: y :: xs, i + 1 => getD_redPairs xs i

theorem redPairs_conditions : ∀ (xs : List (Option Word)) (n : Nat), xs.length ≤ 2 * n →
    (redPairs o ftz xs).2 = orFrom (fun i => (pairAt o ftz (fun j => xs.getD j none) i).2) 0 n
  | [], n, _ => (orFrom_zero (fun i => congrArg Prod.snd (pairAt_nil o ftz i)) 0 n).symm
  | [x], n, _ => by
    refine (orFrom_zero (fun i => ?_) 0 n).symm
    cases i with
    | zero => exact congrArg Prod.snd (redOpt_none o ftz x)
    | succ i => rfl
  | x :: y :: xs, 0, h => by simp at h
  | x :: y :: xs, n + 1, h => by
    rw [List.length_cons, List.length_cons] at h
    rw [orFrom, orFrom_succ, redPairs, redPairs_conditions xs n (by omega)]
    rfl

theorem length_redPairs : ∀ xs : List (Option Word),
    (redPairs o ftz xs).1.length = (xs.length + 1) / 2
  | [] => rfl
  | [_] => by simp [redPairs]
  | x :: y :: xs => by
    rw [redPairs, List.length_cons, length_redPairs xs, List.length_cons, List.length_cons]
    omega

/-- The tree over a list of at most `2 ^ n` operands is the tree by positions, its conditions included. -/
theorem redTree_eq_treeAt (n : Nat) (xs : List (Option Word)) (h : xs.length ≤ 2 ^ n) :
    redTree o ftz n xs = treeAt o ftz (fun i => xs.getD i none) n 0 := by
  induction n generalizing xs with
  | zero => cases xs <;> rfl
  | succ n ih =>
    rw [pow_succ] at h
    have hlen : (redPairs o ftz xs).1.length ≤ 2 ^ n := by rw [length_redPairs]; omega
    have hnext := treeAt_succ_pairs o ftz (fun j => xs.getD j none) n 0
    rw [redTree, ih _ hlen, redPairs_conditions o ftz xs (2 ^ n) (by omega), hnext]
    simp only [getD_redPairs]

end tree

/-! ## Combinations of integers -/

/-- What the operations of 07 R200 on integers share: an associative combination with an identity on both
sides, which raises no condition. -/
structure Combines (o : RedOp) (c : (Word → Word → Word) × Word) : Prop where
  step : ∀ ftz x y, redStep o ftz x y = (c.1 x y, 0)
  ident : redIdent o = c.2
  nan : ∀ xs, redNan o xs = 0
  assoc : ∀ x y z, c.1 (c.1 x y) z = c.1 x (c.1 y z)
  left : ∀ x, c.1 c.2 x = x
  right : ∀ x, c.1 x c.2 = x

/-- The lesser and the greater of two words by a key; of equals, the second and the first. -/
def lesser (key : Word → Int) (x y : Word) : Word := if key x < key y then x else y
def greater (key : Word → Int) (x y : Word) : Word := if key x < key y then y else x

theorem lesser_assoc (key : Word → Int) (x y z : Word) :
    lesser key (lesser key x y) z = lesser key x (lesser key y z) := by
  grind [lesser]

theorem greater_assoc (key : Word → Int) (x y z : Word) :
    greater key (greater key x y) z = greater key x (greater key y z) := by
  grind [greater]

theorem lesser_u32 : lesser (ext .u32) = fun x y => if x.toNat < y.toNat then x else y := by
  funext x y
  simp [lesser, ext]

theorem greater_u32 : greater (ext .u32) = fun x y => if x.toNat < y.toNat then y else x := by
  funext x y
  simp [greater, ext]

theorem ext_s32_le (x : Word) : ext .s32 x ≤ ext .s32 0x7FFFFFFF := by
  have h : x.toInt < 2 ^ 31 := BitVec.toInt_lt
  exact Int.le_of_lt_add_one h

theorem ext_s32_ge (x : Word) : ext .s32 0x80000000 ≤ ext .s32 x := BitVec.le_toInt x

theorem ext_u32_le (x : Word) : ext .u32 x ≤ ext .u32 0xFFFFFFFF :=
  Int.ofNat_le.2 (Nat.le_of_lt_succ x.isLt)

theorem ext_u32_nonneg (x : Word) : ext .u32 0 ≤ ext .u32 x := Int.natCast_nonneg _

theorem combines_min {o : RedOp} (t : Sgn) (top : Word) (htop : ∀ x, ext t x ≤ ext t top)
    (hstep : ∀ ftz x y, redStep o ftz x y = (minBySgn t x y, 0)) (hident : redIdent o = top)
    (hnan : ∀ xs, redNan o xs = 0) : Combines o (lesser (ext t), top) where
  step ftz x y := by rw [hstep, minBySgn_eq]; rfl
  ident := hident
  nan := hnan
  assoc := lesser_assoc _
  left x := if_neg (htop x).not_gt
  right x := by
    rcases (htop x).lt_or_eq with h | h
    · exact if_pos h
    · rw [ext_inj t h]; exact ite_self _

theorem combines_max {o : RedOp} (t : Sgn) (bot : Word) (hbot : ∀ x, ext t bot ≤ ext t x)
    (hstep : ∀ ftz x y, redStep o ftz x y = (maxBySgn t x y, 0)) (hident : redIdent o = bot)
    (hnan : ∀ xs, redNan o xs = 0) : Combines o (greater (ext t), bot) where
  step ftz x y := by rw [hstep, maxBySgn_eq]; rfl
  ident := hident
  nan := hnan
  assoc := greater_assoc _
  left x := by
    rcases (hbot x).lt_or_eq with h | h
    · exact if_pos h
    · rw [ext_inj t h]; exact ite_self _
  right x := if_neg (hbot x).not_gt

theorem combines_of_intCombine {o : RedOp} {c : (Word → Word → Word) × Word}
    (h : intCombine o = some c) : Combines o c := by
  cases o with
  | addU =>
    cases h
    exact ⟨fun _ _ _ => rfl, rfl, fun _ => rfl, BitVec.add_assoc, BitVec.zero_add, BitVec.add_zero⟩
  | minS =>
    cases h
    exact combines_min .s32 _ ext_s32_le (fun _ _ _ => rfl) rfl fun _ => rfl
  | maxS =>
    cases h
    exact combines_max .s32 _ ext_s32_ge (fun _ _ _ => rfl) rfl fun _ => rfl
  | minU =>
    cases h
    rw [← lesser_u32]
    exact combines_min .u32 _ ext_u32_le (fun _ _ _ => rfl) rfl fun _ => rfl
  | maxU =>
    cases h
    rw [← greater_u32]
    exact combines_max .u32 _ ext_u32_nonneg (fun _ _ _ => rfl) rfl fun _ => rfl
  | and =>
    cases h
    exact ⟨fun _ _ _ => rfl, rfl, fun _ => rfl, BitVec.and_assoc, fun _ => BitVec.allOnes_and,
      fun _ => BitVec.and_allOnes⟩
  | or =>
    cases h
    exact ⟨fun _ _ _ => rfl, rfl, fun _ => rfl, BitVec.or_assoc, fun _ => BitVec.zero_or,
      fun _ => BitVec.or_zero⟩
  | xor =>
    cases h
    exact ⟨fun _ _ _ => rfl, rfl, fun _ => rfl, BitVec.xor_assoc, fun _ => BitVec.zero_xor,
      fun _ => BitVec.xor_zero⟩
  | addF | minF | maxF => cases h

section combination
variable {o : RedOp} {c : (Word → Word → Word) × Word} (hc : Combines o c)
include hc

/-- An absent operand may be taken as the identity. -/
theorem foldl_filterMap_eq (v : Nat → Option Word) (ls : List Nat) (a : Word) :
    (ls.filterMap v).foldl c.1 a = (ls.map fun j => (v j).getD c.2).foldl c.1 a := by
  induction ls generalizing a with
  | nil => rfl
  | cons l ls ih =>
    cases hv : v l with
    | none => simp [hv, ih, hc.right]
    | some y => simp [hv, ih]

theorem foldl_combine (a : Word) (ys : List Word) : ys.foldl c.1 a = c.1 a (ys.foldl c.1 c.2) := by
  have : Std.Associative c.1 := ⟨hc.assoc⟩
  have h := List.foldl_assoc (op := c.1) (l := ys) (a₁ := a) (a₂ := c.2)
  rwa [hc.right] at h

theorem combine2_combines (ftz : Bool) {x y : Option Word × BitVec 5} (hx : x.2 = 0) (hy : y.2 = 0) :
    (combine2 o ftz x y).1.getD c.2 = c.1 (x.1.getD c.2) (y.1.getD c.2) ∧
      (combine2 o ftz x y).2 = 0 := by
  obtain ⟨a, p⟩ := x
  obtain ⟨b, q⟩ := y
  obtain rfl : p = 0 := hx
  obtain rfl : q = 0 := hy
  cases a <;> cases b <;> simp [combine2, hc.step, hc.left, hc.right]

/-- The tree from a position is the combination from left to right, and raises nothing. -/
theorem treeAt_combines (ftz : Bool) (v : Nat → Option Word) (k i : Nat) :
    ((treeAt o ftz v k i).1.getD c.2 =
      (((List.range (2 ^ k)).map fun j => (v (i + j)).getD c.2).foldl c.1 c.2)) ∧
    (treeAt o ftz v k i).2 = 0 := by
  induction k generalizing i with
  | zero => simp [treeAt, hc.left]
  | succ k ih =>
    obtain ⟨hl, hl0⟩ := ih i
    obtain ⟨hr, hr0⟩ := ih (i + 2 ^ k)
    have hval := combine2_combines hc ftz hl0 hr0
    rw [treeAt]
    refine ⟨?_, hval.2⟩
    rw [hval.1, hl, hr, pow_succ, Nat.mul_two, List.range_add, List.map_append, List.foldl_append,
      foldl_combine hc (List.foldl _ _ _), List.map_map]
    simp only [Function.comp_def, Nat.add_assoc]

theorem redTree_combines (ftz : Bool) (n : Nat) (xs : List (Option Word)) :
    (redTree o ftz n xs).2 = 0 := by
  induction n generalizing xs with
  | zero => rfl
  | succ n ih =>
    have hpairs : (redPairs o ftz xs).2 = 0 := by
      rw [redPairs_conditions o ftz xs xs.length (by omega)]
      refine orFrom_zero (fun i => ?_) _ _
      rw [pairAt, redOpt_eq_combine2]
      exact (combine2_combines hc ftz rfl rfl).2
    rw [redTree, hpairs, ih, BitVec.or_self]

theorem scanAt_combines (ftz : Bool) (a : Word) (ys : List Word) :
    scanAt o ftz a ys = (ys.foldl c.1 a, 0) := by
  induction ys generalizing a with
  | nil => rfl
  | cons y ys ih =>
    have h := ih (c.1 a y)
    simp only [scanAt, List.foldl_cons, hc.step, BitVec.or_self] at h ⊢
    exact h

theorem treeAt_contributor (ftz : Bool) {x : Rd} (f : Alu) (h : x.width ≤ 64) :
    (treeAt o ftz (contributor x f) 6 0).1.getD c.2 = combined c x f x.width := by
  obtain ⟨d, hd⟩ := Nat.exists_eq_add_of_le h
  have hrest : ((List.range d).map (x.width + ·)).filterMap (contributor x f) = [] := by
    simp [contributor_of_width_le]
  rw [(treeAt_combines hc ftz _ 6 0).1, combined]
  simp only [Nat.zero_add]
  rw [← foldl_filterMap_eq hc, show 2 ^ 6 = x.width + d from hd, List.range_add,
    List.filterMap_append, hrest, List.append_nil]

end combination

/-! ## The scan by contributors -/

theorem scanFold_map (o : RedOp) (ftz : Bool) (v : Nat → Option Word) (ls : List Nat) :
    scanFold o ftz (ls.map v) = scanAt o ftz (redIdent o) (ls.filterMap v) := by
  rw [scanFold, scanAt]
  generalize (redIdent o, (0 : BitVec 5)) = a
  induction ls generalizing a with
  | nil => rfl
  | cons l ls ih => cases hv : v l <;> simp [hv, ih]

theorem scanFold_take (o : RedOp) (ftz : Bool) (x : Rd) (f : Alu) (n : Nat) :
    scanFold o ftz ((redInputs x f).take n) = scanAt o ftz (redIdent o)
      ((List.range (min x.width n)).filterMap (contributor x f)) := by
  rw [redInputs_eq, ← List.map_take, List.take_range, scanFold_map, min_comm]

/-! ## The results -/

theorem fpOut_zero (x : Rd) (vals : List Word) : fpOut x vals 0 = { vals := vals } := by
  have h : trapCause (x.w.fpctl x.i.gid) 0 = none := by simp [trapCause]
  rw [fpOut, h]

theorem redTree_redInputs (o : RedOp) (ftz : Bool) {x : Rd} (f : Alu) (h : x.width ≤ 64) :
    redTree o ftz 6 (redInputs x f) = treeAt o ftz (contributor x f) 6 0 := by
  rw [redTree_eq_treeAt o ftz 6 _ (by rwa [length_redInputs])]
  simp only [getD_redInputs]

theorem any_map_eq_any_filterMap {p : Word → Bool} {q : Option Word → Bool} (hnone : q none = false)
    (hsome : ∀ y, q (some y) = p y) (v : Nat → Option Word) (ls : List Nat) :
    (ls.map v).any q = (ls.filterMap v).any p := by
  induction ls with
  | nil => rfl
  | cons l ls ih => cases hv : v l <;> simp [hv, hnone, hsome, ih]

theorem redNan_eq_snanOf {o : RedOp} {z : Word} (h : floatIdent o = some z) (x : Rd) (f : Alu) :
    redNan o (redInputs x f) = snanOf x f := by
  rw [redInputs_eq]
  cases o with
  | addF | minF | maxF =>
    exact congrArg (flagIf · flagNV) (any_map_eq_any_filterMap rfl (fun _ => rfl) _ _)
  | addU | minS | maxS | minU | maxU | and | or | xor => cases h

theorem foldl_or_zero (ls : List Nat) (y : BitVec 5) : ls.foldl (fun y _ => y ||| 0) y = y :=
  foldl_keeps id (fun _ _ => BitVec.or_zero) ls y

theorem integerReductionsPart : IntegerReductionsPart := by
  intro o c h
  have hc := combines_of_intCombine h
  refine ⟨fun f => ⟨fun x _ => (redTree o x.ftz 6 (redInputs x f)).1.getD (redIdent o),
    fun x l hw => ?_, completes_of_laneOp rfl fun x l => ?_⟩,
    fun e f => completes_of_laneOp rfl fun x l => ?_⟩
  · dsimp only
    rw [redTree_redInputs o _ f hw, hc.ident, treeAt_contributor hc _ f hw]
  · dsimp only
    rw [redTree_combines hc, hc.nan, BitVec.or_self]
    exact fpOut_zero x _
  · simp only [scanFold_take, scanAt_combines hc, hc.nan, hc.ident]
    rw [foldl_or_zero]
    exact fpOut_zero x _

theorem floatReductionsPart : FloatReductionsPart := by
  intro o z h
  have hz : redIdent o = z := by cases o <;> cases h <;> rfl
  refine ⟨fun f => ⟨_, fun x l hw => ?_, completes_of_laneOp rfl fun x l => rfl⟩,
    fun e f => completes_of_laneOp rfl fun x l => ?_⟩
  · simp only [redTree_redInputs o _ f hw, redNan_eq_snanOf h, hz]
  · simp only [scanFold_take, redNan_eq_snanOf h, hz]
    cases e <;> rfl

/-- Settles O22: the integer forms by grouping freely, the float forms by the tree and the scan of R200. -/
theorem reductions : Obligations.Reductions :=
  ⟨integerReductionsPart, floatReductionsPart⟩

end Sys2Proof.Machine
end

section
/-! SUPPORT. Rows whose results are conversions complete: each lane has the words of its conversions and the
union of their conditions, or the trap that one of these takes (02 R36, R38, R39, 08 R205). -/

namespace Sys2Proof.Machine

open Sys2Proof.Claim

theorem cvRow_val (f : Alu) (rm : Rnd) (k : Rd → Nat → List Cv) (x : Rd) (l : Nat) :
    (cvRow f rm k).val x l = cvOut x rm (k x l) := rfl

/-- An instruction of conversions completes as the row of the same conversions says. -/
theorem completes_cvRow {i : Instr} {f : Alu} {rm : Rnd} {k v : Rd → Nat → List Cv}
    (h : exec i = laneOp f fun x l => cvOut x rm (k x l)) (hk : ∀ x l, k x l = v x l) :
    completes i (cvRow f rm v) :=
  completes_of_laneOp h fun x l => (congrArg (cvOut x rm) (hk x l)).trans (cvRow_val f rm v x l).symm

/-- The same, of one conversion for each lane. -/
theorem completes_cvRow1 {i : Instr} {f : Alu} {rm : Rnd} {k v : Rd → Nat → Cv}
    (h : exec i = fOp f rm k) (hk : ∀ x l, k x l = v x l) :
    completes i (cvRow f rm fun x l => [v x l]) :=
  completes_cvRow h fun x l => by rw [hk]

/-! ## The parts of a packed word (08 R217, R220) -/

theorem packWords_pair (lo hi : Cv) : packWords 16 [lo, hi] = twoHalves lo hi := by
  simp [packWords, twoHalves]

/-! ## Where no trap is enabled -/

theorem trapCause_of_untrapped {ctl : Dword}
    (h : ∀ k, 1 ≤ k → k ≤ 5 → ctl.getLsbD k = false) (fl : BitVec 5) : trapCause ctl fl = none := by
  have hoff (k : Nat) (h1 : 1 ≤ k := by decide) (h5 : k ≤ 5 := by decide) := h k h1 h5
  simp only [trapCause, hoff 1, hoff 2, hoff 3, hoff 4, hoff 5, Bool.and_false, Bool.false_eq_true,
    if_false]

theorem cvOut_of_untrapped {x : Rd} (h : ∀ fl, trapCause (x.w.fpctl x.i.gid) fl = none) (rm : Rnd)
    (cs : List Cv) : cvOut x rm cs =
      { vals := cs.map fun c => BitVec.ofNat 32 c.code
        flags := cs.foldl (fun y c => y ||| c.flags) 0, draw := decide (rm = .sr) } := by
  rw [cvOut, fpOut, h]

/-! ## Where no queue is named -/

theorem queueRegs_cons_eq_nil {d : Opnd} {os : List Opnd} (h : queueRegs (d :: os) = []) :
    queueOf d = none ∧ queueRegs os = [] := by
  cases d with
  | q n => cases h
  | v n | s n | p n | w n | sp n => exact ⟨rfl, h⟩

/-- The state after an instruction that names no queue and neither traps nor draws in a lane. -/
theorem LaneRow.after_of_no_queue {r : LaneRow} {s : State} {vals : Nat → List Word}
    {flags : Nat → BitVec 5} (hq : queueRegs (r.d :: r.srcs) = [])
    (hval : ∀ l, r.val (rd s r.g) l = { vals := vals l, flags := flags l }) :
    r.after s = some ((((lanesOf s r.g).foldl (fun w l => r.wr (now s) w l (vals l)) (moved s)).orFlags
      (now s).gid ((lanesOf s r.g).foldl (fun y l => y ||| flags l) 0)).toState s) := by
  obtain ⟨hd, hsrcs⟩ := queueRegs_cons_eq_nil hq
  rw [rd] at hval
  simp [LaneRow.after, hd, hsrcs, popAll_nil, hval, W.endPreds, uniq]

end Sys2Proof.Machine
end

section
/-! SUPPORT. FP32 arithmetic and the approximate functions complete (08 R208–R214); O23, O24 and O25 settled
from it. -/

namespace Sys2Proof.Machine

open Sys2Proof.Claim

theorem floatRow_completes {i : Instr} {r : LaneRow} (h : floatRow i = some r) : completes i r := by
  cases i with
  | fadd m f | fsub m f | fmul m f | ffma m f | fdiv m f | fsqrt m f | fldexp m f | frint m f
  | fmin m f | fmax m f =>
    cases h
    exact completes_cvRow1 rfl fun _ _ => rfl
  | ffrac f => cases h; exact completes_cvRow1 rfl fun _ _ => rfl
  | fclass f =>
    cases h
    refine completes_row1 rfl fun x l => ?_
    exact BitVec.eq_of_toNat_eq (by simp [Nat.shiftLeft_eq])
  | _ => cases h

theorem fcmpHolds_eq (m : FcmpM) (a b : Fv) :
    (if (fcmpHolds m.cc a b).1 then (if m.m then 0xFFFFFFFF else 1) else (0 : Word)) = fcmpWord m a b ∧
      (fcmpHolds m.cc a b).2 = fcmpFlags m a b := by
  obtain ⟨cc, mask⟩ := m
  cases cc with
  | eq | lt | gt | ord | uno => exact ⟨rfl, by simp [fcmpHolds, fcmpFlags, snanFlag, flagIf]⟩
  | ne => exact ⟨by simp [fcmpHolds, fcmpWord], by simp [fcmpHolds, fcmpFlags, snanFlag, flagIf]⟩
  | le | ge =>
    exact ⟨by simp [fcmpHolds, fcmpWord, Bool.and_or_distrib_left], rfl⟩

/-- Settles O23: each row's conversion is the model's, and FCMP's word and condition are those of R211. -/
theorem floatArithmetic : Obligations.FloatArithmetic := by
  refine ⟨fun i r => floatRow_completes, fun m f => completes_of_laneOp rfl fun x l => ?_⟩
  obtain ⟨hword, hflags⟩ := fcmpHolds_eq m (va x f l) (vb x f l)
  rw [← hword, ← hflags]
  rfl

/-- Settles O24: every row is an instruction of conversions that `Tfn.eval` gives. -/
theorem approximateFunctions : Obligations.ApproximateFunctions := by
  intro i r h
  cases i with
  | frcp f | frsq f | fexp2 f | flog2 f | fsin f | fcos f | fsinpi f | fcospi f | ftanh f =>
    cases h
    exact completes_cvRow1 rfl fun _ _ => rfl
  | fsincos f => cases h; exact completes_cvRow rfl fun _ _ => rfl
  | _ => cases h

/-- The row of an approximate instruction evaluates its functions. -/
theorem approxRow_of_approxFns {i : Instr} {f : Alu} {ts : List Tfn} (h : approxFns i = some (f, ts)) :
    approxRow i = some (cvRow f .rne fun x l => ts.map fun t => t.eval x.ftz (x.b f l)) := by
  cases i with
  | frcp f | frsq f | fexp2 f | flog2 f | fsin f | fcos f | fsinpi f | fcospi f | ftanh f
  | fsincos f => cases h; rfl
  | _ => cases h

/-- Settles O25: with no queue named and no trap enabled, the state that O24 speaks of is the one after the
writes and the conditions. -/
theorem approximateCompletion : Obligations.ApproximateCompletion := by
  intro i f ts s hfns hruns hq htrap x out
  have hval (l : Nat) : cvOut x .rne (ts.map fun t => out t l) =
      { vals := ts.map fun t => BitVec.ofNat 32 (out t l).code
        flags := ts.foldl (fun y t => y ||| (out t l).flags) 0 } := by
    rw [cvOut_of_untrapped (x := x) (trapCause_of_untrapped htrap), List.map_map, List.foldl_map]
    rfl
  have hrow := approxRow_of_approxFns hfns
  exact approximateFunctions i _ hrow s _ hruns (LaneRow.after_of_no_queue hq hval)

end Sys2Proof.Machine
end

section
/-! SUPPORT. Packed arithmetic, dot products and conversions complete (08 R216–R221); O26 and O27 settled
from it. -/

namespace Sys2Proof.Machine

open Sys2Proof.Claim

theorem completes_halfRow {i : Instr} {f : Alu} {m : Rnd} {fmt : Fmt}
    {k : Bool → Nat → Fv → Fv → Fv → Cv} (h : exec i = halvesOp f m fmt k) :
    completes i (halfRow f m fmt k) :=
  completes_cvRow1 h fun _ _ => packWords_pair _ _

/-- Settles O26: the halves of a packed word are `twoHalves`, and a dot product is one conversion. -/
theorem packedAndDotProducts : Obligations.PackedAndDotProducts := by
  intro i r h
  cases i with
  | hadd2 m f | hmul2 m f | hfma2 m f | bfma2 m f => cases h; exact completes_halfRow rfl
  | fdot2 m f | fdot4 m f => cases h; exact completes_cvRow1 rfl fun _ _ => rfl
  | _ => cases h

/-- Settles O27: every row is an instruction of conversions, and FSRND's of one that is read back. -/
theorem floatConversions : Obligations.FloatConversions := by
  intro i r h
  cases i with
  | fcvt m f | fpack m f => cases h; exact completes_cvRow1 rfl fun _ _ => rfl
  | funpk m f => cases h; exact completes_cvRow rfl fun _ _ => rfl
  | fsrnd m f => cases h; exact completes_of_laneOp rfl fun _ _ => rfl
  | _ => cases h

end Sys2Proof.Machine
end

section
/-! SUPPORT. The spectral instructions complete element by element (08 R222–R229); O28 and O29 settled from
it. -/

namespace Sys2Proof.Machine

open Sys2Proof.Claim

/-! ## Elements (08 R222) -/

theorem elem_eq_el (x : Rd) (o : Opnd) (i l : Nat) : x.elem o i l = el x o i l := by
  cases o <;> rfl

theorem elemB_eq_elB (x : Rd) (f : Alu) (i l : Nat) : x.elemB f i l = elB x f i l := by
  cases h : f.imm with
  | some y => simp [Rd.elemB, elB, h]
  | none => simp [Rd.elemB, elB, h, elem_eq_el]

theorem fa_eq (x : Rd) (f : Alu) (l i : Nat) : x.fa f l i = ea' x f i l :=
  congrArg x.f32 (elem_eq_el x f.a i l)

theorem fb_eq (x : Rd) (f : Alu) (l i : Nat) : x.fb f l i = eb' x f i l :=
  congrArg x.f32 (elemB_eq_elB x f i l)

theorem fc_eq (x : Rd) (f : Alu) (l i : Nat) : x.fc f l i = ec' x f i l :=
  congrArg x.f32 (elem_eq_el x f.c i l)

/-- An instruction of sixteen conversions completes as the row of the same conversions says. -/
theorem completes_sixteen {i : Instr} {f : Alu} {k v : Rd → Nat → Nat → Cv}
    (h : exec i = wOp f k) (hk : ∀ x l j, k x l j = v x j l) : completes i (sixteen f v) :=
  completes_cvRow h fun x l => List.map_congr_left fun j _ => hk x l j

/-- Settles O28: the model's elements are those of R222, so that each element has its row's conversion. -/
theorem packetArithmetic : Obligations.PacketArithmetic := by
  intro i r h
  cases i with
  | wmov m f =>
    cases h
    exact completes_of_laneOp rfl fun x l => by simp only [elemB_eq_elB]
  | wadd f | wmul f => cases h; exact completes_sixteen rfl fun x l j => by rw [fa_eq, fb_eq]
  | wmin m f | wmax m f => cases h; exact completes_sixteen rfl fun x l j => by rw [fa_eq, fb_eq]
  | wfma f | wlerp f => cases h; exact completes_sixteen rfl fun x l j => by rw [fa_eq, fb_eq, fc_eq]
  | wrcp f => cases h; exact completes_sixteen rfl fun x l j => by rw [elemB_eq_elB]
  | wexpn f => cases h; exact completes_sixteen rfl fun x l j => by rw [elem_eq_el, elemB_eq_elB]
  | wsum f => cases h; exact completes_cvRow1 rfl fun x l => by simp only [fb_eq]
  | wdot f => cases h; exact completes_cvRow1 rfl fun x l => by simp only [fa_eq, fb_eq]
  | _ => cases h

/-! ## Mueller products (08 R229) -/

/-- A list of `m` runs of `k` values is that of all `m * k` by quotient and remainder. -/
theorem map_range_mul {α : Type} (g : Nat → Nat → α) (m : Nat) {k : Nat} (hk : 0 < k) :
    (List.range (m * k)).map (fun n => g (n / k) (n % k)) =
      ((List.range m).map fun j => (List.range k).map fun i => g j i).flatten := by
  induction m with
  | zero => simp
  | succ m ih =>
    have hrun : (List.range k).map (fun i => g ((m * k + i) / k) ((m * k + i) % k)) =
        (List.range k).map fun i => g m i := by
      refine List.map_congr_left fun i hi => ?_
      have hi : i < k := List.mem_range.1 hi
      rw [Nat.mul_comm, Nat.mul_add_div hk, Nat.mul_add_mod, Nat.div_eq_of_lt hi, Nat.mod_eq_of_lt hi,
        Nat.add_zero]
    rw [Nat.succ_mul, List.range_add, List.map_append, ih, List.map_map, List.range_succ,
      List.map_append, List.flatten_append]
    simpa [Function.comp_def] using hrun

/-- The sums of one wavelength, as the model gathers them. -/
theorem stokes_eq (m : Bool) (x : Rd) (f : Alu) (l i : Nat) : stokes m x f l i =
    if m then muellerRot (fun j => x.f32 (x.run f.a (16 * j + i) l)) (x.fb f l i) (x.fc f l i)
    else (muellerMat (fun j => x.f32 (x.run f.a (16 * j + i) l))
      fun j => x.f32 (x.run f.b (16 * j + i) l)).map fun t => (t, []) := by
  rw [fb_eq, fc_eq]
  cases m with
  | true => rfl
  | false => rfl

/-- The 64 sums that SMUEL counts off are its four Stokes components of sixteen wavelengths. -/
theorem smuel_completes (m : Bool) (f : Alu) {r : LaneRow} (h : lightRow (.smuel m f) = some r) :
    completes (.smuel m f) r := by
  cases h
  refine completes_cvRow rfl fun x l => ?_
  simp only [← stokes_eq]
  exact map_range_mul (fun j i =>
    let t := (stokes m x f l i).getD j ([], [])
    dotWide x.ftz .rne 0 t.1 t.2) 4 (by norm_num)

/-! ## Compact packets and reflectance (08 R227, R228) -/

theorem wcvt_completes (m : Bool) (f : Alu) {r : LaneRow} (h : lightRow (.wcvt m f) = some r) :
    completes (.wcvt m f) r := by
  cases m with
  | true => cases h; exact completes_cvRow rfl fun _ _ => rfl
  | false =>
    cases h
    refine completes_cvRow rfl fun x l => List.map_congr_left fun j _ => ?_
    simp only [fb_eq]
    exact packWords_pair _ _

theorem wfres_completes (m : Bool) (f : Alu) {r : LaneRow} (h : lightRow (.wfres m f) = some r) :
    completes (.wfres m f) r := by
  cases m with
  | true | false =>
    cases h
    refine completes_cvRow rfl fun x l => ?_
    simp only [elem_eq_el, elemB_eq_elB, List.map_map]
    rfl

/-- Settles O29: WLAM by its range, WCVT and WFRES element by element, SMUEL by its Stokes sums. -/
theorem wavelengthsAndPolarisation : Obligations.WavelengthsAndPolarisation := by
  intro i r h
  cases i with
  | wlam f => cases h; exact completes_of_laneOp rfl fun _ _ => rfl
  | wcvt m f => exact wcvt_completes m f h
  | wfres m f => exact wfres_completes m f h
  | smuel m f => exact smuel_completes m f h
  | _ => cases h

end Sys2Proof.Machine
end

section
/-! SUPPORT. The accesses of an instruction, one executing lane after the other, where each of them is
made; what they are made with, and when their counter has room (03 R70, 09 R255, 10 R263). -/

namespace Sys2Proof.Machine

open Sys2Proof.Claim

/-! ## One access after the other -/

section folds
variable {β : Type} {es : List Nat} {k : W → Nat → W × Option β} {w v : W} {rs : List (Nat × β)}

/-- The access of the next lane, where those before it were made. -/
def laneStep (k : W → Nat → W × Option β) (r : W × Option (List (Nat × β))) (l : Nat) :
    W × Option (List (Nat × β)) :=
  match r with
  | (w, none) => (w, none)
  | (w, some xs) => match k w l with
    | (w, some x) => (w, some (xs ++ [(l, x)]))
    | (w, none) => (w, none)

theorem eachLane_eq_foldl : eachLane es k w = es.foldl (laneStep k) (w, some []) := rfl

theorem foldl_laneStep_none : es.foldl (laneStep k) (w, none) = (w, none) := by
  induction es with
  | nil => rfl
  | cons _ _ ih => exact ih

/-- Whatever is gathered lane by lane is as `R` says when every lane's access is made, if one access
keeps it so. -/
theorem foldl_of_eachLane {σ : Type} {R : W → List (Nat × β) → σ → Prop} {step : σ → Nat → σ} {a : σ}
    (h : eachLane es k w = (v, some rs)) (h0 : R w [] a)
    (hstep : ∀ w xs a l w' x, R w xs a → k w l = (w', some x) → R w' (xs ++ [(l, x)]) (step a l)) :
    R v rs (es.foldl step a) := by
  rw [eachLane_eq_foldl] at h
  generalize hxs : ([] : List (Nat × β)) = xs at h h0
  clear hxs
  induction es generalizing w xs a with
  | nil => cases h; exact h0
  | cons l es ih =>
    rw [List.foldl_cons] at h ⊢
    cases hk : k w l with
    | mk w' x =>
      cases x with
      | some x =>
        refine ih _ ?_ (hstep w xs a l w' x h0 hk)
        rw [← h, laneStep, hk]
      | none =>
        rw [laneStep, hk, foldl_laneStep_none] at h
        cases h

/-- Every lane has its entry. -/
theorem eachLane_lanes (h : eachLane es k w = (v, some rs)) : rs.map Prod.fst = es := by
  have hall := foldl_of_eachLane (R := fun _ xs ls => xs.map Prod.fst = ls) (step := fun ls l => ls ++ [l])
    h rfl fun _ xs ls l _ x hx _ => by simp [← hx]
  simpa [← List.flatMap_def] using hall

theorem eachLane_isEmpty (h : eachLane es k w = (v, some rs)) (he : es ≠ []) : rs.isEmpty = false := by
  rw [← eachLane_lanes h] at he
  simpa using he

/-- Each access gathered beside its lane. -/
theorem foldl_collect {α : Type} {step : W × List (Nat × α) → Nat → W × List (Nat × α)} (out : β → α)
    (h : eachLane es k w = (v, some rs))
    (hstep : ∀ w l w' x xs, k w l = (w', some x) → step (w, xs) l = (w', xs ++ [(l, out x)])) :
    es.foldl step (w, []) = (v, rs.map fun e => (e.1, out e.2)) := by
  refine foldl_of_eachLane (R := fun w xs a => a = (w, xs.map fun e => (e.1, out e.2))) h rfl ?_
  rintro w xs _ l w' x rfl hx
  rw [hstep _ _ _ _ _ hx, List.map_append, List.map_singleton]

end folds

/-- A body that neither faults nor waits, known by the state it ends in. -/
theorem run_ends_in {s t : State} {g : Guard} {b : Issue → List Nat → W → Eff} (hr : runs s g = true)
    (hb : ∃ v, b (now s) (lanesOf s g) (moved s) = { w := v } ∧ v.toState s = t) :
    run g b s = .next t := by
  obtain ⟨v, hv, rfl⟩ := hb
  exact run_ends hr hv

/-! ## Accesses that were made -/

/-- The lanes' accesses as the machine gathers them. -/
def accOks (rs : List (Nat × List Byte × Bool)) : List (Nat × LaneAcc) :=
  rs.map fun e => (e.1, .ok e.2.1 e.2.2)

@[simp] theorem accDone_accOks (rs : List (Nat × List Byte × Bool)) : accDone (accOks rs) = rs := by
  simp [accDone, accOks, List.filterMap_map]

@[simp] theorem accFaults_accOks (rs : List (Nat × List Byte × Bool)) : accFaults (accOks rs) = [] := by
  simp [accFaults, accOks]

@[simp] theorem accWaits_accOks (rs : List (Nat × List Byte × Bool)) : accWaits (accOks rs) = [] := by
  simp [accWaits, accOks]

theorem made_eq_some {r : W × LaneAcc} {w : W} {bs : List Byte} {nr : Bool}
    (h : made r = (w, some (bs, nr))) : r = (w, .ok bs nr) := by
  obtain ⟨v, a⟩ := r
  cases a with
  | ok => cases h; rfl
  | wait | bad => cases h

theorem accEach_collect {β : Type} {es : List Nat} {k : W → Nat → W × Option β}
    {acc : W → Nat → W × LaneAcc} {w v : W} {rs : List (Nat × β)} (out : β → List Byte × Bool)
    (h : eachLane es k w = (v, some rs))
    (hk : ∀ w l w' x, k w l = (w', some x) → acc w l = (w', .ok (out x).1 (out x).2)) :
    accEach w es acc = (v, accOks (rs.map fun e => (e.1, out e.2))) := by
  rw [accOks, List.map_map]
  unfold accEach
  refine foldl_collect (fun x => LaneAcc.ok (out x).1 (out x).2) h fun w l w' x xs hx => ?_
  rw [hk w l w' x hx]

theorem accEach_of_eachLane {es : List Nat} {k : W → Nat → W × Option (List Byte × Bool)}
    {acc : W → Nat → W × LaneAcc} {w v : W} {rs : List (Nat × List Byte × Bool)}
    (h : eachLane es k w = (v, some rs))
    (hk : ∀ w l w' bs nr, k w l = (w', some (bs, nr)) → acc w l = (w', .ok bs nr)) :
    accEach w es acc = (v, accOks rs) := by
  rw [accEach_collect id h fun w l w' x => hk w l w' x.1 x.2]
  exact congrArg (fun xs => (v, accOks xs)) (List.map_id rs)

/-! ## What accesses are made with -/

variable {s : State}

theorem rpOf_isSome (rp : Rp) : (rpOf rp).isSome = decide (rp ≠ 7#3) := by
  by_cases h : rp = 7#3 <;> simp [rpOf, h]

theorem accCtx_eq_ctxOf (f : MemF) (rp : Rp) (atomic : Bool) :
    accCtx (now s) (lanesOf s f.g) f rp atomic = ctxOf s f rp atomic := by
  simp only [accCtx, ctxOf, rpOf_isSome]

theorem ofInt_toInt_signExtend {n m : Nat} (x : BitVec n) (h : n ≤ m) :
    BitVec.ofInt m x.toInt = x.signExtend m := by
  rw [← BitVec.toInt_signExtend_of_le h, BitVec.ofInt_toInt]

theorem ea_eq_eaOf (f : MemF) (l : Nat) :
    ({ w := moved s, i := now s } : Rd).ea f l = eaOf s f l := by
  simp only [Rd.ea, eaOf, BitVec.ofInt_add, BitVec.ofInt_toInt,
    ofInt_toInt_signExtend _ (show 32 ≤ 64 by norm_num), ofInt_toInt_signExtend _ (show 38 ≤ 64 by norm_num)]

theorem countFull_of_lt {w : W} {g : Nat} {c : OpClass} (h : w.count g c < 63) :
    w.countFull g c = false := decide_eq_false (Nat.not_le.2 h)

theorem countFull_of_room {c : OpClass} (h : room s c) : (moved s).countFull (now s).gid c = false :=
  countFull_of_lt h

end Sys2Proof.Machine
end

section
/-! SUPPORT. Atomics outside the remote space complete with one step for each lane (10 R276–R279); O36
settled from it. -/

namespace Sys2Proof.Machine

open Sys2Proof.Claim

variable {s : State} {f : MemF}

/-! ## The steps -/

theorem atomW_eq_atomBytes (t : AtomT) : atomW t = atomBytes t := by cases t <;> rfl

theorem casW_eq_casBytes (t : CasT) : casW t = casBytes t := by cases t <;> rfl

theorem atomNew_eq_newValue {t : AtomT} (ht : t ≠ .f32) (o : AtomOp) (old b : Nat) :
    atomNew o t old b = newValue o t old b := by
  cases o with
  | add => simp [atomNew, newValue, ht, atomW_eq_atomBytes]
  | min | max => cases t <;> simp [atomNew, newValue, atomNum, sfield, atomW] <;> rfl
  | and | or | xor | exch => rfl
  | inc => rfl
  | dec => simp [atomNew, newValue]

/-! ## The places -/

/-- An aperture that may be written may be read. -/
theorem aprOk_of_write {w : W} {a n o len : Nat} (h : w.aprOk a n o len true = true) (b : Bool) :
    w.aprOk a n o len b = true := by
  simp only [W.aprOk, Bool.and_eq_true] at h ⊢
  exact ⟨h.1, by cases b <;> simp_all⟩

/-- A place that may be written may be read. -/
theorem target_of_write {w : W} {g tdi ea n : Nat} {sp : Space} {t : Tgt}
    (h : w.target g sp tdi ea n true = .ok t) (b : Bool) : w.target g sp tdi ea n b = .ok t := by
  cases sp with
  | apert =>
    simp only [W.target] at h ⊢
    split_ifs at h with hz ha
    rw [if_neg hz, if_pos (aprOk_of_write ha b)]
    exact h
  | _ => exact h

/-! ## The body -/

/-- An atomic all of whose lanes make their step. -/
theorem run_atomBody {m : AtomI} {w : W} {rs : List (Nat × List Byte × Bool)} (hr : runs s f.g = true)
    (hs : f.space ≠ .remote) (hroom : room s (if m.ret then .ld else .st))
    (h : atomSteps s f m.rp m.n (m.step { w := moved s, i := now s }) = (w, some rs)) :
    run f.g (atomBody m f) s =
      .next (if m.ret then atomReturns s f m.rp m.n w rs else atomReduces s f m.rp w rs) := by
  have hne := eachLane_isEmpty h (lanesOf_ne_nil_of_runs hr)
  refine run_ends_in hr ?_
  simp only [atomBody, if_neg hs, countFull_of_room hroom, Bool.false_eq_true, if_false,
    accCtx_eq_ctxOf, ea_eq_eaOf]
  rw [accEach_of_eachLane (es := lanesOf s f.g) h]
  · simp only [accDone_accOks, accFaults_accOks, accWaits_accOks, hne, Bool.false_and,
      Bool.false_eq_true, if_false, Bool.not_false, Bool.and_true]
    cases m.ret <;> exact ⟨_, rfl, rfl⟩
  · intro w l w' bs nr hk
    cases ht : (moved s).target (now s).gid f.space f.tdi.toNat (eaOf s f l) m.n true with
    | error e => simp only [ht] at hk; cases hk
    | ok t =>
      simp only [ht] at hk
      simp only [target_of_write ht, made_eq_some hk]

/-- AFADDC as a step. -/
def afaddcI (rp : Rp) (f : MemF) : AtomI :=
  { rp := rp, n := 8, ret := false, sz := .b64
    step := fun r l old => some (pairAdd (r.word f.c l) old), req := fun _ _ => noReq .load }

/-- AFADDC that is not staged is one atomic step for each lane. -/
theorem execAfaddc_unstaged {rp : Rp} (hr : runs s f.g = true) (h : ¬ stagesHere s (.afaddc rp f) f) :
    execAfaddc rp f s = run f.g (atomBody (afaddcI rp f) f) s := by
  have hst : (!((moved s).grid (grp s).grid).det || decide (f.space = .scratch)) = true := by
    by_contra hc
    simp only [Bool.or_eq_true, Bool.not_eq_true', decide_eq_true_eq, not_or, Bool.not_eq_false] at hc
    exact h ⟨hc.2, hc.1⟩
  rw [run_finishes (b := atomBody (afaddcI rp f) f) hr rfl]
  exact run_finishes hr (if_pos hst)

/-- Settles O36: each atomic's step is the one R276–R278 give, and its body makes it in every lane. -/
theorem atomicSteps : Obligations.AtomicSteps := by
  intro i r hi s w rs hr hs hst hroom h
  cases i with
  | atom m f =>
    simp only [atomRow] at hi
    split_ifs at hi with hty
    cases hi
    simp only [← atomNew_eq_newValue hty, ← atomW_eq_atomBytes] at h ⊢
    exact run_atomBody (m := atomI m f true) hr hs hroom h
  | ared m f =>
    simp only [atomRow] at hi
    split_ifs at hi with hty
    cases hi
    simp only [← atomNew_eq_newValue hty, ← atomW_eq_atomBytes] at h ⊢
    exact run_atomBody (m := atomI m f false) hr hs hroom h
  | acas m f => cases hi; exact run_atomBody hr hs hroom h
  | afadd m f => cases hi; exact run_atomBody hr hs hroom h
  | afaddc rp f =>
    cases hi
    exact (execAfaddc_unstaged hr hst).trans (run_atomBody (m := afaddcI rp f) hr hs hroom h)
  | _ => cases hi

end Sys2Proof.Machine
end

section
/-! SUPPORT. Fences, flushes and invalidations at their scopes, and the waits for counters (09 R240,
10 R274, R275, R280, R281); O39 settled from it. -/

namespace Sys2Proof.Machine

open Sys2Proof.Claim

variable {s : State}

/-! ## FENCE (10 R274) -/

theorem fenced_eq (f : MemF) : fenced s f =
    (let rel := f.ord = .rel || f.ord = .str
     let acq := f.ord = .acq || f.ord = .str
     let w := if rel then (moved s).releaseAt (now s).gid f.scope else moved s
     if acq then w.acquireAt (now s).gid f.scope else w) := by
  simp only [fenced, Bool.or_eq_true, decide_eq_true_eq]

theorem fence_completes {f : MemF} (hr : runs s f.g = true)
    (ht : (fenced s f).tenterOn ((fenced s f).group (now s).gid).asid = false)
    (hl : f.ord = .acq ∨ (fenced s f).lastRemote (now s).gid = none) :
    exec (.fence f) s = .next ((fenced s f).toState s) := by
  refine run_ends hr ?_
  rw [fenced_eq] at ht hl ⊢
  dsimp only at ht hl ⊢
  simp only [ht, Bool.false_and, Bool.false_eq_true, if_false]
  obtain ha | hl := hl
  · simp [ha]
  · rw [hl, ite_self]

/-! ## CFLUSH and CINV (10 R275) -/

theorem filter_eaOf_bad {f : MemF} {ls : List Nat} (h : ∀ l ∈ ls, eaOf s f l < 2 ^ 56) :
    (ls.filter fun l => decide (2 ^ 56 ≤ eaOf s f l)) = [] := by
  simpa using h

theorem filter_eaOf_good {f : MemF} {ls : List Nat} (h : ∀ l ∈ ls, eaOf s f l < 2 ^ 56) :
    (ls.filter fun l => decide (eaOf s f l < 2 ^ 56)) = ls := by
  simpa using h

theorem flushLine_eq (inv : Bool) (f : MemF) (w : W) (l : Nat) : flushLine s inv f w l =
    (let ln := eaOf s f l / 128
     let lv := scopeLevel f.scope
     let w := if 2 ≤ lv then w.gather1 (grp s).asid ln else w
     let w := if 3 ≤ lv then w.flush2 (grp s).asid ln else w
     let w := if inv && 2 ≤ lv then w.dropAll1 (grp s).asid ln else w
     if inv && 3 ≤ lv then w.evict2 (grp s).asid ln else w) := by
  simp only [flushLine, Bool.and_eq_true, decide_eq_true_eq, ← Nat.not_le, ite_not]

theorem cflush_completes {inv : Bool} {f : MemF} (hr : runs s f.g = true) (hroom : room s .st)
    (ha : ∀ l ∈ lanesOf s f.g, eaOf s f l < 2 ^ 56) :
    exec (.cflush inv f) s = .next ((((lanesOf s f.g).foldl (flushLine s inv f)
      ((moved s).drainAll (now s).gid)).newOp { storeOp s f with done := true }).1.toState s) := by
  refine run_ends hr ?_
  simp only [countFull_of_room hroom, Bool.false_eq_true, if_false, ea_eq_eaOf, filter_eaOf_bad ha,
    filter_eaOf_good ha, List.map_nil]
  rw [show flushLine s inv f = _ from funext fun w => funext fun l => flushLine_eq inv f w l]
  rfl

/-- Below the scope of a core cluster there is nothing to invalidate. -/
theorem cinv_narrow {f : MemF} (hr : runs s f.g = true) (ha : ∀ l ∈ lanesOf s f.g, eaOf s f l < 2 ^ 56)
    (hs : scopeLevel f.scope < 2) : exec (.cinv f) s = .next ((moved s).toState s) := by
  refine run_ends hr ?_
  simp only [ea_eq_eaOf, filter_eaOf_bad ha, if_pos hs, List.map_nil]

/-- The valid sectors of a line that hold a dirty byte, as the machine marks them. -/
def dirtyValid (x : Line) : Nat := (List.range 4).foldl (fun m s =>
  if bits x.wr (32 * s) 32 ≠ 0 && x.sv.testBit s then m + 2 ^ s else m) 0

/-- A sum of powers of two in rising order is the mask of the places chosen. -/
theorem foldl_add_two_pow (p : Nat → Bool) (n : Nat) :
    (List.range n).foldl (fun m s => if p s then m + 2 ^ s else m) 0 =
      laneMask ((List.range n).filter p) := by
  rw [(laneMask_filter_range p n).2]
  induction n with
  | zero => rfl
  | succ n ih =>
    rw [List.range_succ, List.foldl_append, ih, List.map_append, List.sum_append]
    cases hp : p n <;> simp [hp]

theorem testBit_dirtyValid (x : Line) {k : Nat} (hk : k < 4) :
    (dirtyValid x).testBit k = (x.sv.testBit k && (dirtySectors x).contains k) := by
  rw [dirtyValid, foldl_add_two_pow fun s => bits x.wr (32 * s) 32 ≠ 0 && x.sv.testBit s, testBit_laneMask]
  simp [dirtySectors, hk, Bool.and_comm]

/-- The line of one lane: it leaves the core's L1 when it is clean, and keeps its dirty sectors. -/
def cinvLine (w : W) (key : Nat × Nat × Nat) (x : Line) : W :=
  if x.wr = 0 then { w with c.cch.l1 := adel w.c.cch.l1 key }
  else { w with c.cch.l1 := aset w.c.cch.l1 key { x with sv := dirtyValid x } }

theorem cinv_line {f : MemF} {l : Nat} {x : Line} (hr : runs s f.g = true) (hl : lanesOf s f.g = [l])
    (ha : eaOf s f l < 2 ^ 56) (hs : 2 ≤ scopeLevel f.scope)
    (hx : aget (moved s).c.cch.l1 ((grp s).core, (grp s).asid, eaOf s f l / 128) = some x) :
    exec (.cinv f) s =
      .next ((cinvLine (moved s) ((grp s).core, (grp s).asid, eaOf s f l / 128) x).toState s) := by
  have hall : ∀ l ∈ lanesOf s f.g, eaOf s f l < 2 ^ 56 := by rw [hl]; simpa using ha
  refine run_ends hr ?_
  simp only [ea_eq_eaOf, filter_eaOf_bad hall, filter_eaOf_good hall, if_neg (Nat.not_lt.2 hs),
    List.map_nil]
  rw [hl, List.foldl_cons, List.foldl_nil]
  rw [show ((moved s).group (now s).gid) = grp s from rfl, hx]
  rfl

theorem moved_wq : (moved s).wq = [] := by
  rw [moved, W.bumpFresh_wq, W.advance]
  split
  · rfl
  · refine foldl_keeps W.wq (fun w l => ?_) _ _
    rfl

/-- What is left of the line. -/
theorem aget_cinvLine (w : W) (key : Nat × Nat × Nat) (x : Line) :
    match aget (cinvLine w key x).c.cch.l1 key with
    | none => x.wr = 0
    | some y => x.wr ≠ 0 ∧ y.wr = x.wr ∧ ∀ k, k < 4 →
        y.sv.testBit k = (x.sv.testBit k && (dirtySectors x).contains k) := by
  unfold cinvLine
  split_ifs with h
  · rw [aget_adel, if_pos rfl]
    exact h
  · rw [aget_aset_same]
    exact ⟨h, rfl, fun k hk => testBit_dirtyValid x hk⟩

/-- CINV changes nothing but the core's L1. -/
theorem cinvLine_keeps (w : W) (key : Nat × Nat × Nat) (x : Line) :
    (cinvLine w key x).c.thr = w.c.thr ∧ (cinvLine w key x).wq = w.wq := by
  unfold cinvLine
  split_ifs <;> exact ⟨rfl, rfl⟩

theorem fencesAndFlushesPart : FencesAndFlushesPart := by
  refine ⟨fun f s hr ht hl _ => fence_completes hr ht hl, fun inv f s hr hroom ha => cflush_completes hr hroom ha,
    fun f s hr ha hs => cinv_narrow hr ha hs, fun f s l x hr hl ha hs hx => ?_⟩
  obtain ⟨ht, hq⟩ := cinvLine_keeps (moved s) ((grp s).core, (grp s).asid, eaOf s f l / 128) x
  refine ⟨_, cinv_line hr hl ha hs hx, ht, ?_, aget_cinvLine _ _ x⟩
  rw [W.toState_mem, hq, moved_wq]
  rfl

/-! ## WAITC (10 R280, R281) -/

section waits
variable {c : OpClass} {f : Alu}

theorem waitc_tooMany (hr : runs s f.g = true) (h : 63 < countIn s f) :
    exec (.waitc c f) s = .next (allFault s f.g Cause.illegalOperand) :=
  run_allFault hr (if_pos h)

/-- The most recent operations of the class that the count leaves out take in every suspended one. -/
def SuspendedLater (s : State) (c : OpClass) (f : Alu) : Prop :=
  c = .mx → ∀ e ∈ (moved s).suspended (now s).gid,
    (moved s).total (now s).gid .mx ≤ e.2.1.no + countIn s f

/-- What a WAITC does of a count in range, where no suspended operation is due. -/
def waitcEff (s : State) (c : OpClass) (f : Alu) : Eff :=
  if countIn s f < (moved s).count (now s).gid c then
    { w := moved s, park := some (.counter (countIn s f) c) }
  else match coveredBy s c (countIn s f) with
    | [] => { w := moved s }
    | d :: ds =>
      let w := (moved s).modGroup (now s).gid fun x =>
        { x with deferred := x.deferred.filter fun e => !(d :: ds).contains e }
      let low := (minBy (fun (e : Late) => e.no) (d :: ds)).getD d
      Eff.allFault w (lanesOf s f.g) low.cause low.addr

theorem execWaitc_eq (hr : runs s f.g = true) (hn : countIn s f ≤ 63) (hs : SuspendedLater s c f) :
    execWaitc c f s = run f.g (fun _ _ _ => waitcEff s c f) s := by
  have hnone : (if c = .mx then ((moved s).suspended (now s).gid).find? fun e =>
      e.2.1.no + countIn s f < (moved s).total (now s).gid c else none) = none := by
    split_ifs with hc
    · simpa [hc] using hs hc
    · rfl
  rw [run_finishes (b := fun _ _ _ => waitcEff s c f) hr rfl]
  refine run_finishes hr ((if_neg (Nat.not_lt.2 hn)).trans ?_)
  split
  · next e he => cases he.symm.trans hnone
  · rfl

theorem waitc_waits (hr : runs s f.g = true) (hn : countIn s f ≤ 63) (hs : SuspendedLater s c f)
    (h : countIn s f < (moved s).count (now s).gid c) :
    exec (.waitc c f) s = .next (allWait s f.g (.counter (countIn s f) c)) :=
  (execWaitc_eq hr hn hs).trans (run_waits hr (if_pos h))

theorem waitc_completes (hr : runs s f.g = true) (hn : countIn s f ≤ 63) (hs : SuspendedLater s c f)
    (h : (moved s).count (now s).gid c ≤ countIn s f) (hc : coveredBy s c (countIn s f) = []) :
    exec (.waitc c f) s = .next ((moved s).toState s) := by
  refine (execWaitc_eq hr hn hs).trans (run_ends hr ?_)
  rw [waitcEff, if_neg (Nat.not_lt.2 h), hc]

theorem waitc_raises {d : Late} (hr : runs s f.g = true) (hn : countIn s f ≤ 63)
    (hs : SuspendedLater s c f) (h : (moved s).count (now s).gid c ≤ countIn s f)
    (hc : coveredBy s c (countIn s f) = [d]) :
    exec (.waitc c f) s = .next (faulting s
      ((moved s).modGroup (now s).gid fun x =>
        { x with deferred := x.deferred.filter fun e => decide (e ≠ d) })
      ((lanesOf s f.g).map fun l => { lane := l, cause := d.cause, addr := d.addr })) := by
  refine (execWaitc_eq hr hn hs).trans
    (run_faulting hr (by simpa using lanesOf_ne_nil_of_runs hr) ?_)
  rw [waitcEff, if_neg (Nat.not_lt.2 h), hc]
  simp [minBy, Eff.allFault]

end waits

theorem counterWaitsPart : CounterWaitsPart := fun _ _ _ hr =>
  ⟨waitc_tooMany hr, fun hn hs => ⟨waitc_waits hr hn hs, waitc_completes hr hn hs,
    fun _ => waitc_raises hr hn hs⟩⟩

/-- Settles O39: FENCE, CFLUSH and CINV at their scopes, and WAITC case by case. -/
theorem fencesFlushesWaits : Obligations.FencesFlushesWaits := ⟨fencesAndFlushesPart, counterWaitsPart⟩

end Sys2Proof.Machine
end

section
/-! SUPPORT. Elements of tensors read and stored by each lane: LDT and STT complete, or fault at all
lanes (10 R266). -/

namespace Sys2Proof.Machine

open Sys2Proof.Claim

variable {s : State}

/-! ## Flags and accesses of all lanes -/

theorem orAll_append_one (xs : List (BitVec 5)) (x : BitVec 5) : orAll (xs ++ [x]) = orAll xs ||| x := by
  simp [orAll]

/-- The lanes' accesses were all made, their bytes left aside. -/
def AllMade (as : List (Nat × LaneAcc)) (ps : List (Nat × Bool)) : Prop :=
  accFaults as = [] ∧ accWaits as = [] ∧ (accDone as).map (fun e => (e.1, e.2.2)) = ps

theorem AllMade.append {as : List (Nat × LaneAcc)} {ps : List (Nat × Bool)} (h : AllMade as ps)
    (l : Nat) (bs : List Byte) (nr : Bool) : AllMade (as ++ [(l, .ok bs nr)]) (ps ++ [(l, nr)]) := by
  obtain ⟨hf, hw, hd⟩ := h
  refine ⟨?_, ?_, ?_⟩
  · rw [← hf]; simp [accFaults]
  · rw [← hw]; simp [accWaits]
  · rw [← hd]; simp [accDone]

/-! ## One element -/

theorem strictElem_eq (f : MemF) (ix : List Nat) : strictElem s f ix =
    (tdInside (tdOf s f) ix && strictBad f (tdAddr (tdOf s f) ix) (tdCont (tdOf s f)).unit) := by
  simp only [strictElem, strictBad, Bool.and_assoc, ne_eq, decide_not]

theorem elemRead_eq_some {f : MemF} {rp : Rp} {trap : Bool} {ix : List Nat} {w w' : W}
    {x : Word × BitVec 5 × Bool} (h : elemRead s f rp trap ix w = (w', some x)) :
    strictElem s f ix = false ∧
      w.ldtLane (ctxOf s f rp) (tdOf s f) ix trap = (w', .ok x.1 x.2.1 x.2.2) := by
  unfold elemRead at h
  split_ifs at h with hs
  · cases h
  · refine ⟨by simpa using hs, ?_⟩
    split at h
    · next hl => cases h; exact hl
    · cases h

theorem elemWrite_eq_some {f : MemF} {rp : Rp} {trap : Bool} {op l r : Nat} {ix : List Nat} {v : Word}
    {w w' : W} {x : BitVec 5 × Bool} (h : elemWrite s f rp trap op l ix v r w = (w', some x)) :
    strictElem s f ix = false ∧
      ∃ bs, w.sttLane (ctxOf s f rp) op l (tdOf s f) ix v r trap = (w', .ok bs x.2, x.1) := by
  unfold elemWrite at h
  split_ifs at h with hs
  · cases h
  · refine ⟨by simpa using hs, ?_⟩
    split at h
    · next hl => cases h; exact ⟨_, hl⟩
    · cases h

/-! ## LDT -/

theorem td_eq_tdOf (f : MemF) :
    (moved s).td ((moved s).group (now s).gid).asid f.tdi.toNat = tdOf s f := rfl

theorem runIn_eq_coordsFit (f : MemF) :
    (moved s).runIn (now s).gid f.a (tdNdim (tdOf s f)) = coordsFit s f := rfl

theorem coordsOf_eq (f : MemF) (l : Nat) : ({ w := moved s, i := now s } : Rd).coords f.a (tdNdim (tdOf s f)) l =
    coordsOf s f l := rfl

section ldt
variable {rp : Rp} {f : MemF}

theorem ldt_completes {w : W} {rs : List (Nat × Word × BitVec 5 × Bool)}
    (hr : runs s f.g = true) (hroom : room s .ld) (ht : (moved s).tdTensor (tdOf s f) = true)
    (hc : coordsFit s f = true) (h : ldtReads s rp f = (w, some rs)) :
    exec (.ldt rp f) s = .next (ldtDone s rp f w rs) := by
  have hne := eachLane_isEmpty h (lanesOf_ne_nil_of_runs hr)
  refine run_ends_in hr ?_
  simp only [countFull_of_room hroom, td_eq_tdOf, runIn_eq_coordsFit, ht, hc, Bool.not_true,
    Bool.false_eq_true, if_false, accCtx_eq_ctxOf, coordsOf_eq]
  rw [foldl_collect (fun x : Word × BitVec 5 × Bool => LdtRes.ok x.1 x.2.1 x.2.2) h]
  · simp only [List.filterMap_map, Function.comp_def, Prod.mk.eta, List.filterMap_some, List.filterMap_none, hne,
      Bool.false_eq_true, if_false, ldtDone, orAll, List.foldl_map]
    exact ⟨_, rfl, rfl⟩
  · intro w l w' x xs hx
    obtain ⟨hs, hl⟩ := elemRead_eq_some hx
    rw [strictElem_eq] at hs
    simp only [hs, Bool.false_eq_true, if_false, hl]

theorem ldt_notTensor (hr : runs s f.g = true) (hroom : room s .ld)
    (ht : (moved s).tdTensor (tdOf s f) = false) :
    exec (.ldt rp f) s = .next (allFault s f.g Cause.tdInvalid) := by
  refine run_allFault hr ?_
  simp only [countFull_of_room hroom, td_eq_tdOf, ht, Bool.not_false, Bool.false_eq_true, if_false, if_true]

theorem ldt_badCoords (hr : runs s f.g = true) (hroom : room s .ld)
    (ht : (moved s).tdTensor (tdOf s f) = true) (hc : coordsFit s f = false) :
    exec (.ldt rp f) s = .next (allFault s f.g Cause.illegalOperand) := by
  refine run_allFault hr ?_
  simp only [countFull_of_room hroom, td_eq_tdOf, runIn_eq_coordsFit, ht, hc, Bool.not_true,
    Bool.not_false, Bool.false_eq_true, if_false, if_true]

end ldt

/-! ## STT -/

section stt
variable {rp : Rp} {f : MemF}

/-- Lanes stored element by element, each of which is made. -/
theorem sttEach_of_eachLane {es : List Nat} {k : W → Nat → W × Option (BitVec 5 × Bool)} {w v : W}
    {rs : List (Nat × BitVec 5 × Bool)} {ix : Nat → List Nat} {x : Nat → Word} {r : Nat → Nat}
    {acc : W → Nat → List Nat → Word → Nat → W × LaneAcc × BitVec 5} {a : W × List (Nat × LaneAcc) × BitVec 5}
    (ha : sttEach w (es.map fun l => (l, ix l, x l, r l)) acc = a) (h : eachLane es k w = (v, some rs))
    (hk : ∀ w l w' y, k w l = (w', some y) → ∃ bs, acc w l (ix l) (x l) (r l) = (w', .ok bs y.2, y.1)) :
    ∃ as, a = (v, as, orAll (rs.map fun e => e.2.1)) ∧ AllMade as (rs.map fun e => (e.1, e.2.2)) := by
  rw [← ha, sttEach, List.foldl_map]
  refine foldl_of_eachLane (R := fun w xs a => ∃ as, a = (w, as, orAll (xs.map fun e => e.2.1)) ∧
    AllMade as (xs.map fun e => (e.1, e.2.2))) h ⟨[], rfl, rfl, rfl, rfl⟩ ?_
  rintro w xs _ l w' y ⟨as, rfl, hm⟩ hy
  obtain ⟨bs, hb⟩ := hk w l w' y hy
  refine ⟨as ++ [(l, .ok bs y.2)], ?_, ?_⟩
  · rw [hb, List.map_append, List.map_singleton, orAll_append_one]
  · rw [List.map_append]
    exact hm.append l bs y.2

theorem not_isEmpty_of_allMade {as : List (Nat × LaneAcc)} {ps : List (Nat × Bool)} (h : AllMade as ps)
    (hp : ps.isEmpty = false) : (accDone as).isEmpty = false := by
  rw [← h.2.2, List.isEmpty_map] at hp
  exact hp

/-- What is done lane by lane after such accesses. -/
theorem foldl_accDone {σ : Type} {as : List (Nat × LaneAcc)} {ps : List (Nat × Bool)} (h : AllMade as ps)
    (step : σ → Nat → σ) (a : σ) :
    (accDone as).foldl (fun w e => step w e.1) a = (ps.map Prod.fst).foldl step a := by
  rw [← h.2.2, List.map_map, List.foldl_map]
  rfl

theorem stt_completes {w : W} {rs : List (Nat × BitVec 5 × Bool)}
    (hr : runs s f.g = true) (hroom : room s .st) (ht : (moved s).tdTensor (tdOf s f) = true)
    (hc : coordsFit s f = true) (hf : convTarget (tdFmt (tdOf s f)) = true)
    (h : sttWrites s rp f = (w, some rs)) :
    exec (.stt rp f) s = .next (sttDone s rp f w rs) := by
  have hne := eachLane_isEmpty h (lanesOf_ne_nil_of_runs hr)
  refine run_ends_in hr ?_
  simp only [countFull_of_room hroom, td_eq_tdOf, runIn_eq_coordsFit, ht, hc, hf, Bool.not_true,
    Bool.false_eq_true, if_false, accCtx_eq_ctxOf, coordsOf_eq]
  generalize ha : sttEach _ _ _ = a
  obtain ⟨as, rfl, hm⟩ := sttEach_of_eachLane ha h fun w l w' x hx => by
    obtain ⟨hs, bs, hl⟩ := elemWrite_eq_some hx
    rw [strictElem_eq] at hs
    exact ⟨bs, (if_neg (Bool.eq_false_iff.1 hs)).trans hl⟩
  simp only [not_isEmpty_of_allMade hm (by simpa using hne), foldl_accDone hm, hm.1, hm.2.1, hm.2.2]
  refine ⟨_, rfl, ?_⟩
  simp only [sttDone, storeDone, drewEach, List.map_map, Function.comp_def]
  rfl

theorem stt_badCoords (hr : runs s f.g = true) (hroom : room s .st)
    (ht : (moved s).tdTensor (tdOf s f) = true) (hc : coordsFit s f = false) :
    exec (.stt rp f) s = .next (allFault s f.g Cause.illegalOperand) := by
  refine run_allFault hr ?_
  simp only [countFull_of_room hroom, td_eq_tdOf, runIn_eq_coordsFit, ht, hc, Bool.not_true,
    Bool.not_false, Bool.false_eq_true, if_false, if_true]

theorem stt_badFormat (hr : runs s f.g = true) (hroom : room s .st)
    (ht : (moved s).tdTensor (tdOf s f) = true) (hc : coordsFit s f = true)
    (hf : convTarget (tdFmt (tdOf s f)) = false) :
    exec (.stt rp f) s = .next (allFault s f.g Cause.formatInvalid) := by
  refine run_allFault hr ?_
  simp only [countFull_of_room hroom, td_eq_tdOf, runIn_eq_coordsFit, ht, hc, hf, Bool.not_true,
    Bool.not_false, Bool.false_eq_true, if_false, if_true]

end stt

theorem convTarget_of_plain {n : Nat} (hm : fmtMx n = false) (hn : n ≠ 0x0C) : convTarget n = true := by
  simp [convTarget, hm, hn]

theorem convTarget_of_fmtMx {n : Nat} (h : fmtMx n = true) : convTarget n = false := by
  simp [convTarget, h]

theorem tensorElementsPart : TensorElementsPart :=
  ⟨fun _ _ _ _ _ hr hroom ht hc h => ldt_completes hr hroom ht hc h,
    fun _ _ _ _ _ hr hroom ht hc hm hn h => stt_completes hr hroom ht hc (convTarget_of_plain hm hn) h,
    fun _ _ _ hr hroom ht => ldt_notTensor hr hroom ht,
    fun _ _ _ hr ht hc => ⟨fun hroom => ldt_badCoords hr hroom ht hc, fun hroom => stt_badCoords hr hroom ht hc⟩,
    fun _ _ _ hr hroom ht hc hm => stt_badFormat hr hroom ht hc (convTarget_of_fmtMx hm)⟩

end Sys2Proof.Machine
end

section
/-! SUPPORT. What the pops of queue registers leave unchanged: the threads, the teams, the descriptors, the
random seeds and the apertures, by which elements of tensors are found, checked and drawn (12 R319,
17 R415). -/

namespace Sys2Proof.Machine

open Sys2Proof.Claim

variable {w v : W}

/-! ## What elements are found by -/

/-- What an instruction of tensor elements reads of the package beside memory and its operands. -/
def elemState (w : W) : Threads × AMap Nat Team × AMap (Nat × Nat) Td × (Nat → Dword) × (Nat → Dword) :=
  (w.c.thr, w.c.slu.teams, w.c.sys.td, fun a => w.srReg a .srseed, fun n => w.blk .aprCtl n)

theorem group_of_elemState (h : elemState v = elemState w) (g : Nat) : v.group g = w.group g := by
  obtain ⟨ht, -⟩ := Prod.mk.inj h
  simp only [W.group, ht]

theorem td_of_elemState (h : elemState v = elemState w) (a n : Nat) : v.td a n = w.td a n := by
  simp only [elemState, Prod.mk.injEq] at h
  simp only [W.td, h]

theorem tdTensor_of_elemState (h : elemState v = elemState w) (d : Td) : v.tdTensor d = w.tdTensor d := by
  simp only [elemState, Prod.mk.injEq] at h
  have ha : v.aprCtl (tdF d 128 6) = w.aprCtl (tdF d 128 6) := congrFun h.2.2.2.2 _
  simp only [W.tdTensor, W.tdApr, ha]

theorem draw_of_elemState (h : elemState v = elemState w) (g l k : Nat) : v.draw g l k = w.draw g l k := by
  simp only [elemState, Prod.mk.injEq] at h
  obtain ⟨ht, hu, -, hs, -⟩ := h
  simp only [W.draw, W.seed, W.group, W.lane, W.team, ht, hu, congrFun hs]

/-! ## Registers, bytes and reports -/

theorem elemState_setSrReg {r : Reg} (hr : r ≠ .srseed) (a : Nat) (x : Dword) :
    elemState (w.setSrReg a r x) = elemState w := by
  have hs : ∀ b, (w.setSrReg a r x).srReg b .srseed = w.srReg b .srseed := fun b => by
    rw [W.srReg, W.setSrReg, aget_aset_other fun h => hr (Prod.mk.inj h).2]
    rfl
  simp only [elemState, hs]
  rfl

theorem elemState_setBlk {r : Reg} (hr : r ≠ .aprCtl) (n : Nat) (x : Dword) :
    elemState (w.setBlk r n x) = elemState w := by
  have hb : ∀ k, (w.setBlk r n x).blk .aprCtl k = w.blk .aprCtl k := fun k => by
    rw [W.blk, W.setBlk, aget_aset_other fun h => hr (Prod.mk.inj h).1]
    rfl
  simp only [elemState, hb]
  rfl

@[simp] theorem elemState_putBytes : ∀ (bs : List Byte) (w : W) (pa : Nat),
    elemState (w.putBytes pa bs) = elemState w
  | [], _, _ => rfl
  | b :: bs, w, pa => elemState_putBytes bs (w.putByte pa b) (pa + 1)

@[simp] theorem elemState_ringLost (r : Ring) : elemState (w.ringLost r) = elemState w := by
  cases r with
  | ctx a => exact elemState_setSrReg (by decide) _ _
  | sys => exact elemState_setBlk (by decide) _ _

@[simp] theorem elemState_report (r : Ring) (x : Report) : elemState (w.report r x) = elemState w := by
  unfold W.report
  dsimp only
  split
  · exact elemState_ringLost r
  · rfl

@[simp] theorem elemState_reportCtx (a cause kind addr : Nat) :
    elemState (w.reportCtx a cause kind addr) = elemState w := elemState_report _ _

/-! ## Translation -/

@[simp] theorem elemState_setEntryBit (epa bit : Nat) : elemState (w.setEntryBit epa bit) = elemState w := by
  unfold W.setEntryBit
  dsimp only
  split <;> rfl

@[simp] theorem elemState_findPage (a va : Nat) : elemState (w.findPage a va).1 = elemState w := by
  unfold W.findPage
  split
  · rfl
  · dsimp only
    split
    · rfl
    · exact elemState_reportCtx _ _ _ _
    · split
      · exact elemState_setEntryBit _ _
      · rfl

@[simp] theorem elemState_xlate (a va : Nat) (acc : Acc) (u : Bool) :
    elemState (w.xlate a va acc u).1 = elemState w := by
  have hf := elemState_findPage (w := w) a va
  unfold W.xlate
  split
  · next h => rwa [h] at hf
  · exact hf

/-! ## The caches -/

@[simp] theorem elemState_tierAccess (a pa : Nat) : elemState (w.tierAccess a pa) = elemState w := by
  unfold W.tierAccess
  dsimp only
  split
  · rfl
  · split
    · exact elemState_putBytes _ _ _
    · split
      · rfl
      · exact (elemState_setBlk (by decide) _ _).trans (elemState_putBytes _ _ _)

@[simp] theorem elemState_reach3 (a pa : Nat) (tier : Bool) : elemState (w.reach3 a pa tier) = elemState w := by
  unfold W.reach3
  split
  · rfl
  · cases tier with
    | true => exact elemState_tierAccess a pa
    | false => rfl

theorem elemState_write3 (key pa : Nat) (bs : List Byte) :
    elemState ((w.write3 key pa bs).getD w) = elemState w := by
  unfold W.write3
  dsimp only
  split
  · exact elemState_putBytes _ _ _
  · split
    · exact elemState_putBytes _ _ _
    · rfl

@[simp] theorem elemState_writeDirty (key pa : Nat) (bs : List (Nat × Byte)) :
    elemState (w.writeDirty key pa bs) = elemState w :=
  foldl_keeps elemState (fun _ _ => elemState_write3 _ _ _) _ _

@[simp] theorem elemState_flush1 (c a ln : Nat) : elemState (w.flush1 c a ln) = elemState w := by
  unfold W.flush1
  split
  · rfl
  · split <;> rfl

@[simp] theorem elemState_flush2 (a ln : Nat) : elemState (w.flush2 a ln) = elemState w := by
  unfold W.flush2
  split
  · rfl
  · dsimp only
    split
    · rfl
    · exact (elemState_writeDirty _ _ _).trans (elemState_reach3 _ _ _)

@[simp] theorem elemState_gather1 (a ln : Nat) : elemState (w.gather1 a ln) = elemState w :=
  foldl_keeps elemState (fun _ _ => elemState_flush1 _ _ _) _ _

@[simp] theorem elemState_pull3 (pa : Nat) : elemState (w.pull3 pa) = elemState w :=
  foldl_keeps elemState (fun _ _ => (elemState_flush2 _ _).trans (elemState_gather1 _ _)) _ _

@[simp] theorem elemState_meetSectors (pa n : Nat) : elemState (w.meetSectors pa n).1 = elemState w := by
  unfold W.meetSectors
  dsimp only
  split
  · rfl
  · split <;> rfl

@[simp] theorem elemState_acquireAt (g : Nat) (sc : Scope) : elemState (w.acquireAt g sc) = elemState w := by
  unfold W.acquireAt W.acquire
  split <;> rfl

/-! ## Reads at the memory-side cache, and pops -/

/-- A line of a page is written back below the memory-side cache and met there. -/
theorem elemState_meet3 (a pa n : Nat) (tier : Bool) :
    elemState (((w.pull3 pa).reach3 a pa tier).meetSectors pa n).1 = elemState w :=
  (elemState_meetSectors _ _).trans ((elemState_reach3 _ _ _).trans (elemState_pull3 _))

@[simp] theorem elemState_read3 (a va n : Nat) (u : Bool) : elemState (w.read3 a va n u).1 = elemState w := by
  refine foldl_keeps (fun r : W × MRes (List Byte) => elemState r.1) (fun r p => ?_) _ _
  obtain ⟨w, x⟩ := r
  cases x with
  | nonres | bad => rfl
  | ok bs =>
    have hx := elemState_xlate (w := w) a p.1 .read u
    dsimp only
    split
    · next v pg h =>
      rw [h] at hx
      have hm := elemState_meet3 (w := v) a (pg.pa p.1) p.2 (pg.tier = 1)
      split
      · next h3 => rw [h3] at hm; exact hm.trans hx
      · next h3 => rw [h3] at hm; split <;> exact hm.trans hx
    · next h => rwa [h] at hx
    · next h => rwa [h] at hx

@[simp] theorem elemState_pxRead (n k : Nat) : elemState (w.pxRead n k).1 = elemState w := by
  refine foldl_keeps (fun r : W × MRes (List Word) => elemState r.1) (fun r i => ?_) _ _
  obtain ⟨w, x⟩ := r
  cases x with
  | nonres | bad => rfl
  | ok xs =>
    dsimp only
    split <;> next h => exact (congrArg (fun r => elemState r.1) h).symm.trans (elemState_read3 _ _ _ _)

@[simp] theorem elemState_pxDrop (n k : Nat) : elemState (w.pxDrop n k) = elemState w :=
  elemState_setBlk (by decide) _ _

/-- A pop from a hardware queue changes its elements, one from a proxy queue what an acquire and the read
of a ring change. -/
theorem elemState_pop (g q : Nat) (es : List Nat) : elemState (w.pop g q es).1 = elemState w := by
  unfold W.pop
  dsimp only
  generalize (if (w.bind g q).u then 1 else es.length) = k
  split
  · split_ifs <;> rfl
  · have ha : elemState (w.acquireAt g .pod) = elemState w := elemState_acquireAt _ _
    generalize w.acquireAt g .pod = v at ha ⊢
    generalize (if k ≤ v.pxCount (w.bind g q).n then k else v.pxCount (w.bind g q).n) = m
    have hr := (elemState_pxRead (w := v) (w.bind g q).n m).trans ha
    split
    · exact ha
    · split
      · next h =>
        rw [h] at hr
        split_ifs <;> exact (elemState_pxDrop _ _).trans hr
      · next h => rwa [h] at hr
      · next h => rwa [h] at hr
  · rfl

theorem elemState_popAll (g : Nat) (es qs : List Nat) : elemState (w.popAll g es qs).1 = elemState w := by
  refine foldl_keeps (fun r : W × QRes (List (Nat × List (Nat × Word)) × List (Nat × List Nat)) =>
    elemState r.1) (fun r q => ?_) _ _
  obtain ⟨w, x⟩ := r
  cases x with
  | fault | park => rfl
  | ok x =>
    have hp := elemState_pop (w := w) g q es
    dsimp only
    split <;> next h => rwa [h] at hp

/-- The pops of an instruction's sources leave what elements are found by. -/
theorem elemState_of_popped {s : State} {g : Guard} {srcs : List Opnd} {x : Rd} {zs : List (Nat × List Nat)}
    (h : popped s g srcs = some (w, x, zs)) : elemState w = elemState (moved s) := by
  obtain ⟨pops, hp, -⟩ := popAll_of_popped h
  exact (congrArg (fun r => elemState r.1) hp).symm.trans (elemState_popAll _ _ _)

end Sys2Proof.Machine
end

section
/-! SUPPORT. GATH and SCAT complete with the elements of each lane, or fault at all lanes (10 R267, R268). -/

namespace Sys2Proof.Machine

open Sys2Proof.Claim

variable {s : State}

/-! ## A body after its pops -/

section pops
variable {g : Guard} {srcs : List Opnd} {k : Rd → List Nat → W → Eff} {w : W} {x : Rd}
  {zs : List (Nat × List Nat)}

/-- A body that neither faults nor waits, after its pops: the end predicates follow. -/
theorem popBody_ends {v : W} (hr : runs s g = true) (hp : popped s g srcs = some (w, x, zs))
    (hk : k x (lanesOf s g) w = { w := v }) :
    popBody srcs k (now s) (lanesOf s g) (moved s) = { w := endedBy s g srcs zs v } := by
  have hl : ¬ 0 = (lanesOf s g).length := fun h =>
    lanesOf_ne_nil_of_runs hr (List.eq_nil_of_length_eq_zero h.symm)
  have he := endPreds_of_popped hp v
  obtain ⟨pops, ha, rfl⟩ := popAll_of_popped hp
  unfold popBody
  split
  · next hq =>
    rw [hq] at ha
    cases ha
    rw [hk, endedBy, if_pos hq]
  · rw [ha]
    simp [hk, hl, he]

/-- A body that faults at all lanes, after its pops as without them: no queue changes (03 R63). -/
theorem popBody_allFault {c a : Nat} (hp : popped s g srcs = some (w, x, zs))
    (hk : ∀ v, v = w ∨ v = moved s → k x (lanesOf s g) v = Eff.allFault v (lanesOf s g) c a) :
    popBody srcs k (now s) (lanesOf s g) (moved s) = Eff.allFault (moved s) (lanesOf s g) c a := by
  obtain ⟨pops, ha, rfl⟩ := popAll_of_popped hp
  unfold popBody
  split
  · next hq =>
    rw [hq] at ha
    cases ha
    exact hk _ (.inr rfl)
  · rw [ha]
    simp only [hk w (.inl rfl), hk _ (.inr rfl)]
    exact if_pos (by simp [Eff.allFault])

/-- Such a body, known by the state it ends in. -/
theorem run_popBody_ends_in {t : State} (hr : runs s g = true) (hp : popped s g srcs = some (w, x, zs))
    (hb : ∃ v, k x (lanesOf s g) w = { w := v } ∧ (endedBy s g srcs zs v).toState s = t) :
    run g (popBody srcs k) s = .next t := by
  obtain ⟨v, hv, ht⟩ := hb
  exact run_ends_in hr ⟨_, popBody_ends hr hp hv, ht⟩

end pops

/-! ## The descriptor after the pops -/

section column
variable {f : MemF} {v w0 : W} {x : Rd} {zs : List (Nat × List Nat)}

theorem td_of_same (he : elemState v = elemState (moved s)) :
    v.td (v.group (now s).gid).asid f.tdi.toNat = tdOf s f := by
  rw [td_of_elemState he, group_of_elemState he]
  rfl

theorem issue_of_column (hp : column s f = some (w0, x, zs)) : x.i = now s := by
  obtain ⟨pops, -, rfl⟩ := popAll_of_popped hp
  rfl

end column

/-! ## GATH -/

/-- The elements of one lane, read one after the other. -/
theorem foldl_elemReads {es : List Nat} {k : W → Nat → W × Option (Word × BitVec 5 × Bool)} {w v : W}
    {xs : List (Nat × Word × BitVec 5 × Bool)}
    {step : W × Option (Nat × Nat) × List Word × BitVec 5 × Bool → Nat →
      W × Option (Nat × Nat) × List Word × BitVec 5 × Bool}
    (h : eachLane es k w = (v, some xs))
    (hstep : ∀ w ys fl nr j w' y, k w j = (w', some y) →
      step (w, none, ys, fl, nr) j = (w', none, ys ++ [y.1], fl ||| y.2.1, nr || y.2.2)) :
    es.foldl step (w, none, [], 0, false) =
      (v, none, xs.map fun e => e.2.1, orAll (xs.map fun e => e.2.2.1), xs.any fun e => e.2.2.2) := by
  refine foldl_of_eachLane (R := fun w xs a => a = (w, none, xs.map fun e => e.2.1,
    orAll (xs.map fun e => e.2.2.1), xs.any fun e => e.2.2.2)) h rfl ?_
  rintro w xs _ j w' y rfl hy
  rw [hstep _ _ _ _ _ _ _ hy]
  simp [orAll_append_one]

section gath
variable {m : GathM} {f : MemF} {w0 : W} {x : Rd} {zs : List (Nat × List Nat)}

theorem gath_completes {w : W} {rs : List (Nat × List Word × BitVec 5 × Bool)} (hr : runs s f.g = true)
    (ht : (moved s).tdTensor (tdOf s f) = true) (hn : tdNdim (tdOf s f) = 2)
    (hp : column s f = some (w0, x, zs)) (hc : counted s .ga w0) (h : gathReads s m f x w0 = (w, some rs)) :
    exec (.gath m f) s = .next (gathDone s m f zs w rs) := by
  have hne := eachLane_isEmpty h (lanesOf_ne_nil_of_runs hr)
  have he := elemState_of_popped hp
  refine run_popBody_ends_in hr hp ?_
  simp only [issue_of_column hp, countFull_of_lt hc, td_of_same he, tdTensor_of_elemState he, ht, hn, accCtx_eq_ctxOf,
    Bool.not_true, Bool.false_or, ne_eq, not_true_eq_false, decide_false, Bool.false_eq_true, if_false]
  rw [foldl_collect (fun y : List Word × BitVec 5 × Bool => (none, y.1, y.2.1, y.2.2)) h]
  · simp only [List.filterMap_map, Function.comp_def, Option.map_none, List.filterMap_none, List.filter_map,
      Option.isNone_none, List.filter_true, List.isEmpty_map, hne, Bool.false_eq_true, if_false,
      List.map_map, List.foldl_map]
    refine ⟨_, rfl, ?_⟩
    simp only [gathDone, orAll, List.foldl_map]
    rfl
  · intro w l w' y ys hy
    split at hy
    · next v xs hxs =>
      cases hy
      rw [foldl_elemReads hxs fun w ys fl nr j w' y hy => ?_]
      obtain ⟨hs, hl⟩ := elemRead_eq_some hy
      rw [strictElem_eq] at hs
      simp only [gathIx] at hs hl
      simp only [hs, Bool.false_eq_true, if_false, hl]
    · cases hy

end gath

/-! ## SCAT -/

/-- The elements of one lane, stored one after the other. -/
theorem foldl_elemWrites {es : List Nat} {k : W → Nat → W × Option (BitVec 5 × Bool)} {w v : W}
    {xs : List (Nat × BitVec 5 × Bool)} {step : W × LaneAcc × BitVec 5 → Nat → W × LaneAcc × BitVec 5}
    (h : eachLane es k w = (v, some xs))
    (hstep : ∀ w nr fl j w' y, k w j = (w', some y) →
      step (w, .ok [] nr, fl) j = (w', .ok [] (nr || y.2), fl ||| y.1)) :
    es.foldl step (w, .ok [] false, 0#5) =
      (v, .ok [] (xs.any fun e => e.2.2), orAll (xs.map fun e => e.2.1)) := by
  refine foldl_of_eachLane (R := fun w xs a => a = (w, LaneAcc.ok [] (xs.any fun e => e.2.2),
    orAll (xs.map fun e => e.2.1))) h rfl ?_
  rintro w xs _ j w' y rfl hy
  rw [hstep _ _ _ _ _ _ hy]
  simp [orAll_append_one]

/-- The accesses of the lanes and their flags together. -/
theorem foldl_scatters {es : List Nat} {k : W → Nat → W × Option (BitVec 5 × Bool)} {w v : W}
    {rs : List (Nat × BitVec 5 × Bool)}
    {step : W × List (Nat × LaneAcc) × BitVec 5 → Nat → W × List (Nat × LaneAcc) × BitVec 5}
    (h : eachLane es k w = (v, some rs))
    (hstep : ∀ w as fl l w' y, k w l = (w', some y) →
      step (w, as, fl) l = (w', as ++ [(l, .ok [] y.2)], fl ||| y.1)) :
    es.foldl step (w, [], 0#5) =
      (v, accOks (rs.map fun e => (e.1, [], e.2.2)), orAll (rs.map fun e => e.2.1)) := by
  refine foldl_of_eachLane (R := fun w xs a => a = (w, accOks (xs.map fun e => (e.1, [], e.2.2)),
    orAll (xs.map fun e => e.2.1))) h rfl ?_
  rintro w xs _ l w' y rfl hy
  rw [hstep _ _ _ _ _ _ hy]
  simp [orAll_append_one, accOks]

section scat
variable {m : GathM} {f : MemF} {w0 : W} {x : Rd} {zs : List (Nat × List Nat)}

theorem scatStart_eq (f : MemF) (w : W) : scatStart s f w =
    (if f.ord = .rel || f.ord = .str then w.releaseAt (now s).gid f.scope else w).newOp
      { gid := (now s).gid, cls := .ga, iaddr := (now s).pc, kind := .scat (lanesOf s f.g).length
        scope := f.scope } := by
  simp only [scatStart, Bool.or_eq_true, decide_eq_true_eq]

theorem scat_completes {w : W} {rs : List (Nat × BitVec 5 × Bool)} (hr : runs s f.g = true)
    (ht : (moved s).tdTensor (tdOf s f) = true) (hn : tdNdim (tdOf s f) = 2)
    (hf : convTarget (tdFmt (tdOf s f)) = true) (hp : column s f = some (w0, x, zs))
    (hc : counted s .ga w0) (h : scatWrites s m f x w0 = (w, some rs)) :
    exec (.scat m f) s = .next (scatDone s m f w0 zs w rs) := by
  have hne := eachLane_isEmpty h (lanesOf_ne_nil_of_runs hr)
  have he := elemState_of_popped hp
  refine run_popBody_ends_in hr hp ?_
  simp only [issue_of_column hp, countFull_of_lt hc, td_of_same he, tdTensor_of_elemState he,
    draw_of_elemState he, ht, hn, hf, accCtx_eq_ctxOf, Bool.not_true, Bool.false_or, ne_eq,
    not_true_eq_false, decide_false, Bool.false_eq_true, if_false, ← scatStart_eq]
  rw [foldl_scatters h]
  · simp only [accDone_accOks, accFaults_accOks, accWaits_accOks, List.isEmpty_map, hne, Bool.not_false,
      Bool.true_or, List.map_map, List.foldl_map, Function.comp_def]
    refine ⟨_, rfl, ?_⟩
    simp only [scatDone, drewEach, List.foldl_map]
  · intro w as fl l w' y hy
    split at hy
    · next v xs hxs =>
      cases hy
      rw [foldl_elemWrites hxs fun w nr fl j w' y hy => ?_]
      obtain ⟨hs, bs, hl⟩ := elemWrite_eq_some hy
      rw [strictElem_eq] at hs
      simp only [gathIx] at hs hl
      simp only [hs, Bool.false_eq_true, if_false, hl]
    · cases hy

end scat

/-! ## Descriptors of other than two dimensions -/

section dims
variable {m : GathM} {f : MemF} {v w0 : W} {x : Rd} {zs : List (Nat × List Nat)}

/-- The counter and the dimensions read the same with the pops and without them. -/
theorem column_badDims (hp : column s f = some (w0, x, zs)) (hroom : room s .ga) (hc : counted s .ga w0)
    (hn : tdNdim (tdOf s f) ≠ 2) (hv : v = w0 ∨ v = moved s) :
    v.countFull (now s).gid .ga = false ∧
      (!v.tdTensor (v.td (v.group (now s).gid).asid f.tdi.toNat) ||
        decide (tdNdim (v.td (v.group (now s).gid).asid f.tdi.toNat) ≠ 2)) = true := by
  have he : elemState v = elemState (moved s) := by
    rcases hv with rfl | rfl
    · exact elemState_of_popped hp
    · rfl
  refine ⟨?_, by simp [td_of_same he, hn]⟩
  rcases hv with rfl | rfl
  · exact countFull_of_lt hc
  · exact countFull_of_room hroom

theorem gath_badDims (hr : runs s f.g = true) (hp : column s f = some (w0, x, zs)) (hroom : room s .ga)
    (hc : counted s .ga w0) (hn : tdNdim (tdOf s f) ≠ 2) :
    exec (.gath m f) s = .next (allFault s f.g Cause.tdInvalid) := by
  refine run_allFault hr (popBody_allFault hp fun v hv => ?_)
  obtain ⟨hfull, hdim⟩ := column_badDims hp hroom hc hn hv
  rw [issue_of_column hp, if_neg (Bool.eq_false_iff.1 hfull), if_pos hdim]

theorem scat_badDims (hr : runs s f.g = true) (hp : column s f = some (w0, x, zs)) (hroom : room s .ga)
    (hc : counted s .ga w0) (hn : tdNdim (tdOf s f) ≠ 2) :
    exec (.scat m f) s = .next (allFault s f.g Cause.tdInvalid) := by
  refine run_allFault hr (popBody_allFault hp fun v hv => ?_)
  obtain ⟨hfull, hdim⟩ := column_badDims hp hroom hc hn hv
  rw [issue_of_column hp, if_neg (Bool.eq_false_iff.1 hfull), if_pos hdim]

end dims

theorem gatherScatterPart : GatherScatterPart :=
  ⟨fun _ _ _ _ _ _ _ _ hr ht hn hp hc h => gath_completes hr ht hn hp hc h,
    fun _ _ _ _ _ _ _ _ hr ht hn hm h0 hp hc h =>
      scat_completes hr ht hn (convTarget_of_plain hm h0) hp hc h,
    fun _ _ _ _ _ _ hr hp hroom hc hn => ⟨gath_badDims hr hp hroom hc hn, scat_badDims hr hp hroom hc hn⟩⟩

end Sys2Proof.Machine
end

section
/-! SUPPORT. CSTORE stores the data of the lanes chosen at consecutive addresses (10 R269); O37 settled
from its three parts. -/

namespace Sys2Proof.Machine

open Sys2Proof.Claim

variable {s : State}

section cstore
variable {m : CstM} {f : MemF} {w w2 : W} {xs : List (Nat × Unit)} {ys : List (Nat × List Byte × Bool)}

/-! ## The lanes and their places -/

theorem filter_eq_cstLanes (f : MemF) :
    ((lanesOf s f.g).filter fun l => ({ w := moved s, i := now s } : Rd).word f.b l ≠ 0) = cstLanes s f :=
  List.filter_congr fun l _ => by simp [← BitVec.toNat_inj]

theorem base_eq_cstAddr (m : CstM) (f : MemF) (k : Nat) :
    ((({ w := moved s, i := now s } : Rd).pair f.a 0 + f.ofs.signExtend 64).toNat + Claim.cstBytes m * k) % 2 ^ 64 =
      cstAddr s m f k := by
  rw [cstAddr, BitVec.ofInt_add, BitVec.ofInt_toInt, ofInt_toInt_signExtend _ (by norm_num)]

theorem cstPlace_eq_some {k : Nat} {t : Tgt} (h : cstPlace s m f k = some t) :
    (moved s).target (now s).gid f.space f.tdi.toNat (cstAddr s m f k) (Claim.cstBytes m) true = .ok t ∧
      strictBad f (tgtAddr t) (Claim.cstBytes m) = false := by
  unfold cstPlace at h
  split at h
  · cases h
  · next ht =>
    split_ifs at h with hs
    cases h
    exact ⟨ht, by simpa [strictBad] using hs⟩

theorem coherent_eq_some {sp : Nat × Nat} {v : Nat} {tenter : Bool} {w w' : W} {x : Unit}
    (h : coherent s m f sp v tenter w = (w', some x)) :
    w.cohere (ctxOf s f m.rp) sp v (Claim.cstBytes m) true tenter = (w', none) := by
  unfold coherent at h
  split at h
  · next hc => cases h; exact hc
  · cases h

/-- No element of a page that is not present was passed over. -/
theorem find?_skipped_none (xs : List (Nat × Unit)) :
    (xs.map fun e => (e.1, ([] : List Byte), false)).find? (fun e => e.2.2) = none := by
  simp

/-! ## The instruction -/

theorem storeOp_eq (f : MemF) : ({ gid := (now s).gid, cls := .st, iaddr := (now s).pc, kind := .store
                                   scope := f.scope } : Op) = storeOp s f := rfl

theorem cstore_completes (hr : runs s f.g = true) (hroom : room s .st)
    (hx : cstChecks s m f = (w, some xs)) (hy : cstWrites s m f w = (w2, some ys)) :
    exec (.cstore m f) s = .next (cstDone s m f (opAt w) w2) := by
  refine run_ends_in hr ?_
  simp only [countFull_of_room hroom, Bool.false_eq_true, if_false, accCtx_eq_ctxOf, filter_eq_cstLanes,
    show (if m.wid = .b64 then 8 else 4) = Claim.cstBytes m from rfl, base_eq_cstAddr]
  rw [accEach_collect (fun _ => ([], false)) hx]
  · simp only [accFaults_accOks, accWaits_accOks, accDone_accOks, find?_skipped_none, storeOp_eq]
    rw [accEach_of_eachLane hy]
    · simp only [accFaults_accOks, List.drop_length, List.contains_nil]
      exact ⟨_, rfl, rfl⟩
    · intro v k v' bs nr hk
      cases hp : cstPlace s m f k with
      | none => simp only [hp] at hk; cases hk
      | some t =>
        simp only [hp] at hk
        simp only [(cstPlace_eq_some hp).1]
        exact made_eq_some hk
  · intro w k w' x hk
    cases hp : cstPlace s m f k with
    | none => simp only [hp] at hk; cases hk
    | some t =>
      obtain ⟨ht, hs⟩ := cstPlace_eq_some hp
      simp only [hp] at hk
      simp only [ht, hs, Bool.false_eq_true, if_false]
      cases t with
      | va v =>
        simp only at hk ⊢
        split at hk
        · next hpr =>
          have hco := coherent_eq_some hk
          rw [grp] at hpr hco
          simp only [hpr, hco, List.isEmpty_nil, Bool.not_true]
        · cases hk
      | ap n o => simp only [coherent_eq_some hk]
      | sp o =>
        simp only at hk ⊢
        split at hk
        · next hg => cases hk; simp only [hg]
        · cases hk
      | _ => cases hk; rfl

end cstore

/-- Settles O37: tensor elements, gathers with scatters, and compressed stores, each when every access of it
is made. -/
theorem tensorElements : Obligations.TensorElements :=
  ⟨tensorElementsPart, gatherScatterPart, fun _ _ _ _ _ _ _ hr hroom hx hy => cstore_completes hr hroom hx hy⟩

end Sys2Proof.Machine
end

section
/-! SUPPORT. Queue registers bound, closed and read, and streams started (12 R317, R318, R322–R325,
17 R415); O42 settled from it. -/

namespace Sys2Proof.Machine

open Sys2Proof.Claim

variable {s : State}

theorem group_eq_grp : (moved s).group (now s).gid = grp s := rfl

theorem team_eq_teamNo : (grp s).team = teamNo s := rfl

theorem hq_setHq_same (w : W) (t h : Nat) (x : HwQueue) : (w.setHq t h x).hq t h = x := by
  simp only [W.hq, W.setHq, aget_aset_same, Option.getD]

/-! ## QBIND (12 R317, R318, 17 R415) -/

section qbind
variable {m : QbindM} {q : Fin 16} {u : Bool} {f : EngF} {w : W}

/-- A team's queue, claimed where no QBIND named it before. -/
def claimedQueue (s : State) (h : Nat) : W :=
  if (aget (moved s).c.eng.hq (teamNo s, h)).isSome then moved s else (moved s).setHq (teamNo s) h {}

theorem claim_of_claims {h : Nat} (hc : claims s h) :
    (moved s).claim (teamNo s) h = some (claimedQueue s h) := by
  unfold W.claim claimedQueue
  split
  · rfl
  · next hn => exact if_pos (hc.resolve_left hn)

theorem claim_of_not_claims {h : Nat} (hc : ¬ claims s h) : (moved s).claim (teamNo s) h = none := by
  rw [claims, not_or] at hc
  exact (if_neg hc.1).trans (if_neg hc.2)

theorem claimedQueue_hq (h : Nat) : (claimedQueue s h).hq (teamNo s) h = queueAt s h := by
  unfold claimedQueue queueAt
  split
  · rfl
  · next hn =>
    rw [Option.not_isSome_iff_eq_none] at hn
    rw [hq_setHq_same, W.hq, hn, Option.getD]

theorem bindHq_claimed (hc : claims s (f.eimm.toNat % 16)) (hf : f.eimm.toNat.testBit 4 = false) :
    (moved s).bindHq m f (now s).gid = .ok (bound (claimedQueue s (f.eimm.toNat % 16)) s m.q
      { kind := m.kind, n := f.eimm.toNat % 16, u := m.u
        endp := if m.kind = .pop then endOf f else none }) := by
  unfold W.bindHq
  simp only [group_eq_grp, team_eq_teamNo, claim_of_claims hc, hf,
    Bool.false_and, Bool.false_eq_true, if_false, Bool.and_eq_true, decide_eq_true_eq, ite_and]
  rfl

/-- A fresh queue (EIMM[4]) must not have streams. -/
theorem bindHq_streams (hc : claims s (f.eimm.toNat % 16)) (hf : f.eimm.toNat.testBit 4 = true)
    (hs : (queueAt s (f.eimm.toNat % 16)).streams ≠ []) :
    (moved s).bindHq m f (now s).gid = .error Cause.queueOverrun := by
  unfold W.bindHq
  simp only [group_eq_grp, team_eq_teamNo, claim_of_claims hc,
    claimedQueue_hq]
  exact if_pos (by simpa [hf] using hs)

theorem bindHq_noneFree (hc : ¬ claims s (f.eimm.toNat % 16)) :
    (moved s).bindHq m f (now s).gid = .error Cause.queueUnbound := by
  unfold W.bindHq
  simp only [group_eq_grp, team_eq_teamNo, claim_of_not_claims hc]

theorem qbind_hq (hr : runs s f.g = true) (hk : m.kind = .pop ∨ m.kind = .push)
    (hb : (moved s).bindHq m f (now s).gid = .ok w) :
    exec (.qbind m f) s = .next (bindDone s m.q w) := by
  refine run_ends hr ?_
  obtain hk | hk := hk <;> simp only [hk, hb]

theorem qbind_hq_faults {c : Nat} (hr : runs s f.g = true) (hk : m.kind = .pop ∨ m.kind = .push)
    (hb : (moved s).bindHq m f (now s).gid = .error c) :
    exec (.qbind m f) s = .next (allFault s f.g c) := by
  refine run_allFault hr ?_
  obtain hk | hk := hk <;> simp only [hk, hb]

theorem qbind_task (hr : runs s f.g = true)
    (he : entryValid ((rd s f.g).pair f.a 0).toNat = true) (ht : tflagsOk f.eimm.toNat = true)
    (hw : f.eimm.toNat / 65536 % 256 = 0) :
    exec (.qbind { q := q, kind := .task, u := u } f) s = .next (bindDone s q (bound (moved s) s q
      { kind := .task, u := u, entry := ((rd s f.g).pair f.a 0).toNat, tflags := f.eimm.toNat })) := by
  refine run_ends hr ?_
  have hok : (entryValid ((rd s f.g).pair f.a 0).toNat && tflagsOk f.eimm.toNat &&
      decide (bits f.eimm.toNat 16 8 = 0)) = true := by
    simp only [he, ht, Bool.true_and, decide_eq_true_eq]
    exact hw
  dsimp only
  rw [← rd, if_pos hok]
  rfl

theorem qbind_task_badEntry (hr : runs s f.g = true)
    (he : entryValid ((rd s f.g).pair f.a 0).toNat = false) :
    exec (.qbind { q := q, kind := .task, u := u } f) s =
      .next (allFault s f.g Cause.taskRecordInvalid) := by
  refine run_allFault hr ?_
  dsimp only
  rw [← rd, he]
  rfl

theorem qbind_pxpop (hr : runs s f.g = true)
    (ho : (moved s).pxOwned (f.eimm.toNat % 256) (grp s).asid = true) :
    exec (.qbind { q := q, kind := .pxpop, u := u } f) s = .next (bindDone s q (bound (moved s) s q
      { kind := .pxpop, n := f.eimm.toNat % 256, u := u, endp := endOf f })) := by
  refine run_ends hr ?_
  dsimp only
  rw [← grp, if_pos ho]
  rfl

/-- The wakes of a rebinding touch fragments only. -/
theorem rebound_keeps {β : Type} (p : W → β) (hp : ∀ w f, p (W.wake w f) = p w) (w : W) (g q : Nat) :
    p (w.rebound g q) = p w := by
  refine foldl_keeps p (fun w f => ?_) _ _
  split
  · split
    · exact hp w f
    · rfl
  · rfl

theorem remCheck_enabled {a d : Nat} (ha : w.podEn a = true) (hd : w.reaches d = true) :
    w.remCheck a d [] false = none := by
  simp [W.remCheck, ha, hd]

/-- A forwarding buffer entered under the next number. -/
def withBuf (w : W) (b : FwdBuf) : W :=
  { w with c.fab.nextBuf := w.c.fab.nextBuf + 1, c.fab.bufs := aset w.c.fab.bufs w.c.fab.nextBuf b }

/-- The buffer of a push end of a proxy queue. -/
def pushBuf (s : State) (q : Fin 16) (f : EngF) : FwdBuf :=
  { gid := (now s).gid, q := q.val, asid := (grp s).asid, job := (moved s).podJob (grp s).asid
    pkg := f.eimm.toNat / 2 ^ 22 % 1024, n := f.eimm.toNat % 256 }

theorem qbind_pxpush (hr : runs s f.g = true) (hp : (moved s).podEn (grp s).asid = true)
    (hd : (moved s).reaches (f.eimm.toNat / 2 ^ 22 % 1024) = true) :
    exec (.qbind { q := q, kind := .pxpush, u := u } f) s =
      .next (bindDone s q (bound (withBuf (moved s) (pushBuf s q f)) s q
        { kind := .pxpush, n := f.eimm.toNat % 256, u := u, buf := (moved s).c.fab.nextBuf })) := by
  refine run_ends hr ?_
  have hc : (moved s).remCheck (grp s).asid (bits f.eimm.toNat 22 10) [] false = none :=
    remCheck_enabled hp hd
  simp only [W.bindPush, group_eq_grp, hc]
  rfl

theorem bindDone_bind (s : State) (q : Fin 16) (w : W) (b : Bind) :
    (bindDone s q (bound w s q b)).toW.bind (now s).gid q.val = b := by
  refine (rebound_keeps (fun w => w.bind (now s).gid q.val) (fun _ _ => rfl) _ _ _).trans ?_
  simp only [bound, W.bind, W.setBind, aget_aset_same, Option.getD]

theorem bindDone_bufs (s : State) (q : Fin 16) (w : W) (b : Bind) :
    (bindDone s q (bound w s q b)).chip.fab.bufs = w.c.fab.bufs :=
  rebound_keeps (fun w => w.c.fab.bufs) (fun _ _ => rfl) _ _ _

theorem moved_fab : (moved s).c.fab = s.chip.fab := by
  rw [moved, W.bumpFresh_c_fab, W.advance]
  split
  · rfl
  · refine foldl_keeps (fun w : W => w.c.fab) (fun w l => ?_) _ _
    rfl

end qbind

theorem queueBindingsPart : QueueBindingsPart := by
  refine fun q u f s hr => ⟨run_ends hr rfl, fun k hk hc => ⟨fun h4 => ?_, fun h4 hs => ?_⟩,
    fun k hk hc => ?_, ⟨qbind_task hr, qbind_task_badEntry hr⟩, qbind_pxpop hr, fun hp hd => ?_⟩
  · exact qbind_hq hr hk (bindHq_claimed hc h4)
  · exact qbind_hq_faults hr hk (bindHq_streams hc h4 hs)
  · exact qbind_hq_faults hr hk (bindHq_noneFree hc)
  · refine ⟨_, qbind_pxpush hr hp hd, ?_, ?_⟩
    · rw [bindDone_bind, moved_fab]
    · rw [bindDone_bufs, withBuf, moved_fab]
      exact aget_aset_same _ _ _

/-! ## SCLOSE and QSTAT (12 R324, R325) -/

section close
variable {q : Fin 16} {f : Alu} {b : Bind}

theorem closeIf_noLoad {h : HwQueue} (hs : ∀ x ∈ h.streams, x.store = true) :
    closeIf { h with closepend := true } = { h with closepend := false, closed := true } :=
  if_pos (by simpa using hs)

theorem closeIf_load {h : HwQueue} (hs : ∃ x ∈ h.streams, x.store = false) :
    closeIf { h with closepend := true } = { h with closepend := true } :=
  if_neg (by simpa using hs)

theorem sclose_hq {w : W} (hr : runs s f.g = true) (hb : (moved s).bind (now s).gid q.val = b)
    (hk : b.kind = .pop ∨ b.kind = .push) (hw : (if (queueAt s b.n).closed then moved s
      else (moved s).setHq (teamNo s) b.n (closeIf { queueAt s b.n with closepend := true })) = w) :
    exec (.sclose q f) s = .next (w.toState s) := by
  refine run_ends hr ?_
  dsimp only
  rw [hb, ← hw]
  obtain hk | hk := hk <;> rw [hk] <;> rfl

theorem sclose_unbound (hr : runs s f.g = true) (hb : (moved s).bind (now s).gid q.val = b)
    (hk : b.kind = .none ∨ b.kind = .task ∨ b.kind = .pxpop) :
    exec (.sclose q f) s = .next (allFault s f.g Cause.queueUnbound) := by
  refine run_allFault hr ?_
  dsimp only
  rw [hb]
  obtain hk | hk | hk := hk <;> rw [hk]

theorem toAll_eq_dstAll (x : Word) :
    toAll s f x = ((moved s).dstAll (now s) f.d (lanesOf s f.g) [x]).toState s := by
  unfold toAll W.dstAll
  cases f.d <;> rfl

theorem qstat_completes {x : Word} (hr : runs s f.g = true) (hx : (moved s).qstat (now s).gid q.val = x) :
    exec (.qstat q f) s = .next (toAll s f x) := by
  rw [toAll_eq_dstAll, ← hx]
  exact run_ends hr rfl

theorem qstat_hq (hb : (moved s).bind (now s).gid q.val = b) (hk : b.kind = .pop ∨ b.kind = .push) :
    (moved s).qstat (now s).gid q.val = BitVec.ofNat 32 (qstatWord b (queueAt s b.n)) := by
  unfold W.qstat qstatWord
  dsimp only
  rw [hb]
  obtain hk | hk := hk <;> simp only [hk, kindCode, reduceCtorEq, if_true, if_false] <;> rfl

theorem qstat_unbound (hb : (moved s).bind (now s).gid q.val = b) (hk : b.kind = .none) :
    (moved s).qstat (now s).gid q.val = 0 := by
  unfold W.qstat
  dsimp only
  rw [hb, hk]

end close

theorem queueCloseAndStatusPart : QueueCloseAndStatusPart := by
  refine fun q f s hr => ⟨fun hk => ⟨fun hc => ?_, fun hc hs => ?_, fun hc hs => ?_, ?_⟩,
    sclose_unbound hr rfl, fun hk => ?_⟩
  · exact sclose_hq hr rfl hk (if_pos hc)
  · exact sclose_hq hr rfl hk ((if_neg (Bool.eq_false_iff.1 hc)).trans
      (congrArg (W.setHq _ _ _) (closeIf_noLoad hs)))
  · exact sclose_hq hr rfl hk ((if_neg (Bool.eq_false_iff.1 hc)).trans
      (congrArg (W.setHq _ _ _) (closeIf_load hs)))
  · exact qstat_completes hr (qstat_hq rfl hk)
  · exact qstat_completes hr (qstat_unbound rfl hk)

/-! ## STREAM (12 R322, R323) -/

section stream
variable {m : StreamM} {f : EngF} {b : Bind} {h : HwQueue}

/-- Nothing but what the lanes remember changes when a STREAM begins. -/
theorem streamBase_keeps {β : Type} (p : W → β) (hp : ∀ w g l x, p (W.setLane w g l x) = p w)
    (g : Guard) : p (streamBase s g) = p (moved s) := by
  refine foldl_keeps p (fun w l => ?_) _ _
  exact hp _ _ _ _

theorem streamBase_bind (g : Guard) (q : Nat) :
    (streamBase s g).bind (now s).gid q = (moved s).bind (now s).gid q :=
  streamBase_keeps (fun w => w.bind (now s).gid q) (fun _ _ _ _ => rfl) g

theorem streamBase_td : (streamBase s f.g).td (grp s).asid f.tdi.toNat = etd s f :=
  streamBase_keeps (fun w => w.td (grp s).asid f.tdi.toNat) (fun _ _ _ _ => rfl) f.g

theorem streamBase_group (g : Guard) : (streamBase s g).group (now s).gid = grp s :=
  streamBase_keeps (fun w => w.group (now s).gid) (fun _ _ _ _ => rfl) g

theorem stream_unbound (hr : runs s f.g = true)
    (hk : b.kind ≠ (if m.st then .push else .pop))
    (hb : (streamBase s f.g).bind (now s).gid m.q.val = b) :
    exec (.stream m f) s = .next (faulting s (streamBase s f.g)
      ((lanesOf s f.g).map fun l => { lane := l, cause := Cause.queueUnbound })) := by
  refine run_faulting hr (by simpa using lanesOf_ne_nil_of_runs hr) ?_
  dsimp only
  rw [← streamBase, hb]
  exact if_pos hk

/-- A body that neither faults nor waits, known by what holds of the state it ends in. -/
theorem run_ends_with {g : Guard} {k : Issue → List Nat → W → Eff} {P : State → Prop}
    (hr : runs s g = true) (hk : ∃ v, k (now s) (lanesOf s g) (moved s) = { w := v } ∧ P (v.toState s)) :
    ∃ t, run g k s = .next t ∧ P t := by
  obtain ⟨v, hv, hP⟩ := hk
  exact ⟨_, run_ends hr hv, hP⟩

theorem foldl_bumpSeq_wq (w : W) (g : Nat) (es : List Nat) :
    (es.foldl (fun w l => w.bumpSeq g l) w).wq = w.wq :=
  foldl_keeps W.wq (fun _ _ => by rfl) _ _

/-- What STREAM checks of a tensor in the scratchpad (12 R323). -/
theorem inBounds_of_streamFits (hf : streamFits s m f) :
    (decide (f.space = .scratch) && !(decide (0 ≤ (tdSpan (streamTd s f)).1) &&
      decide ((tdSpan (streamTd s f)).2 < (streamBase s f.g).spbytes (teamNo s)))) = false := by
  by_cases hs : f.space = .scratch
  · obtain ⟨h0, h1, -⟩ := hf hs
    rw [streamBase_group] at h1
    simp [hs, h0, teamNo, h1]
  · simp [hs]

theorem noRange_of_streamFits (hf : streamFits s m f) :
    (if (decide (f.space = .scratch) && m.st) = true then (streamBase s f.g).rangeFull (grp s).core
      else none) = none := by
  split
  · next h =>
    simp only [Bool.and_eq_true, decide_eq_true_eq] at h
    exact (hf h.1).2.2 h.2
  · rfl

/-! The names of the statement for what STREAM reads. -/

theorem begin_eq_streamBase (g : Guard) :
    (moved s).begin_ (now s).gid (lanesOf s g) none = streamBase s g := rfl

theorem tdAs_eq_streamTd : tdAs (etd s f) f.fmto.toNat = streamTd s f := rfl

theorem tdCount_eq_streamAll : tdCount (streamTd s f) = streamAll s f := rfl

theorem word_eq_streamFrom :
    (({ w := moved s, i := now s, es := lanesOf s f.g } : Rd).word f.a 0).toNat = streamFrom s f := rfl

theorem word_eq_streamLen :
    (({ w := moved s, i := now s, es := lanesOf s f.g } : Rd).word f.b 0).toNat = streamLen s f := rfl

theorem ordered_eq_streamOrd : (if f.ord = .acq ∨ f.ord = .str then
      (if f.ord = .rel ∨ f.ord = .str then
        ((streamBase s f.g).drainAll (now s).gid).releaseAt (now s).gid f.scope
      else (streamBase s f.g).drainAll (now s).gid).acquireAt (now s).gid f.scope
    else if f.ord = .rel ∨ f.ord = .str then
      ((streamBase s f.g).drainAll (now s).gid).releaseAt (now s).gid f.scope
    else (streamBase s f.g).drainAll (now s).gid) = streamOrd s f := rfl

/-- STREAM enters the list of its queue, and memory is as its order leaves it. -/
theorem stream_starts (hr : runs s f.g = true) (hb : (moved s).bind (now s).gid m.q.val = b)
    (hh : (streamBase s f.g).hq (teamNo s) b.n = h) (hk : b.kind = (if m.st then .push else .pop))
    (hf : streamFits s m f) (h0 : tdStream (etd s f) = true) (hm : fmtMx f.fmto.toNat = false)
    (hd : tdStream (streamTd s f) = true) (ha : streamFrom s f + streamLen s f ≤ streamAll s f)
    (hc : m.st = false → h.closed = false ∧ h.closepend = false) (hl : h.streams.length < 4) :
    ∃ t, exec (.stream m f) s = .next t ∧ t.mem = ((streamOrd s f).toState s).mem ∧ ∃ st,
      t.toW.hq (teamNo s) b.n = { h with streams := h.streams ++ [st] } ∧
      st.store = m.st ∧ st.sp = decide (f.space = .scratch) ∧ st.desc = streamTd s f ∧
      st.start = streamFrom s f ∧ st.count = (if streamLen s f = 0 then streamAll s f - streamFrom s f
        else streamLen s f) ∧ st.done = 0 ∧ st.close = m.close ∧ st.gid = (now s).gid := by
  refine run_ends_with hr ?_
  have hopen : (!m.st && (h.closed || h.closepend)) = false := by
    cases hst : m.st with
    | true => rfl
    | false => simp [hc hst]
  have hn : (decide (streamAll s f < streamFrom s f + streamLen s f) ||
      decide (streamAll s f < streamFrom s f)) = false := by
    simp only [Bool.or_eq_false_iff, decide_eq_false_iff_not]
    omega
  simp only [begin_eq_streamBase, group_eq_grp, team_eq_teamNo, streamBase_bind, hb, hh, streamBase_td,
    tdAs_eq_streamTd, word_eq_streamFrom, word_eq_streamLen, tdCount_eq_streamAll,
    hk, h0, hm, hd, hn, inBounds_of_streamFits hf, noRange_of_streamFits hf, hopen, Nat.not_le.2 hl,
    ne_eq, not_true, Bool.not_true, Bool.false_eq_true, if_false, Bool.or_eq_true, decide_eq_true_eq,
    ordered_eq_streamOrd]
  refine ⟨_, rfl, ?_, _, hq_setHq_same _ _ _ _, rfl, rfl, rfl, rfl, rfl, rfl, rfl, rfl⟩
  simp only [W.toState_mem, W.setHq, W.addRange, W.newId, apply_ite W.wq, foldl_bumpSeq_wq, ite_self]

end stream

theorem streamsStartPart : StreamsStartPart := by
  refine fun m f s hr => ⟨stream_unbound hr, fun hk hf h0 hm hd ha hc hl => ?_⟩
  rw [streamBase_group] at hc hl ⊢
  obtain ⟨t, ht, hmem, st, hq, hst⟩ := stream_starts hr rfl rfl hk hf h0 hm hd ha hc hl
  exact ⟨t, st, ht, hmem, (congrArg HwQueue.streams hq :), (congrArg HwQueue.elems hq :), hst⟩

/-- Settles O42: the clauses of QBIND, of SCLOSE and QSTAT, and of STREAM. -/
theorem queuesAndStreams : Obligations.QueuesAndStreams :=
  ⟨queueBindingsPart, queueCloseAndStatusPart, streamsStartPart⟩

end Sys2Proof.Machine
end

section
/-! SUPPORT. O51 refuted: the task of a TRACE that waits for room enters the pool with any ray's result
(14 R358, R359). -/

namespace Sys2Proof.Machine

open Sys2Proof.Claim

/-- A TRACE of lane 0's ray, whose words are NaN, with a task that waits for room in the pool. -/
def rayAndTask : Tx :=
  { kind := .trace ⟨false, false, false⟩ 0xFF, team := 1, core := 0, asid := 1
    f := { g := .always, x := 0, d := .v 0, a := .v 0, b := .v 0, c := .v 0, eimm := 0, fmto := 0, tdi := 0
           space := .glob, win := 0, scope := .th, ord := .rlx }
    rays := [(0, List.replicate 8 0x7FC00000, 0)], tasks := [(0x2000, [])] }

/-- Its operation, which is outstanding under number 7. -/
def rayAndTaskOp : Op := { gid := 1, cls := .tx, iaddr := 0x2000, kind := .tx rayAndTask }

def rayAndTaskOutstanding : State :=
  let s := placeInsn [] State.reset
  { s with chip.eng.ops := [(7, rayAndTaskOp)] }

/-- The tasks of an operation that wait for room after an answer. -/
def tasksAfter (id : Nat) : Out1 → Option (List (Nat × List Word))
  | .next t => ((aget t.chip.eng.ops id).bind fun o => o.kind.tx?).map Tx.tasks
  | _ => none

/-- The pool has room, and the task enters it. -/
theorem tasksAfter_rayResult : tasksAfter 7 (exec (.rayResult 7 0) rayAndTaskOutstanding) = some [] := by
  decide +kernel

/-- Refutes O51: the statement lets an operation of no `.task` keep its waiting tasks at the result of a ray,
and the machine moves the tasks of any TRACE into the pool while it has room. No instruction gives such an
operation tasks, but the statement is of every state. -/
theorem not_engineSteps : ¬ Obligations.EngineSteps := by
  rintro ⟨-, -, -, -, -, -, hray⟩
  obtain ⟨u, hu, ⟨o, ho, hkind, -⟩, -⟩ := hray 7 0 rayAndTaskOp rayAndTask ⟨false, false, false⟩ 0xFF
    (List.replicate 8 0x7FC00000) 0 rayAndTaskOutstanding rfl rfl rfl (by decide +kernel) rfl rfl
    _ _ _ rfl (by decide +kernel)
  have h := tasksAfter_rayResult
  rw [hu, tasksAfter, ho, Option.bind_some, hkind] at h
  cases h

end Sys2Proof.Machine
end
